-- ==== Sys2Proof/Word.lean ====
section
/-! DEFINITION. Words of the TQ-9600: the plain word types of the manual (R5, R42) and their simplest bit helpers. -/

namespace Sys2Proof

/-- A byte of memory (R62: data are stored least significant byte first). -/
abbrev Byte := BitVec 8
/-- A halfword, the unit of instruction storage (R62). -/
abbrev Half := BitVec 16
/-- A 32-bit lane register or mask (R11). -/
abbrev W32 := BitVec 32
/-- A 64-bit pair, scalar register or pointer (R11, R12). -/
abbrev W64 := BitVec 64

/-- Bits `[hi:lo]` of a natural number, as the register maps of the manual write them (R5). -/
def bitsOf (x hi lo : Nat) : Nat := x / 2 ^ lo % 2 ^ (hi + 1 - lo)

/-- Bit `i` of a natural number. -/
def bitOf (x i : Nat) : Bool := x / 2 ^ i % 2 == 1

/-- 1 or 0, as compare and vote results are written (R13, R120). -/
def b2n (b : Bool) : Nat := if b then 1 else 0

/-- A 7-, 12- or 32-bit immediate read as a signed integer (R72, R74). -/
def sext (n : Nat) (v : BitVec n) (w : Nat) : BitVec w := v.signExtend w

end Sys2Proof
end

