-- ==== Sys2Proof/Syntax.lean ====
section
/-! DEFINITION. The syntax of the Gwehiari architecture: one constructor of `Instr` for every row of the opcode table.
The first 240 constructors are instructions with an encoding (R62 to R87); the others are the part's events, steps that
no instruction word encodes, each with arguments that say where it happens. -/

namespace Sys2Proof

/-- A scalar register S0 to S63 (R11). -/
abbrev SReg := Fin 64
/-- A mask register M0 to M15 (R11). -/
abbrev MReg := Fin 16

/-- The operand codes of R69 that a lane instruction may read. -/
inductive Opd where
  | g (n : Fin 96) | k (n : Fin 8) | l | zero | lane | tid | s (n : Fin 16)
  deriving DecidableEq, Repr

/-- The operand codes of R69 that a lane instruction may write. -/
inductive Dst where
  | g (n : Fin 96) | k (n : Fin 8) | l | zero
  deriving DecidableEq, Repr

/-- The last source of a T form (a register) or an I form (imm7), R72. -/
inductive Src where
  | r (o : Opd) | i (v : BitVec 7)
  deriving DecidableEq, Repr

/-- A short code of the H format (R71). -/
inductive HReg where
  | k (n : Fin 8) | l | zero | g (n : Fin 22)
  deriving DecidableEq, Repr

/-- The source of an H operation: a short code or a signed 5-bit immediate (R71). -/
inductive HSrc where
  | r (h : HReg) | i (v : BitVec 5)
  deriving DecidableEq, Repr

/-- Integer width of the majors (R115). -/
inductive IW where
  | w32 | w64
  deriving DecidableEq, Repr

/-- Type field of the floating-point minors (R82, R124). -/
inductive FT where
  | f16 | bf16 | f32 | f64
  deriving DecidableEq, Repr

/-- Type of CMP (R83). -/
inductive CT where
  | i32 | n32 | i64 | n64
  deriving DecidableEq, Repr

/-- Condition codes of CMP and FCMP (R83). -/
inductive Cond where
  | eq | ne | lt | le | gt | ge | un | ord
  deriving DecidableEq, Repr

/-- Type codes of CVT (R79). -/
inductive Ty where
  | i8 | i16 | i32 | i64 | n8 | n16 | n32 | n64 | f16 | bf16 | f32 | f64
  | e4m3 | e5m2 | e3m2 | e2m3 | e2m1 | qn4 | ce16
  deriving DecidableEq, Repr

/-- Rounding field of CVT with majors 0x16 and 0x17 (R79); mode RDN has a row of its own. -/
inductive CvtMode where
  | dflt | rne | rtz | rup
  deriving DecidableEq, Repr

/-- Rounding modes (R45). -/
inductive RMode where
  | rne | rtz | rup | rdn
  deriving DecidableEq, Repr

/-- Formats of NPACK and NUNPK (R84). -/
inductive PackFmt where
  | e4m3 | e5m2 | e3m2 | e2m3 | e2m1 | qn4
  deriving DecidableEq, Repr

/-- Operations of WRED and WSCAN (R84). -/
inductive RedOp where
  | add | min | max | and | or | xor
  deriving DecidableEq, Repr

/-- Types of WRED and WSCAN (R84). -/
inductive RedTy where
  | i32 | i64 | n32 | n64 | f32 | f64
  deriving DecidableEq, Repr

/-- Conditions of the signed SCMP (R84, R144). -/
inductive SCond where
  | eq | ne | lt | le
  deriving DecidableEq, Repr

/-- Size codes of the M format (R75). -/
inductive MSize where
  | n8 | i8 | n16 | i16 | n32 | n64 | n128
  deriving DecidableEq, Repr

/-- Scope codes (R75), from narrowest to widest (R4). -/
inductive Scope where
  | wave | team | gang | const | die | pkg | domain | sys
  deriving DecidableEq, Repr

/-- Order codes (R75). -/
inductive Order where
  | rlx | acq | rel | ar
  deriving DecidableEq, Repr

/-- The mode bit of the M format with its O field (R75): a plain access with an offset, or an ordered one. -/
inductive MMode where
  | plain (off : BitVec 7) | ordered (scope : Scope)
  deriving DecidableEq, Repr

/-- Operations of the atomic majors (R76). -/
inductive AtomOp where
  | add | fadd | minI | minN | maxI | maxN | fmin | fmax | and | or | xor | xchg | cas
  deriving DecidableEq, Repr

/-- Cache level of PREFG (R85). -/
inductive PfLevel where
  | l1 | const | die
  deriving DecidableEq, Repr

/-- Order of a FENCE (R176). -/
inductive FenceOrder where
  | acq | rel | ar
  deriving DecidableEq, Repr

/-- Kinds of scope handle (R178). -/
inductive HKind where
  | gang | const | die | pkg | domain
  deriving DecidableEq, Repr

/-- Matrix layouts (R199). -/
inductive Layout where
  | ce16 | cf32 | cf64
  deriving DecidableEq, Repr

/-- Source of MLOADZ (R199, R211). -/
inductive ZSrc where
  | scratch | own | peer
  deriving DecidableEq, Repr

/-- A wave: its team's number in the model and its wave number in the team (R9). -/
structure WaveId where
  team : Nat
  wave : Nat
  deriving DecidableEq, Repr

/-- A core: die 0 to 7, core 0 to 47 (R1). -/
structure CoreId where
  die : Nat
  core : Nat
  deriving DecidableEq, Repr

/-- What the fault service does with a fault record (R311): it acts on the page with the frame and the new page tables
given, of as many levels as are needed, or it declines. -/
inductive FaultAct where
  | serve (frame : Nat) (tables : List Nat) | decline
  deriving DecidableEq, Repr

/-- The storages that can report an error (R383, R389 BLOCK). -/
inductive Block where
  | registerFile | operandFile | scratchpad | accumulator | bStore | shadowBank | overlay | l1 | constCache
  | dieCache | homeCache | hbm | array | control | engine | link
  deriving DecidableEq, Repr

/-- Where an error was found: its block, the core (or die and stack or port) that holds it, a position within the block
(a byte address, a register code of a lane with 104 for its latch, a tile word) and an index beside it; of a lane number above 31 the
positions 0 to 63 are the wave's S registers and those from 64 on its M registers. -/
structure ErrorAt where
  block : Block
  core : CoreId
  slot : Nat
  wave : Nat
  lane : Nat
  pos : Nat
  deriving DecidableEq, Repr

/-- The plain registers of the partition window (R424), those without behaviour of their own. -/
inductive WinReg where
  | pstat | evbase | evsize | xregrp (die : Nat) | xfrzmax (die : Nat) | hwatch (n : Nat)
  | shootDesc (space obj : Nat) | shootXlat (space lo len : Nat) | errPtr | nonce (word : Nat)
  deriving DecidableEq, Repr

/-- What a message between packages asks for or answers (R407 to R409): bytes written with their poison, a load of `n` bytes, an atomic at
the home slice (one that returns nothing is REDG), the answer to a load or an atomic, an end-to-end acknowledgement. -/
inductive RemoteReq where
  | write (data : List (Byte × Bool))
  | load (n : Nat)
  | atomic (op : AtomOp) (w : IW) (val cmp : BitVec 64) (redg : Bool)
  | answer (data : List (Byte × Bool))
  | ack (seq : Nat)
  deriving DecidableEq, Repr

/-- A message that crosses an Omsen link (R408): its triple, its end-to-end sequence, its address and what it carries. -/
structure RemoteMsg where
  src : Nat
  dst : Nat
  lane : Nat
  seq : Nat
  addr : Nat
  req : RemoteReq
  deriving DecidableEq, Repr

/-- A flit that fails on a die-to-die bridge (R402): the bridge, and which of its flits it is. -/
structure BridgeFlit where
  bridge : Nat
  flit : Nat
  deriving DecidableEq, Repr

/-- One chunk of a collective (R413): the card, the rank it comes from, the byte offset and the data with its poison. -/
structure Chunk where
  card : Nat
  rank : Nat
  off : Nat
  data : List (Byte × Bool)
  deriving DecidableEq, Repr

/-- The collective card of one member that matches this member's (R411): which of its group's cards it is there, what must agree, and its
source data with their poison. -/
structure Matched where
  kth : Nat
  op : Nat
  word : Nat
  handle : Nat
  len : Nat
  data : List (Byte × Bool)
  deriving DecidableEq, Repr

/-- The change of translation entries a shootdown follows (R310): the bytes of the range, and whether its pages are made not
present. -/
structure EntryChange where
  len : Nat
  unmap : Bool
  deriving DecidableEq, Repr

/-- A refresh burst of a stack with what its scrub reads found (R385): physical addresses, and whether each could be corrected. -/
structure RefreshBurst where
  stack : Nat
  found : List (Nat × Bool)
  deriving DecidableEq, Repr

/-- What a self-test found (R387, R388): whether the unit failed, and the faulty elements of an array (R369). -/
structure TestFound where
  lasting : Bool
  faulty : List (Nat × Nat)
  deriving DecidableEq, Repr

/-- An instruction, or an event of the part (one constructor per row of the opcode table). -/
inductive Instr where
  -- clause words (R64, R73)
  | clause (e : Bool) (exec : MReg) (setb seta : Fin 16) (wait : BitVec 12)
  | ext (p : BitVec 25)
  -- integer table A (R116)
  | add (w : IW) (d : Dst) (a : Opd) (b : Src)
  | sub (w : IW) (d : Dst) (a : Opd) (b : Src)
  | mul (w : IW) (d : Dst) (a : Opd) (b : Src)
  | mulhI (w : IW) (d : Dst) (a : Opd) (b : Src)
  | mulhN (w : IW) (d : Dst) (a : Opd) (b : Src)
  | minI (w : IW) (d : Dst) (a : Opd) (b : Src)
  | minN (w : IW) (d : Dst) (a : Opd) (b : Src)
  | maxI (w : IW) (d : Dst) (a : Opd) (b : Src)
  | maxN (w : IW) (d : Dst) (a : Opd) (b : Src)
  | and (w : IW) (d : Dst) (a : Opd) (b : Src)
  | or (w : IW) (d : Dst) (a : Opd) (b : Src)
  | xor (w : IW) (d : Dst) (a : Opd) (b : Src)
  | shl (w : IW) (d : Dst) (a : Opd) (b : Src)
  | shrN (w : IW) (d : Dst) (a : Opd) (b : Src)
  | shrI (w : IW) (d : Dst) (a : Opd) (b : Src)
  | rot (w : IW) (d : Dst) (a : Opd) (b : Src)
  -- integer table B (R117 to R119)
  | divI (d : Dst) (a : Opd) (b : Src)
  | divIT64 (d : Dst) (a b : Opd)
  | divII64 (d : Dst) (a : Opd) (i : BitVec 7)
  | divN (d : Dst) (a : Opd) (b : Src)
  | divNT64 (d : Dst) (a b : Opd)
  | divNI64 (d : Dst) (a : Opd) (i : BitVec 7)
  | remI (d : Dst) (a : Opd) (b : Src)
  | remIT64 (d : Dst) (a b : Opd)
  | remII64 (d : Dst) (a : Opd) (i : BitVec 7)
  | remN (d : Dst) (a : Opd) (b : Src)
  | remNT64 (d : Dst) (a b : Opd)
  | remNI64 (d : Dst) (a : Opd) (i : BitVec 7)
  | addcN (d : Dst) (a : Opd) (b : Src)
  | addcNT64 (d : Dst) (a b : Opd)
  | addcNI64 (d : Dst) (a : Opd) (i : BitVec 7)
  | mad (d : Dst) (a : Opd) (b : Src)
  | madT64 (d : Dst) (a b : Opd)
  | madI64 (d : Dst) (a : Opd) (i : BitVec 7)
  | neg (d : Dst) (a : Opd)
  | neg64 (d : Dst) (a : Opd)
  | abs (d : Dst) (a : Opd)
  | abs64 (d : Dst) (a : Opd)
  | not (d : Dst) (a : Opd)
  | not64 (d : Dst) (a : Opd)
  | popc (d : Dst) (a : Opd)
  | popc64 (d : Dst) (a : Opd)
  | clz (d : Dst) (a : Opd)
  | clz64 (d : Dst) (a : Opd)
  | brev (d : Dst) (a : Opd)
  | brev64 (d : Dst) (a : Opd)
  | bfxN (d : Dst) (a : Opd) (b : Src)
  | bfxNT64 (d : Dst) (a b : Opd)
  | bfxNI64 (d : Dst) (a : Opd) (i : BitVec 7)
  | bfxI (d : Dst) (a : Opd) (b : Src)
  | bfxIT64 (d : Dst) (a b : Opd)
  | bfxII64 (d : Dst) (a : Opd) (i : BitVec 7)
  | bfi (d : Dst) (a : Opd) (b : Src)
  | bfiT64 (d : Dst) (a b : Opd)
  | bfiI64 (d : Dst) (a : Opd) (i : BitVec 7)
  | padd (d : Dst) (a b : Opd)
  | paddI (d : Dst) (a : Opd) (i : BitVec 7)
  -- floating point (R124 to R131)
  | fadd (t : FT) (d : Dst) (a b : Opd)
  | faddI (t : FT) (d : Dst) (a : Opd) (i : BitVec 7)
  | fsub (t : FT) (d : Dst) (a b : Opd)
  | fsubI (t : FT) (d : Dst) (a : Opd) (i : BitVec 7)
  | fmul (t : FT) (d : Dst) (a b : Opd)
  | fmulI (t : FT) (d : Dst) (a : Opd) (i : BitVec 7)
  | fma (t : FT) (d : Dst) (a b : Opd)
  | fmaI (t : FT) (d : Dst) (a : Opd) (i : BitVec 7)
  | fmin (t : FT) (d : Dst) (a b : Opd)
  | fminI (t : FT) (d : Dst) (a : Opd) (i : BitVec 7)
  | fmax (t : FT) (d : Dst) (a b : Opd)
  | fmaxI (t : FT) (d : Dst) (a : Opd) (i : BitVec 7)
  | fdiv (t : FT) (d : Dst) (a b : Opd)
  | fdivI (t : FT) (d : Dst) (a : Opd) (i : BitVec 7)
  | fscale (t : FT) (d : Dst) (a b : Opd)
  | fscaleI (t : FT) (d : Dst) (a : Opd) (i : BitVec 7)
  | fsqrt (t : FT) (d : Dst) (a : Opd)
  | frcp (t : FT) (d : Dst) (a : Opd)
  | frsq (t : FT) (d : Dst) (a : Opd)
  | fclass (t : FT) (d : Dst) (a : Opd)
  | fexp2 (t : FT) (d : Dst) (a : Opd)
  | flog2 (t : FT) (d : Dst) (a : Opd)
  | fsin (t : FT) (d : Dst) (a : Opd)
  | fcos (t : FT) (d : Dst) (a : Opd)
  | frnd (m : RMode) (t : FT) (d : Dst) (a : Opd)
  -- compare, move, select, convert (R120 to R123, R132 to R134)
  | cmp (t : CT) (c : Cond) (m : MReg) (a : Opd) (b : Src)
  | fcmp (t : FT) (c : Cond) (m : MReg) (a : Opd) (b : Src)
  | mov (w : IW) (d : Dst) (a : Opd)
  | movi (w : IW) (d : Dst) (i : BitVec 7)
  | sel (x : MReg) (d : Dst) (a b : Opd)
  | sel64 (x : MReg) (d : Dst) (a b : Opd)
  | cvt (m : CvtMode) (dty sty : Ty) (d : Dst) (a : Opd)
  | cvtRdn (dty sty : Ty) (d : Dst) (a : Opd)
  | npack (f : PackFmt) (d : Dst) (a : Opd)
  | nunpk (f : PackFmt) (d : Dst) (a : Opd)
  -- cross-lane (R135 to R141)
  | shflIdx (d : Dst) (a b : Opd)
  | shflUp (d : Dst) (a b : Opd)
  | shflDown (d : Dst) (a b : Opd)
  | shflXor (d : Dst) (a b : Opd)
  | bcast (d : Dst) (a b : Opd)
  | voteAll (m : MReg) (a : Opd)
  | voteAny (m : MReg) (a : Opd)
  | voteEq (m : MReg) (a : Opd)
  | wred (o : RedOp) (t : RedTy) (d : Dst) (a : Opd)
  | wscan (o : RedOp) (t : RedTy) (d : Dst) (a : Opd)
  | movs (s : SReg) (a b : Opd)
  -- mask (R142)
  | mand (d a b : MReg)
  | mor (d a b : MReg)
  | mxor (d a b : MReg)
  | mnot (d a : MReg)
  | mpop (d : SReg) (a : MReg)
  | mfirst (d : SReg) (a : MReg)
  -- scalar (R143, R144)
  | sadd (d a b : SReg)
  | saddImm (d : SReg) (i : BitVec 12)
  | ssub (d a b : SReg)
  | ssubImm (d : SReg) (i : BitVec 12)
  | smul (d a b : SReg)
  | smulImm (d : SReg) (i : BitVec 12)
  | sand (d a b : SReg)
  | sandImm (d : SReg) (i : BitVec 12)
  | sor (d a b : SReg)
  | sorImm (d : SReg) (i : BitVec 12)
  | sxor (d a b : SReg)
  | sxorImm (d : SReg) (i : BitVec 12)
  | sshl (d a b : SReg)
  | sshlImm (d : SReg) (i : BitVec 12)
  | sshr (arith : Bool) (d a b : SReg)
  | sshrImm (arith : Bool) (d : SReg) (i : BitVec 12)
  | scmp (c : SCond) (d a b : SReg)
  | scmpImm (c : SCond) (d : SReg) (i : BitVec 12)
  | scmpU (le : Bool) (d a b : SReg)
  | scmpUImm (le : Bool) (d : SReg) (i : BitVec 12)
  | smov (d a : SReg)
  | smovi (d : SReg) (i : BitVec 12)
  -- memory (R146 to R165)
  | ldg (z : MSize) (m : MMode) (d : Dst) (b : Opd)
  | stg (z : MSize) (m : MMode) (d : Opd) (b : Opd)
  | sldg (w : IW) (d a : SReg)
  | prefg (v : PfLevel) (o : BitVec 7) (b : Opd)
  | lds (z : MSize) (m : MMode) (d : Dst) (b : Opd)
  | sts (z : MSize) (m : MMode) (d : Opd) (b : Opd)
  | ldp (z : MSize) (m : MMode) (d : Dst) (b : Opd)
  | stp (z : MSize) (m : MMode) (d : Opd) (b : Opd)
  | ldl (z : MSize) (o : BitVec 7) (d : Dst) (b : Opd)
  | stl (z : MSize) (o : BitVec 7) (d : Opd) (b : Opd)
  | ldk (z : MSize) (o : BitVec 7) (d : Dst) (b : Opd)
  -- atomics and the tag table (R166 to R175)
  | atomg (o : Order) (s : Scope) (w : IW) (p : AtomOp) (d : Opd) (b : Opd)
  | redg (o : Order) (s : Scope) (w : IW) (p : AtomOp) (d : Opd) (b : Opd)
  | atoms (o : Order) (s : Scope) (w : IW) (p : AtomOp) (d : Opd) (b : Opd)
  | atomp (o : Order) (s : Scope) (w : IW) (p : AtomOp) (d : Opd) (b : Opd)
  | tlook (d : Dst) (a : Opd)
  | tset (d : Dst) (a b : Opd)
  | tevict (d : Dst) (a : Opd)
  -- control (R102 to R114)
  | bra (i : BitVec 12)
  | brd (m : MReg) (i : BitVec 12)
  | call (s : SReg) (i : BitVec 12)
  | rjoinW (m : MReg)
  | yieldW
  | exit
  | nopW
  | brk (c : BitVec 12)
  | reform (c : BitVec 12)
  | jmpi (s : SReg)
  | fjmp (link : Bool) (s : SReg) (i : BitVec 12)
  | ret (s : SReg)
  | cfetch (slot : Fin 8) (s : SReg)
  -- H format (R71)
  | movH (d : HReg) (s : HSrc)
  | addH (d : HReg) (s : HSrc)
  | subH (d : HReg) (s : HSrc)
  | mulH (d : HReg) (s : HSrc)
  | andH (d : HReg) (s : HSrc)
  | orH (d : HReg) (s : HSrc)
  | xorH (d : HReg) (s : HSrc)
  | shlH (d : HReg) (s : HSrc)
  | shrNH (d : HReg) (s : HSrc)
  | faddH (d : HReg) (s : HSrc)
  | fmulH (d : HReg) (s : HSrc)
  | fmaH (d : HReg) (s : HSrc)
  | fmaxH (d : HReg) (s : HSrc)
  | fminH (d : HReg) (s : HSrc)
  | cvtF32I32H (d : HReg) (s : HSrc)
  | nop
  | yield
  | rjoin (m : MReg)
  -- synchronisation, barriers, spools and mailboxes (R176 to R197)
  | fence (o : FenceOrder) (s : Scope)
  | scope (k : HKind) (c : SReg)
  | scopeq (c a : SReg)
  | scopefz (c a : SReg)
  | scopeth (c a : SReg)
  | bar (n : Fin 64)
  | bara (k : HKind) (c b a : SReg)
  | barw (k : HKind) (c b a : SReg)
  | waitf (hi lo : BitVec 6)
  | sleept (abs : Bool) (a : SReg)
  | spinit (gang : Bool) (b : SReg) (n : Fin 64)
  | spush (c b : SReg) (n : Fin 64)
  | spop (c b : SReg) (n : Fin 64)
  | sptryPop (c b : SReg) (n : Fin 64)
  | sptryPush (c b : SReg) (n : Fin 64)
  | msend (drop : Bool) (c a : SReg)
  | mrecv (c b a : SReg)
  -- matrix, seam and tile copies (R199 to R241)
  | mloopOpen (a : SReg)
  | mloopClose
  | mma (y : Layout) (c b a : SReg)
  | mmag (y : Layout) (c b a : SReg)
  | mzero (fp64 strict : Bool) (a : SReg)
  | mloadz (src : ZSrc) (add : Bool) (c b a : SReg)
  | mdrain (c b a : SReg)
  | mseam (c : SReg) (mask : Fin 64)
  | mseamloc (c : SReg) (t : Fin 64)
  | mseamfix (c : SReg) (t : Fin 64)
  | mflags (clear : Bool) (c : SReg) (mask : Fin 64)
  | merrq (clear : Bool) (c : SReg)
  | tcopy (v : Bool) (c b : SReg) (a : Fin 16)
  | tgather (c b : SReg) (a : Fin 16)
  | tscat (c b : SReg) (a : Fin 16)
  | tstore (aon : Bool) (c b : SReg) (a : Fin 16)
  | tloadv (b : SReg) (a : Fin 16)
  | job (b a : SReg)
  | jseq (s : Scope) (c a : SReg)
  -- launches and finish scopes (R254 to R258)
  | enq (c b : SReg) (q : Fin 64)
  | fsopen (c a : SReg)
  | fsclose (a : SReg)
  | fswait (tmo : Bool) (c b a : SReg)
  | fscancel (a : SReg)
  | fsq (c a : SReg)
  -- capsules (R245 to R253)
  | capb (pkg : Bool) (m g : Fin 64)
  | cstep
  | cape
  | capadopt (pkg : Bool) (m g : Fin 64)
  | capq (c a : SReg)
  -- hems and system (R259 to R267)
  | hemo (a : SReg)
  | hemc
  | tretNext
  | tretSame
  | tretRegion
  | movxR (c : SReg) (x : Fin 64)
  | movxW (x : Fin 64) (a : SReg)
  | movxDst (g : Fin 64)
  | rdtime (c : SReg)
  | trapi (h l : BitVec 6)
  | perfq (c : SReg) (n : Fin 64)
  -- events of issue and progress (R28 to R32, R324 to R329)
  | issueOpportunity (core : CoreId) (sched : Nat)
  | fairnessIntervalExpiry (w : WaveId)
  | hangSib (w : WaveId)
  | spoolDl (team spool : Nat)
  | barrierDeadlock (team bar : Nat)
  | wavePromotion (w : WaveId)
  | binDraw (team : Nat)
  | loadCompletion (w : WaveId) (i : Nat)
  | storePerformed (w : WaveId) (i : Nat)
  | atomicAtHome (w : WaveId) (i : Nat)
  | blockedReevaluation (w : WaveId)
  | sleeptWake (w : WaveId)
  | spopTimeout (w : WaveId)
  | mrecvTimeout (w : WaveId)
  | fswaitTimeout (w : WaveId)
  | trapEntry (w : WaveId)
  | teamKill (team : Nat)
  | teamEnd (team : Nat)
  -- events of memory (R302, R310, R311, R351, R352)
  | pageFaultService (i : Nat) (act : FaultAct)
  | parkedEntryRelease (w : WaveId) (entry : Nat)
  | translationShootdown (space lo : Nat) (change : EntryChange)
  | descriptorShootdown (space obj : Nat)
  | serviceCommitRaise (w : WaveId)
  | serviceDescriptorShootdown (w : WaveId)
  | cfetchFillComplete (team slot : Nat) (poisoned : Bool)
  -- events of the regrouping engine and the dispatcher (R314 to R343)
  | regroupInterval (die : Nat) (proposal : List (List Nat))
  | placementDemand (die : Nat) (cores : List Nat)
  | regroupRequest (die : Nat) (v : W64)
  | regroupRequestDecision (die : Nat)
  | freezeExpired (die core : Nat)
  | hostCardTake (part q : Nat)
  | cardPlacement (part q card : Nat) (cores : List (CoreId × Nat))
  | placementEvictionTrigger (part q card : Nat)
  | slotEviction (team : Nat)
  | evictionDeferralExpiry (team : Nat)
  | teamReload (team : Nat) (core : CoreId) (slot : Nat)
  | shadowSwap (core : CoreId)
  | spill (core : CoreId)
  | umbraComparison (w : WaveId) (equal : Bool)
  -- events of the core's engines (R214, R237, R365 to R373)
  | tileCopyStart (core : CoreId) (i : Nat)
  | tileCopyRetire (core : CoreId) (i : Nat)
  | multicastDelivery (core : CoreId) (i rank : Nat)
  | deferredFault (w : WaveId)
  | arrayStep (core : CoreId)
  | errorDetected (at_ : ErrorAt) (corrected : Bool)
  | selfTestEnd (core : CoreId) (found : TestFound)
  -- events of clocks, power and heat (R385, R386, R414 to R422)
  | hbmRefreshBurst (burst : RefreshBurst)
  | backgroundScrub (at_ : ErrorAt) (found : Bool)
  | sensorSample (stack temp : Nat)
  | dutyUpdate (core : CoreId) (duty : Nat)
  | dutyWindow (core : CoreId)
  | fillerInjection (core : CoreId) (steps mj : Nat)
  | droopStretch (core : CoreId)
  | clkselWrite (core : CoreId) (v : W64)
  | ratioHopEnd (core : CoreId)
  | meridianMeasurement (offset : Int)
  -- events of chains and cards (R238 to R241, R312, R374 to R376, R410 to R413)
  | cardTake (space : Nat) (chain : W64)
  | copy (i : Nat)
  | fill (i : Nat)
  | migrate (i : Nat)
  | replicate (i : Nat)
  | allreduce (i : Nat) (inputs : List Matched)
  | reducescatter (i : Nat) (inputs : List Matched)
  | allgather (i : Nat) (inputs : List Matched)
  | broadcast (i : Nat) (inputs : List Matched)
  | cardCompletion (i : Nat)
  | collectiveChunk (c : Chunk)
  -- events of the fabric (R402 to R409)
  | remoteMessageArrival (m : RemoteMsg)
  | routeFailover (dst lane port : Nat)
  | routeLossTimeout (dst : Nat)
  | omsenFlitReceive (port : Nat) (seq ack type : Nat) (crcOk : Bool)
  | omsenNak (port : Nat)
  | linkEnable (port : Nat)
  | linkStateTimeout (port : Nat)
  | linkEqualiseComplete (port lanes lowVer highVer peerPkg peerPort : Nat)
  | bridgeCrcError (flit : BridgeFlit)
  -- events of the host and of partitions (R315, R323, R423 to R436)
  | hostTailWrite (part q : Nat) (v : W64)
  | evconsWrite (part : Nat) (v : W64)
  | hostverWrite (part : Nat) (v : W64)
  | quoteRequest (part : Nat) (v : W64)
  | quoteComplete (part : Nat)
  | jobScopeOpen (part : Nat)
  | graphScopeOpen (part parent : Nat)
  | scopeCancelRequest (part n : Nat)
  | scopeRelease (part n : Nat)
  | registerWrite (part : Nat) (r : WinReg) (v : W64)
  | hostMemoryAccess (addr : Nat) (data : List (Byte × Bool))
  | partitionCreate (part : Nat) (dies : List Nat) (debug : Bool)
  | partitionDestroy (part : Nat)
  | partitionReset (part : Nat)
  | boot (failed : Nat)
  | linkDisable (port : Nat)
  | linkDetectComplete (port : Nat)
  | shadowBankPrefill (core : CoreId) (team : Nat)
  deriving DecidableEq, Repr

end Sys2Proof
end

