-- ==== Sys2Proof/Config.lean ====
section
/-! DEFINITION. What the manual leaves to the device and gives no value for: free values, with no body, so that a
statement holds whatever they are. Each is named in the assumption log. -/

namespace Sys2Proof.Config

/-- The latch of a lane where R11 and R13 leave it undefined; `n` is the State's free-value counter (DESIGN CHOICE, log 4). -/
opaque freeLatch : (n lane : Nat) → W64
/-- A word of a Z tile at team start (R11), by the counter, tile, row and word (DESIGN CHOICE, log 5). -/
opaque freeTile : (n tile row word : Nat) → W32
/-- A G register that a REFORM draw does not carry (R32), by the counter, lane and register (DESIGN CHOICE, log 6). -/
opaque freeReg : (n lane reg : Nat) → W32
/-- A byte that a stopped or torn copy leaves in its destination (R236, R373), by the counter and offset (DESIGN CHOICE, log 7). -/
opaque freeByte : (n off : Nat) → Byte
/-- Where a copy was stopped (R373), whether a byte it would have written holds the new value (DESIGN CHOICE, log 7). -/
opaque freeMix : (n off : Nat) → Bool
/-- The five functions whose F32 and F64 results R129 only bounds: `fn` 0 FRSQ, 1 FEXP2, 2 FLOG2, 3 FSIN, 4 FCOS;
`f64` says the type and `x` is the operand (DESIGN CHOICE, log 8). -/
opaque approx : (fn : Nat) → (f64 : Bool) → (x : W64) → W64
/-- The page-table root the partition manager sets for a space (R305), by partition and table pointer; `rootOf` gives it its
alignment (DESIGN CHOICE, log 9). -/
opaque spaceRoot : (part : Nat) → (table : W64) → Nat
/-- A root table is 64 KiB long and aligned to its size (R305). -/
def rootOf (part : Nat) (table : W64) : Nat := spaceRoot part table / 65536 * 65536
/-- The capsule tag the partition gives a team at its start (R245), by the State's count of teams started (DESIGN CHOICE, log 10). -/
opaque capTag : (n : Nat) → BitVec 22
/-- The module descriptor (kind 0) and the firmware images (kinds 1 to 3) in the configuration flash (R435), and the SHA-384 hash of the
signing key in the mask ROM (R434) (DESIGN CHOICE, log 11). -/
opaque firmwareImage : (kind : Nat) → List Byte
opaque romKeyHash : List Byte
/-- What the module descriptor gives beside the values below: the rollback version, and the partitions with their dies and DEBUG (R434)
(DESIGN CHOICE, log 11). -/
opaque descriptorRollback : BitVec 32
opaque descriptorParts : List (Nat × List Nat × Bool)
/-- A byte of a quote's signature by the device identity key (R436), by the count of quotes and the offset (DESIGN CHOICE, log 12). -/
opaque quoteByte : (n off : Nat) → Byte
/-- XTALLOW.DUTY before the power controller has set it (R263: reset value 'Device'), by die and core (DESIGN CHOICE, log 13). -/
opaque dutyAtStart : (die core : Nat) → BitVec 8
/-- Capacity of an HBM stack in bytes, which the module descriptor gives (R304): the 48 GB of R1, a storage size and so in
binary units (DEDUCED, log 14). -/
def stackBytes : Nat := 48 * 2 ^ 30
/-- Which entry a full cache gives up for a new one (R291, R302, R309 name no policy), by a count (DESIGN CHOICE, log 28). -/
opaque victim : (n : Nat) → Nat
/-- The package number the module descriptor gives (R407, R434) (DESIGN CHOICE, log 15). -/
opaque packageNumber : BitVec 8
/-- The firmware ABI version of the partition manager image (R425, R431) (DESIGN CHOICE, log 16). -/
opaque firmwareAbi : BitVec 8
/-- The old or the new element that an unordered peer read returns (R209, R211), or the old or new word of a pending
register (R15, R99), by the counter and a position (DESIGN CHOICE, log 17). -/
opaque freeChoice : (n pos : Nat) → Bool
/-- Filler and operating energy measured by the partition's power account (R418), by the counter (DESIGN CHOICE, log 18). -/
opaque energy : (n : Nat) → BitVec 32
/-- Whether an HBM bank has a spare row for a post-package repair (R388), by stack and row (DESIGN CHOICE, log 22). -/
opaque hbmSpare : (stack row : Nat) → Bool
/-- The members of a collective group, package and partition, in rank order, as the partition managers have set it up (R410), by group
(DESIGN CHOICE, log 23). -/
opaque groupMembers : (group : Nat) → List (Nat × Nat)
/-- The entry of the route table for a package (R407): ports towards it, best first (DESIGN CHOICE, log 24). -/
opaque routeTable : (dst : Nat) → List (Fin 24)
/-- An entry lists up to four ports (R407). -/
def routePorts (dst : Nat) : List Nat := ((routeTable dst).take 4).map (·.val)
/-- What the partition manager sets up for a launch queue (R314): its ring's base, log2 of its capacity, FEEDER and ENABLE,
by partition and queue (DESIGN CHOICE, log 25). -/
opaque queueSetup : (part q : Nat) → W64 × Nat × Bool × Bool

/-- The block length in bytes into which a ring collective splits data whose length its members do not divide (R412), by the
length and the number of members (DESIGN CHOICE, log 23). -/
opaque ringBlock : (len members : Nat) → Nat
/-- The control block of the fault service's own chain (R239, R312), by partition (DESIGN CHOICE, log 26). -/
opaque serviceChain : (part : Nat) → Nat

end Sys2Proof.Config
end

