-- ==== Sys2Proof/WellFormed.lean ====
section
/-! DEFINITION. Which instructions are legal whatever the state: the checks of R70, R71 to R79, R84 to R88, R148, R176,
R199 and R243 that need no context. An instruction that fails raises ILLOP. -/

namespace Sys2Proof

namespace Opd
/-- Legal in a 64-bit position (R12, R70). -/
def ok64 : Opd → Bool
  | .g n => n.val % 2 == 0
  | .k n => n.val % 2 == 0
  | _ => true
/-- Legal as the first register of a 128-bit datum or a group of 4 (R70). -/
def okGroup4 : Opd → Bool
  | .g n => n.val % 4 == 0
  | .k n => n.val % 4 == 0
  | _ => false
/-- Legal in a position of width `w`. -/
def okW (o : Opd) : IW → Bool
  | .w32 => true
  | .w64 => o.ok64
/-- A code a lane instruction may also write (R69), L excluded (R148). -/
def okResult : Opd → Bool
  | .g _ | .k _ | .zero => true
  | _ => false
/-- The G registers (0 to 95) and K registers (96 to 103) that `n` registers starting at the operand occupy. -/
def regs (o : Opd) (n : Nat) : List Nat :=
  match o with
  | .g r => (List.range n).map (r.val + ·)
  | .k r => (List.range n).map (96 + r.val + ·)
  | _ => []
end Opd

namespace Dst
def ok64 : Dst → Bool
  | .g n => n.val % 2 == 0
  | .k n => n.val % 2 == 0
  | _ => true
def okW (d : Dst) : IW → Bool
  | .w32 => true
  | .w64 => d.ok64
/-- The destination read as an operand (FMA, MAD, BFI and the atomics read their destination). -/
def toOpd : Dst → Opd
  | .g n => .g n
  | .k n => .k n
  | .l => .l
  | .zero => .zero
end Dst

namespace Src
def okW : Src → IW → Bool
  | .r o, w => o.okW w
  | .i _, _ => true
end Src

def FT.iw : FT → IW
  | .f64 => .w64
  | _ => .w32
def CT.iw : CT → IW
  | .i64 | .n64 => .w64
  | _ => .w32
def Ty.iw : Ty → IW
  | .i64 | .n64 | .f64 => .w64
  | _ => .w32
def RedTy.iw : RedTy → IW
  | .i64 | .n64 | .f64 => .w64
  | _ => .w32

def Ty.isInt : Ty → Bool
  | .i8 | .i16 | .i32 | .i64 | .n8 | .n16 | .n32 | .n64 => true
  | _ => false
def Ty.isIeee : Ty → Bool
  | .f16 | .bf16 | .f32 | .f64 => true
  | _ => false

/-- The rows of R54 that XFPRM rounds; only there may CVT name a mode of its own (R79). -/
def cvtXfprm (dty sty : Ty) : Bool :=
  match sty, dty with
  | .f64, .f32 | .f64, .f16 | .f64, .bf16 | .f32, .f16 | .f32, .bf16 | .f16, .bf16 | .bf16, .f16 => true
  | .ce16, .f16 | .ce16, .bf16 => true
  | s, d => (s.isInt && d.isIeee) || (!s.isInt && d.isInt)

/-- A pair of types CVT converts (R54, R79). -/
def cvtPair (dty sty : Ty) : Bool := dty != sty && !(dty.isInt && sty.isInt)

/-- Two registers of a group: a group destination must not contain a source (R70). -/
def disjoint (xs ys : List Nat) : Bool := xs.all fun x => !ys.contains x

/-- Destination registers of NUNPK and of N128 loads start on the group's alignment (R70). -/
def Dst.okGroup (d : Dst) (n : Nat) : Bool :=
  match d with
  | .g r => r.val % n == 0
  | .k r => r.val % n == 0
  | _ => false

def PackFmt.group : PackFmt → Nat
  | .e2m1 | .qn4 => 8
  | _ => 4

def MSize.bytes : MSize → Nat
  | .n8 | .i8 => 1
  | .n16 | .i16 => 2
  | .n32 => 4
  | .n64 => 8
  | .n128 => 16

/-- Scopes a scratch or peer access may name (R148, R161). -/
def Scope.local : Scope → Bool
  | .wave | .team | .gang => true
  | _ => false

def MMode.localOnly : MMode → Bool
  | .plain _ => true
  | .ordered s => s.local

/-- A load's destination (R70, R148): not L; an N128 group clear of the base. -/
def loadOk (z : MSize) (d : Dst) (base : Opd) (baseRegs : Nat) : Bool :=
  (d != .l) &&
  match z with
  | .n64 => d.ok64
  | .n128 => d == .zero || (d.okGroup 4 && disjoint (d.toOpd.regs 4) (base.regs baseRegs))
  | _ => true

/-- A store's data source (R75, R148): sizes I8 and I16 are illegal; N8 and N16 take the low bytes of a source of 32 bits
(DEDUCED, log 34). N128 data may be ZERO, not L (DEDUCED, log 104). -/
def storeOk (z : MSize) (d : Opd) : Bool :=
  match z with
  | .i8 | .i16 => false
  | .n64 => d.ok64
  | .n128 => d == .zero || d.okGroup4
  | .n8 | .n16 | .n32 => true

/-- The data operand of an atomic (R70, R76, R148). -/
def atomOk (w : IW) (p : AtomOp) (d : Opd) (returns : Bool) : Bool :=
  (!returns || d.okResult) &&
  match p, w with
  | .cas, .w32 => d.ok64
  | .cas, .w64 => d.okGroup4
  | _, .w64 => d.ok64
  | _, .w32 => true

/-- FADD, FMIN and FMAX take F32 or F64, the others N32 or N64 (R166): every width is legal. -/
def maskOk (m : MReg) : Bool := m.val != 0 && m.val != 15

/-- Register numbers MOVX may name for reading (R18, R262). -/
def movxReadable (x : Nat) : Bool := x ≤ 36 && x != 7
/-- Register numbers MOVX may name for writing (R18, R262). -/
def movxWritable (x : Nat) : Bool :=
  x == 0 || (9 ≤ x && x ≤ 28) || (30 ≤ x && x ≤ 34)

/-- Legal whatever the state. Events, which no word encodes, are always well formed. -/
def Instr.wf : Instr → Bool
  | .add w d a b | .sub w d a b | .mul w d a b | .mulhI w d a b | .mulhN w d a b | .minI w d a b | .minN w d a b
  | .maxI w d a b | .maxN w d a b | .and w d a b | .or w d a b | .xor w d a b => d.okW w && a.okW w && b.okW w
  | .shl w d a _ | .shrN w d a _ | .shrI w d a _ | .rot w d a _ => d.okW w && a.okW w
  | .divIT64 d a b | .divNT64 d a b | .remIT64 d a b | .remNT64 d a b | .addcNT64 d a b | .madT64 d a b
  | .padd d a b => d.ok64 && a.ok64 && b.ok64
  | .divII64 d a _ | .divNI64 d a _ | .remII64 d a _ | .remNI64 d a _ | .addcNI64 d a _ | .madI64 d a _
  | .paddI d a _ => d.ok64 && a.ok64
  | .neg64 d a | .abs64 d a | .not64 d a | .popc64 d a | .clz64 d a | .brev64 d a => d.ok64 && a.ok64
  | .bfxNT64 d a _ | .bfxIT64 d a _ | .bfiT64 d a _ => d.ok64 && a.ok64
  | .bfxNI64 d a _ | .bfxII64 d a _ | .bfiI64 d a _ => d.ok64 && a.ok64
  | .fadd t d a b | .fsub t d a b | .fmul t d a b | .fma t d a b | .fmin t d a b | .fmax t d a b
  | .fdiv t d a b => d.okW t.iw && a.okW t.iw && b.okW t.iw
  | .fscale t d a _ => d.okW t.iw && a.okW t.iw
  | .faddI t d a _ | .fsubI t d a _ | .fmulI t d a _ | .fmaI t d a _ | .fminI t d a _ | .fmaxI t d a _ | .fdivI t d a _
  | .fscaleI t d a _ => d.okW t.iw && a.okW t.iw
  | .fsqrt t d a | .frcp t d a | .frsq t d a | .fexp2 t d a | .flog2 t d a | .fsin t d a | .fcos t d a
  | .frnd _ t d a => d.okW t.iw && a.okW t.iw
  | .fclass t _ a => a.okW t.iw
  | .cmp t c m a b => maskOk m && a.okW t.iw && b.okW t.iw && c != .un && c != .ord
  | .fcmp t _ m a b => maskOk m && a.okW t.iw && b.okW t.iw
  | .mov w d a => d.okW w && a.okW w
  | .movi w d _ => d.okW w
  | .sel64 _ d a b => d.ok64 && a.ok64 && b.ok64
  | .cvt m dty sty d a =>
    cvtPair dty sty && (m == .dflt || cvtXfprm dty sty) && d.okW dty.iw && a.okW sty.iw
  | .cvtRdn dty sty d a => cvtPair dty sty && cvtXfprm dty sty && d.okW dty.iw && a.okW sty.iw
  | .npack _ _ a => a.okGroup4
  | .nunpk f d a => d.okGroup f.group && disjoint (d.toOpd.regs f.group) (a.regs 1)
  | .voteAll m _ | .voteAny m _ | .voteEq m _ => maskOk m
  | .wred o t d a | .wscan o t d a =>
    d.okW t.iw && a.okW t.iw &&
    !((t == .f32 || t == .f64) && (o == .and || o == .or || o == .xor))
  | .mand d _ _ | .mor d _ _ | .mxor d _ _ | .mnot d _ => maskOk d
  | .sshlImm _ _ | .sshrImm _ _ _ => true
  | .ldg z _ d b => b.ok64 && loadOk z d b 2
  | .stg z _ d b => b.ok64 && storeOk z d
  | .prefg _ _ b => b.ok64
  | .lds z m d b | .ldp z m d b => m.localOnly && loadOk z d b 1
  | .sts z m d _ | .stp z m d _ => m.localOnly && storeOk z d
  | .ldl z _ d b | .ldk z _ d b => loadOk z d b 1
  | .stl z _ d _ => storeOk z d
  | .atomg _ _ w p d b => b.ok64 && atomOk w p d true
  | .redg o _ w p d b => b.ok64 && atomOk w p d false && (o == .rlx || o == .rel)
  | .atoms _ s w p d _ | .atomp _ s w p d _ => s.local && atomOk w p d true
  | .tlook d a => d != .l && a.ok64
  | .tset d a b => d != .l && d.ok64 && a.ok64 && disjoint (d.toOpd.regs 2) (a.regs 2 ++ b.regs 1)
  | .tevict d a => d != .l && a.ok64
  | .reform c => c.toNat ≤ 16
  | .fjmp link s _ => link || s.val == 0
  | .shlH _ (.i v) | .shrNH _ (.i v) => !v.msb
  | .bar n => n.val < 16
  | .bara k _ b _ => k == .const || b.val == 0
  | .barw k c _ _ => k == .const || c.val == 0
  | .spinit _ _ n | .spush _ _ n | .spop _ _ n | .sptryPop _ _ n | .sptryPush _ _ n => n.val < 16
  | .msend _ c _ => c.val % 2 == 0
  | .mrecv c _ _ => c.val % 2 == 0
  | .mloadz src _ _ _ a => src == .scratch || a.val == 0
  | .mseam _ mask => 1 ≤ mask.val && mask.val ≤ 15
  | .mseamloc _ t | .mseamfix _ t => t.val < 4
  | .mflags clear _ mask => if clear then mask.val ≤ 15 else mask.val == 0
  | .fswait tmo _ b _ => tmo || b.val == 0
  | .capb _ m g => 1 ≤ m.val && m.val ≤ 12 && g.val ≤ 23
  | .capadopt _ m g => 1 ≤ m.val && m.val ≤ 13 && g.val ≤ 23
  | .movxR _ x => movxReadable x.val
  | .movxW x _ => movxWritable x.val
  | .perfq _ n => n.val ≤ 11
  | _ => true

end Sys2Proof
end

