-- ==== Sys2Proof/Machine/Floats.lean ====
section
/-! DEFINITION. Numbers: exact values, formats and roundings (R43 to R56), the lane floating-point operations (R121,
R125 to R131) and the conversions (R54 to R56). A value is a sign, a natural number and a power of two, so every
operation is exact until its one rounding. -/

namespace Sys2Proof.Machine

/-- The exceptions of one operation (R47). -/
structure Exc where
  inv : Bool := false
  dz : Bool := false
  ovf : Bool := false
  unf : Bool := false
  nx : Bool := false
  deriving DecidableEq, Repr

/-- A decoded value: NaN (signalling or not), an infinity, or `(-1)^neg * m * 2^e`. -/
inductive FVal where
  | nan (sig : Bool) | inf (neg : Bool) | num (neg : Bool) (m : Nat) (e : Int)
  deriving DecidableEq, Repr

/-- A binary format: exponent and fraction widths and bias (R43, R48, R57). -/
structure Fmt where
  ew : Nat
  fw : Nat
  bias : Nat
  deriving DecidableEq, Repr

/-- An exact positive magnitude `m * 2^e`; with `st` the value lies strictly between `m` and `m + 1` times `2^e`. -/
structure Mag where
  m : Nat
  e : Int
  st : Bool := false
  deriving DecidableEq, Repr

def Exc.or (a b : Exc) : Exc :=
  { inv := a.inv || b.inv, dz := a.dz || b.dz, ovf := a.ovf || b.ovf, unf := a.unf || b.unf, nx := a.nx || b.nx }

/-- The exceptions in the order of TEN and FLG: INV, DZ, OF, UF, NX (R262). -/
def Exc.list (x : Exc) : List Bool := [x.inv, x.dz, x.ovf, x.unf, x.nx]

def Exc.ofInv : Exc := { inv := true }
/-- Overflow raises OF and NX; a saturation of a narrow conversion likewise (R47). -/
def Exc.ofOvf : Exc := { ovf := true, nx := true }

def fmtF16 : Fmt := ⟨5, 10, 15⟩
def fmtBF16 : Fmt := ⟨8, 7, 127⟩
def fmtF32 : Fmt := ⟨8, 23, 127⟩
def fmtF64 : Fmt := ⟨11, 52, 1023⟩
def fmtE4M3 : Fmt := ⟨4, 3, 8⟩
def fmtE5M2 : Fmt := ⟨5, 2, 16⟩
def fmtE3M2 : Fmt := ⟨3, 2, 4⟩
def fmtE2M3 : Fmt := ⟨2, 3, 2⟩
def fmtE2M1 : Fmt := ⟨2, 1, 2⟩
def fmtCE16 : Fmt := ⟨6, 9, 32⟩

def FT.fmt : FT → Fmt
  | .f16 => fmtF16 | .bf16 => fmtBF16 | .f32 => fmtF32 | .f64 => fmtF64

namespace Fmt
/-- The exponent of the smallest normal value. -/
def emin (f : Fmt) : Int := 1 - f.bias
/-- The exponent of the smallest subnormal value. -/
def qmin (f : Fmt) : Int := f.emin - f.fw
def signBit (f : Fmt) : Nat := 2 ^ (f.ew + f.fw)
/-- IEEE infinity (R43). -/
def infBits (f : Fmt) : Nat := (2 ^ f.ew - 1) * 2 ^ f.fw
/-- The canonical quiet NaN (R44). -/
def nanBits (f : Fmt) : Nat := f.infBits + 2 ^ (f.fw - 1)
/-- Width of a value in bits. -/
def bits (f : Fmt) : Nat := 1 + f.ew + f.fw

/-- The value of an IEEE pattern (R43). -/
def dec (f : Fmt) (b : Nat) : FVal :=
  let s := bitOf b (f.ew + f.fw)
  let ex := b / 2 ^ f.fw % 2 ^ f.ew
  let fr := b % 2 ^ f.fw
  if ex = 2 ^ f.ew - 1 then
    if fr = 0 then .inf s else .nan (fr < 2 ^ (f.fw - 1))
  else if ex = 0 then .num s fr f.qmin
  else .num s (2 ^ f.fw + fr) (f.qmin + ex - 1)

/-- The value of a narrow or CE16 code (R49, R57): every exponent field is finite, the sign bit alone is NaN. -/
def decNarrow (f : Fmt) (b : Nat) : FVal :=
  let s := bitOf b (f.ew + f.fw)
  let ex := b / 2 ^ f.fw % 2 ^ f.ew
  let fr := b % 2 ^ f.fw
  if ex = 0 ∧ fr = 0 then (if s then .nan false else .num false 0 0)
  else if ex = 0 then .num s fr f.qmin
  else .num s (2 ^ f.fw + fr) (f.qmin + ex - 1)
end Fmt

def bitLen (m : Nat) : Nat := if m = 0 then 0 else Nat.log2 m + 1

/-- `m / 2^k` rounded to an integer in mode `md` (R45), and whether that changed it. -/
def roundShift (md : RMode) (neg : Bool) (m k : Nat) (st : Bool) : Nat × Bool :=
  let q := m / 2 ^ k
  let r := m % 2 ^ k
  let inexact := r != 0 || st
  let above := 2 ^ k < 2 * r || (2 * r == 2 ^ k && st)
  let tie := 2 * r == 2 ^ k && !st
  let up := match md with
    | .rne => above || (tie && q % 2 == 1)
    | .rtz => false
    | .rup => inexact && !neg
    | .rdn => inexact && neg
  (if up then q + 1 else q, inexact)

/-- A magnitude rounded once to a format's grid: the code's magnitude bits (which may lie beyond the format), whether the
rounding was inexact, and whether the result is tiny, judged after rounding (R47). -/
def roundMag (f : Fmt) (md : RMode) (neg : Bool) (x : Mag) : Nat × Bool × Bool :=
  if x.m = 0 then (0, false, false)
  else
    let len := bitLen x.m
    let top : Int := x.e + len - 1
    if top > (2 : Int) ^ f.ew then (2 ^ (f.ew + f.fw + 1), true, false)
    else
      let qe := max (top - f.fw) f.qmin
      let r : Nat × Bool :=
        if qe ≤ x.e then (x.m * 2 ^ (x.e - qe).toNat, x.st)
        else roundShift md neg x.m (min (qe - x.e).toNat (len + 2)) x.st
      let tiny :=
        if f.emin ≤ top then false
        else if top < f.emin - 1 then true
        else
          let u : Nat := if x.e ≤ top - f.fw then
            (roundShift md neg x.m (top - f.fw - x.e).toNat x.st).1 else 0
          u != 2 ^ (f.fw + 1)
      ((qe - f.qmin).toNat * 2 ^ f.fw + r.1, r.2, tiny)

/-- ROUND(x, T, m) for an IEEE format, with its exceptions (R45 to R47). -/
def roundIeee (f : Fmt) (md : RMode) (neg : Bool) (x : Mag) : Nat × Exc :=
  let sgn := if neg then f.signBit else 0
  let r := roundMag f md neg x
  if f.infBits ≤ r.1 then
    let toInf := match md with
      | .rne => true | .rtz => false | .rup => !neg | .rdn => neg
    (sgn + (if toInf then f.infBits else f.infBits - 1), Exc.ofOvf)
  else (sgn + r.1, { unf := r.2.1 && r.2.2, nx := r.2.1 })

/-- Conversion into a narrow format or CE16 (R46, R48, R55): always RNE, saturating, no negative zero. -/
def roundNarrow (f : Fmt) (neg : Bool) (x : Mag) : Nat × Exc :=
  let r := roundMag f .rne neg x
  let top := 2 ^ (f.ew + f.fw) - 1
  if top < r.1 then ((if neg then f.signBit else 0) + top, Exc.ofOvf)
  else
    (if r.1 = 0 then 0 else (if neg then f.signBit else 0) + r.1, { unf := r.2.1 && r.2.2, nx := r.2.1 })

/-- An exact value delivered in an IEEE format. -/
def FVal.toIeee (f : Fmt) (md : RMode) : FVal → Nat × Exc
  | .nan sig => (f.nanBits, { inv := sig })
  | .inf neg => ((if neg then f.signBit else 0) + f.infBits, {})
  | .num neg m e => roundIeee f md neg ⟨m, e, false⟩

/-- An exact value delivered in a narrow format or CE16 (R54, R55). -/
def FVal.toNarrow (f : Fmt) : FVal → Nat × Exc
  | .nan sig => (f.signBit, { inv := sig })
  | .inf neg => ((if neg then f.signBit else 0) + (2 ^ (f.ew + f.fw) - 1), Exc.ofOvf)
  | .num neg m e => roundNarrow f neg ⟨m, e, false⟩

/-- Signed value scaled to exponent `c` (which lies at or below `e`). -/
def scaled (neg : Bool) (m : Nat) (e c : Int) : Int :=
  let v : Int := m * 2 ^ (e - c).toNat
  if neg then -v else v

/-- Order of two values that are no NaN; the zeros compare equal (R121). -/
def FVal.cmp : FVal → FVal → Ordering
  | .num a m e, .num b n d =>
    let c := min e d
    compare (scaled a m e c) (scaled b n d c)
  | .inf a, .inf b => if a = b then .eq else if a then .lt else .gt
  | .inf a, _ => if a then .lt else .gt
  | _, .inf b => if b then .gt else .lt
  | _, _ => .eq

def FVal.isNan : FVal → Bool | .nan _ => true | _ => false
def FVal.isSig : FVal → Bool | .nan s => s | _ => false
def FVal.isZero : FVal → Bool | .num _ m _ => m == 0 | _ => false
def FVal.sign : FVal → Bool | .nan _ => false | .inf s => s | .num s _ _ => s
def FVal.negate : FVal → FVal
  | .nan s => .nan s | .inf s => .inf (!s) | .num s m e => .num (!s) m e

/-- The exact sum; an exact zero sum of opposite signs is +0, or -0 under RDN (R45). -/
def sumExact (md : RMode) (a : Bool) (m : Nat) (e : Int) (b : Bool) (n : Nat) (d : Int) : FVal :=
  let c := min e d
  let v := scaled a m e c + scaled b n d c
  if v = 0 then .num (if a = b then a else md == .rdn) 0 0
  else .num (v < 0) v.natAbs c

/-- A NaN operand of an arithmetic operation: canonical NaN, INV when signalling (R44). -/
def nanExc (xs : List FVal) : Exc := { inv := xs.any FVal.isSig }

/-- x + y (R125). -/
def fAdd (f : Fmt) (md : RMode) (x y : FVal) : Nat × Exc :=
  if x.isNan || y.isNan then (f.nanBits, nanExc [x, y])
  else match x, y with
    | .inf a, .inf b => if a = b then (FVal.inf a).toIeee f md else (f.nanBits, Exc.ofInv)
    | .inf a, _ => (FVal.inf a).toIeee f md
    | _, .inf b => (FVal.inf b).toIeee f md
    | .num a m e, .num b n d => (sumExact md a m e b n d).toIeee f md
    | _, _ => (f.nanBits, {})

/-- x - y (R125). -/
def fSub (f : Fmt) (md : RMode) (x y : FVal) : Nat × Exc := fAdd f md x y.negate

/-- The exact product, or none where it is 0 times infinity. -/
def mulExact : FVal → FVal → Option FVal
  | .num a m e, .num b n d => some (.num (a != b) (m * n) (e + d))
  | .inf a, .num b n _ => if n = 0 then none else some (.inf (a != b))
  | .num a m _, .inf b => if m = 0 then none else some (.inf (a != b))
  | .inf a, .inf b => some (.inf (a != b))
  | _, _ => none

/-- x * y (R125). -/
def fMul (f : Fmt) (md : RMode) (x y : FVal) : Nat × Exc :=
  if x.isNan || y.isNan then (f.nanBits, nanExc [x, y])
  else match mulExact x y with
    | none => (f.nanBits, Exc.ofInv)
    | some p => p.toIeee f md

/-- c + x * y, fused (R125): 0 times infinity raises INV whatever the addend. -/
def fFma (f : Fmt) (md : RMode) (c x y : FVal) : Nat × Exc :=
  if x.isNan || y.isNan then (f.nanBits, nanExc [c, x, y])
  else match mulExact x y with
    | none => (f.nanBits, Exc.ofInv)
    | some p => if c.isNan then (f.nanBits, nanExc [c]) else fAdd f md c p

/-- x / y (R125). -/
def fDiv (f : Fmt) (md : RMode) (x y : FVal) : Nat × Exc :=
  if x.isNan || y.isNan then (f.nanBits, nanExc [x, y])
  else match x, y with
    | .inf _, .inf _ => (f.nanBits, Exc.ofInv)
    | .inf a, y => (FVal.inf (a != y.sign)).toIeee f md
    | x, .inf b => (FVal.num (x.sign != b) 0 0).toIeee f md
    | .num a m e, .num b n d =>
      if n = 0 then
        if m = 0 then (f.nanBits, Exc.ofInv)
        else ((if a != b then f.signBit else 0) + f.infBits, { dz := true })
      else
        let k := f.fw + 4 + bitLen n
        roundIeee f md (a != b) ⟨m * 2 ^ k / n, e - d - k, m * 2 ^ k % n != 0⟩
    | _, _ => (f.nanBits, {})

/-- FMIN and FMAX (R126): one of the inputs, or the canonical NaN. `x` and `y` are the patterns. -/
def fMinMax (f : Fmt) (isMax : Bool) (x y : Nat) : Nat × Exc :=
  let a := f.dec x
  let b := f.dec y
  if a.isSig || b.isSig then (f.nanBits, Exc.ofInv)
  else if a.isNan then (if b.isNan then f.nanBits else y % 2 ^ f.bits, {})
  else if b.isNan then (x % 2 ^ f.bits, {})
  else
    let first := match a.cmp b with
      | .lt => !isMax
      | .gt => isMax
      | .eq => a.sign != isMax
    (if first then x % 2 ^ f.bits else y % 2 ^ f.bits, {})

/-- x * 2^n rounded once (R127). -/
def fScale (f : Fmt) (md : RMode) (x : FVal) (n : Int) : Nat × Exc :=
  match x with
  | .num s m e => if m = 0 then (FVal.num s 0 0).toIeee f md else (FVal.num s m (e + n)).toIeee f md
  | v => v.toIeee f md

/-- Integer square root, from bit `n` downwards. -/
def isqrtFrom (m : Nat) : (n r : Nat) → Nat
  | 0, r => r
  | n + 1, r => isqrtFrom m n (if (r + 2 ^ n) * (r + 2 ^ n) ≤ m then r + 2 ^ n else r)
def isqrt (m : Nat) : Nat := isqrtFrom m (bitLen m / 2 + 1) 0

/-- The square root of `m * 2^e` with at least `p` significant bits. -/
def sqrtMag (m : Nat) (e : Int) (p : Nat) : Mag :=
  let odd : Nat := (e % 2).toNat
  let v := m * 2 ^ (2 * p + odd)
  let r := isqrt v
  ⟨r, (e - odd) / 2 - p, r * r != v⟩

/-- FSQRT (R128). -/
def fSqrt (f : Fmt) (md : RMode) : FVal → Nat × Exc
  | .nan s => (f.nanBits, { inv := s })
  | .inf s => if s then (f.nanBits, Exc.ofInv) else (f.infBits, {})
  | .num s m e =>
    if m = 0 then (FVal.num s 0 0).toIeee f md
    else if s then (f.nanBits, Exc.ofInv)
    else roundIeee f md false (sqrtMag m e (f.fw + 4))

/-- FRCP (R128). -/
def fRcp (f : Fmt) (md : RMode) : FVal → Nat × Exc
  | .nan s => (f.nanBits, { inv := s })
  | .inf s => ((if s then f.signBit else 0), {})
  | .num s m e =>
    if m = 0 then ((if s then f.signBit else 0) + f.infBits, { dz := true })
    else
      let k := f.fw + 4 + bitLen m
      roundIeee f md s ⟨2 ^ k / m, -e - k, 2 ^ k % m != 0⟩

/-- FRND (R130): the integral value in mode `md`; only a signalling NaN raises anything. -/
def fRnd (f : Fmt) (md : RMode) : FVal → Nat × Exc
  | .nan s => (f.nanBits, { inv := s })
  | .inf s => ((if s then f.signBit else 0) + f.infBits, {})
  | .num s m e =>
    if 0 ≤ e then ((FVal.num s m e).toIeee f .rne).map id fun _ => {}
    else ((FVal.num s (roundShift md s m (min (-e).toNat (bitLen m + 2)) false).1 0).toIeee f .rne).map id fun _ => {}

/-- FCLASS (R131). -/
def fClass (f : Fmt) (b : Nat) : Nat :=
  match f.dec b with
  | .nan true => 1
  | .nan false => 2
  | .inf true => 4
  | .inf false => 512
  | .num s m _ =>
    if m = 0 then (if s then 32 else 64)
    else if m < 2 ^ f.fw then (if s then 16 else 128)
    else if s then 8 else 256

/-- FCMP (R121): the condition and whether INV is raised. -/
def fCmp (c : Cond) (x y : FVal) : Bool × Exc :=
  let sig := x.isSig || y.isSig
  if x.isNan || y.isNan then
    match c with
    | .ne | .un => (true, { inv := sig })
    | .eq | .ord => (false, { inv := sig })
    | _ => (false, Exc.ofInv)
  else
    let o := x.cmp y
    (match c with
      | .eq => o == .eq
      | .ne => o != .eq
      | .lt => o == .lt
      | .le => o != .gt
      | .gt => o == .gt
      | .ge => o != .lt
      | .un => false
      | .ord => true, {})

/-! The five functions of R129. The constants are pi and the natural logarithm of 2 in fixed point. -/

/-- Bits of the constants after the point. -/
def piBits : Nat := 1500
def piFix : Nat :=
  0x3243f6a8885a308d313198a2e03707344a4093822299f31d0082efa98ec4e6c89452821e638d01377be5466cf34e90c6cc0ac29b7c97c50dd3f84d5b5b54709179216d5d98979fb1bd1310ba698dfb5ac2ffd72dbd01adfb7b8e1afed6a267e96ba7c9045f12c7f9924a19947b3916cf70801f2e2858efc16636920d871574e69a458fea3f4933d7e0d95748f728eb658718bcd5882154aee7b54a41dc25a59b59c30d5392af26013c5d1b023286085f0ca417918b8db38ef8e79dcb
def ln2Bits : Nat := 400
def ln2Fix : Nat :=
  0xb17217f7d1cf79abc9e3b39803f2f6af40f343267298b62d8a0d175b8baafa2be7b876206debac98559552fb4afa1b10ed2e

/-- Sum of `y^k / k!` in fixed point with `p` fraction bits, `n` terms left, from term `t` (the k-th). -/
def expSum (p y : Nat) : (n k t acc : Nat) → Nat
  | 0, _, _, acc => acc
  | n + 1, k, t, acc => expSum p y n (k + 1) (t * y / 2 ^ p / (k + 1)) (acc + t)

/-- 2^x, by 2^n * e^(f ln 2). -/
def exp2Mag (neg : Bool) (m : Nat) (e : Int) : Mag :=
  let p : Nat := 400
  if e + bitLen m < -80 then (if neg then ⟨2 ^ 200 - 1, -200, true⟩ else ⟨2 ^ 200, -200, true⟩)
  else if e + bitLen m > 14 then (if neg then ⟨1, -16384, true⟩ else ⟨1, 16384, true⟩)
  else
    let v := scaled neg (if 0 ≤ e + p then m else m / 2 ^ (-(e + p)).toNat) (max (e + p) 0) 0
    let n := v / 2 ^ p
    let fr := (v % 2 ^ p).toNat
    if fr = 0 then ⟨1, n, false⟩
    else ⟨expSum p (fr * ln2Fix / 2 ^ ln2Bits) 100 0 (2 ^ p) 0 / 2 ^ 64, n - 336, true⟩

/-- Sum of `z^(2k+1) / (2k+1)` in fixed point. -/
def atanhSum (p z2 : Nat) : (n k t acc : Nat) → Nat
  | 0, _, _, acc => acc
  | n + 1, k, t, acc => atanhSum p z2 n (k + 2) (t * z2 / 2 ^ p) (acc + t / k)

/-- log2 of a positive value: sign and magnitude; exact for powers of two. -/
def log2Mag (m : Nat) (e : Int) : Bool × Mag :=
  let p : Nat := 400
  let len := bitLen m
  let n : Int := e + len - 1
  let one := 2 ^ (len - 1)
  if m = one then (n < 0, ⟨n.natAbs, 0, false⟩)
  else
    let z := (m - one) * 2 ^ p / (m + one)
    let ln := 2 * atanhSum p (z * z / 2 ^ p) 140 1 z 0
    let v := n * (2 : Int) ^ p + (ln * 2 ^ ln2Bits / ln2Fix : Nat)
    (v < 0, ⟨v.natAbs / 2 ^ 64, -336, true⟩)

/-- Alternating series of sine (`k` from 1) and cosine (`k` from 0) in fixed point. -/
def trigSum (p r2 : Nat) : (n k : Nat) → (t : Nat) → (pos : Bool) → (acc : Int) → Int
  | 0, _, _, _, acc => acc
  | n + 1, k, t, pos, acc =>
    trigSum p r2 n (k + 2) (t * r2 / 2 ^ p / ((k + 1) * (k + 2))) (!pos) (if pos then acc + t else acc - t)

/-- Sine (or cosine) of `m * 2^e` with full argument reduction: sign and magnitude. -/
def trigMag (cosine : Bool) (m : Nat) (e : Int) : Bool × Mag :=
  if e + bitLen m < -40 then
    (false, if cosine then ⟨2 ^ 200 - 1, -200, true⟩ else ⟨m * 2 ^ 64 - 1, e - 64, true⟩)
  else
    let p : Nat := 400
    let x := m * 2 ^ (e + piBits + 1).toNat
    let q := x / piFix
    let r := (x - q * piFix) / 2 ^ (piBits + 1 - p)
    let useCos := (q % 2 == 1) != cosine
    let v := if useCos then trigSum p (r * r / 2 ^ p) 60 0 (2 ^ p) true 0
      else trigSum p (r * r / 2 ^ p) 60 1 r true 0
    let neg := if cosine then q % 4 == 1 || q % 4 == 2 else q % 4 == 2 || q % 4 == 3
    (neg, ⟨v.natAbs / 2 ^ 64, -336, true⟩)

/-- The functions of R129. -/
inductive Fn where
  | rsq | exp2 | log2 | sin | cos
  deriving DecidableEq, Repr

def Fn.num : Fn → Nat | .rsq => 0 | .exp2 => 1 | .log2 => 2 | .sin => 3 | .cos => 4

/-- The fixed special values of R129, or the sign and magnitude of the true value. -/
def fnExact (f : Fmt) (fn : Fn) : FVal → (Nat × Exc) ⊕ (Bool × Mag)
  | .nan s => .inl (f.nanBits, { inv := s })
  | .inf s =>
    match fn with
    | .rsq => .inl (if s then (f.nanBits, Exc.ofInv) else (0, {}))
    | .exp2 => .inl (if s then 0 else f.infBits, {})
    | .log2 => .inl (if s then (f.nanBits, Exc.ofInv) else (f.infBits, {}))
    | _ => .inl (f.nanBits, Exc.ofInv)
  | .num s m e =>
    if m = 0 then
      match fn with
      | .rsq => .inl ((if s then f.signBit else 0) + f.infBits, {})
      | .exp2 | .cos => .inr (false, ⟨1, 0, false⟩)
      | .log2 => .inl (f.signBit + f.infBits, { dz := true })
      | .sin => .inl (if s then f.signBit else 0, {})
    else
      match fn with
      | .rsq =>
        if s then .inl (f.nanBits, Exc.ofInv)
        else
          let k := 2 * (f.fw + 64) + bitLen m
          let odd : Nat := ((-e - k) % 2).toNat
          let q := 2 ^ (k + odd) / m
          let r := isqrt q
          .inr (false, ⟨r, (-e - k - odd) / 2, r * r * m != 2 ^ (k + odd)⟩)
      | .exp2 => .inr (false, exp2Mag s m e)
      | .log2 => if s then .inl (f.nanBits, Exc.ofInv) else .inr (log2Mag m e)
      | .sin => let r := trigMag false m e; .inr (r.1 != s, r.2)
      | .cos => .inr (trigMag true m e)

/-- The bound of R129 for F32 and F64, in units in the last place and as a power of two (0 for none). -/
def fnBound (fn : Fn) (f64 : Bool) : Nat × Option Nat :=
  let a := if f64 then 53 else 24
  match fn, f64 with
  | .rsq, false | .exp2, false => (1, none)
  | .rsq, true | .exp2, true => (2, none)
  | .log2, false => (1, some a)
  | _, _ => (2, some a)

/-- Whether a finite result lies within R129's bound of the true value. -/
def withinBound (f : Fmt) (fn : Fn) (f64 : Bool) (neg : Bool) (t : Mag) (v : FVal) : Bool :=
  match v with
  | .num s m e =>
    let top : Int := t.e + bitLen t.m - 1
    if f.qmin - 8 > top || top > (2 : Int) ^ f.ew then false
    else
      let c := min (min e t.e) (f.qmin - 64)
      let diff := (scaled s m e c - scaled neg t.m t.e c).natAbs
      let slack := if t.st then 2 ^ (t.e - c).toNat else 0
      let b := fnBound fn f64
      let ulp := b.1 * 2 ^ (max (top - f.fw) f.qmin - c).toNat
      let abs := match b.2 with
        | some k => 2 ^ (-(k : Int) - c).toNat
        | none => 0
      diff + slack ≤ max ulp abs
  | _ => false

/-- The larger-than-largest-finite test of R129's overflow rule. -/
def beyondFinite (f : Fmt) (t : Mag) : Bool :=
  f.infBits ≤ (roundMag f .rtz false t).1 ||
    ((roundMag f .rtz false t).1 = f.infBits - 1 && (roundMag f .rtz false t).2.1)

/-- FRSQ, FEXP2, FLOG2, FSIN, FCOS (R129). F16 and BF16 are correctly rounded; an F32 or F64 result is the free value
`Config.approx` where that lies within the bound, else the correctly rounded one (DESIGN CHOICE, log 8). -/
def fFn (f : Fmt) (wide : Option Bool) (md : RMode) (fn : Fn) (b : Nat) : Nat × Exc :=
  match fnExact f fn (f.dec b) with
  | .inl r => r
  | .inr (neg, t) =>
    match wide with
    | none => roundIeee f md neg t
    | some f64 =>
      if beyondFinite f t then roundIeee f md neg { t with st := true }
      else
        let r := roundIeee f .rne neg t
        if !r.2.nx then r
        else
          let a := (Config.approx fn.num f64 (BitVec.ofNat 64 b)).toNat % 2 ^ f.bits
          let v := if withinBound f fn f64 neg t (f.dec a) then a else r.1
          (v, { nx := true, unf := v % f.signBit < 2 ^ f.fw })

/-! Conversions (R52 to R56). -/

/-- Q(c) of QN4 (R52). -/
def qn4 (c : Nat) : Int :=
  [-128, -100, -78, -60, -44, -30, -18, -8, 0, 10, 22, 36, 52, 72, 96, 128].getD c 0

/-- The nearest QN4 code of `|v| = m * 2^e` (R53): the least distance, ties to the smaller level. -/
def qn4Best (neg : Bool) (m : Nat) (e : Int) : Nat :=
  let c := min e (-7)
  let x := scaled neg m e c
  let dist (k : Nat) : Nat := (x - qn4 k * 2 ^ (-7 - c).toNat).natAbs
  (List.range 16).foldl (fun best k =>
    if dist k < dist best || (dist k == dist best && (qn4 k).natAbs < (qn4 best).natAbs) then k else best) 8

/-- An exact value to a QN4 code with scale 1 (R53, R54). -/
def toQn4 : FVal → Nat × Exc
  | .nan _ => (8, Exc.ofInv)
  | .inf neg => (if neg then 0 else 15, Exc.ofOvf)
  | .num neg m e =>
    if m = 0 then (8, {})
    else if (FVal.num false m e).cmp (.num false 1 0) == .gt then (if neg then 0 else 15, Exc.ofOvf)
    else
      let c := qn4Best neg m e
      let q := FVal.num (qn4 c < 0) (qn4 c).natAbs (-7)
      (c, { nx := q.cmp (.num neg m e) != .eq })

/-- Signed range of an integer of `w` bits. -/
def intMin (signed : Bool) (w : Nat) : Int := if signed then -(2 : Int) ^ (w - 1) else 0
def intMax (signed : Bool) (w : Nat) : Int := if signed then 2 ^ (w - 1) - 1 else 2 ^ w - 1

/-- A value to an integer (R54, R56): rounded in the mode, then saturated. -/
def toInt (signed : Bool) (w : Nat) (md : RMode) (v : FVal) : Int × Exc :=
  let lo := intMin signed w
  let hi := intMax signed w
  match v with
  | .nan _ => (0, Exc.ofInv)
  | .inf neg => (if neg then lo else hi, { inv := true, nx := true })
  | .num neg m e =>
    if 0 < e ∧ 64 < e + bitLen m ∧ m ≠ 0 then (if neg then lo else hi, { inv := true, nx := true })
    else
      let r : Nat × Bool := if 0 ≤ e then (m * 2 ^ e.toNat, false)
        else roundShift md neg m (min (-e).toNat (bitLen m + 2)) false
      let x : Int := if neg then -(r.1 : Int) else r.1
      if x < lo then (lo, { inv := true, nx := true })
      else if hi < x then (hi, { inv := true, nx := true })
      else (x, { nx := r.2 })

/-- Width of a type's code in bits (R42, R43, R48, R52, R57). -/
def Ty.bits : Ty → Nat
  | .i8 | .n8 | .e4m3 | .e5m2 => 8
  | .i16 | .n16 | .f16 | .bf16 | .ce16 => 16
  | .i32 | .n32 | .f32 => 32
  | .i64 | .n64 | .f64 => 64
  | .e3m2 | .e2m3 => 6
  | .e2m1 | .qn4 => 4

def Ty.signed : Ty → Bool
  | .i8 | .i16 | .i32 | .i64 => true
  | _ => false

/-- The value of the low bits of a register in a type (R132). -/
def Ty.value (t : Ty) (x : Nat) : FVal :=
  let b := x % 2 ^ Ty.bits t
  match t with
  | .i8 | .i16 | .i32 | .i64 =>
    let h := 2 ^ (Ty.bits t - 1)
    if b < h then .num false b 0 else .num true (2 ^ Ty.bits t - b) 0
  | .n8 | .n16 | .n32 | .n64 => .num false b 0
  | .f16 => fmtF16.dec b
  | .bf16 => fmtBF16.dec b
  | .f32 => fmtF32.dec b
  | .f64 => fmtF64.dec b
  | .e4m3 => fmtE4M3.decNarrow b
  | .e5m2 => fmtE5M2.decNarrow b
  | .e3m2 => fmtE3M2.decNarrow b
  | .e2m3 => fmtE2M3.decNarrow b
  | .e2m1 => fmtE2M1.decNarrow b
  | .ce16 => fmtCE16.decNarrow b
  | .qn4 => .num (qn4 b < 0) (qn4 b).natAbs (-7)

/-- A value converted to a type (R54 to R56): the pattern, integers wrapped to 64 bits (R42 extends them). -/
def convTo (t : Ty) (md : RMode) (v : FVal) : Nat × Exc :=
  match t with
  | .i8 | .i16 | .i32 | .n8 | .n16 | .n32 =>
    let r := toInt (Ty.signed t) (Ty.bits t) md v
    ((BitVec.ofInt 32 r.1).toNat, r.2)
  | .i64 | .n64 =>
    let r := toInt (Ty.signed t) 64 md v
    ((BitVec.ofInt 64 r.1).toNat, r.2)
  | .f16 => v.toIeee fmtF16 md
  | .bf16 => v.toIeee fmtBF16 md
  | .f32 => v.toIeee fmtF32 md
  | .f64 => v.toIeee fmtF64 md
  | .e4m3 => v.toNarrow fmtE4M3
  | .e5m2 => v.toNarrow fmtE5M2
  | .e3m2 => v.toNarrow fmtE3M2
  | .e2m3 => v.toNarrow fmtE2M3
  | .e2m1 => v.toNarrow fmtE2M1
  | .ce16 => v.toNarrow fmtCE16
  | .qn4 => toQn4 v

end Sys2Proof.Machine
end

