-- ==== Sys2Proof/Decode.lean ====
section
/-! DEFINITION. The decoder: bytes to an instruction or a named rejection (R62 to R88), and after it the encoder, both
written from the encoding tables of the manual. Fields are taken with division and remainder on the word's number. -/

namespace Sys2Proof

/-- Why a pattern is no instruction (R88). -/
inductive Reject where
  | short | major | minor | reserved | operand | illFormed
  deriving DecidableEq, Repr

abbrev Dec := Except Reject

/-- The field of `n` bits whose lowest bit is `lo`. -/
def fld (w lo n : Nat) : Nat := w / 2 ^ lo % 2 ^ n

/-- Operand codes of R69; 0x6C to 0x6F are illegal. -/
def Opd.code : Opd → Nat
  | .g n => n.val
  | .k n => 96 + n.val
  | .l => 104
  | .zero => 105
  | .lane => 106
  | .tid => 107
  | .s n => 112 + n.val

def Opd.ofCode (c : Nat) : Dec Opd :=
  if h : c < 96 then .ok (.g ⟨c, h⟩)
  else if c < 104 then .ok (.k (Fin.ofNat 8 (c - 96)))
  else if c = 104 then .ok .l
  else if c = 105 then .ok .zero
  else if c = 106 then .ok .lane
  else if c = 107 then .ok .tid
  else if c < 112 then .error .operand
  else if c < 128 then .ok (.s (Fin.ofNat 16 (c - 112)))
  else .error .operand

/-- A lane destination: LANE, TID and S0 to S15 raise ILLOP (R69). -/
def Dst.ofCode (c : Nat) : Dec Dst :=
  if h : c < 96 then .ok (.g ⟨c, h⟩)
  else if c < 104 then .ok (.k (Fin.ofNat 8 (c - 96)))
  else if c = 104 then .ok .l
  else if c = 105 then .ok .zero
  else .error .operand

def Dst.code (d : Dst) : Nat := d.toOpd.code

/-- Short codes of the H format (R71). -/
def HReg.code : HReg → Nat
  | .k n => n.val
  | .l => 8
  | .zero => 9
  | .g n => 10 + n.val

def HReg.ofCode (c : Nat) : HReg :=
  if h : c < 8 then .k ⟨c, h⟩
  else if c = 8 then .l
  else if c = 9 then .zero
  else .g (Fin.ofNat 22 (c - 10))

def sreg (c : Nat) : SReg := Fin.ofNat 64 c
def mreg (c : Nat) : MReg := Fin.ofNat 16 c

/-- A field the tables give as 0 (R88). -/
def zero? (v : Nat) (i : Instr) : Dec Instr := if v = 0 then .ok i else .error .reserved

/-- The lane fields a and d of the T and I formats (R72), with the rest of the row. -/
def withDA (w : Nat) (k : Dst → Opd → Dec Instr) : Dec Instr :=
  match Dst.ofCode (fld w 11 7), Opd.ofCode (fld w 18 7) with
  | .ok d, .ok a => k d a
  | _, _ => .error .operand

/-- The lane fields a, d and b of the T format. -/
def withDAB (w : Nat) (k : Dst → Opd → Opd → Dec Instr) : Dec Instr :=
  withDA w fun d a =>
    match Opd.ofCode (fld w 25 7) with
    | .ok b => k d a b
    | .error e => .error e

/-- A unary row: b must be ZERO (R72). -/
def withUnary (w : Nat) (k : Dst → Opd → Dec Instr) : Dec Instr :=
  if fld w 25 7 = 105 then withDA w k else .error .reserved

/-- A last source that is a register in the T majors and an immediate in the I majors (R72). -/
def withSrc (i : Bool) (w : Nat) (k : Dst → Opd → Src → Dec Instr) : Dec Instr :=
  if i then withDA w fun d a => k d a (.i (BitVec.ofNat 7 (fld w 25 7)))
  else withDAB w fun d a b => k d a (.r b)

def imm7 (w : Nat) : BitVec 7 := BitVec.ofNat 7 (fld w 25 7)
def imm12 (w : Nat) : BitVec 12 := BitVec.ofNat 12 (fld w 20 12)

/-- Minor table A (R81, R116). -/
def decIntA (iw : IW) (i : Bool) (w : Nat) : Dec Instr :=
  match fld w 7 4 with
  | 0 => withSrc i w fun d a b => .ok (.add iw d a b)
  | 1 => withSrc i w fun d a b => .ok (.sub iw d a b)
  | 2 => withSrc i w fun d a b => .ok (.mul iw d a b)
  | 3 => withSrc i w fun d a b => .ok (.mulhI iw d a b)
  | 4 => withSrc i w fun d a b => .ok (.mulhN iw d a b)
  | 5 => withSrc i w fun d a b => .ok (.minI iw d a b)
  | 6 => withSrc i w fun d a b => .ok (.minN iw d a b)
  | 7 => withSrc i w fun d a b => .ok (.maxI iw d a b)
  | 8 => withSrc i w fun d a b => .ok (.maxN iw d a b)
  | 9 => withSrc i w fun d a b => .ok (.and iw d a b)
  | 10 => withSrc i w fun d a b => .ok (.or iw d a b)
  | 11 => withSrc i w fun d a b => .ok (.xor iw d a b)
  | 12 => withSrc i w fun d a b => .ok (.shl iw d a b)
  | 13 => withSrc i w fun d a b => .ok (.shrN iw d a b)
  | 14 => withSrc i w fun d a b => .ok (.shrI iw d a b)
  | _ => withSrc i w fun d a b => .ok (.rot iw d a b)

/-- Minor table B, 32-bit majors (R81, R117): PADD is illegal there. -/
def decIntB32 (i : Bool) (w : Nat) : Dec Instr :=
  match fld w 7 4 with
  | 0 => withSrc i w fun d a b => .ok (.divI d a b)
  | 1 => withSrc i w fun d a b => .ok (.divN d a b)
  | 2 => withSrc i w fun d a b => .ok (.remI d a b)
  | 3 => withSrc i w fun d a b => .ok (.remN d a b)
  | 4 => withSrc i w fun d a b => .ok (.addcN d a b)
  | 5 => withSrc i w fun d a b => .ok (.mad d a b)
  | 6 => if i then .error .minor else withUnary w fun d a => .ok (.neg d a)
  | 7 => if i then .error .minor else withUnary w fun d a => .ok (.abs d a)
  | 8 => if i then .error .minor else withUnary w fun d a => .ok (.not d a)
  | 9 => if i then .error .minor else withUnary w fun d a => .ok (.popc d a)
  | 10 => if i then .error .minor else withUnary w fun d a => .ok (.clz d a)
  | 11 => if i then .error .minor else withUnary w fun d a => .ok (.brev d a)
  | 12 => withSrc i w fun d a b => .ok (.bfxN d a b)
  | 13 => withSrc i w fun d a b => .ok (.bfxI d a b)
  | 14 => withSrc i w fun d a b => .ok (.bfi d a b)
  | _ => .error .minor

/-- Minor table B, major 0x04 (64-bit T form). -/
def decIntB64T (w : Nat) : Dec Instr :=
  match fld w 7 4 with
  | 0 => withDAB w fun d a b => .ok (.divIT64 d a b)
  | 1 => withDAB w fun d a b => .ok (.divNT64 d a b)
  | 2 => withDAB w fun d a b => .ok (.remIT64 d a b)
  | 3 => withDAB w fun d a b => .ok (.remNT64 d a b)
  | 4 => withDAB w fun d a b => .ok (.addcNT64 d a b)
  | 5 => withDAB w fun d a b => .ok (.madT64 d a b)
  | 6 => withUnary w fun d a => .ok (.neg64 d a)
  | 7 => withUnary w fun d a => .ok (.abs64 d a)
  | 8 => withUnary w fun d a => .ok (.not64 d a)
  | 9 => withUnary w fun d a => .ok (.popc64 d a)
  | 10 => withUnary w fun d a => .ok (.clz64 d a)
  | 11 => withUnary w fun d a => .ok (.brev64 d a)
  | 12 => withDAB w fun d a b => .ok (.bfxNT64 d a b)
  | 13 => withDAB w fun d a b => .ok (.bfxIT64 d a b)
  | 14 => withDAB w fun d a b => .ok (.bfiT64 d a b)
  | _ => withDAB w fun d a b => .ok (.padd d a b)

/-- Minor table B, major 0x08 (64-bit I form): unary minors are illegal. -/
def decIntB64I (w : Nat) : Dec Instr :=
  match fld w 7 4 with
  | 0 => withDA w fun d a => .ok (.divII64 d a (imm7 w))
  | 1 => withDA w fun d a => .ok (.divNI64 d a (imm7 w))
  | 2 => withDA w fun d a => .ok (.remII64 d a (imm7 w))
  | 3 => withDA w fun d a => .ok (.remNI64 d a (imm7 w))
  | 4 => withDA w fun d a => .ok (.addcNI64 d a (imm7 w))
  | 5 => withDA w fun d a => .ok (.madI64 d a (imm7 w))
  | 6 => .error .minor
  | 7 => .error .minor
  | 8 => .error .minor
  | 9 => .error .minor
  | 10 => .error .minor
  | 11 => .error .minor
  | 12 => withDA w fun d a => .ok (.bfxNI64 d a (imm7 w))
  | 13 => withDA w fun d a => .ok (.bfxII64 d a (imm7 w))
  | 14 => withDA w fun d a => .ok (.bfiI64 d a (imm7 w))
  | _ => withDA w fun d a => .ok (.paddI d a (imm7 w))

/-- Type field [8:7] of the floating-point minors (R82). -/
def ftOf (n : Nat) : FT := match n with | 0 => .f16 | 1 => .bf16 | 2 => .f32 | _ => .f64
def FT.code : FT → Nat | .f16 => 0 | .bf16 => 1 | .f32 => 2 | .f64 => 3
def rmOf (n : Nat) : RMode := match n with | 0 => .rne | 1 => .rtz | 2 => .rup | _ => .rdn
def RMode.code : RMode → Nat | .rne => 0 | .rtz => 1 | .rup => 2 | .rdn => 3

def decFpA (w : Nat) : Dec Instr :=
  match fld w 9 2 with
  | 0 => withDAB w fun d a b => .ok (.fadd (ftOf (fld w 7 2)) d a b)
  | 1 => withDAB w fun d a b => .ok (.fsub (ftOf (fld w 7 2)) d a b)
  | 2 => withDAB w fun d a b => .ok (.fmul (ftOf (fld w 7 2)) d a b)
  | _ => withDAB w fun d a b => .ok (.fma (ftOf (fld w 7 2)) d a b)

def decFpAI (w : Nat) : Dec Instr :=
  match fld w 9 2 with
  | 0 => withDA w fun d a => .ok (.faddI (ftOf (fld w 7 2)) d a (imm7 w))
  | 1 => withDA w fun d a => .ok (.fsubI (ftOf (fld w 7 2)) d a (imm7 w))
  | 2 => withDA w fun d a => .ok (.fmulI (ftOf (fld w 7 2)) d a (imm7 w))
  | _ => withDA w fun d a => .ok (.fmaI (ftOf (fld w 7 2)) d a (imm7 w))

def decFpB (w : Nat) : Dec Instr :=
  match fld w 9 2 with
  | 0 => withDAB w fun d a b => .ok (.fmin (ftOf (fld w 7 2)) d a b)
  | 1 => withDAB w fun d a b => .ok (.fmax (ftOf (fld w 7 2)) d a b)
  | 2 => withDAB w fun d a b => .ok (.fdiv (ftOf (fld w 7 2)) d a b)
  | _ => withDAB w fun d a b => .ok (.fscale (ftOf (fld w 7 2)) d a b)

def decFpBI (w : Nat) : Dec Instr :=
  match fld w 9 2 with
  | 0 => withDA w fun d a => .ok (.fminI (ftOf (fld w 7 2)) d a (imm7 w))
  | 1 => withDA w fun d a => .ok (.fmaxI (ftOf (fld w 7 2)) d a (imm7 w))
  | 2 => withDA w fun d a => .ok (.fdivI (ftOf (fld w 7 2)) d a (imm7 w))
  | _ => withDA w fun d a => .ok (.fscaleI (ftOf (fld w 7 2)) d a (imm7 w))

def decFpC (w : Nat) : Dec Instr :=
  match fld w 9 2 with
  | 0 => withUnary w fun d a => .ok (.fsqrt (ftOf (fld w 7 2)) d a)
  | 1 => withUnary w fun d a => .ok (.frcp (ftOf (fld w 7 2)) d a)
  | 2 => withUnary w fun d a => .ok (.frsq (ftOf (fld w 7 2)) d a)
  | _ => withUnary w fun d a => .ok (.fclass (ftOf (fld w 7 2)) d a)

def decFpD (w : Nat) : Dec Instr :=
  match fld w 9 2 with
  | 0 => withUnary w fun d a => .ok (.fexp2 (ftOf (fld w 7 2)) d a)
  | 1 => withUnary w fun d a => .ok (.flog2 (ftOf (fld w 7 2)) d a)
  | 2 => withUnary w fun d a => .ok (.fsin (ftOf (fld w 7 2)) d a)
  | _ => withUnary w fun d a => .ok (.fcos (ftOf (fld w 7 2)) d a)

def decFrnd (w : Nat) : Dec Instr :=
  withUnary w fun d a => .ok (.frnd (rmOf (fld w 9 2)) (ftOf (fld w 7 2)) d a)

def condOf (n : Nat) : Cond :=
  match n with | 0 => .eq | 1 => .ne | 2 => .lt | 3 => .le | 4 => .gt | 5 => .ge | 6 => .un | _ => .ord
def Cond.code : Cond → Nat
  | .eq => 0 | .ne => 1 | .lt => 2 | .le => 3 | .gt => 4 | .ge => 5 | .un => 6 | .ord => 7
def ctOf (n : Nat) : CT := match n with | 0 => .i32 | 1 => .n32 | 2 => .i64 | _ => .n64
def CT.code : CT → Nat | .i32 => 0 | .n32 => 1 | .i64 => 2 | .n64 => 3

/-- CMP and FCMP (R83): d[14:11] is the mask, d[17:15] the condition; minors 0 to 3 and 8 to 11. -/
def decCmp (i : Bool) (w : Nat) : Dec Instr :=
  match Opd.ofCode (fld w 18 7) with
  | .error e => .error e
  | .ok a =>
    match (if i then Except.ok (Src.i (imm7 w)) else (Opd.ofCode (fld w 25 7)).map Src.r) with
    | .error e => .error e
    | .ok b =>
      match fld w 9 2 with
      | 0 => .ok (.cmp (ctOf (fld w 7 2)) (condOf (fld w 15 3)) (mreg (fld w 11 4)) a b)
      | 2 => .ok (.fcmp (ftOf (fld w 7 2)) (condOf (fld w 15 3)) (mreg (fld w 11 4)) a b)
      | _ => .error .minor

def iwOf (n : Nat) : IW := match n with | 0 => .w32 | _ => .w64
def IW.code : IW → Nat | .w32 => 0 | .w64 => 1

def decMov (w : Nat) : Dec Instr :=
  if fld w 8 3 = 0 then withUnary w fun d a => .ok (.mov (iwOf (fld w 7 1)) d a) else .error .minor

def decMovi (w : Nat) : Dec Instr :=
  if fld w 8 3 = 0 then
    if fld w 18 7 = 105 then
      match Dst.ofCode (fld w 11 7) with
      | .ok d => .ok (.movi (iwOf (fld w 7 1)) d (imm7 w))
      | .error e => .error e
    else .error .reserved
  else .error .minor

/-- Type codes of R79. -/
def tyOf (n : Nat) : Dec Ty :=
  match n with
  | 0 => .ok .i8 | 1 => .ok .i16 | 2 => .ok .i32 | 3 => .ok .i64 | 4 => .ok .n8 | 5 => .ok .n16 | 6 => .ok .n32
  | 7 => .ok .n64 | 8 => .ok .f16 | 9 => .ok .bf16 | 10 => .ok .f32 | 11 => .ok .f64 | 12 => .ok .e4m3
  | 13 => .ok .e5m2 | 14 => .ok .e3m2 | 15 => .ok .e2m3 | 16 => .ok .e2m1 | 17 => .ok .qn4 | 18 => .ok .ce16
  | _ => .error .operand
def Ty.code : Ty → Nat
  | .i8 => 0 | .i16 => 1 | .i32 => 2 | .i64 => 3 | .n8 => 4 | .n16 => 5 | .n32 => 6 | .n64 => 7 | .f16 => 8
  | .bf16 => 9 | .f32 => 10 | .f64 => 11 | .e4m3 => 12 | .e5m2 => 13 | .e3m2 => 14 | .e2m3 => 15 | .e2m1 => 16
  | .qn4 => 17 | .ce16 => 18

def withCvt (w : Nat) (k : Ty → Ty → Dst → Opd → Dec Instr) : Dec Instr :=
  match tyOf (fld w 7 5), tyOf (fld w 12 5), Dst.ofCode (fld w 18 7), Opd.ofCode (fld w 25 7) with
  | .ok t, .ok f, .ok d, .ok a => k t f d a
  | _, _, _, _ => .error .operand

def CvtMode.code : CvtMode → Nat | .dflt => 0 | .rne => 1 | .rtz => 2 | .rup => 3
def cvtModeOf (n : Nat) : CvtMode := match n with | 0 => .dflt | 1 => .rne | 2 => .rtz | _ => .rup

def pfOf (n : Nat) : Dec PackFmt :=
  match n with
  | 0 => .ok .e4m3 | 1 => .ok .e5m2 | 2 => .ok .e3m2 | 3 => .ok .e2m3 | 4 => .ok .e2m1 | 5 => .ok .qn4
  | _ => .error .operand
def PackFmt.code : PackFmt → Nat | .e4m3 => 0 | .e5m2 => 1 | .e3m2 => 2 | .e2m3 => 3 | .e2m1 => 4 | .qn4 => 5

def decPack (w : Nat) : Dec Instr :=
  match pfOf (fld w 8 3) with
  | .error e => .error e
  | .ok f =>
    if fld w 7 1 = 0 then withUnary w fun d a => .ok (.npack f d a) else withUnary w fun d a => .ok (.nunpk f d a)

def redOpOf (n : Nat) : Dec RedOp :=
  match n with
  | 0 => .ok .add | 1 => .ok .min | 2 => .ok .max | 3 => .ok .and | 4 => .ok .or | 5 => .ok .xor
  | _ => .error .operand
def RedOp.code : RedOp → Nat | .add => 0 | .min => 1 | .max => 2 | .and => 3 | .or => 4 | .xor => 5
def redTyOf (n : Nat) : Dec RedTy :=
  match n with
  | 2 => .ok .i32 | 3 => .ok .i64 | 6 => .ok .n32 | 7 => .ok .n64 | 10 => .ok .f32 | 11 => .ok .f64
  | _ => .error .operand
def RedTy.code : RedTy → Nat | .i32 => 2 | .i64 => 3 | .n32 => 6 | .n64 => 7 | .f32 => 10 | .f64 => 11

/-- WRED and WSCAN: b is the selector (R84). -/
def withRed (w : Nat) (k : RedOp → RedTy → Dst → Opd → Dec Instr) : Dec Instr :=
  match redOpOf (fld w 29 3), redTyOf (fld w 25 4) with
  | .ok o, .ok t => withDA w fun d a => k o t d a
  | _, _ => .error .operand

/-- VOTE: d[14:11] is the mask and d[17:15] is 0 (R138). -/
def withVote (w : Nat) (k : MReg → Opd → Instr) : Dec Instr :=
  if fld w 25 7 = 105 ∧ fld w 15 3 = 0 then
    match Opd.ofCode (fld w 18 7) with
    | .ok a => .ok (k (mreg (fld w 11 4)) a)
    | .error e => .error e
  else .error .reserved

def decXlane (w : Nat) : Dec Instr :=
  match fld w 7 4 with
  | 0 => withDAB w fun d a b => .ok (.shflIdx d a b)
  | 1 => withDAB w fun d a b => .ok (.shflUp d a b)
  | 2 => withDAB w fun d a b => .ok (.shflDown d a b)
  | 3 => withDAB w fun d a b => .ok (.shflXor d a b)
  | 4 => withDAB w fun d a b => .ok (.bcast d a b)
  | 5 => withVote w fun m a => .voteAll m a
  | 6 => withVote w fun m a => .voteAny m a
  | 7 => withVote w fun m a => .voteEq m a
  | 8 => withRed w fun o t d a => .ok (.wred o t d a)
  | 9 => withRed w fun o t d a => .ok (.wscan o t d a)
  | 10 =>
    if fld w 17 1 = 0 then
      match Opd.ofCode (fld w 18 7), Opd.ofCode (fld w 25 7) with
      | .ok a, .ok b => .ok (.movs (sreg (fld w 11 6)) a b)
      | _, _ => .error .operand
    else .error .operand
  | _ => .error .minor

/-- MASK (R84): d, a and b are mask numbers 0 to 15; MPOP and MFIRST write an S register. -/
def decMask (w : Nat) : Dec Instr :=
  let d := fld w 11 7
  let a := fld w 18 7
  let b := fld w 25 7
  if a ≤ 15 then
    match fld w 7 4 with
    | 0 => if d ≤ 15 ∧ b ≤ 15 then .ok (.mand (mreg d) (mreg a) (mreg b)) else .error .operand
    | 1 => if d ≤ 15 ∧ b ≤ 15 then .ok (.mor (mreg d) (mreg a) (mreg b)) else .error .operand
    | 2 => if d ≤ 15 ∧ b ≤ 15 then .ok (.mxor (mreg d) (mreg a) (mreg b)) else .error .operand
    | 3 => if d ≤ 15 ∧ b = 0 then .ok (.mnot (mreg d) (mreg a)) else .error .operand
    | 4 => if d ≤ 63 ∧ b = 0 then .ok (.mpop (sreg d) (mreg a)) else .error .operand
    | 5 => if d ≤ 63 ∧ b = 0 then .ok (.mfirst (sreg d) (mreg a)) else .error .operand
    | _ => .error .minor
  else .error .operand

/-- The S format (R74): V is legal in SSHR and SCMP only. -/
def withS3 (w : Nat) (v : Bool) (k : SReg → SReg → SReg → Instr) : Dec Instr :=
  zero? (if v then 0 else fld w 12 2) (k (sreg (fld w 14 6)) (sreg (fld w 20 6)) (sreg (fld w 26 6)))
def withSI (w : Nat) (v : Bool) (k : SReg → BitVec 12 → Instr) : Dec Instr :=
  zero? (if v then 0 else fld w 12 2) (k (sreg (fld w 14 6)) (imm12 w))

def scondOf (n : Nat) : SCond := match n with | 0 => .eq | 1 => .ne | 2 => .lt | _ => .le
def SCond.code : SCond → Nat | .eq => 0 | .ne => 1 | .lt => 2 | .le => 3

def decScalar (w : Nat) : Dec Instr :=
  let v := fld w 12 2
  if fld w 11 1 = 0 then
    match fld w 7 4 with
    | 0 => withS3 w false fun d a b => .sadd d a b
    | 1 => withS3 w false fun d a b => .ssub d a b
    | 2 => withS3 w false fun d a b => .smul d a b
    | 3 => withS3 w false fun d a b => .sand d a b
    | 4 => withS3 w false fun d a b => .sor d a b
    | 5 => withS3 w false fun d a b => .sxor d a b
    | 6 => withS3 w false fun d a b => .sshl d a b
    | 7 => if v ≤ 1 then withS3 w true fun d a b => .sshr (v == 1) d a b else .error .reserved
    | 8 => withS3 w true fun d a b => .scmp (scondOf v) d a b
    | 9 => if fld w 26 6 = 0 then withS3 w false fun d a _ => .smov d a else .error .reserved
    | 11 => if 2 ≤ v then withS3 w true fun d a b => .scmpU (v == 3) d a b else .error .reserved
    | _ => .error .minor
  else
    match fld w 7 4 with
    | 0 => withSI w false fun d i => .saddImm d i
    | 1 => withSI w false fun d i => .ssubImm d i
    | 2 => withSI w false fun d i => .smulImm d i
    | 3 => withSI w false fun d i => .sandImm d i
    | 4 => withSI w false fun d i => .sorImm d i
    | 5 => withSI w false fun d i => .sxorImm d i
    | 6 => withSI w false fun d i => .sshlImm d i
    | 7 => if v ≤ 1 then withSI w true fun d i => .sshrImm (v == 1) d i else .error .reserved
    | 8 => withSI w true fun d i => .scmpImm (scondOf v) d i
    | 10 => withSI w false fun d i => .smovi d i
    | 11 => if 2 ≤ v then withSI w true fun d i => .scmpUImm (v == 3) d i else .error .reserved
    | _ => .error .minor

/-- Size codes of R75. -/
def sizeOf? (n : Nat) : Dec MSize :=
  match n with
  | 0 => .ok .n8 | 1 => .ok .i8 | 2 => .ok .n16 | 3 => .ok .i16 | 4 => .ok .n32 | 5 => .ok .n64 | 6 => .ok .n128
  | _ => .error .operand
def MSize.code : MSize → Nat | .n8 => 0 | .i8 => 1 | .n16 => 2 | .i16 => 3 | .n32 => 4 | .n64 => 5 | .n128 => 6

def scopeOf (n : Nat) : Scope :=
  match n with
  | 0 => .wave | 1 => .team | 2 => .gang | 3 => .const | 4 => .die | 5 => .pkg | 6 => .domain | _ => .sys
def Scope.code : Scope → Nat
  | .wave => 0 | .team => 1 | .gang => 2 | .const => 3 | .die => 4 | .pkg => 5 | .domain => 6 | .sys => 7
def orderOf (n : Nat) : Order := match n with | 0 => .rlx | 1 => .acq | 2 => .rel | _ => .ar
def Order.code : Order → Nat | .rlx => 0 | .acq => 1 | .rel => 2 | .ar => 3

/-- The mode bit and O field (R75): in mode 1 the order is ACQ on loads and REL on stores. -/
def mmode? (w : Nat) (order : Nat) : Dec MMode :=
  if fld w 10 1 = 0 then .ok (.plain (imm7 w))
  else if fld w 30 2 = order ∧ fld w 25 2 = 0 then .ok (.ordered (scopeOf (fld w 27 3)))
  else .error .reserved

def withLoad (w : Nat) (k : MSize → MMode → Dst → Opd → Instr) : Dec Instr :=
  match sizeOf? (fld w 7 3), mmode? w 1, Dst.ofCode (fld w 11 7), Opd.ofCode (fld w 18 7) with
  | .ok z, .ok m, .ok d, .ok b => .ok (k z m d b)
  | _, _, _, _ => .error .operand
def withStore (w : Nat) (k : MSize → MMode → Opd → Opd → Instr) : Dec Instr :=
  match sizeOf? (fld w 7 3), mmode? w 2, Opd.ofCode (fld w 11 7), Opd.ofCode (fld w 18 7) with
  | .ok z, .ok m, .ok d, .ok b => .ok (k z m d b)
  | _, _, _, _ => .error .operand
/-- LDL, STL and LDK have mode 0 only (R75). -/
def withLoad0 (w : Nat) (k : MSize → BitVec 7 → Dst → Opd → Instr) : Dec Instr :=
  match sizeOf? (fld w 7 3), Dst.ofCode (fld w 11 7), Opd.ofCode (fld w 18 7) with
  | .ok z, .ok d, .ok b => zero? (fld w 10 1) (k z (imm7 w) d b)
  | _, _, _ => .error .operand
def withStore0 (w : Nat) (k : MSize → BitVec 7 → Opd → Opd → Instr) : Dec Instr :=
  match sizeOf? (fld w 7 3), Opd.ofCode (fld w 11 7), Opd.ofCode (fld w 18 7) with
  | .ok z, .ok d, .ok b => zero? (fld w 10 1) (k z (imm7 w) d b)
  | _, _, _ => .error .operand

/-- Operation codes of the atomic variant (R76). -/
def atomOpOf (n : Nat) : Dec AtomOp :=
  match n with
  | 0 => .ok .add | 1 => .ok .fadd | 2 => .ok .minI | 3 => .ok .minN | 4 => .ok .maxI | 5 => .ok .maxN
  | 6 => .ok .fmin | 7 => .ok .fmax | 8 => .ok .and | 9 => .ok .or | 10 => .ok .xor | 11 => .ok .xchg
  | 12 => .ok .cas | _ => .error .operand
def AtomOp.code : AtomOp → Nat
  | .add => 0 | .fadd => 1 | .minI => 2 | .minN => 3 | .maxI => 4 | .maxN => 5 | .fmin => 6 | .fmax => 7 | .and => 8
  | .or => 9 | .xor => 10 | .xchg => 11 | .cas => 12

def withAtom (w : Nat) (k : Order → Scope → IW → AtomOp → Opd → Opd → Instr) : Dec Instr :=
  match atomOpOf (fld w 7 4), Opd.ofCode (fld w 11 7), Opd.ofCode (fld w 18 7) with
  | .ok p, .ok d, .ok b =>
    zero? (fld w 26 1) (k (orderOf (fld w 30 2)) (scopeOf (fld w 27 3)) (iwOf (fld w 25 1)) p d b)
  | _, _, _ => .error .operand

/-- SLDG (R85): size code 4 or 5; I, V and b are 0. -/
def decSldg (w : Nat) : Dec Instr :=
  if fld w 8 3 = 2 then
    if fld w 11 3 = 0 ∧ fld w 26 6 = 0 then .ok (.sldg (iwOf (fld w 7 1)) (sreg (fld w 14 6)) (sreg (fld w 20 6)))
    else .error .reserved
  else .error .operand

def pfLevelOf (n : Nat) : Dec PfLevel :=
  match n with | 0 => .ok .l1 | 1 => .ok .const | 2 => .ok .die | _ => .error .operand
def PfLevel.code : PfLevel → Nat | .l1 => 0 | .const => 1 | .die => 2

def decPrefg (w : Nat) : Dec Instr :=
  match pfLevelOf (fld w 11 7), Opd.ofCode (fld w 18 7) with
  | .ok v, .ok b => zero? (fld w 7 4) (.prefg v (imm7 w) b)
  | _, _ => .error .operand

def decTags (w : Nat) : Dec Instr :=
  match fld w 7 4 with
  | 0 => withUnary w fun d a => .ok (.tlook d a)
  | 1 => withDAB w fun d a b => .ok (.tset d a b)
  | 2 => withUnary w fun d a => .ok (.tevict d a)
  | _ => .error .minor

/-- CTRL (R86): k and the fields the table gives as 0 must be 0. -/
def decCtrl (w : Nat) : Dec Instr :=
  let x := fld w 11 6
  let i := fld w 20 12
  if fld w 17 3 = 0 then
    match fld w 7 4 with
    | 0 => zero? x (.bra (imm12 w))
    | 1 => if x ≤ 15 then .ok (.brd (mreg x) (imm12 w)) else .error .operand
    | 2 => .ok (.call (sreg x) (imm12 w))
    | 3 => if x ≤ 15 then zero? i (.rjoinW (mreg x)) else .error .operand
    | 4 => zero? (x + i) .yieldW
    | 5 => zero? (x + i) .exit
    | 6 => zero? (x + i) .nopW
    | 7 => zero? x (.brk (imm12 w))
    | 8 => zero? x (.reform (imm12 w))
    | _ => .error .minor
  else .error .reserved

/-- CTRLX (R86): bit [17] is the link bit of FJMP. -/
def decCtrlx (w : Nat) : Dec Instr :=
  let x := fld w 11 6
  let i := fld w 20 12
  match fld w 7 4 with
  | 0 => zero? (fld w 17 15) (.jmpi (sreg x))
  | 1 => zero? (fld w 18 2) (.fjmp (fld w 17 1 == 1) (sreg x) (imm12 w))
  | 2 => zero? (fld w 17 15) (.ret (sreg x))
  | 3 => zero? (fld w 17 3 + fld w 23 9) (.cfetch (Fin.ofNat 8 (i % 8)) (sreg x))
  | _ => .error .minor

/-- The X format (R77): opt, Sc, Sb, Sa. -/
structure XF where
  opt : Nat
  c : Nat
  b : Nat
  a : Nat

def xf (w : Nat) : XF := ⟨fld w 29 3, fld w 23 6, fld w 17 6, fld w 11 6⟩

def hkindOf (n : Nat) : Dec HKind :=
  match n with
  | 2 => .ok .gang | 3 => .ok .const | 4 => .ok .die | 5 => .ok .pkg | 6 => .ok .domain | _ => .error .operand
def HKind.code : HKind → Nat | .gang => 2 | .const => 3 | .die => 4 | .pkg => 5 | .domain => 6
def FenceOrder.code : FenceOrder → Nat | .acq => 1 | .rel => 2 | .ar => 3

def decSync (w : Nat) : Dec Instr :=
  let x := xf w
  match fld w 7 4 with
  | 0 =>
    if x.a ≤ 7 then
      match x.opt with
      | 1 => zero? (x.c + x.b) (.fence .acq (scopeOf x.a))
      | 2 => zero? (x.c + x.b) (.fence .rel (scopeOf x.a))
      | 3 => zero? (x.c + x.b) (.fence .ar (scopeOf x.a))
      | _ => .error .reserved
    else .error .operand
  | 1 => match hkindOf x.a with
    | .ok k => zero? (x.opt + x.b) (.scope k (sreg x.c))
    | .error e => .error e
  | 2 => zero? (x.opt + x.b) (.scopeq (sreg x.c) (sreg x.a))
  | 3 => zero? (x.opt + x.b) (.scopefz (sreg x.c) (sreg x.a))
  | 4 => zero? (x.opt + x.b) (.scopeth (sreg x.c) (sreg x.a))
  | _ => .error .minor

def decBarrier (w : Nat) : Dec Instr :=
  let x := xf w
  match fld w 7 4 with
  | 0 => zero? (x.opt + x.c + x.b) (.bar (sreg x.a))
  | 1 => match hkindOf x.opt with
    | .ok k => .ok (.bara k (sreg x.c) (sreg x.b) (sreg x.a))
    | .error e => .error e
  | 2 => match hkindOf x.opt with
    | .ok k => .ok (.barw k (sreg x.c) (sreg x.b) (sreg x.a))
    | .error e => .error e
  | 3 => zero? (x.opt + x.c) (.waitf (BitVec.ofNat 6 x.b) (BitVec.ofNat 6 x.a))
  | 4 => if x.opt ≤ 1 then zero? (x.c + x.b) (.sleept (x.opt == 1) (sreg x.a)) else .error .reserved
  | _ => .error .minor

def decSpool (w : Nat) : Dec Instr :=
  let x := xf w
  match fld w 7 4 with
  | 0 => if x.opt ≤ 1 then zero? x.c (.spinit (x.opt == 1) (sreg x.b) (sreg x.a)) else .error .reserved
  | 1 => zero? x.opt (.spush (sreg x.c) (sreg x.b) (sreg x.a))
  | 2 => zero? x.opt (.spop (sreg x.c) (sreg x.b) (sreg x.a))
  | 3 => match x.opt with
    | 0 => .ok (.sptryPop (sreg x.c) (sreg x.b) (sreg x.a))
    | 1 => .ok (.sptryPush (sreg x.c) (sreg x.b) (sreg x.a))
    | _ => .error .reserved
  | 4 => if x.opt ≤ 1 then zero? x.b (.msend (x.opt == 1) (sreg x.c) (sreg x.a)) else .error .reserved
  | 5 => zero? x.opt (.mrecv (sreg x.c) (sreg x.b) (sreg x.a))
  | _ => .error .minor

def layoutOf (n : Nat) : Dec Layout :=
  match n with | 0 => .ok .ce16 | 1 => .ok .cf32 | 2 => .ok .cf64 | _ => .error .reserved
def Layout.code : Layout → Nat | .ce16 => 0 | .cf32 => 1 | .cf64 => 2
def zsrcOf (n : Nat) : Dec ZSrc :=
  match n with | 0 => .ok .scratch | 1 => .ok .own | 2 => .ok .peer | _ => .error .reserved
def ZSrc.code : ZSrc → Nat | .scratch => 0 | .own => 1 | .peer => 2

def decMatrix (w : Nat) : Dec Instr :=
  let x := xf w
  match fld w 7 4 with
  | 0 => match x.opt with
    | 0 => zero? (x.c + x.b) (.mloopOpen (sreg x.a))
    | 1 => zero? (x.c + x.b + x.a) .mloopClose
    | _ => .error .reserved
  | 1 => match layoutOf x.opt with
    | .ok y => .ok (.mma y (sreg x.c) (sreg x.b) (sreg x.a))
    | .error e => .error e
  | 2 => match layoutOf x.opt with
    | .ok y => .ok (.mmag y (sreg x.c) (sreg x.b) (sreg x.a))
    | .error e => .error e
  | 3 => if x.opt ≤ 3 then zero? (x.c + x.b) (.mzero (x.opt % 2 == 1) (2 ≤ x.opt) (sreg x.a)) else .error .reserved
  | 4 => match zsrcOf (x.opt % 4) with
    | .ok s => .ok (.mloadz s (4 ≤ x.opt) (sreg x.c) (sreg x.b) (sreg x.a))
    | .error e => .error e
  | 5 => zero? x.opt (.mdrain (sreg x.c) (sreg x.b) (sreg x.a))
  | _ => .error .minor

def decSeam (w : Nat) : Dec Instr :=
  let x := xf w
  match fld w 7 4 with
  | 0 => zero? (x.opt + x.b) (.mseam (sreg x.c) (sreg x.a))
  | 1 => zero? (x.opt + x.b) (.mseamloc (sreg x.c) (sreg x.a))
  | 2 => zero? (x.opt + x.b) (.mseamfix (sreg x.c) (sreg x.a))
  | 3 => if x.opt ≤ 1 then zero? x.b (.mflags (x.opt == 1) (sreg x.c) (sreg x.a)) else .error .reserved
  | 4 => if x.opt ≤ 1 then zero? (x.b + x.a) (.merrq (x.opt == 1) (sreg x.c)) else .error .reserved
  | _ => .error .minor

/-- Tile copies (R199): Sa names a group of four S registers. -/
def decTile (w : Nat) : Dec Instr :=
  let x := xf w
  if x.a % 4 = 0 then
    let g : Fin 16 := Fin.ofNat 16 (x.a / 4)
    match fld w 7 4 with
    | 0 => if x.opt ≤ 1 then .ok (.tcopy (x.opt == 1) (sreg x.c) (sreg x.b) g) else .error .reserved
    | 1 => zero? x.opt (.tgather (sreg x.c) (sreg x.b) g)
    | 2 => zero? x.opt (.tscat (sreg x.c) (sreg x.b) g)
    | 3 => if x.opt ≤ 1 then .ok (.tstore (x.opt == 1) (sreg x.c) (sreg x.b) g) else .error .reserved
    | 4 => zero? (x.opt + x.c) (.tloadv (sreg x.b) g)
    | _ => .error .minor
  else .error .operand

def decJobs (w : Nat) : Dec Instr :=
  let x := xf w
  match fld w 7 4 with
  | 0 => zero? (x.opt + x.c) (.job (sreg x.b) (sreg x.a))
  | 1 => zero? x.b (.jseq (scopeOf x.opt) (sreg x.c) (sreg x.a))
  | 2 => zero? x.opt (.enq (sreg x.c) (sreg x.b) (sreg x.a))
  | _ => .error .minor

def decFinish (w : Nat) : Dec Instr :=
  let x := xf w
  match fld w 7 4 with
  | 0 => zero? (x.opt + x.b) (.fsopen (sreg x.c) (sreg x.a))
  | 1 => zero? (x.opt + x.c + x.b) (.fsclose (sreg x.a))
  | 2 => if x.opt ≤ 1 then .ok (.fswait (x.opt == 1) (sreg x.c) (sreg x.b) (sreg x.a)) else .error .reserved
  | 3 => zero? (x.opt + x.c + x.b) (.fscancel (sreg x.a))
  | 4 => zero? (x.opt + x.b) (.fsq (sreg x.c) (sreg x.a))
  | _ => .error .minor

def decCapsule (w : Nat) : Dec Instr :=
  let x := xf w
  match fld w 7 4 with
  | 0 => if x.opt ≤ 1 then zero? x.b (.capb (x.opt == 1) (sreg x.c) (sreg x.a)) else .error .reserved
  | 1 => zero? (x.opt + x.c + x.b + x.a) .cstep
  | 2 => zero? (x.opt + x.c + x.b + x.a) .cape
  | 3 => if x.opt ≤ 1 then zero? x.b (.capadopt (x.opt == 1) (sreg x.c) (sreg x.a)) else .error .reserved
  | 4 => zero? (x.opt + x.b) (.capq (sreg x.c) (sreg x.a))
  | _ => .error .minor

def decHem (w : Nat) : Dec Instr :=
  let x := xf w
  match fld w 7 4 with
  | 0 => zero? (x.opt + x.c + x.b) (.hemo (sreg x.a))
  | 1 => zero? (x.opt + x.c + x.b + x.a) .hemc
  | _ => .error .minor

def decSystem (w : Nat) : Dec Instr :=
  let x := xf w
  match fld w 7 4 with
  | 0 => match x.opt with
    | 0 => zero? (x.c + x.b + x.a) .tretNext
    | 1 => zero? (x.c + x.b + x.a) .tretSame
    | 2 => zero? (x.c + x.b + x.a) .tretRegion
    | _ => .error .reserved
  | 1 => match x.opt with
    | 0 => zero? x.a (.movxR (sreg x.c) (sreg x.b))
    | 1 => zero? x.c (.movxW (sreg x.b) (sreg x.a))
    | 2 => zero? (x.c + x.b) (.movxDst (sreg x.a))
    | _ => .error .reserved
  | 2 => zero? (x.opt + x.b + x.a) (.rdtime (sreg x.c))
  | 3 => zero? (x.opt + x.c) (.trapi (BitVec.ofNat 6 x.b) (BitVec.ofNat 6 x.a))
  | 4 => zero? (x.opt + x.b) (.perfq (sreg x.c) (sreg x.a))
  | _ => .error .minor

def decClause (w : Nat) : Dec Instr :=
  .ok (.clause (fld w 31 1 == 1) (mreg (fld w 27 4)) (mreg (fld w 23 4)) (mreg (fld w 19 4))
    (BitVec.ofNat 12 (fld w 7 12)))

/-- The 32-bit words, by major opcode (R80). -/
def decode32Raw (w : Nat) : Dec Instr :=
  match fld w 1 6 with
  | 1 => decIntA .w32 false w
  | 2 => decIntB32 false w
  | 3 => decIntA .w64 false w
  | 4 => decIntB64T w
  | 5 => decIntA .w32 true w
  | 6 => decIntB32 true w
  | 7 => decIntA .w64 true w
  | 8 => decIntB64I w
  | 9 => decFpA w
  | 10 => decFpB w
  | 11 => decFpC w
  | 12 => decFpD w
  | 13 => decFrnd w
  | 14 => decFpAI w
  | 15 => decFpBI w
  | 16 => decCmp false w
  | 17 => decCmp true w
  | 18 => decMov w
  | 19 => decMovi w
  | 20 => withDAB w fun d a b => .ok (.sel (mreg (fld w 7 4)) d a b)
  | 21 => withDAB w fun d a b => .ok (.sel64 (mreg (fld w 7 4)) d a b)
  | 22 => withCvt w fun t f d a => .ok (.cvt (cvtModeOf (fld w 17 1)) t f d a)
  | 23 => withCvt w fun t f d a => .ok (.cvt (cvtModeOf (2 + fld w 17 1)) t f d a)
  | 24 => if fld w 17 1 = 0 then withCvt w fun t f d a => .ok (.cvtRdn t f d a) else .error .reserved
  | 25 => decPack w
  | 26 => decXlane w
  | 27 => decMask w
  | 28 => decScalar w
  | 29 => decSync w
  | 30 => decBarrier w
  | 31 => decSpool w
  | 32 => withLoad w fun z m d b => .ldg z m d b
  | 33 => withStore w fun z m d b => .stg z m d b
  | 34 => withAtom w fun o s iw p d b => .atomg o s iw p d b
  | 35 => withAtom w fun o s iw p d b => .redg o s iw p d b
  | 36 => withLoad w fun z m d b => .lds z m d b
  | 37 => withStore w fun z m d b => .sts z m d b
  | 38 => withAtom w fun o s iw p d b => .atoms o s iw p d b
  | 39 => withLoad w fun z m d b => .ldp z m d b
  | 40 => withStore w fun z m d b => .stp z m d b
  | 41 => withAtom w fun o s iw p d b => .atomp o s iw p d b
  | 42 => withLoad0 w fun z o d b => .ldl z o d b
  | 43 => withStore0 w fun z o d b => .stl z o d b
  | 44 => withLoad0 w fun z o d b => .ldk z o d b
  | 45 => decSldg w
  | 46 => decPrefg w
  | 47 => decTags w
  | 48 => decCtrl w
  | 49 => decCtrlx w
  | 50 => decMatrix w
  | 51 => decSeam w
  | 52 => decTile w
  | 53 => decJobs w
  | 54 => decFinish w
  | 55 => decCapsule w
  | 56 => decHem w
  | 57 => decSystem w
  | 62 => .ok (.ext (BitVec.ofNat 25 (fld w 7 25)))
  | 63 => decClause w
  | _ => .error .major

/-- The H format (R71). -/
def decode16Raw (h : Nat) : Dec Instr :=
  let d := HReg.ofCode (fld h 5 5)
  let s : HSrc := if fld h 15 1 = 0 then .r (HReg.ofCode (fld h 10 5)) else .i (BitVec.ofNat 5 (fld h 10 5))
  match fld h 1 4 with
  | 0 => .ok (.movH d s)
  | 1 => .ok (.addH d s)
  | 2 => .ok (.subH d s)
  | 3 => .ok (.mulH d s)
  | 4 => .ok (.andH d s)
  | 5 => .ok (.orH d s)
  | 6 => .ok (.xorH d s)
  | 7 => .ok (.shlH d s)
  | 8 => .ok (.shrNH d s)
  | 9 => .ok (.faddH d s)
  | 10 => .ok (.fmulH d s)
  | 11 => .ok (.fmaH d s)
  | 12 => .ok (.fmaxH d s)
  | 13 => .ok (.fminH d s)
  | 14 => .ok (.cvtF32I32H d s)
  | _ =>
    if fld h 15 1 = 0 then
      match fld h 10 5 with
      | 0 => zero? (fld h 5 5) .nop
      | 1 => zero? (fld h 5 5) .yield
      | 2 => if fld h 5 5 ≤ 15 then .ok (.rjoin (mreg (fld h 5 5))) else .error .operand
      | _ => .error .minor
    else .error .minor

/-- What a decoder finds must be well formed (R88). -/
def checked (r : Dec Instr) : Dec Instr :=
  match r with
  | .ok i => if i.wf then .ok i else .error .illFormed
  | .error e => .error e

/-- The halfword 0x0000 is no instruction (R63). -/
def decode16 (h : Nat) : Dec Instr := if h = 0 then .error .major else checked (decode16Raw h)
def decode32 (w : Nat) : Dec Instr := checked (decode32Raw w)

/-- Bit 0 of the first halfword gives the length (R62). -/
def decodeHalves (h : Nat) (h2 : Option Nat) : Dec Instr :=
  if h % 2 = 0 then decode16 h
  else
    match h2 with
    | some u => decode32 (h + u * 65536)
    | none => .error .short

/-- One instruction from the front of a list of bytes, with the rest of the list. -/
def decodeBytes : List Byte → Dec (Instr × List Byte)
  | b0 :: b1 :: rest =>
    let h := b0.toNat + b1.toNat * 256
    if h % 2 = 0 then (decode16 h).map fun i => (i, rest)
    else
      match rest with
      | b2 :: b3 :: rest' => (decode32 (h + (b2.toNat + b3.toNat * 256) * 65536)).map fun i => (i, rest')
      | _ => .error .short
  | _ => .error .short

/-- The bytes of a word of `n` bytes, least significant first (R62). -/
def wordBytes : (n w : Nat) → List Byte
  | 0, _ => []
  | n + 1, w => BitVec.ofNat 8 (w % 256) :: wordBytes n (w / 256)

/-- What the decoder reads from an instruction whose bits are `w`, numbered from the least significant bit of its first
halfword; every bit above `nbits` is 0. -/
def decodeTableWord (nbits w : Nat) : Option Instr :=
  match decodeBytes (wordBytes 8 (w % 2 ^ nbits)) with
  | .ok (i, _) => some i
  | .error _ => none

/-- The fields common to every 32-bit word: major and length bit (R62). -/
def wMaj (major : Nat) : Nat := major * 2 + 1
/-- T and I formats (R72). -/
def wT (major minor d a b : Nat) : Nat := b * 2 ^ 25 + a * 2 ^ 18 + d * 2 ^ 11 + minor * 2 ^ 7 + wMaj major
/-- S format (R74). -/
def wS (op i v d a b : Nat) : Nat :=
  b * 2 ^ 26 + a * 2 ^ 20 + d * 2 ^ 14 + v * 2 ^ 12 + i * 2 ^ 11 + op * 2 ^ 7 + wMaj 28
def wSI (op v d i : Nat) : Nat := i * 2 ^ 20 + d * 2 ^ 14 + v * 2 ^ 12 + 2 ^ 11 + op * 2 ^ 7 + wMaj 28
/-- M format (R75). -/
def wM (major size mode d base o : Nat) : Nat :=
  o * 2 ^ 25 + base * 2 ^ 18 + d * 2 ^ 11 + mode * 2 ^ 10 + size * 2 ^ 7 + wMaj major
/-- The atomic variant (R76). -/
def wA (major order scope sz base d op : Nat) : Nat :=
  order * 2 ^ 30 + scope * 2 ^ 27 + sz * 2 ^ 25 + base * 2 ^ 18 + d * 2 ^ 11 + op * 2 ^ 7 + wMaj major
/-- X format (R77). -/
def wX (major minor opt c b a : Nat) : Nat :=
  opt * 2 ^ 29 + c * 2 ^ 23 + b * 2 ^ 17 + a * 2 ^ 11 + minor * 2 ^ 7 + wMaj major
/-- B format (R78). -/
def wB (major minor k x i : Nat) : Nat := i * 2 ^ 20 + k * 2 ^ 17 + x * 2 ^ 11 + minor * 2 ^ 7 + wMaj major
/-- CVT layout (R79). -/
def wCvt (major r to_ from_ d a : Nat) : Nat :=
  a * 2 ^ 25 + d * 2 ^ 18 + r * 2 ^ 17 + from_ * 2 ^ 12 + to_ * 2 ^ 7 + wMaj major
/-- H format (R71). -/
def wH (op i s d : Nat) : Nat := i * 2 ^ 15 + s * 2 ^ 10 + d * 2 ^ 5 + op * 2

def Src.code : Src → Nat
  | .r o => o.code
  | .i v => v.toNat
/-- 0 for a register last source (T form), 1 for an immediate (I form). -/
def Src.form : Src → Nat
  | .r _ => 0
  | .i _ => 1
def HSrc.code : HSrc → Nat
  | .r h => h.code
  | .i v => v.toNat
def HSrc.form : HSrc → Nat
  | .r _ => 0
  | .i _ => 1
def MMode.code (order : Nat) : MMode → Nat
  | .plain o => o.toNat
  | .ordered s => order * 2 ^ 5 + s.code * 2 ^ 2
def MMode.bit : MMode → Nat
  | .plain _ => 0
  | .ordered _ => 1

/-- The word of table A (R81, R115): the major is 0x01, 0x03, 0x05 or 0x07. -/
def eA (minor : Nat) (w : IW) (d : Dst) (a : Opd) (b : Src) : Nat :=
  wT (1 + 2 * w.code + 4 * b.form) minor d.code a.code b.code
/-- Table B, 32-bit: major 0x02 or 0x06. -/
def eB (minor : Nat) (d : Dst) (a : Opd) (b : Src) : Nat := wT (2 + 4 * b.form) minor d.code a.code b.code
def eBT (minor : Nat) (d : Dst) (a b : Opd) : Nat := wT 4 minor d.code a.code b.code
def eBI (minor : Nat) (d : Dst) (a : Opd) (i : BitVec 7) : Nat := wT 8 minor d.code a.code i.toNat
/-- Floating point: minor [10:9] the operation, [8:7] the type (R82). -/
def eF (major op : Nat) (t : FT) (d : Dst) (a : Opd) (b : Nat) : Nat := wT major (op * 4 + t.code) d.code a.code b

/-- The word of an instruction and its length in bytes; events have none. -/
def encode : Instr → Nat × Nat
  | .clause e x sb sa w => (4, (b2n e) * 2 ^ 31 + x.val * 2 ^ 27 + sb.val * 2 ^ 23 + sa.val * 2 ^ 19 + w.toNat * 2 ^ 7 + wMaj 63)
  | .ext p => (4, p.toNat * 2 ^ 7 + wMaj 62)
  | .add w d a b => (4, eA 0 w d a b)
  | .sub w d a b => (4, eA 1 w d a b)
  | .mul w d a b => (4, eA 2 w d a b)
  | .mulhI w d a b => (4, eA 3 w d a b)
  | .mulhN w d a b => (4, eA 4 w d a b)
  | .minI w d a b => (4, eA 5 w d a b)
  | .minN w d a b => (4, eA 6 w d a b)
  | .maxI w d a b => (4, eA 7 w d a b)
  | .maxN w d a b => (4, eA 8 w d a b)
  | .and w d a b => (4, eA 9 w d a b)
  | .or w d a b => (4, eA 10 w d a b)
  | .xor w d a b => (4, eA 11 w d a b)
  | .shl w d a b => (4, eA 12 w d a b)
  | .shrN w d a b => (4, eA 13 w d a b)
  | .shrI w d a b => (4, eA 14 w d a b)
  | .rot w d a b => (4, eA 15 w d a b)
  | .divI d a b => (4, eB 0 d a b)
  | .divIT64 d a b => (4, eBT 0 d a b)
  | .divII64 d a i => (4, eBI 0 d a i)
  | .divN d a b => (4, eB 1 d a b)
  | .divNT64 d a b => (4, eBT 1 d a b)
  | .divNI64 d a i => (4, eBI 1 d a i)
  | .remI d a b => (4, eB 2 d a b)
  | .remIT64 d a b => (4, eBT 2 d a b)
  | .remII64 d a i => (4, eBI 2 d a i)
  | .remN d a b => (4, eB 3 d a b)
  | .remNT64 d a b => (4, eBT 3 d a b)
  | .remNI64 d a i => (4, eBI 3 d a i)
  | .addcN d a b => (4, eB 4 d a b)
  | .addcNT64 d a b => (4, eBT 4 d a b)
  | .addcNI64 d a i => (4, eBI 4 d a i)
  | .mad d a b => (4, eB 5 d a b)
  | .madT64 d a b => (4, eBT 5 d a b)
  | .madI64 d a i => (4, eBI 5 d a i)
  | .neg d a => (4, wT 2 6 d.code a.code 105)
  | .neg64 d a => (4, wT 4 6 d.code a.code 105)
  | .abs d a => (4, wT 2 7 d.code a.code 105)
  | .abs64 d a => (4, wT 4 7 d.code a.code 105)
  | .not d a => (4, wT 2 8 d.code a.code 105)
  | .not64 d a => (4, wT 4 8 d.code a.code 105)
  | .popc d a => (4, wT 2 9 d.code a.code 105)
  | .popc64 d a => (4, wT 4 9 d.code a.code 105)
  | .clz d a => (4, wT 2 10 d.code a.code 105)
  | .clz64 d a => (4, wT 4 10 d.code a.code 105)
  | .brev d a => (4, wT 2 11 d.code a.code 105)
  | .brev64 d a => (4, wT 4 11 d.code a.code 105)
  | .bfxN d a b => (4, eB 12 d a b)
  | .bfxNT64 d a b => (4, eBT 12 d a b)
  | .bfxNI64 d a i => (4, eBI 12 d a i)
  | .bfxI d a b => (4, eB 13 d a b)
  | .bfxIT64 d a b => (4, eBT 13 d a b)
  | .bfxII64 d a i => (4, eBI 13 d a i)
  | .bfi d a b => (4, eB 14 d a b)
  | .bfiT64 d a b => (4, eBT 14 d a b)
  | .bfiI64 d a i => (4, eBI 14 d a i)
  | .padd d a b => (4, eBT 15 d a b)
  | .paddI d a i => (4, eBI 15 d a i)
  | .fadd t d a b => (4, eF 9 0 t d a b.code)
  | .faddI t d a i => (4, eF 14 0 t d a i.toNat)
  | .fsub t d a b => (4, eF 9 1 t d a b.code)
  | .fsubI t d a i => (4, eF 14 1 t d a i.toNat)
  | .fmul t d a b => (4, eF 9 2 t d a b.code)
  | .fmulI t d a i => (4, eF 14 2 t d a i.toNat)
  | .fma t d a b => (4, eF 9 3 t d a b.code)
  | .fmaI t d a i => (4, eF 14 3 t d a i.toNat)
  | .fmin t d a b => (4, eF 10 0 t d a b.code)
  | .fminI t d a i => (4, eF 15 0 t d a i.toNat)
  | .fmax t d a b => (4, eF 10 1 t d a b.code)
  | .fmaxI t d a i => (4, eF 15 1 t d a i.toNat)
  | .fdiv t d a b => (4, eF 10 2 t d a b.code)
  | .fdivI t d a i => (4, eF 15 2 t d a i.toNat)
  | .fscale t d a b => (4, eF 10 3 t d a b.code)
  | .fscaleI t d a i => (4, eF 15 3 t d a i.toNat)
  | .fsqrt t d a => (4, eF 11 0 t d a 105)
  | .frcp t d a => (4, eF 11 1 t d a 105)
  | .frsq t d a => (4, eF 11 2 t d a 105)
  | .fclass t d a => (4, eF 11 3 t d a 105)
  | .fexp2 t d a => (4, eF 12 0 t d a 105)
  | .flog2 t d a => (4, eF 12 1 t d a 105)
  | .fsin t d a => (4, eF 12 2 t d a 105)
  | .fcos t d a => (4, eF 12 3 t d a 105)
  | .frnd m t d a => (4, eF 13 m.code t d a 105)
  | .cmp t c m a b => (4, wT (16 + b.form) t.code (c.code * 16 + m.val) a.code b.code)
  | .fcmp t c m a b => (4, wT (16 + b.form) (8 + t.code) (c.code * 16 + m.val) a.code b.code)
  | .mov w d a => (4, wT 18 w.code d.code a.code 105)
  | .movi w d i => (4, wT 19 w.code d.code 105 i.toNat)
  | .sel x d a b => (4, wT 20 x.val d.code a.code b.code)
  | .sel64 x d a b => (4, wT 21 x.val d.code a.code b.code)
  | .cvt m t f d a => (4, wCvt (22 + m.code / 2) (m.code % 2) t.code f.code d.code a.code)
  | .cvtRdn t f d a => (4, wCvt 24 0 t.code f.code d.code a.code)
  | .npack f d a => (4, wT 25 (f.code * 2) d.code a.code 105)
  | .nunpk f d a => (4, wT 25 (f.code * 2 + 1) d.code a.code 105)
  | .shflIdx d a b => (4, wT 26 0 d.code a.code b.code)
  | .shflUp d a b => (4, wT 26 1 d.code a.code b.code)
  | .shflDown d a b => (4, wT 26 2 d.code a.code b.code)
  | .shflXor d a b => (4, wT 26 3 d.code a.code b.code)
  | .bcast d a b => (4, wT 26 4 d.code a.code b.code)
  | .voteAll m a => (4, wT 26 5 m.val a.code 105)
  | .voteAny m a => (4, wT 26 6 m.val a.code 105)
  | .voteEq m a => (4, wT 26 7 m.val a.code 105)
  | .wred o t d a => (4, wT 26 8 d.code a.code (o.code * 16 + t.code))
  | .wscan o t d a => (4, wT 26 9 d.code a.code (o.code * 16 + t.code))
  | .movs s a b => (4, wT 26 10 s.val a.code b.code)
  | .mand d a b => (4, wT 27 0 d.val a.val b.val)
  | .mor d a b => (4, wT 27 1 d.val a.val b.val)
  | .mxor d a b => (4, wT 27 2 d.val a.val b.val)
  | .mnot d a => (4, wT 27 3 d.val a.val 0)
  | .mpop d a => (4, wT 27 4 d.val a.val 0)
  | .mfirst d a => (4, wT 27 5 d.val a.val 0)
  | .sadd d a b => (4, wS 0 0 0 d.val a.val b.val)
  | .saddImm d i => (4, wSI 0 0 d.val i.toNat)
  | .ssub d a b => (4, wS 1 0 0 d.val a.val b.val)
  | .ssubImm d i => (4, wSI 1 0 d.val i.toNat)
  | .smul d a b => (4, wS 2 0 0 d.val a.val b.val)
  | .smulImm d i => (4, wSI 2 0 d.val i.toNat)
  | .sand d a b => (4, wS 3 0 0 d.val a.val b.val)
  | .sandImm d i => (4, wSI 3 0 d.val i.toNat)
  | .sor d a b => (4, wS 4 0 0 d.val a.val b.val)
  | .sorImm d i => (4, wSI 4 0 d.val i.toNat)
  | .sxor d a b => (4, wS 5 0 0 d.val a.val b.val)
  | .sxorImm d i => (4, wSI 5 0 d.val i.toNat)
  | .sshl d a b => (4, wS 6 0 0 d.val a.val b.val)
  | .sshlImm d i => (4, wSI 6 0 d.val i.toNat)
  | .sshr v d a b => (4, wS 7 0 (b2n v) d.val a.val b.val)
  | .sshrImm v d i => (4, wSI 7 (b2n v) d.val i.toNat)
  | .scmp c d a b => (4, wS 8 0 c.code d.val a.val b.val)
  | .scmpImm c d i => (4, wSI 8 c.code d.val i.toNat)
  | .scmpU v d a b => (4, wS 11 0 (2 + b2n v) d.val a.val b.val)
  | .scmpUImm v d i => (4, wSI 11 (2 + b2n v) d.val i.toNat)
  | .smov d a => (4, wS 9 0 0 d.val a.val 0)
  | .smovi d i => (4, wSI 10 0 d.val i.toNat)
  | .ldg z m d b => (4, wM 32 z.code m.bit d.code b.code (m.code 1))
  | .stg z m d b => (4, wM 33 z.code m.bit d.code b.code (m.code 2))
  | .lds z m d b => (4, wM 36 z.code m.bit d.code b.code (m.code 1))
  | .sts z m d b => (4, wM 37 z.code m.bit d.code b.code (m.code 2))
  | .ldp z m d b => (4, wM 39 z.code m.bit d.code b.code (m.code 1))
  | .stp z m d b => (4, wM 40 z.code m.bit d.code b.code (m.code 2))
  | .sldg w d a => (4, wS (4 + w.code) 0 0 d.val a.val 0 + 17 * 2)
  | .prefg v o b => (4, wM 46 0 0 v.code b.code o.toNat)
  | .ldl z o d b => (4, wM 42 z.code 0 d.code b.code o.toNat)
  | .stl z o d b => (4, wM 43 z.code 0 d.code b.code o.toNat)
  | .ldk z o d b => (4, wM 44 z.code 0 d.code b.code o.toNat)
  | .atomg o s w p d b => (4, wA 34 o.code s.code w.code b.code d.code p.code)
  | .redg o s w p d b => (4, wA 35 o.code s.code w.code b.code d.code p.code)
  | .atoms o s w p d b => (4, wA 38 o.code s.code w.code b.code d.code p.code)
  | .atomp o s w p d b => (4, wA 41 o.code s.code w.code b.code d.code p.code)
  | .tlook d a => (4, wT 47 0 d.code a.code 105)
  | .tset d a b => (4, wT 47 1 d.code a.code b.code)
  | .tevict d a => (4, wT 47 2 d.code a.code 105)
  | .bra i => (4, wB 48 0 0 0 i.toNat)
  | .brd m i => (4, wB 48 1 0 m.val i.toNat)
  | .call s i => (4, wB 48 2 0 s.val i.toNat)
  | .rjoinW m => (4, wB 48 3 0 m.val 0)
  | .yieldW => (4, wB 48 4 0 0 0)
  | .exit => (4, wB 48 5 0 0 0)
  | .nopW => (4, wB 48 6 0 0 0)
  | .brk c => (4, wB 48 7 0 0 c.toNat)
  | .reform c => (4, wB 48 8 0 0 c.toNat)
  | .jmpi s => (4, wB 49 0 0 s.val 0)
  | .fjmp l s i => (4, wB 49 1 (b2n l) s.val i.toNat)
  | .ret s => (4, wB 49 2 0 s.val 0)
  | .cfetch p s => (4, wB 49 3 0 s.val p.val)
  | .movH d s => (2, wH 0 s.form s.code d.code)
  | .addH d s => (2, wH 1 s.form s.code d.code)
  | .subH d s => (2, wH 2 s.form s.code d.code)
  | .mulH d s => (2, wH 3 s.form s.code d.code)
  | .andH d s => (2, wH 4 s.form s.code d.code)
  | .orH d s => (2, wH 5 s.form s.code d.code)
  | .xorH d s => (2, wH 6 s.form s.code d.code)
  | .shlH d s => (2, wH 7 s.form s.code d.code)
  | .shrNH d s => (2, wH 8 s.form s.code d.code)
  | .faddH d s => (2, wH 9 s.form s.code d.code)
  | .fmulH d s => (2, wH 10 s.form s.code d.code)
  | .fmaH d s => (2, wH 11 s.form s.code d.code)
  | .fmaxH d s => (2, wH 12 s.form s.code d.code)
  | .fminH d s => (2, wH 13 s.form s.code d.code)
  | .cvtF32I32H d s => (2, wH 14 s.form s.code d.code)
  | .nop => (2, wH 15 0 0 0)
  | .yield => (2, wH 15 0 1 0)
  | .rjoin m => (2, wH 15 0 2 m.val)
  | .fence o s => (4, wX 29 0 o.code 0 0 s.code)
  | .scope k c => (4, wX 29 1 0 c.val 0 k.code)
  | .scopeq c a => (4, wX 29 2 0 c.val 0 a.val)
  | .scopefz c a => (4, wX 29 3 0 c.val 0 a.val)
  | .scopeth c a => (4, wX 29 4 0 c.val 0 a.val)
  | .bar n => (4, wX 30 0 0 0 0 n.val)
  | .bara k c b a => (4, wX 30 1 k.code c.val b.val a.val)
  | .barw k c b a => (4, wX 30 2 k.code c.val b.val a.val)
  | .waitf h l => (4, wX 30 3 0 0 h.toNat l.toNat)
  | .sleept v a => (4, wX 30 4 (b2n v) 0 0 a.val)
  | .spinit v b n => (4, wX 31 0 (b2n v) 0 b.val n.val)
  | .spush c b n => (4, wX 31 1 0 c.val b.val n.val)
  | .spop c b n => (4, wX 31 2 0 c.val b.val n.val)
  | .sptryPop c b n => (4, wX 31 3 0 c.val b.val n.val)
  | .sptryPush c b n => (4, wX 31 3 1 c.val b.val n.val)
  | .msend v c a => (4, wX 31 4 (b2n v) c.val 0 a.val)
  | .mrecv c b a => (4, wX 31 5 0 c.val b.val a.val)
  | .mloopOpen a => (4, wX 50 0 0 0 0 a.val)
  | .mloopClose => (4, wX 50 0 1 0 0 0)
  | .mma y c b a => (4, wX 50 1 y.code c.val b.val a.val)
  | .mmag y c b a => (4, wX 50 2 y.code c.val b.val a.val)
  | .mzero f s a => (4, wX 50 3 (b2n f + 2 * b2n s) 0 0 a.val)
  | .mloadz s v c b a => (4, wX 50 4 (s.code + 4 * b2n v) c.val b.val a.val)
  | .mdrain c b a => (4, wX 50 5 0 c.val b.val a.val)
  | .mseam c m => (4, wX 51 0 0 c.val 0 m.val)
  | .mseamloc c t => (4, wX 51 1 0 c.val 0 t.val)
  | .mseamfix c t => (4, wX 51 2 0 c.val 0 t.val)
  | .mflags v c m => (4, wX 51 3 (b2n v) c.val 0 m.val)
  | .merrq v c => (4, wX 51 4 (b2n v) c.val 0 0)
  | .tcopy v c b a => (4, wX 52 0 (b2n v) c.val b.val (a.val * 4))
  | .tgather c b a => (4, wX 52 1 0 c.val b.val (a.val * 4))
  | .tscat c b a => (4, wX 52 2 0 c.val b.val (a.val * 4))
  | .tstore v c b a => (4, wX 52 3 (b2n v) c.val b.val (a.val * 4))
  | .tloadv b a => (4, wX 52 4 0 0 b.val (a.val * 4))
  | .job b a => (4, wX 53 0 0 0 b.val a.val)
  | .jseq s c a => (4, wX 53 1 s.code c.val 0 a.val)
  | .enq c b q => (4, wX 53 2 0 c.val b.val q.val)
  | .fsopen c a => (4, wX 54 0 0 c.val 0 a.val)
  | .fsclose a => (4, wX 54 1 0 0 0 a.val)
  | .fswait v c b a => (4, wX 54 2 (b2n v) c.val b.val a.val)
  | .fscancel a => (4, wX 54 3 0 0 0 a.val)
  | .fsq c a => (4, wX 54 4 0 c.val 0 a.val)
  | .capb v m g => (4, wX 55 0 (b2n v) m.val 0 g.val)
  | .cstep => (4, wX 55 1 0 0 0 0)
  | .cape => (4, wX 55 2 0 0 0 0)
  | .capadopt v m g => (4, wX 55 3 (b2n v) m.val 0 g.val)
  | .capq c a => (4, wX 55 4 0 c.val 0 a.val)
  | .hemo a => (4, wX 56 0 0 0 0 a.val)
  | .hemc => (4, wX 56 1 0 0 0 0)
  | .tretNext => (4, wX 57 0 0 0 0 0)
  | .tretSame => (4, wX 57 0 1 0 0 0)
  | .tretRegion => (4, wX 57 0 2 0 0 0)
  | .movxR c x => (4, wX 57 1 0 c.val x.val 0)
  | .movxW x a => (4, wX 57 1 1 0 x.val a.val)
  | .movxDst g => (4, wX 57 1 2 0 0 g.val)
  | .rdtime c => (4, wX 57 2 0 c.val 0 0)
  | .trapi h l => (4, wX 57 3 0 0 h.toNat l.toNat)
  | .perfq c n => (4, wX 57 4 0 c.val 0 n.val)
  | _ => (0, 0)

/-- The bytes of an instruction as stored (R62). -/
def Instr.bytes (i : Instr) : List Byte := wordBytes (encode i).1 (encode i).2

/-- Whether the constructor has an encoding: the events have none. -/
def Instr.isEvent (i : Instr) : Bool := (encode i).1 == 0

end Sys2Proof
end

