-- ==== Sys2Proof/Machine/State.lean ====
section
/-! DEFINITION. The state of a TQ-9600 package: every wave, team, core, die and partition register the manual names, as
plain data, with its value at reset. The wave that holds the grant, its team and its core are kept in hand (`w`, `t`,
`c`); the lists hold all the others. -/

namespace Sys2Proof.Machine

/-- Byte-addressed storage: addresses strictly rising, no entry equal to `0`, which an unlisted address reads as (R432
clears device memory when a partition is created; R321 clears windows and shares; DESIGN CHOICE, log 2). -/
abbrev Memory := List Host.Cell

/-- State of a path-table entry (R22); `free` is an unused entry. -/
inductive PState where
  | free | run | waitJoin | parked | ready
  deriving DecidableEq, Repr

/-- What a WAIT-JOIN entry waits at (R25, R34). -/
inductive WaitAt where
  | none | join | bar (n : Nat)
  deriving DecidableEq, Repr

/-- A position inside a clause (R68): the header word and its address, the instructions already counted, the EXEC mask
as sampled (R98), whether an L-writer has gone before (R13), and a pending EXT payload with the EXT's address (R73). -/
structure Clause where
  hdr : Nat
  addr : W64
  count : Nat := 0
  exec : W32
  lw : Bool := false
  ext : Option (BitVec 25) := .none
  extPc : W64 := 0
  deriving DecidableEq, Repr

/-- Capsule body state of an entry (R246): instructions, steps and the stores of the current step; `pkg` is the capsule's
scope, `resume` the step's resume address. -/
structure Body where
  count : Nat := 0
  steps : Nat := 0
  stgs : Nat := 0
  pkg : Bool := false
  resume : W64 := 0
  /-- the count where the current step began -/
  base : Nat := 0
  deriving DecidableEq, Repr

/-- A blocked instruction and what it has already done (R183): its address, the deadline in Meridian ns, its place in the
order of waiting, whether an arrival is counted, and a lane mask and number of its own (reserved mailbox slots, phases). -/
structure Blocked where
  pc : W64
  deadline : Option Nat := .none
  order : Nat := 0
  done : Bool := false
  mask : W32 := 0
  num : Nat := 0
  /-- what is waited for, where waiters are served in order: pops 0, mailboxes 1, pushes 2, with the number or pointer -/
  key : Option (Nat × Nat) := .none
  /-- mailboxes, by physical address, in which displaced lanes wait for their messages at CAPE (R249) -/
  mails : List Nat := []
  deriving DecidableEq, Repr

/-- A fault that a parked lane waits on, and the fault service's record of it (R311): space, page, whether it writes and the
cause (0 not present, 1 READ_DUPLICATE, 2 MIGRATING, 3 malformed); `answer` is the fault service's. -/
structure PageWait where
  space : Nat
  page : Nat
  write : Bool
  cause : Nat := 0
  lanes : W32
  addr : W64
  pc : W64
  /-- the clause in which the access stood, under which NEXT and SAME resume (R348) -/
  clause : Option Clause := .none
  answer : Option Bool := .none
  deriving DecidableEq, Repr

/-- A path-table entry (R22). -/
structure Entry where
  st : PState := .free
  pc : W64 := 0
  mask : W32 := 0
  region : W64 := 0
  /-- the next header the entry begins follows a non-repeatable operation and becomes its region entry (R35) -/
  fresh : Bool := false
  /-- age stamp of the last entry into READY (R22) -/
  age : Nat := 0
  /-- opportunities that count towards the fairness interval (R28) -/
  fair : Nat := 0
  /-- starvation count while READY (R29) -/
  starve : Nat := 0
  wait : WaitAt := .none
  /-- the value of Mx at the most recent arrival at this entry's RJOIN (R25) -/
  joinMask : W32 := 0
  clause : Option Clause := .none
  body : Option Body := .none
  blocked : Option Blocked := .none
  parks : List PageWait := []
  /-- the next instruction acts in these lanes only, without watch checks (R348: WATCH resumed with SAME) -/
  only : Option W32 := .none
  /-- a matrix instruction of R203 has issued in the entry's region (R213) -/
  mat : Bool := false
  deriving DecidableEq, Repr

/-- A plain store that a capsule body holds until its step commits (R247). -/
structure HeldStore where
  ptr : W64
  data : List Byte
  poison : Bool := false
  deriving DecidableEq, Repr

/-- A lane (R11, R38): registers, latch, thread index, poison bits of its registers (R384) and its capsule state. -/
structure Lane where
  id : Nat
  g : List W32
  k : List W32
  latch : W64 := 0
  tid : W32 := 0
  /-- codes (0 to 103) of registers whose poison bit is set, and the latch's poison bit -/
  poison : List Nat := []
  latchPoison : Bool := false
  holding : Bool := false
  capPtr : W64 := 0
  capStep : Nat := 0
  capPkg : Bool := false
  adopted : Bool := false
  displaced : Bool := false
  held : List HeldStore := []
  /-- the return mailbox given at CAPB; of an adopter, the OWNER of the lane that acquired the record by CAPB and the STEP that its
  first adopter found (R249, R251) -/
  mail : W64 := 0
  capFrom : Nat := 0
  capBase : Nat := 0
  /-- physical address of the mailbox in which an adopter's CAPE holds a slot for the lane (R249) -/
  reserved : Option Nat := .none
  deriving DecidableEq, Repr

/-- A value on its way to a register: lane, register code 0 to 103 (when `scalar`, a scalar register, or 128 + n for mask
register n). -/
structure RegWrite where
  scalar : Bool := false
  lane : Nat := 0
  reg : Nat
  val : W64
  poison : Bool := false
  deriving DecidableEq, Repr

/-- Which memory an access acts on: global, the scratchpad window of the team numbered, a lane's private area (R146). -/
inductive Place where
  | global (space : Nat) | window (team : Nat)
  deriving DecidableEq, Repr

/-- An atomic sent to its executing unit and not yet performed there (R167, R169). -/
structure AtomReq where
  lane : Nat
  place : Place
  addr : W64
  op : AtomOp
  w : IW
  val : W64
  cmp : W64 := 0
  ret : Option Nat := .none
  deriving DecidableEq, Repr

/-- One store of a lane, checked and not yet performed: where, and its bytes with their poison. -/
structure StoreReq where
  place : Place
  addr : W64
  data : List (Byte × Bool)
  deriving DecidableEq, Repr

/-- An access of a wave in flight (R15): the flag it counts on, the register values it will write, the atomics it has yet
to perform, and the scope at which a store must be performed (R149). -/
structure Pend where
  flag : Option Nat := .none
  load : Bool := true
  writes : List RegWrite := []
  atoms : List AtomReq := []
  scope : Scope := .team
  space : Nat := 0
  global : Bool := false
  order : Order := .rlx
  /-- under TWIN: the operation is in the comparison buffer, with its stores (R380) -/
  held : Bool := false
  stores : List StoreReq := []
  /-- the wave's count of instructions when it had issued (the model's own) -/
  tag : Nat := 0
  deriving DecidableEq, Repr

/-- Destination of a trapped instruction, for XTDST (R349): nothing, `n` registers from a code, a mask bit; with `latch`
when the instruction writes L. -/
inductive TrapDst where
  | none | regs (code n : Nat) | mask (m : MReg)
  deriving DecidableEq, Repr

/-- The trap frame (R344), with what TRET needs of the trapped instruction (R348, R349). -/
structure Frame where
  paths : List Entry
  latches : List W64
  /-- lanes whose latch is poisoned -/
  badLatches : W32 := 0
  trapped : Nat
  /-- address of the instruction after XTPC, for NEXT (R261) -/
  next : W64
  dst : TrapDst := .none
  dstLatch : Bool := false
  /-- XTPC names a clause header and no instruction (R350) -/
  atHeader : Bool := false
  /-- the interrupted clause, under which NEXT and SAME resume (R68) -/
  clause : Option Clause := .none
  body : Option Body := .none
  /-- the trapped entry was waiting at a join or a barrier (R30) -/
  waiting : Bool := false
  /-- the trapped instruction is a non-repeatable operation that has been performed (R35, R348) -/
  nr : Bool := false
  /-- the body state that NEXT resumes in, where it is not the interrupted one with the instruction counted: of an instruction that
  enters or leaves a capsule body, and of a store that lanes of it have performed (R246, R348) -/
  enter : Option (Option Body) := .none
  deriving DecidableEq, Repr

/-- A wave-level report (R347): its cause code and detail, and what XTPC, XTLANES and XTADDR will hold. -/
structure Report where
  cause : Nat
  detail : Nat
  pc : W64
  lanes : W32
  deriving DecidableEq, Repr

/-- What an accumulator tile holds (R17). -/
inductive TileKind where
  | fp32 | fp64
  deriving DecidableEq, Repr

/-- An open MLOOP (R17, R222): `tiles` as a mask of tiles; `saved` keeps content, MFLAGS and selector by tile for POLICY 1. -/
structure MLoop where
  point : W64
  tiles : Nat
  policy : Nat
  limit : Nat
  retries : Nat := 0
  snap : Nat := 0
  redirect : Bool := false
  /-- a check has failed, and the retry's restore waits for the self-test of the array (R396) -/
  retryDue : Bool := false
  saved : List (Nat × TileKind × Nat × Nat) := []
  deriving DecidableEq, Repr

/-- A deferred fault of a tile copy (R237): code, detail and address, the copy's own address and clause, the region in which it was
issued, and its flag. -/
structure Deferred where
  cause : Nat
  detail : Nat
  addr : W64
  pc : W64
  clause : Option Clause := .none
  region : W64
  flag : Option Nat
  deriving DecidableEq, Repr

/-- The course of a wave: its path table, hem stack, trap frame and trap registers, exception flags, and the capsule state of its lanes
(`caps`: the lanes without their registers). An umbra takes it over of its leader where it executes nothing itself (R378). -/
structure Course where
  paths : List Entry := []
  hems : List W64 := []
  inHandler : Bool := false
  frame : Option Frame := .none
  xtpc : W64 := 0
  xtreg : W64 := 0
  xtcause : W64 := 0
  xtlanes : W32 := 0
  xtmask : W32 := 0
  xtaddr : W64 := 0
  xtcls : W64 := 0
  flg : List W32 := List.replicate 5 0
  caps : List Lane := []
  deriving DecidableEq, Repr

/-- An instruction of the leader that its umbra does not execute on its own registers (R378): the instruction and its PC, the number of
the access that it has in flight, whether it has an entry in the result queue, whether the comparison buffer holds its stores, whether its
fields are yet to be compared, these fields, the path-table entry that issued it and its region entry (R381), the register values that it
returned, and the leader's course after it. -/
structure Follow where
  i : Instr
  pc : W64
  tag : Nat
  queued : Bool
  held : Bool
  todo : Bool
  fields : List Nat
  path : Nat
  region : W64
  writes : List RegWrite
  after : Course
  deriving DecidableEq, Repr

/-- What an umbra has yet to follow of its leader (R378): an instruction to execute on its own registers, with its PC; another instruction;
an event recorded in the result queue (a rotation, a park, a release, a trap entry), as the course after it. -/
inductive Trail where
  | own (i : Instr) (pc : W64) | op (x : Follow) | event (after : Course)
  deriving DecidableEq, Repr

/-- An umbra wave (R377 to R381): its own registers, course and acquire stamps, what its leader has done and it has not, oldest first, its
own counts of R326, and a mismatch since the last region boundary: the region entry restarted at, and whether the umbra has yet to
come to it again; `failed` says that the second mismatch has come. -/
structure Umbra where
  lanes : List Lane := []
  s : List W64 := []
  m : List W32 := []
  f : List Nat := List.replicate 12 0
  spoison : List Nat := []
  course : Course := {}
  xtdst : Option (Nat × List (List W32)) := .none
  xfprm : W64 := 0
  ten : List W32 := List.replicate 5 0
  al1 : Nat := 0
  acc : Nat := 0
  trail : List Trail := []
  ungranted : Nat := 0
  promoted : Option Nat := .none
  miss : Option (W64 × Bool) := .none
  failed : Bool := false
  deriving DecidableEq, Repr

/-- A wave (R11, R18). -/
structure Wave where
  num : Nat := 0
  lanes : List Lane := []
  s : List W64 := []
  /-- M0 to M15 as stored; M0 and M15 are read by rule (R12, R14) -/
  m : List W32 := []
  f : List Nat := List.replicate 12 0
  /-- scalar registers whose poison bit is set (R156) -/
  spoison : List Nat := []
  paths : List Entry := []
  xtpc : W64 := 0
  xtreg : W64 := 0
  xtcause : W64 := 0
  xtlanes : W32 := 0
  xtmask : W32 := 0
  xtaddr : W64 := 0
  xtcls : W64 := 0
  /-- XTDST as recorded: the register values by lane (R349) -/
  xtdst : Option (Nat × List (List W32)) := .none
  xfprm : W64 := 0
  ten : List W32 := List.replicate 5 0
  flg : List W32 := List.replicate 5 0
  xprog : W64 := 0x400
  xhang : W64 := 0x1000000
  /-- writes of XPROG, XHANG and XBINAGE that wait for the next clause header (R18) -/
  xprogNew : Option W64 := .none
  xhangNew : Option W64 := .none
  xbinageNew : Option W64 := .none
  xcapret : W64 := 0
  inHandler : Bool := false
  frame : Option Frame := .none
  reports : List Report := []
  hems : List W64 := []
  al1 : Nat := 0
  acc : Nat := 0
  pend : List Pend := []
  mloop : Option MLoop := .none
  deferred : List Deferred := []
  /-- flags of the validated and indexed copies issued since the last region boundary (R237) -/
  copyFlags : List Nat := []
  /-- last BARA arrival: object, place and phase (R186) -/
  bara : List (W64 × Nat) := []
  /-- consecutive opportunities of the scheduler in which the wave was eligible and not granted (R326) -/
  ungranted : Nat := 0
  /-- the last grant found the instruction held, and nothing has completed since (the model's own, DESIGN CHOICE, log 3) -/
  held : Bool := false
  promoted : Option Nat := .none
  /-- PERFQ counters 0 and 1 (R267) -/
  issued : Nat := 0
  granted : Nat := 0
  /-- TWIN (R379, R380): the next instruction's operation waits for the umbra's, or has compared equal; the last grant found that the next
  instruction must wait for operations held (DESIGN CHOICE, log 30) -/
  cmpWait : Bool := false
  cmpOk : Bool := false
  waitsHeld : Bool := false
  /-- the umbra of a wave under TWIN (R377) -/
  umbra : Option Umbra := .none
  /-- team barriers at which the wave had arrived when a hem unwound it: the arrivals stay counted (R358) -/
  arrivals : List Nat := []
  ended : Bool := false
  deriving DecidableEq, Repr

/-- An accumulator tile: 64 rows of 64 words (an FP64 element j is words 2j, 2j+1), its seam row and seam column in the
element type, MFLAGS {INV, OF, UF, NX, ZOP} from bit 0 and tolerance selector (R17). -/
structure Tile where
  kind : TileKind := .fp32
  rows : List (List W32) := []
  seamRow : List W64 := List.replicate 64 0
  seamCol : List W64 := List.replicate 64 0
  flags : Nat := 0
  sel : Nat := 0
  /-- the most recent check (R215, R220): 0 none, 1 PASS, 2 SINGLE, 3 MULTI; where, and the difference -/
  outcome : Nat := 0
  atRow : Nat := 0
  atCol : Nat := 0
  diff : W32 := 0
  deriving DecidableEq, Repr

/-- A REFORM bin (R31): its key and its threads: TID, the carried registers, the filing stamp. -/
structure Bin where
  key : W64
  threads : List (W32 × List W32 × Nat)
  carry : Nat := 0
  deriving DecidableEq, Repr

/-- A spool (R33, R190). -/
structure Spool where
  defined : Bool := false
  gang : Bool := false
  cap : Nat := 0
  base : Nat := 0
  head : Nat := 0
  tail : Nat := 0
  /-- cores that pushed the entries held, oldest first (R330 MSG) -/
  pushers : List Nat := []
  deriving DecidableEq, Repr

/-- One way of the tag table (R172). -/
structure TagWay where
  valid : Bool := false
  tag : Nat := 0
  deriving DecidableEq, Repr

/-- A set of the tag table: four ways and their recency, most recent first. -/
structure TagSet where
  ways : List TagWay := List.replicate 4 {}
  recent : List Nat := [0, 1, 2, 3]
  deriving DecidableEq, Repr

structure TagTable where
  base : Nat
  sets : List TagSet
  deriving DecidableEq, Repr

/-- An overlay slot (R39): the segment's pointer, its landed bit and its 2,048 halfwords; `fill` marks a fill under way,
`poisoned` a fill that an error ended (R113). -/
structure Slot where
  tag : W64 := 0
  landed : Bool := false
  fill : Bool := false
  poisoned : Bool := false
  /-- halfwords by position, in the canonical form of `Memory` but of 16-bit cells -/
  code : List (Nat × Half) := []
  /-- the wave and flag that a CFETCH counts on; none for the fills of a start, a swap or a repair, for which waves wait
  without a fault -/
  waiter : Option (Nat × Option Nat) := .none
  /-- the page fault that the fill waits on (R311) -/
  fault : Option PageWait := .none
  deriving DecidableEq, Repr

/-- A freeze count a team holds (R181): the constellation by its lowest member. -/
structure Freeze where
  die : Nat
  cons : Nat
  count : Nat
  deriving DecidableEq, Repr

/-- A team's context record (R356), in memory that no object reaches: offset and size of its areas, and the bytes other than 0 of
those whose layout R356 gives, by offset, as last written (DESIGN CHOICE, log 103). -/
structure Record where
  areas : List (Nat × Nat) := []
  bytes : List (Nat × Byte) := []
  deriving DecidableEq, Repr

/-- A team in a context (R7, R18). -/
structure Team where
  id : Nat := 0
  die : Nat := 0
  core : Nat := 0
  slot : Nat := 0
  /-- resident in its slot, or out of the core (swapped or evicted) (R336, R338) -/
  resident : Bool := false
  started : Bool := false
  launch : Nat := 0
  index : Nat := 0
  rank : Nat := 0
  gang : Nat := 0
  w : Nat := 1
  n : Nat := 8
  waves : List Wave := []
  window : Nat := 0
  scratch : Memory := []
  /-- scratchpad granules of 8 bytes whose poison bit is set (R384) -/
  scratchPoison : List Nat := []
  share : Nat := 0
  bstore : Memory := []
  bstorePoison : List Nat := []
  tiles : List Tile := []
  xtvec : W64 := 0
  xbinage : W64 := 0x1000
  xcapdly : W64 := 10000
  xmtol : List W64 := [0x3A8000000F800000, 0x3A8000000F800000, 0x3580000000800000, 0]
  xseamst : W64 := 0
  xsinj : W64 := 0
  xwatch : List W64 := List.replicate 4 0
  merrq : List W64 := []
  merrqOvf : Bool := false
  bins : List Bin := []
  spools : List Spool := List.replicate 16 {}
  tags : Option TagTable := .none
  freezes : List Freeze := []
  slots : List Slot := List.replicate 8 {}
  age : Nat := 0
  escaped : Bool := false
  capTag : BitVec 22 := 0
  /-- opportunities granted to all its waves (R329) -/
  opps : Nat := 0
  /-- PERFQ counters of the team: 2, 3, 4, 5, 6, 7, 8, 9, 11 (R267) -/
  perf : List Nat := List.replicate 12 0
  /-- Meridian ns at which it became resident, and ns resident before (PERFQ 10) -/
  since : Nat := 0
  residentNs : Nat := 0
  /-- progress-monitor reports already made: spools and barriers (R30) -/
  reported : List (Bool × Nat) := []
  ended : Bool := false
  /-- eviction asked for, with the deadline of its deferral (R338) -/
  evict : Option Nat := .none
  /-- its context record, and whether it is complete: the team is out of its core (R337, R356) -/
  record : Record := {}
  recorded : Bool := false
  /-- after a swap, its share of the B store has not been filled yet (R357) -/
  bwait : Bool := false
  twin : Bool := false
  part : Nat := 0
  space : Nat := 0
  /-- launch values (R18, R255): parameter block, private area, object, gang size, thread count -/
  params : List Byte := []
  priv : Nat := 0
  privObj : Nat := 0
  gangSize : Nat := 1
  /-- set when the team must end without its waves' doing: the error its launch scope records (R256) -/
  ending : Option Nat := .none
  /-- the context lies in the core's shadow bank (R336) -/
  shadow : Bool := false
  deriving DecidableEq, Repr

/-- A line of L1 (R291): 64 bytes, of which `have` are held and `dirty` written; `poison` marks 8-byte granules. -/
structure Line where
  space : Nat
  line : Nat
  data : List Byte
  held : List Bool
  dirty : List Bool
  fill : Nat
  /-- granules of 8 bytes whose poison bit is set (R384) -/
  poison : List Nat := []
  /-- in a constellation cache: the constellation by its lowest member, and the members that wrote the line -/
  cons : Nat := 0
  writers : List Nat := []
  deriving DecidableEq, Repr

/-- A translation held by a page-state, port or die translation cache (R309): the leaf entry found for a page. -/
structure Xlat where
  space : Nat
  page : Nat
  level : Nat
  pte : Nat
  deriving DecidableEq, Repr

/-- A descriptor-cache entry (R302): the two words and limits of an object-table entry. -/
structure Desc where
  space : Nat
  obj : Nat
  base : Nat
  reslim : Nat
  comlim : Nat
  ctl : Nat
  deriving DecidableEq, Repr

/-- States of a tile copy (R371). -/
inductive CopyState where
  | queued | reading | writing
  deriving DecidableEq, Repr

/-- Tile-copy operations. -/
inductive CopyOp where
  | tcopy (v : Bool) | tgather | tscat | tstore (aon : Bool) | tloadv
  deriving DecidableEq, Repr

/-- A stored write of a copy: a global pointer, a window or B-store offset, and the bytes with their poison. -/
structure CopyOut where
  ptr : W64
  data : List (Byte × Bool)
  deriving DecidableEq, Repr

/-- An entry of the tile-copy queue (R229, R371): its operands as issued, its flag, and what deferred faults report. -/
structure Copy where
  op : CopyOp
  st : CopyState := .queued
  team : Nat
  wave : Nat
  flag : Option Nat
  ctl : W64 := 0
  desc : W64 := 0
  group : List W64 := []
  pc : W64 := 0
  region : W64 := 0
  /-- the clause of the instruction, under which NEXT and SAME of its deferred fault resume (R348) -/
  clause : Option Clause := .none
  /-- a multicast delivers to the issuer's own rank as well (R233) -/
  own : Bool := false
  /-- what the copy writes, once it has read (R371) -/
  out : List CopyOut := []
  /-- exceptions for FLG of lane 0 (R235), in the order of TEN -/
  exc : List Bool := []
  /-- ranks that have accepted or refused their delivery (R370) -/
  accepted : List Nat := []
  refused : List Nat := []
  /-- attempts of a validated read that failed (R236) -/
  attempts : Nat := 0
  /-- TSTORE.AON: the even word taken, once the store has begun (R235) -/
  seqWord : Option W64 := .none
  /-- the page fault that the copy waits on (R373) -/
  fault : Option PageWait := .none
  deriving DecidableEq, Repr

/-- A matrix instruction in the array (R203, R214): its operands, the rows of acting lanes, and the steps done. -/
structure MatOp where
  team : Nat
  wave : Nat
  flag : Option Nat
  layout : Layout
  zt : Nat
  shape : Nat
  steps : Nat
  done : Nat := 0
  a : W64
  b : W64
  /-- the team whose window holds A: the own team, or a gang peer (R209) -/
  aTeam : Nat
  lanes : W32
  pc : W64 := 0
  region : W64 := 0
  clause : Option Clause := .none
  deriving DecidableEq, Repr

/-- A self-test (R387): the error that started it, its KIND in the log (R389), when it was detected, the errors that have joined
it with their KIND and time, and after MULTI the rows and columns of the array that are tested. -/
structure Test where
  at_ : ErrorAt
  kind : Nat
  time : Nat
  joined : List (Nat × Nat) := []
  rows : List Nat := []
  cols : List Nat := []
  deriving DecidableEq, Repr

/-- An entry of the module error log (R389). -/
structure LogEntry where
  time : Nat
  kind : Nat
  cls : Nat
  block : Nat
  die : Nat
  unit_ : Nat
  repair : Nat := 0
  loc : Nat := 0
  part : Nat := 255
  merged : Nat := 0
  deriving DecidableEq, Repr

/-- States of an Omsen link (R404). -/
inductive LinkState where
  | down | detect | equalise | negotiate | active | retrain | mismatch
  deriving DecidableEq, Repr

/-- An Omsen link (R403 to R406): its state and when it entered it, what OSTAT shows, the last sequence received in order
and acknowledged, consecutive NAKs, the times of failed retrains, and what goes out. -/
structure Link where
  st : LinkState := .down
  since : Nat := 0
  width : Nat := 0
  version : Nat := 0
  peerPkg : Nat := 0
  peerPort : Nat := 0
  replays : Nat := 0
  rx : Nat := 0
  acked : Nat := 0
  naks : Nat := 0
  retries : List Nat := []
  /-- a NAK has been sent for a flit not yet received in order -/
  nakOut : Bool := false
  failed : Bool := false
  /-- the last sequence sent, the flits sent and not acknowledged with their sequences, and messages that wait for room among them -/
  tx : Nat := 0
  replay : List (Nat × RemoteMsg) := []
  queue : List RemoteMsg := []
  deriving DecidableEq, Repr

/-- An HBM stack (R385, R422): hot (above 85 degrees), since when its samples read 82 or below, its last sample and burst. -/
structure Stack where
  hot : Bool := false
  coolSince : Option Nat := .none
  temp : Nat := 0
  lastBurst : Nat := 0
  bursts : Nat := 0
  deriving DecidableEq, Repr

/-- A compute core (R1): its L1, its descriptor, page-state and port translation caches, and its registers. -/
structure Core where
  die : Nat := 0
  num : Nat := 0
  l1 : List Line := []
  desc : List Desc := []
  pages : List Xlat := []
  port : List Xlat := []
  /-- the per-core counter that gives teams their age (R327) -/
  ages : Nat := 0
  copies : List Copy := []
  array : List MatOp := []
  /-- spare row and spare column of the array in use (R369), retirement (R388) -/
  spareRow : Bool := false
  spareCol : Bool := false
  retired : Bool := false
  /-- self-test of the array running (R387) -/
  test : Option Test := .none
  /-- spare SRAM rows used (R388): block, macro, count -/
  spares : List (Nat × Nat × Nat) := []
  /-- XTALLOW.DUTY once the power controller has set it (R263, R421), and the ACLK cycles of array steps, checks and
  fillers in the duty window -/
  duty : Option Nat := .none
  dutyUsed : Nat := 0
  /-- the clock at which the duty window began, and that of the last fall of the core's work (R417, R421) -/
  window : Nat := 0
  fell : Option Nat := .none
  /-- the partition whose teams last ran here, which pays for fillers (R418) -/
  lastPart : Option Nat := .none
  /-- round-robin position of each scheduler (R325) -/
  turn : List Nat := List.replicate 4 0
  /-- CLKSEL (R414): RATIO, a hop under way with its end on the clock and its new ratio, a held write; by how many
  FCLK stretches have put its clock back, and until when the last one lasts (R416) -/
  ratio : Nat := 2
  hop : Option (Nat × Nat) := .none
  clkHeld : Option Nat := .none
  phase : Nat := 0
  late : Nat := 0
  /-- a shadow swap is not followed by its spill yet (R337), and the slots whose shares of the B store are still to be exchanged,
  in order (R357) -/
  spillDue : Bool := false
  exchange : List Nat := []
  deriving DecidableEq, Repr

/-- A compute die (R2): its constellations (R330), re-stitch count, the constellation caches, its translation cache and
regrouping registers. -/
structure Die where
  num : Nat
  cons : List (List Nat) := (List.range 48).map fun n => [n]
  gen : Nat := 0
  cc : List Line := []
  xlat : List Xlat := []
  xregrp : W64 := 0x80001000000003E8
  xfrzmax : W64 := 10000
  xregreq : W64 := 0
  /-- Sextant counters by ordered pair (i, j): CCHIT, DCREF, PEER, MSG (R330) -/
  sextant : List ((Nat × Nat) × List Nat) := []
  /-- cores of a placement demand that waits for the next interval (R320) -/
  demand : List Nat := []
  /-- the clock at the last interval's decision (R330) -/
  lastRegroup : Nat := 0
  /-- the constellations frozen, with the clock at which the total count rose from 0 (R182) -/
  frozenAt : List (Nat × Nat) := []
  deriving DecidableEq, Repr

/-- An entry that waits for the event ring (R427, R428). -/
structure Event where
  type : Nat
  detail : Nat
  data : Nat
  time : Nat
  /-- of TYPE 1: the scope's entry, by number and serial, which is given back once the event is posted (R323) -/
  free : Option (Nat × Nat) := .none
  deriving DecidableEq, Repr

/-- States of a finish-table entry (R256). -/
inductive ScopeState where
  | free | open_ | closed | complete | cancelled
  deriving DecidableEq, Repr

/-- Kinds of finish scope (R323). -/
inductive ScopeKind where
  | job | graph | launch | user
  deriving DecidableEq, Repr

/-- A finish-table entry (R256, R323). -/
structure FScope where
  st : ScopeState := .free
  parent : Option Nat := .none
  count : Nat := 0
  err : Nat := 0
  rflags : Nat := 0
  kind : ScopeKind := .user
  /-- the team that opened it (USER) or issued its card (LAUNCH from a device card) -/
  owner : Option Nat := .none
  /-- queue and card number of a host card -/
  card : Option (Nat × Nat) := .none
  /-- it has completed -/
  done : Bool := false
  /-- which opening of the entry this is (the model's own, from `order`) -/
  serial : Nat := 0
  deriving DecidableEq, Repr

/-- A launch queue's control block (R314) (DESIGN CHOICE, log 40). -/
structure Queue where
  base : W64 := 0
  cap : Nat := 1
  device : Bool := false
  enable : Bool := false
  tail : Nat := 0
  head : Nat := 0
  finished : Nat := 0
  latest : Nat := 0
  /-- tail writes whose cards have not all been taken: the tail written and the write's place in the order of appends (R318) -/
  marks : List (Nat × Nat) := []
  deriving DecidableEq, Repr

/-- A launch card in a resolver window or placed (R316, R318): its 256 bytes, its scope, and the gangs placed. -/
structure Launch where
  id : Nat
  part : Nat
  queue : Nat
  num : Nat
  card : List Byte
  scope : Nat
  host : Bool
  issuer : Option Nat := .none
  table : W64 := 0
  params : List Byte := []
  placed : Nat := 0
  order : Nat := 0
  /-- Meridian ns since which its next gang may be placed (R317, R322) -/
  since : Nat := 0
  /-- USED of XQUOTA (R263), and kills by gang (R355) -/
  used : Nat := 0
  kills : List (Nat × Nat) := []
  /-- gangs that wait to be placed again after a kill, and by gang the ranks that its last kill stopped: a member that had ended
  for good is not started again (R256, R355) -/
  again : List Nat := []
  stopped : List (Nat × List Nat) := []
  done : Bool := false
  deriving DecidableEq, Repr

/-- A partition (R424 to R433) with its finish table, queues and registers. -/
structure Part where
  num : Nat
  dies : List Nat := []
  debug : Bool := false
  ready : Bool := false
  resetting : Bool := false
  verok : Bool := false
  hostver : Nat := 0
  retired : Bool := false
  evbase : W64 := 0
  evsize : Nat := 0
  evcons : Nat := 0
  evprod : Nat := 0
  evbuf : List Event := []
  evlost : Nat := 0
  queues : List Queue := List.replicate 64 {}
  scopes : List FScope := List.replicate 256 {}
  hwatch : List W64 := List.replicate 8 0
  /-- per watch: Meridian ns of the last report, and matches merged since (R392) -/
  hwatchAt : List (Option Nat × Nat) := List.replicate 8 (.none, 0)
  nonce : List Byte := List.replicate 48 0
  quoteBusy : Bool := false
  quote : List Byte := []
  quotes : Nat := 0
  /-- read pointer of the error log ring (R424) -/
  errRead : Nat := 0
  /-- PWRACCT (R418): filler energy in mJ, total energy in J -/
  filler : Nat := 0
  energy : Nat := 0
  deriving DecidableEq, Repr

/-- An object table in use (R291, R305): its space number, table pointer and page-table root. -/
structure Space where
  num : Nat
  part : Nat
  table : W64
  root : Nat
  deriving DecidableEq, Repr

/-- A card of a chain from its JOB to its completion (R238 to R240, R374): the chain by the physical address of its
control block and by pointer and space, the card's number, the scope it counts in, and what has become of it. -/
structure Card where
  key : Nat
  chain : W64
  space : Nat
  part : Nat
  num : Nat
  data : List Byte := []
  counted : Option Nat := .none
  taken : Bool := false
  started : Bool := false
  /-- bytes or chunks already performed -/
  progress : Nat := 0
  status : Option Nat := .none
  /-- completed, and waiting for earlier cards before the sequence word passes it (R376) -/
  finished : Bool := false
  /-- poison was read (R384) -/
  poison : Bool := false
  /-- exception flags of a collective, in STATUS[12:8] (R410) -/
  flags : Nat := 0
  /-- chunks of peers' data that have arrived: rank, offset, data (R413) -/
  got : List (Nat × Nat × List (Byte × Bool)) := []
  /-- which of its group's collective cards it is at this member (R411) -/
  kth : Nat := 0
  /-- the page fault that the card waits on (R311) -/
  fault : Option PageWait := .none
  deriving DecidableEq, Repr

/-- Why a step could not be taken. -/
inductive Fault where
  /-- raised by an event whose argument names a unit that the package does not have (a die above 7, a core above 47, a
  stack above 15, a port above 23, a bridge above 19, a scheduler or slot above 3); safe: no such event occurs -/
  | noSuchUnit
  deriving DecidableEq, Repr

/-- Why an instruction has no meaning here. -/
inductive Refusal where
  /-- raised by `exec` for an instruction whose meaning is not written; safe -/
  | notModelled (mnemonic : String)
  deriving DecidableEq, Repr

/-- A happening that the machine brings about by itself: the event rows that `step` runs without being asked, each with
the arguments of its constructor in `Instr` (DESIGN CHOICE, log 3). -/
inductive Happening where
  | issue (core : CoreId) (sched : Nat)
  | fairness (w : WaveId) | hang (w : WaveId) | promote (w : WaveId) | trapEntry (w : WaveId)
  | spoolDl (team n : Nat) | barDl (team n : Nat) | teamKill (team : Nat) | teamEnd (team : Nat) | binDraw (team : Nat)
  | load (w : WaveId) (i : Nat) | store (w : WaveId) (i : Nat) | atomic (w : WaveId) (i : Nat)
  | blocked (w : WaveId) | umbra (w : WaveId) | parked (w : WaveId) (entry : Nat)
  | fill (team slot : Nat) | copyStart (core : CoreId) (i : Nat) | copyRetire (core : CoreId) (i : Nat)
  | multicast (core : CoreId) (i rank : Nat) | arrayStep (core : CoreId) | selfTest (core : CoreId)
  | burst (stack : Nat) | hopEnd (core : CoreId) | duty (core : CoreId) | spill (core : CoreId)
  | cardTake (space : Nat) (chain : W64) | copy (i : Nat) | zero (i : Nat) | cardDone (i : Nat)
  | migrate (i : Nat) | replicate (i : Nat) | collective (op i : Nat)
  | hostTake (part q : Nat) | place (part q card : Nat) (cores : List (CoreId × Nat)) | makeRoom (part q card : Nat)
  | demand (die : Nat) (cores : List Nat)
  | evict (team : Nat) | deferral (team : Nat) | reload (team : Nat) (core : CoreId) (slot : Nat)
  | regroup (die : Nat) | decide (die : Nat) | thaw (die core : Nat) | quote (part : Nat) | resetPart (part : Nat) | boot
  deriving DecidableEq, Repr

/-- The whole machine. -/
structure State where
  /-- the wave that holds the issue opportunity; none: `w`, `t` and `c` are blank -/
  hand : Option WaveId := .none
  granted : Bool := false
  /-- the opportunity is that of the umbra of the wave in hand (R377) -/
  under : Bool := false
  /-- the last wave granted could not issue, so the next thing to come is a completion (the model's own, DESIGN CHOICE, log 3) -/
  stalled : Bool := false
  w : Wave := {}
  t : Team := {}
  c : Core := {}
  teams : List Team := []
  cores : List Core := []
  dies : List Die := []
  parts : List Part := []
  spaces : List Space := []
  launches : List Launch := []
  cards : List Card := []
  /-- rotation of the bulk-copy pools: by chain, when its last card was taken, in the order of `order` (R374) -/
  cardTurns : List (Nat × Nat) := []
  /-- collective cards taken so far, by partition and group (R411) -/
  collectives : List ((Nat × Nat) × Nat) := []
  /-- cores whose lanes sent the messages that a mailbox holds, oldest first, by its physical address (R330 MSG) -/
  senders : List (Nat × List CoreId) := []
  /-- capsule records acquired, by physical address: the OWNER given at CAPB, and the STEP that its first adopter found (R251) -/
  capsules : List (Nat × Nat × Nat) := []
  /-- the core whose lanes or copies last wrote a line at the die level, by physical line number (R330) -/
  lastWriter : List (Nat × CoreId) := []
  /-- page faults that the fault service has yet to answer (R311) -/
  faults : List PageWait := []
  nextTeam : Nat := 1
  nextLaunch : Nat := 1
  booted : Bool := false
  /-- the boot step that failed (R434) -/
  bootFail : Option Nat := .none
  /-- the rollback version, in flash that only the boot engine writes (R435) -/
  rollback : Nat := 0
  links : List Link := List.replicate 24 {}
  hbmStacks : List Stack := List.replicate 16 {}
  /-- die-to-die bridges (R402): the flit that failed last, and its failures in a row -/
  bridges : List (Nat × Nat) := List.replicate 20 (0, 0)
  /-- routes (R407, R408): destination package and hash lane bound to a port; packages lost (R409) -/
  routes : List ((Nat × Nat) × Nat) := []
  lost : List Nat := []
  /-- the other packages of the domain (R407), and those to which no link is ACTIVE, with the clock since which (R409) -/
  domain : List Nat := []
  cut : List (Nat × Nat) := []
  /-- messages to other packages that are not acknowledged end to end, with the die that asked, oldest first, and the next sequence by
  destination and hash lane (R408) -/
  sent : List (Nat × RemoteMsg) := []
  nextOut : List ((Nat × Nat) × Nat) := []
  /-- end-to-end sequences (R408): source package and hash lane, and the next sequence to perform; messages that came early -/
  expected : List ((Nat × Nat) × Nat) := []
  early : List RemoteMsg := []
  /-- self-tests of blocks other than the arrays (R387) -/
  tests : List Test := []
  /-- HBM rows repaired, and HBM rows without a spare of which the fault service has been told (R388), by number -/
  hbmRows : List Nat := []
  badRows : List Nat := []
  /-- the module error log: its event ring, oldest first, and its persistent part (R389) -/
  log : List LogEntry := []
  persist : List LogEntry := []
  /-- MTSTAT (R419) -/
  locked : Bool := false
  offset : Int := 0
  /-- whether Meridian time has been locked since reset, the clock at its last measurement, and what is left of a correction that slows it, in
  thirds of a nanosecond, with the clock from which the next part of it is due (R419) -/
  everLocked : Bool := false
  measured : Nat := 0
  slow : Nat := 0
  slowAt : Nat := 0
  /-- control blocks of the fault service's chains, by physical address (R239) -/
  serviceChains : List Nat := []
  /-- counts of the grants and of the other happenings chosen, which turn them over (the model's own, DESIGN CHOICE, log 3) -/
  turn : Nat := 0
  workTurn : Nat := 0
  /-- an access of this step met a page that is MIGRATING and waits in the translation unit: the step is taken back (R312; the
  model's own, DESIGN CHOICE, log 91) -/
  waits : Bool := false
  /-- happenings decided by what surrounds the core in hand, first to come first -/
  due : List Happening := []
  mem : Memory := []
  /-- granules of 8 bytes of memory whose poison bit is set (R384) -/
  memPoison : List Nat := []
  /-- Meridian time in thirds of a nanosecond (an FCLK of 1.5 GHz lasts two) -/
  clock : Nat := 0
  /-- count of free values drawn (the model's own) -/
  free : Nat := 0
  /-- count that orders waiters, age stamps and filings (the model's own) -/
  order : Nat := 0
  deriving DecidableEq, Repr

/-- The machine right after reset (R434): not booted, nothing resident (DESIGN CHOICE, log 1). -/
def State.reset : State := {}

end Sys2Proof.Machine
end

