-- ==== Sys2Proof/Machine/Operands.lean ====
section
/-! DEFINITION. Reading and writing registers: the path table's running entry and its masks (R12, R14, R22), every
operand form of R69 and R72, and the lanes' destinations with the latch (R13, R97, R99). -/

namespace Sys2Proof.Machine

/-! Masks. -/

def W32.bit (m : W32) (i : Nat) : Bool := m.getLsbD i
/-- A mask from a test of lane numbers. -/
def maskOf (p : Nat → Bool) : W32 := BitVec.ofNat 32 ((List.range 32).foldl (fun a i => if p i then a + 2 ^ i else a) 0)
/-- The lanes of a mask, ascending. -/
def lanesOf (m : W32) : List Nat := (List.range 32).filter m.getLsbD
/-- The lowest lane of a mask. -/
def lowest (m : W32) : Option Nat := (List.range 32).find? m.getLsbD
def popcount (m : Nat) : Nat → Nat
  | 0 => 0
  | n + 1 => popcount m n + m / 2 ^ n % 2

/-! The path table. -/

/-- The index of the running entry (R22: at most one). -/
def Wave.runIdx (w : Wave) : Option Nat := w.paths.findIdx? (·.st == .run)

/-- The running entry. -/
def Wave.cur (w : Wave) : Entry := (w.paths.find? (·.st == .run)).getD {}

/-- Change the running entry. -/
def Wave.onCur (w : Wave) (f : Entry → Entry) : Wave :=
  { w with paths := w.paths.map fun e => if e.st = .run then f e else e }

/-- Entries in use (R24). -/
def Wave.used (w : Wave) : Nat := (w.paths.filter (·.st != .free)).length

/-- The wave's live lanes: the union of the entries (R22). -/
def Wave.live (w : Wave) : W32 := w.paths.foldl (fun m e => if e.st = .free then m else m ||| e.mask) 0

/-- M0 to M15 as read (R12, R14): M0 all ones, M15 the running path's mask. -/
def Wave.mask (w : Wave) (m : MReg) : W32 :=
  if m.val = 0 then 0xFFFFFFFF else if m.val = 15 then w.cur.mask else w.m.getD m.val 0

def Wave.setMask (w : Wave) (m : MReg) (v : W32) : Wave :=
  if m.val = 0 ∨ m.val = 15 then w else { w with m := w.m.set m.val v }

/-- Lanes that hold a capsule and are not displaced (R247). -/
def Wave.holders (w : Wave) : W32 :=
  maskOf fun i => match w.lanes[i]? with | some l => l.holding && !l.displaced | none => false

/-- The acting set of a lane instruction (R14, R98, R247): the running path's lanes, under the sampled EXEC mask, and in
a capsule body only the holders. -/
def Wave.acting (w : Wave) : W32 :=
  let e := w.cur
  let x := match e.clause with | some c => e.mask &&& c.exec | none => e.mask
  let x := match e.only with | some o => x &&& o | none => x
  if e.body.isSome then x &&& w.holders else x

/-! Scalar registers. -/

def Wave.sreg (w : Wave) (r : SReg) : W64 := w.s.getD r.val 0
def Wave.setS (w : Wave) (r : SReg) (v : W64) : Wave :=
  { w with s := w.s.set r.val v, spoison := w.spoison.filter (· != r.val) }

/-! Lane operands (R97). -/

def Lane.reg (l : Lane) (code : Nat) : W32 := if code < 96 then l.g.getD code 0 else l.k.getD (code - 96) 0

/-- A register of a lane overwritten; its poison goes (R384). -/
def Lane.setReg (l : Lane) (code : Nat) (v : W32) : Lane :=
  if code < 96 then { l with g := l.g.set code v, poison := l.poison.filter (· != code) }
  else { l with k := l.k.set (code - 96) v, poison := l.poison.filter (· != code) }

/-- OPD(o, l, 32). -/
def opd32 (w : Wave) (l : Lane) : Opd → W32
  | .g n => l.g.getD n.val 0
  | .k n => l.k.getD n.val 0
  | .l => l.latch.setWidth 32
  | .zero => 0
  | .lane => BitVec.ofNat 32 l.id
  | .tid => l.tid
  | .s n => (w.s.getD n.val 0).setWidth 32

/-- OPD(o, l, 64): a pair holds the low half first (R12). -/
def opd64 (w : Wave) (l : Lane) : Opd → W64
  | .g n => (l.g.getD (n.val + 1) 0) ++ (l.g.getD n.val 0)
  | .k n => (l.k.getD (n.val + 1) 0) ++ (l.k.getD n.val 0)
  | .l => l.latch
  | .zero => 0
  | .lane => BitVec.ofNat 64 l.id
  | .tid => l.tid.setWidth 64
  | .s n => w.s.getD n.val 0

/-- An operand of the width of `iw`, in 64 bits (the upper half 0 for 32 bits). -/
def opd (w : Wave) (l : Lane) (iw : IW) (o : Opd) : W64 :=
  match iw with
  | .w32 => (opd32 w l o).setWidth 64
  | .w64 => opd64 w l o

/-- The pending EXT payload (R73). -/
def Wave.ext (w : Wave) : Option (BitVec 25) := w.cur.clause.bind (·.ext)

/-- A 7-bit immediate, or the 32-bit one that an EXT makes of it (R73). -/
def imm32 (w : Wave) (i : BitVec 7) : W32 :=
  match w.ext with
  | some p => p ++ i
  | none => i.signExtend 32

/-- The immediate at a width: sign-extended (R97), in 64 bits with the upper half 0 for 32 bits. -/
def immW (w : Wave) (iw : IW) (i : BitVec 7) : W64 :=
  match iw with
  | .w32 => (imm32 w i).setWidth 64
  | .w64 => (imm32 w i).signExtend 64

/-- The last source: register or immediate (R72). -/
def srcW (w : Wave) (l : Lane) (iw : IW) : Src → W64
  | .r o => opd w l iw o
  | .i v => immW w iw v

/-- The last source where it is 32 bits wide even in 64-bit majors (R115). -/
def src32 (w : Wave) (l : Lane) : Src → W32
  | .r o => opd32 w l o
  | .i v => imm32 w v

/-- The 12-bit immediate of the S and B formats, or its EXT form (R73, R74). -/
def imm12w (w : Wave) (i : BitVec 12) : W64 :=
  match w.ext with
  | some p => (p ++ i.setWidth 7).signExtend 64
  | none => i.signExtend 64

/-- Short codes of the H format (R71). -/
def HReg.opd : HReg → Opd
  | .k n => .k n
  | .l => .l
  | .zero => .zero
  | .g n => .g ⟨n.val, by omega⟩

def HReg.dst : HReg → Dst
  | .k n => .k n
  | .l => .l
  | .zero => .zero
  | .g n => .g ⟨n.val, by omega⟩

/-- The source of an H operation (R71). -/
def hsrc (w : Wave) (l : Lane) : HSrc → W32
  | .r h => opd32 w l (HReg.opd h)
  | .i v => v.signExtend 32

/-! Lane destinations (R12, R13, R99). -/

/-- A value written to a destination; a write to ZERO is discarded and one to L is the latch's, made by `latch32` and
`latch64`. -/
def Lane.write (l : Lane) (iw : IW) (d : Dst) (v : W64) : Lane :=
  match iw, d with
  | .w32, .g n => l.setReg n.val (v.setWidth 32)
  | .w32, .k n => l.setReg (96 + n.val) (v.setWidth 32)
  | .w64, .g n => { l with g := (l.g.set n.val (v.setWidth 32)).set (n.val + 1) ((v >>> 32).setWidth 32)
                           poison := l.poison.filter fun c => c != n.val && c != n.val + 1 }
  | .w64, .k n => { l with k := (l.k.set n.val (v.setWidth 32)).set (n.val + 1) ((v >>> 32).setWidth 32)
                           poison := l.poison.filter fun c => c != 96 + n.val && c != 97 + n.val }
  | _, _ => l

/-- The latch after a result (R13): a 64-bit result fills it; beside a 32-bit one the upper half is not stated and is
free (DESIGN CHOICE, log 19). -/
def Lane.latchTo (l : Lane) (free : Nat) (iw : IW) (v : W64) : Lane :=
  match iw with
  | .w32 => { l with latchPoison := false, latch := (Config.freeLatch free l.id).extractLsb' 32 32 ++ v.setWidth 32 }
  | .w64 => { l with latchPoison := false, latch := v }

/-- Result of a lane instruction in one lane: destination and latch. -/
def Lane.result (l : Lane) (free : Nat) (iw : IW) (d : Dst) (v : W64) : Lane := (l.write iw d v).latchTo free iw v

/-- Write `f` in the lanes of `act`. -/
def Wave.onLanes (w : Wave) (act : W32) (f : Lane → Lane) : Wave :=
  { w with lanes := w.lanes.map fun l => if act.getLsbD l.id then f l else l }

def Wave.lane (w : Wave) (i : Nat) : Lane := w.lanes.getD i { id := i, g := [], k := [] }

/-- The registers a destination covers, for XTDST (R349); code 104 names no register, and stands for L alone. -/
def Dst.trap (iw : IW) : Dst → TrapDst
  | .g n => .regs n.val (match iw with | .w32 => 1 | .w64 => 2)
  | .k n => .regs (96 + n.val) (match iw with | .w32 => 1 | .w64 => 2)
  | .l => .regs 104 (match iw with | .w32 => 1 | .w64 => 2)
  | .zero => .none

end Sys2Proof.Machine
end

