-- ==== Sys2Proof/Machine/Flags.lean ====
section
/-! DEFINITION. Flags: the completion flags of a wave (R15), and the per-lane exception flags and enables (R47, R100,
R101). -/

namespace Sys2Proof.Machine

/-- SETA or SETB of the running clause; 12 to 15 attach none. -/
def Wave.mark (w : Wave) (b : Bool) : Option Nat :=
  match w.cur.clause with
  | none => none
  | some c =>
    let v := if b then bitsOf c.hdr 26 23 else bitsOf c.hdr 22 19
    if v < 12 then some v else none

def Wave.flagUp (w : Wave) : Option Nat → Wave
  | some n => { w with f := w.f.modify n (· + 1) }
  | none => w
def Wave.flagDown (w : Wave) : Option Nat → Wave
  | some n => { w with f := w.f.modify n (· - 1) }
  | none => w

/-- The lanes of `act` whose enabled exceptions trap; none in a handler (R100, R345). -/
def trapLanes (w : Wave) (act : W32) (exc : Nat → Exc) : W32 :=
  if w.inHandler then 0
  else maskOf fun i => act.getLsbD i && (List.range 5).any fun k =>
    ((exc i).list.getD k false) && (w.ten.getD k 0).getLsbD i

/-- Sticky flags of the lanes of `act` (R100). -/
def Wave.raise (w : Wave) (act : W32) (exc : Nat → Exc) : Wave :=
  { w with flg := (List.range 5).map fun k =>
      (w.flg.getD k 0) ||| maskOf fun i => act.getLsbD i && ((exc i).list.getD k false) }

/-- The FP detail: the union over trapping lanes of the enabled exceptions raised (R101): INV in bit 0 up to NX in bit 4 (R264, and the XTCAUSE of spec/14). -/
def excDetail (w : Wave) (trap : W32) (exc : Nat → Exc) : Nat :=
  (List.range 5).foldl (fun a k =>
    if (List.range 32).any fun i => trap.getLsbD i && ((exc i).list.getD k false) && (w.ten.getD k 0).getLsbD i
    then a + 2 ^ k else a) 0

end Sys2Proof.Machine
end

