-- ==== Sys2Proof/Machine/Links.lean ====
section
/-! DEFINITION. What leaves the package for another one (R400, R403, R404, R407 to R409): hash lanes, the port that a triple is bound to, the
replay buffer of a link, and the messages kept until they are acknowledged end to end. -/

namespace Sys2Proof.Machine

/-- The hash lane of a message with a physical address (R400): PA[9:6], [13:10], [17:14] and [21:18] combined. -/
def hashLane (pa : Nat) : Nat := (bitsOf pa 9 6 ^^^ bitsOf pa 13 10) ^^^ (bitsOf pa 17 14 ^^^ bitsOf pa 21 18)

def State.link (s : State) (port : Nat) : Link := s.links.getD port {}
def State.setLink (s : State) (port : Nat) (l : Link) : State := { s with links := s.links.set port l }

/-! The replay buffer (R404). -/

/-- Messages go out as flits while the replay buffer of 128 has room, each with the next link sequence (one message a flit: DESIGN CHOICE,
DESIGN CHOICE, log 68). -/
def Link.pump (l : Link) : (fuel : Nat) → Link
  | 0 => l
  | k + 1 =>
    match l.queue with
    | [] => l
    | m :: rest =>
      if l.replay.length < 128 then
        Link.pump { l with tx := (l.tx + 1) % 4096, queue := rest, replay := l.replay ++ [((l.tx + 1) % 4096, m)] } k
      else l

/-- The partner has received every flit up to `ack` in order: they leave the replay buffer. -/
def Link.acknowledged (l : Link) (ack : Nat) : Link :=
  let kept := match l.replay.findIdx? (·.1 == ack) with
    | some i => l.replay.drop (i + 1)
    | none => l.replay
  Link.pump { l with replay := kept } l.queue.length

/-- Every flit of the replay buffer is sent again, in order, and counted in REPLAYS (R404, R406). -/
def Link.resend (l : Link) : Link := { l with replays := min (l.replays + l.replay.length) 65535 }

/-! Routes (R407 to R409). -/

/-- Whether a link can carry a route: it runs, or it retrains with its replay buffer kept (R404). -/
def Link.stands (l : Link) : Bool := l.st == .active || l.st == .retrain

/-- The port that a triple is bound to (R407): the one of a failover, or that of the entry's ports which its hash lane selects (DESIGN CHOICE,
DESIGN CHOICE, log 24). -/
def State.portOf (s : State) (dst lane : Nat) : Option Nat :=
  match s.routes.find? (·.1 == (dst, lane)) with
  | some r => some r.2
  | none => (Config.routePorts dst)[lane % max 1 (Config.routePorts dst).length]?

/-- Whether some link towards a package is ACTIVE. -/
def State.routed (s : State) (dst : Nat) : Bool := (Config.routePorts dst).any fun p => (s.link p).st == .active

/-- Packages of the domain to which no link is ACTIVE, with the clock since which that is so (R409). -/
def noteRoutes (s : State) : State :=
  { s with cut := (s.domain.filter fun d => !s.routed d).map fun d => (s.cut.find? (·.1 == d)).getD (d, s.clock)
           lost := s.lost.filter fun d => !s.routed d }

/-- The partition whose memory is being reset, if an address lies in one other than the asking die's (R433). -/
def resetHolds (s : State) (pa die : Nat) : Bool :=
  s.parts.any fun p => p.resetting && !p.dies.contains die && bitsOf pa 51 44 == Config.packageNumber.toNat && bitsOf pa 43 40 == 0 &&
    p.dies.contains (bitsOf pa 39 36 / 2)

/-- An HBM stack serves no access during a refresh burst of 40 ns (R422). -/
def Stack.bursting (x : Stack) (clock : Nat) : Bool := x.bursts != 0 && clock < x.lastBurst + 120

/-- Whether the stack of an address is in a burst. -/
def burstHolds (s : State) (pa : Nat) : Bool :=
  s.hbmStacks.any (·.bursting s.clock) && bitsOf pa 43 40 == 0 && bitsOf pa 51 44 == Config.packageNumber.toNat &&
    (s.hbmStacks.getD (bitsOf pa 39 36) {}).bursting s.clock

/-- A request waits while its package has no route, until 10 ms have passed (R409), while the partition that owns its memory is being reset
(R433), and during a burst of its stack (R422) (DESIGN CHOICE, log 91). -/
def waitRoute (s : State) (pa die : Nat) : State :=
  if s.cut.any (·.1 == bitsOf pa 51 44) || resetHolds s pa die || burstHolds s pa then { s with waits := true } else s

/-! Messages out (R408). -/

/-- A message handed to the port that its triple is bound to; while that link is down it stays with what is unacknowledged. -/
def transmit (s : State) (m : RemoteMsg) : State :=
  match s.portOf m.dst m.lane with
  | none => s
  | some p =>
    let l := s.link p
    if l.stands then s.setLink p (Link.pump { l with queue := l.queue ++ [m] } (l.queue.length + 1)) else s

/-- A request for another package, with the sequence of its triple; it is kept until it is acknowledged. -/
def sendRemote (s : State) (die pa : Nat) (req : RemoteReq) : State :=
  let dst := bitsOf pa 51 44
  let lane := hashLane pa
  let seq := ((s.nextOut.find? (·.1 == (dst, lane))).map (·.2)).getD 0
  let m : RemoteMsg := { src := Config.packageNumber.toNat, dst, lane, seq, addr := pa, req }
  transmit { s with nextOut := ((dst, lane), (seq + 1) % 2 ^ 32) :: s.nextOut.filter (·.1 != (dst, lane)), sent := s.sent ++ [(die, m)] } m

/-- A write goes out where its address lies in another package of the domain. -/
def sendWrite (s : State) (die pa : Nat) (data : List (Byte × Bool)) : State :=
  if s.domain.contains (bitsOf pa 51 44) then sendRemote s die pa (.write data) else s

/-- What is not acknowledged on the triples of a port goes out again, oldest first (R408). -/
def resendOn (s : State) (port : Nat) : State :=
  (s.sent.filter fun x => s.portOf x.2.dst x.2.lane == some port).foldl (fun s x => transmit s x.2) s

/-- An end-to-end acknowledgement: the messages of its triple up to a sequence have been performed (R408). -/
def takeAck (s : State) (m : RemoteMsg) (seq : Nat) : State :=
  { s with sent := s.sent.filter fun x => !(x.2.dst == m.src && x.2.lane == m.lane && (seq + 2 ^ 32 - x.2.seq) % 2 ^ 32 < 2 ^ 31) }

/-- A message that has come is acknowledged, again where it had been performed before (R408). -/
def sendAck (s : State) (m : RemoteMsg) : State :=
  transmit s { src := m.dst, dst := m.src, lane := m.lane, seq := m.seq, addr := m.addr, req := .ack m.seq }

end Sys2Proof.Machine
end

