-- ==== Sys2Proof/Machine/Memory.lean ====
section
/-! DEFINITION. Memory below the lanes: bytes in canonical form, poison, page walks and translation caches (R304 to
R310), the object table and its cache (R301, R302), the checks of R152, the caches with their stamps (R291 to R298), and
the event ring that home watches post to (R392, R427). -/

namespace Sys2Proof.Machine

/-! Bytes. -/

/-- The byte at an address; an unlisted address reads as 0 (DESIGN CHOICE, log 2). -/
def readByte : Memory → Nat → Byte
  | [], _ => 0
  | (b, x) :: m, a => if a < b then 0 else if a = b then x else readByte m a

/-- Write one byte, keeping the form of `Memory.wf`. -/
def writeByte : Memory → Nat → Byte → Memory
  | [], a, v => if v = 0 then [] else [(a, v)]
  | (b, x) :: m, a, v =>
    if a < b then (if v = 0 then (b, x) :: m else (a, v) :: (b, x) :: m)
    else if a = b then (if v = 0 then m else (a, v) :: m)
    else (b, x) :: writeByte m a v

/-- Every address above `lo`, rising, and no entry that an unlisted address would read as. -/
def Memory.wfFrom : (lo : Option Nat) → Memory → Bool
  | _, [] => true
  | lo, (a, v) :: m => (match lo with | none => true | some l => l < a) && v != 0 && Memory.wfFrom (some a) m

/-- The canonical form: addresses strictly rising, no entry equal to 0. -/
def Memory.wf (m : Memory) : Bool := Memory.wfFrom none m

def readBytes (m : Memory) (a n : Nat) : List Byte := (List.range n).map fun i => readByte m (a + i)

def writeBytes (m : Memory) (a : Nat) : List Byte → Memory
  | [] => m
  | b :: bs => writeBytes (writeByte m a b) (a + 1) bs

/-- Little-endian number of bytes (R62). -/
def leNat : List Byte → Nat
  | [] => 0
  | b :: bs => b.toNat + 256 * leNat bs

/-- The `n` bytes of a number, least significant first (R62). -/
def leBytes : (n v : Nat) → List Byte
  | 0, _ => []
  | n + 1, v => BitVec.ofNat 8 v :: leBytes n (v / 256)

/-- A byte with the poison of its granule (R384). -/
abbrev PByte := Byte × Bool

def clean (bs : List Byte) : List PByte := bs.map fun b => (b, false)
def bytesOf (d : List PByte) : List Byte := d.map Prod.fst
def anyPoison (d : List PByte) : Bool := d.any Prod.snd

/-- Insertion in a strictly rising list. -/
def insertNat (a : Nat) : List Nat → List Nat
  | [] => [a]
  | b :: l => if a < b then a :: b :: l else if a = b then b :: l else b :: insertNat a l

/-- Poison of granules after a write of `n` bytes at `a` (R384): a whole granule takes the data's poison, a part of one
keeps its own or gains the data's. `bad i` is the poison of the i-th byte written. -/
def poisonWrite (xs : List Nat) (a n : Nat) (bad : Nat → Bool) : List Nat :=
  (List.range ((a + n + 7) / 8 - a / 8)).foldl (fun xs i =>
    let g := a / 8 + i
    let lo := max a (8 * g)
    let hi := min (a + n) (8 * g + 8)
    let p := (List.range (hi - lo)).any fun j => bad (lo - a + j)
    if p then insertNat g xs
    else if lo = 8 * g ∧ hi = 8 * g + 8 then xs.filter (· != g) else xs) xs

def dataPoison (d : List PByte) (i : Nat) : Bool := (d.getD i (0, false)).2

/-! Units of the package. -/

/-- Meridian time in ns (R265). -/
def State.now (s : State) : Nat := s.clock / 3

def State.die (s : State) (n : Nat) : Die := (s.dies.find? (·.num == n)).getD { num := n }

def State.setDie (s : State) (d : Die) : State :=
  { s with dies := if s.dies.any (·.num == d.num) then s.dies.map (fun x => if x.num = d.num then d else x)
                   else s.dies ++ [d] }

def State.coreInHand (s : State) (id : CoreId) : Bool := s.hand.isSome && s.c.die == id.die && s.c.num == id.core

/-- A core of the package, in hand or in the list. -/
def State.core (s : State) (id : CoreId) : Core :=
  if s.coreInHand id then s.c
  else (s.cores.find? fun c => c.die == id.die && c.num == id.core).getD { die := id.die, num := id.core }

def State.setCore (s : State) (k : Core) : State :=
  if s.coreInHand ⟨k.die, k.num⟩ then { s with c := k }
  else if s.cores.any (fun c => c.die == k.die && c.num == k.num) then
    { s with cores := s.cores.map fun c => if c.die = k.die ∧ c.num = k.num then k else c }
  else { s with cores := s.cores ++ [k] }

def State.part (s : State) (n : Nat) : Option Part := s.parts.find? (·.num == n)

def State.setPart (s : State) (p : Part) : State :=
  { s with parts := s.parts.map fun x => if x.num = p.num then p else x }

def State.modPart (s : State) (n : Nat) (f : Part → Part) : State :=
  { s with parts := s.parts.map fun x => if x.num = n then f x else x }

/-- The partition that owns a die (R432). -/
def State.partOfDie (s : State) (d : Nat) : Option Part := s.parts.find? (·.dies.contains d)

def State.space (s : State) (n : Nat) : Option Space := s.spaces.find? (·.num == n)

/-- The members of the constellation that contains a core (R330). -/
def Die.consOf (d : Die) (core : Nat) : List Nat := (d.cons.find? (·.contains core)).getD [core]

/-- A constellation's name: its lowest member. -/
def Die.consId (d : Die) (core : Nat) : Nat := (d.consOf core).foldl min core

/-! The event ring (R426 to R428). -/

def ringOn (p : Part) : Bool :=
  64 ≤ p.evsize && p.evsize ≤ 65536 && [6, 7, 8, 9, 10, 11, 12, 13, 14, 15, 16].any (fun k => p.evsize == 2 ^ k)

/-- The 32 bytes of an entry (R428). -/
def eventBytes (part seq : Nat) (e : Event) : List Byte :=
  leBytes 8 seq ++ leBytes 8 (e.type * 2 ^ 56 + part * 2 ^ 48 + e.detail % 2 ^ 48) ++ leBytes 8 e.data ++ leBytes 8 e.time

/-- Address of host memory in the physical map (R304: the own package, KIND 1), which holds 40 bits of a host address (DESIGN
CHOICE, log 125). -/
def hostAddr (a : Nat) : Nat := Config.packageNumber.toNat * 2 ^ 44 + 2 ^ 40 + a % 2 ^ 40

/-- A host card's launch scope goes back to FREE once its event is posted (R323). -/
def Event.giveBack (e : Event) (p : Part) : Part :=
  match e.free with
  | some (n, serial) => { p with scopes := p.scopes.modify n fun f => if f.serial = serial ∧ f.done then {} else f }
  | none => p

/-- Post one entry when the ring has room: EVPROD rises to it (R426, R427). -/
def postNow (s : State) (p : Part) (e : Event) : State :=
  let seq := p.evprod + 1
  let a := hostAddr (p.evbase.toNat + 32 * ((seq - 1) % p.evsize))
  let s := { s with mem := writeBytes s.mem a (eventBytes p.num seq e)
                    memPoison := poisonWrite s.memPoison a 32 fun _ => false }
  s.setPart { e.giveBack p with evprod := seq }

def ringRoom (p : Part) : Bool := ringOn p && p.evprod + 1 - p.evcons ≤ p.evsize

/-- The buffer after its oldest entry has gone out: where events were lost, the LOST entry takes the room (R427) (DEDUCED, log 63). -/
def lostEntry (s : State) (p : Part) (rest : List Event) : Part :=
  if p.evlost = 0 then { p with evbuf := rest }
  else { p with evbuf := rest ++ [{ type := 8, detail := 0, data := p.evlost, time := s.now }], evlost := 0 }

/-- Post what waits while there is room, oldest first; `n` entries at most (R427). -/
def drainEvents (s : State) (part : Nat) : Nat → State
  | 0 => s
  | n + 1 =>
    match s.part part with
    | none => s
    | some p =>
      if ringRoom p then
        match p.evbuf with
        | e :: rest => drainEvents (postNow s (lostEntry s p rest) e) part n
        | [] => s
      else s

/-- An event of a partition: into the buffer of 1,024, from which the ring takes it, else counted (R427). TYPE 7 is not
posted under version 1.0 (R431) (DEDUCED, log 79). An entry that is lost gives its scope back at once (DESIGN CHOICE, log 52). -/
def postEvent (s : State) (part type detail data : Nat) (free : Option (Nat × Nat) := none) : State :=
  match s.part part with
  | none => s
  | some p =>
    let e : Event := { type, detail, data, time := s.now, free }
    if type = 7 ∧ p.hostver = 0x10 then s
    else if p.evbuf.length < 1024 then drainEvents (s.setPart { p with evbuf := p.evbuf ++ [e] }) part 1026
    else s.setPart { e.giveBack p with evlost := p.evlost + 1 }

/-! The die level (R292) and home watches (R392). -/

/-- Who writes at a home slice, in the order of R392. -/
inductive Writer where
  | lane (die core : Nat) | copy (die core : Nat) | card (die : Nat) | host | remote
  deriving DecidableEq, Repr

/-- DEDUCED, log 41. -/
def Writer.code : Writer → Nat × Nat × Nat
  | .lane d c => (0, d, c)
  | .copy d c => (1, d, c)
  | .card d => (2, d, 0)
  | .host => (3, 0, 0)
  | .remote => (4, 0, 0)

/-- The die of its package that owns a physical address, if it lies in HBM (R304). -/
def stackDie (pa : Nat) : Option Nat := if bitsOf pa 43 40 = 0 then some (bitsOf pa 39 36 / 2) else none

/-- The die of this package that owns a physical address; none for host memory and for other packages (R304). -/
def ownerDie (pa : Nat) : Option Nat := if bitsOf pa 51 44 = Config.packageNumber.toNat then stackDie pa else none

def watchHit (h : W64) (atomic : Bool) (pa : Nat) : Bool :=
  let v := h.toNat
  let size := min (bitsOf v 61 56) 20
  bitOf v 63 && (!atomic || bitOf v 62) && v % 2 ^ 52 / 2 ^ (size + 6) == pa % 2 ^ 52 / 2 ^ (size + 6)

/-- One home watch register against a write of a line: a report, or a match merged within 1 us (R392). -/
def watchOne (s : State) (part i : Nat) (atomic : Bool) (pa : Nat) (who : Writer) : State :=
  match s.part part with
  | none => s
  | some p =>
    if watchHit (p.hwatch.getD i 0) atomic pa then
      let last := p.hwatchAt.getD i (none, 0)
      if (match last.1 with | none => true | some t => t + 1000 ≤ s.now) then
        let c := who.code
        postEvent (s.setPart { p with hwatchAt := p.hwatchAt.set i (some s.now, 0) }) part 4
          (i + c.1 * 2 ^ 8 + c.2.1 * 2 ^ 16 + c.2.2 * 2 ^ 24 + min last.2 65535 * 2 ^ 32) (pa / 64 * 64)
      else s.setPart { p with hwatchAt := p.hwatchAt.set i (last.1, last.2 + 1) }
    else s

def watchAll (s : State) (atomic : Bool) (pa : Nat) (who : Writer) : State :=
  match (ownerDie pa).bind s.partOfDie with
  | none => s
  | some p => (List.range 8).foldl (fun s i => watchOne s p.num i atomic pa who) s

/-- Whether an address lies in a package to which there has been no route for 10 ms (R409). -/
def isLost (s : State) (pa : Nat) : Bool := s.lost.contains (bitsOf pa 51 44)

/-- The core that last wrote a line is kept (R330). -/
def Writer.note (who : Writer) (pa : Nat) (xs : List (Nat × CoreId)) : List (Nat × CoreId) :=
  let xs := xs.filter (·.1 != pa / 64)
  match who with
  | .lane d c | .copy d c => (pa / 64, ⟨d, c⟩) :: xs
  | _ => xs

/-- The event of a request that a lost package can no longer complete (R409), for the partition of the requesting die. -/
def lostEvent (s : State) (pa die : Nat) : State :=
  match s.partOfDie die with
  | some p => postEvent s p.num 5 (5 * 2 ^ 40 + 2 * 2 ^ 32 + 15 * 2 ^ 24) pa
  | none => s

/-- The bytes of one write put in their place, with their poison; what lies in another package goes out to it (R408). -/
def homePut (who : Writer) (s : State) (pa : Nat) (d : List PByte) : State :=
  sendWrite { s with mem := writeBytes s.mem pa (bytesOf d)
                     memPoison := poisonWrite s.memPoison pa d.length (dataPoison d)
                     lastWriter := who.note pa s.lastWriter } who.code.2.1 pa d

/-- One write of a line performed at HOME (R271), in the runs of bytes named by their offsets from `pa`: the bytes, their poison,
and each watch on the line once (R392). A write to a lost package is discarded, and posts one event (R409). -/
def homeRuns (s : State) (pa : Nat) (runs : List (Nat × List PByte)) (atomic : Bool) (who : Writer) : State :=
  if runs.isEmpty then s
  else if isLost s pa then lostEvent s pa who.code.2.1
  else watchAll (runs.foldl (fun s r => homePut who s (pa + r.1) r.2) s) atomic pa who

/-- A write of consecutive bytes of one line performed at HOME. -/
def homeWrite (s : State) (pa : Nat) (d : List PByte) (atomic : Bool) (who : Writer) : State :=
  homeRuns s pa [(0, d)] atomic who

/-- Bytes at the die level with their poison (DEDUCED, log 87). -/
def homeRead (s : State) (pa n : Nat) : List PByte :=
  if isLost s pa then List.replicate n (0, true)
  else (List.range n).map fun i => (readByte s.mem (pa + i), s.memPoison.contains ((pa + i) / 8))

/-! Page tables (R305 to R308). -/

inductive Walk where
  | absent | malformed | leaf (level pte : Nat)
  deriving DecidableEq, Repr

def pageBits (level : Nat) : Nat := if level = 1 then 30 else if level = 2 then 21 else 16
def levelIndex (level va : Nat) : Nat :=
  match level with
  | 0 => bitsOf va 51 39 | 1 => bitsOf va 38 30 | 2 => bitsOf va 29 21 | _ => bitsOf va 20 16
def tableAlign (level : Nat) : Nat := if level = 3 then 256 else 4096

/-- A frame that a leaf may map (R304): a 52-bit address of KIND 0 below the stack's capacity, or of KIND 1. -/
def frameOk (pa size : Nat) : Bool :=
  decide (pa < 2 ^ 52) &&
  match bitsOf pa 43 40 with
  | 0 => bitsOf pa 35 0 + size ≤ Config.stackBytes
  | 1 => bitsOf pa 39 0 + size ≤ 2 ^ 40
  | _ => false

def pteAddr (pte : Nat) : Nat := pte % 2 ^ 52 / 64 * 64

/-- A replica record of R307 fit for a leaf of `size` bytes. -/
def recordOk (m : Memory) (rec size : Nat) : Bool :=
  let w := leNat (readBytes m rec 8)
  let span := 2 ^ pageBits (3 - w % 4)
  let count := bitsOf w 6 4
  w % 4 != 3 && bitsOf w 3 2 == 0 && 1 ≤ count && count ≤ 6 && w / 128 == 0 && size ≤ span &&
  (List.range 7).all (fun i =>
    let f := leNat (readBytes m (rec + 8 + 8 * i) 8)
    if i ≤ count then f % span == 0 && frameOk f span else f == 0)

/-- Whether a leaf keeps R304 to R307. -/
def leafOk (m : Memory) (level pte : Nat) : Bool :=
  let size := 2 ^ pageBits level
  bitsOf pte 61 53 == 0 && bitsOf pte 5 1 == 0 &&
  match bitsOf pte 63 62 with
  | 0 | 2 => pteAddr pte % size == 0 && frameOk (pteAddr pte) size
  | 1 => recordOk m (pteAddr pte) size
  | _ => false

/-- The walk, level by level (R305, R306, R308). -/
def walkFrom (m : Memory) (va : Nat) : (levels : List Nat) → (table : Nat) → Walk
  | [], _ => .malformed
  | l :: ls, table =>
    let e := leNat (readBytes m (table + 8 * levelIndex l va) 8)
    if e % 2 = 0 then .absent
    else if bitOf e 52 then
      if l = 0 then .malformed else if leafOk m l e then .leaf l e else .malformed
    else if l = 3 then .malformed
    else if bitsOf e 63 53 != 0 || bitsOf e 5 1 != 0 || pteAddr e % tableAlign (l + 1) != 0 then .malformed
    else walkFrom m va ls (pteAddr e)

def walk (m : Memory) (root va : Nat) : Walk := walkFrom m va [0, 1, 2, 3] root

/-- The root of a space's page tables (R305). -/
def State.root (s : State) (space : Nat) : Nat := ((s.space space).map (·.root)).getD 0

def Xlat.covers (x : Xlat) (space va : Nat) : Bool :=
  x.space == space && x.page == va / 2 ^ pageBits x.level

/-- What the leaf says to an access: served (its physical address), to wait (MIGRATING), or no write allowed. -/
inductive Served where
  | at_ (pa : Nat) | absent | malformed | migrating (old : Nat) | dup (owner : Nat)
  deriving DecidableEq, Repr

/-- The copy of a READ_DUPLICATE page that die `d` reads (R307). -/
def replicaFor (m : Memory) (rec va d : Nat) : Nat :=
  let w := leNat (readBytes m rec 8)
  let span := 2 ^ pageBits (3 - w % 4)
  let frame (i : Nat) : Nat := leNat (readBytes m (rec + 8 + 8 * i) 8)
  let ids := (List.range (bitsOf w 6 4)).map (· + 1)
  let own := Config.packageNumber.toNat
  let near := ids.find? fun i => ownerDie (frame i) == some d
  let pkg := ids.find? fun i => bitsOf (frame i) 51 44 == own
  frame ((near.or pkg).getD 0) + va % span

/-- Serve a virtual address through a leaf, for a load from die `d`. -/
def serveLeaf (m : Memory) (level pte va d : Nat) : Served :=
  let off := va % 2 ^ pageBits level
  match bitsOf pte 63 62 with
  | 0 => .at_ (pteAddr pte + off)
  | 2 => .migrating (pteAddr pte + off)
  | _ => .dup (replicaFor m (pteAddr pte) va d)

/-- A cache of `cap` entries takes one more; full, it gives up one that the device chooses (DESIGN CHOICE, log 28). -/
def cachePut {α : Type} (cap pick : Nat) (xs : List α) (x : α) : List α :=
  if xs.length < cap then x :: xs else x :: xs.eraseIdx (Config.victim pick % cap)

/-- Translation at a memory port (R309): the port's cache, the die's, then a walk; what is found is kept. -/
def portLeaf (s : State) (id : CoreId) (space va : Nat) : State × Walk :=
  let k := s.core id
  match k.port.find? (·.covers space va) with
  | some x => (s, .leaf x.level x.pte)
  | none =>
    let d := s.die id.die
    match d.xlat.find? (·.covers space va) with
    | some x => (s.setCore { k with port := cachePut 512 s.clock k.port x }, .leaf x.level x.pte)
    | none =>
      match walk s.mem (s.root space) va with
      | .leaf l e =>
        let x : Xlat := { space, page := va / 2 ^ pageBits l, level := l, pte := e }
        ((s.setCore { k with port := cachePut 512 s.clock k.port x }).setDie { d with xlat := cachePut 8192 s.clock d.xlat x }, .leaf l e)
      | w => (s, w)

def portServe (s : State) (id : CoreId) (space va : Nat) : State × Served :=
  match portLeaf s id space va with
  | (s, .leaf l e) => (s, serveLeaf s.mem l e va id.die)
  | (s, .absent) => (s, .absent)
  | (s, .malformed) => (s, .malformed)

/-- A record of the fault service's list; records for one page coalesce (R311). -/
def addFault (s : State) (f : PageWait) : State :=
  if s.faults.any fun y => y.space == f.space && y.page == f.page then
    { s with faults := s.faults.map fun y => if y.space = f.space ∧ y.page = f.page then { y with write := y.write || f.write } else y }
  else { s with faults := s.faults ++ [f] }

/-- A malformed walk at the port is reported (R308), for no lane. -/
def reportMalformed (s : State) (space va : Nat) : State :=
  addFault s { space, page := va / 65536, write := false, cause := 3, lanes := 0, addr := 0, pc := 0 }

/-- Presence and state of a page at issue, through the page-state cache (R309, check 8 of R152). -/
def pageState (s : State) (id : CoreId) (space va : Nat) : State × Walk :=
  let k := s.core id
  match k.pages.find? (·.covers space va) with
  | some x => (s, .leaf x.level x.pte)
  | none =>
    match walk s.mem (s.root space) va with
    | .leaf l e =>
      (s.setCore { k with pages := cachePut 256 s.clock k.pages { space, page := va / 2 ^ pageBits l, level := l, pte := e } }, .leaf l e)
    | w => (s, w)

/-! Objects (R301, R302). -/

def pObj (p : W64) : Nat := p.toNat / 2 ^ 52
def pAddr (p : W64) : Nat := p.toNat % 2 ^ 52
/-- An object-named pointer. -/
def mkPtr (obj a : Nat) : W64 := BitVec.ofNat 64 (obj * 2 ^ 52 + a % 2 ^ 52)

/-- PADD (R119): an address outside the field gives the null object. -/
def padd (p : W64) (off : Int) : W64 :=
  let sum : Int := pAddr p + off
  if 0 ≤ sum ∧ sum < 2 ^ 52 then mkPtr (pObj p) sum.toNat
  else mkPtr 0 (sum % 2 ^ 52).toNat

/-- Bytes at a virtual address as the walk from a root serves it now, for the device's own reads (DEDUCED, log 20). -/
def devRead (s : State) (root va n d : Nat) : Option (List Byte) :=
  match walk s.mem root va with
  | .leaf l e =>
    match serveLeaf s.mem l e va d with
    | .at_ pa | .migrating pa | .dup pa => some (readBytes s.mem pa n)
    | _ => none
  | _ => none

def descOk (x : Desc) (w0 : Nat) : Bool :=
  bitsOf w0 63 52 == 0 && bitsOf w0 15 0 == 0 &&
  x.reslim % 65536 == 0 && 65536 ≤ x.reslim && x.base + x.reslim ≤ 2 ^ 52 &&
  x.comlim % 65536 == 0 && x.comlim ≤ x.reslim &&
  bitOf x.ctl 63 && bitsOf x.ctl 62 8 == 0 && !bitOf x.ctl 5

/-- An object's entry in a table under a page-table root; none when it is not valid (R301). -/
def entryIn (s : State) (root : Nat) (table : W64) (space obj : Nat) : Option Desc :=
  match devRead s root (pAddr table + 32 * obj) 32 0 with
  | none => none
  | some bs =>
    let w (i : Nat) : Nat := leNat ((bs.drop (8 * i)).take 8)
    let x : Desc := { space, obj, base := w 0, reslim := w 1, comlim := w 2, ctl := w 3 }
    if descOk x (w 0) then some x else none

/-- An object's entry in a space's table. -/
def tableEntry (s : State) (space obj : Nat) : Option Desc :=
  match s.space space with
  | none => none
  | some sp => entryIn s sp.root sp.table space obj

def Desc.kind (x : Desc) : Nat := bitsOf x.ctl 7 6
def Desc.has (x : Desc) (right : Nat) : Bool := bitOf x.ctl right

/-- How a virtual address is served at HOME now, for an engine, an atomic or the device, from die `d`. -/
def homeServe (s : State) (space va d : Nat) : Served :=
  match walk s.mem (s.root space) va with
  | .leaf l e => serveLeaf s.mem l e va d
  | .absent => .absent
  | .malformed => .malformed

/-- A read or write through a page-table root that meets a page under migration waits (R270, R312): the step is taken back (DESIGN
CHOICE, log 91). One that meets a malformed entry reports it (R308). -/
def waitWalk (s : State) (root space va d : Nat) : State :=
  match walk s.mem root va with
  | .leaf l e =>
    match serveLeaf s.mem l e va d with
    | .migrating _ => { s with waits := true }
    | .at_ pa | .dup pa => waitRoute s pa d
    | _ => s
  | .malformed => reportMalformed s space va
  | .absent => s

/-- An access of a space at HOME waits for a page under migration. -/
def waitMoving (s : State) (space va d : Nat) : State := waitWalk s (s.root space) space va d

/-- The device's read of an object's entry in a space's table waits for a page under migration (R270). -/
def waitEntry (s : State) (space obj : Nat) : State :=
  match s.space space with
  | some sp => waitMoving s space (pAddr sp.table + 32 * obj) 0
  | none => s

/-- A core's copy of an entry (R302), in a cache of 64 (DESIGN CHOICE, log 29). -/
def descOf (s : State) (id : CoreId) (space obj : Nat) : State × Option Desc :=
  let k := s.core id
  match k.desc.find? fun x => x.space == space && x.obj == obj with
  | some x => (s, some x)
  | none =>
    let s := waitEntry s space obj
    match tableEntry s space obj with
    | some x => (s.setCore { k with desc := cachePut 64 s.clock k.desc x }, some x)
    | none => (s, none)

/-! The checks of R152. -/

/-- Causes of R152, in the order of the checks. -/
inductive Cause where
  | null | rights | align | bound | quota | page (w page : Nat) | watch (n : Nat)
  deriving DecidableEq, Repr

def Cause.regionPrecise : Cause → Bool | .watch _ => false | _ => true

/-- What an access asks for: rights (bits of R301), the kinds it may touch, its alignment, and whether it writes. -/
structure Want where
  rights : List Nat
  kinds : List Nat
  align : Nat := 1
  write : Bool := false
  deriving DecidableEq, Repr

def wantLoad : Want := { rights := [0], kinds := [0, 3] }
def wantStore : Want := { rights := [1], kinds := [0], write := true }
def wantAtomic : Want := { rights := [2], kinds := [0], write := true }

/-- Checks 1 to 7 of R152 on `n` bytes at `p`. -/
def checkEntry (x : Option Desc) (p : W64) (n : Nat) (q : Want) : Option Cause :=
  if pObj p = 0 then some .null
  else
    match x with
    | none => some .rights
    | some x =>
      if !q.kinds.contains x.kind then some .rights
      else if !q.rights.all x.has then some .rights
      else if pAddr p % q.align != 0 then some .align
      else if pAddr p < x.base || x.base + x.reslim < pAddr p + n then some .bound
      else if x.base + x.comlim < pAddr p + n then some .quota
      else none

/-- Check 8 on one page: 0 not present, 1 READ_DUPLICATE, 2 MIGRATING, 3 malformed (R311), with the page. -/
def checkPage (s : State) (id : CoreId) (space va : Nat) (write : Bool) : State × Option Cause :=
  match pageState s id space va with
  | (s, .absent) => (s, some (.page 0 (va / 65536)))
  | (s, .malformed) => (s, some (.page 3 (va / 65536)))
  | (s, .leaf _ e) =>
    if write && bitsOf e 63 62 == 1 then (s, some (.page 1 (va / 65536)))
    else if write && bitsOf e 63 62 == 2 then (s, some (.page 2 (va / 65536)))
    else (s, none)

/-- Checks 1 to 8 for a core (R152); a range over two pages has both checked (R150). -/
def checkGlobal (s : State) (id : CoreId) (space : Nat) (p : W64) (n : Nat) (q : Want) : State × Option Cause :=
  -- entry 0 is never consulted (R301)
  if pObj p = 0 then (s, some .null)
  else match descOf s id space (pObj p) with
  | (s, x) =>
    match checkEntry x p n q with
    | some c => (s, some c)
    | none =>
      match checkPage s id space (pAddr p) q.write with
      | (s, some c) => (s, some c)
      | (s, none) =>
        if pAddr p / 65536 = (pAddr p + n - 1) / 65536 then (s, none)
        else checkPage s id space (pAddr p + n - 1) q.write

/-! Caches (R291 to R298). -/

def lineKey (p : W64) : Nat := p.toNat / 64

def newLine (space ln : Nat) : Line :=
  { space, line := ln, data := List.replicate 64 0, held := List.replicate 64 false,
    dirty := List.replicate 64 false, fill := 0 }

def Line.full (x : Line) : Bool := x.held.all id
def Line.isDirty (x : Line) : Bool := x.dirty.any id

/-- Clean bytes take what comes from below; dirty bytes are kept (R295). -/
def Line.refill (x : Line) (d : List PByte) (t : Nat) : Line :=
  { x with
    data := (List.range 64).map fun i => if x.dirty.getD i false then x.data.getD i 0 else (d.getD i (0, false)).1
    held := List.replicate 64 true
    fill := t
    poison := (List.range 8).filter fun g =>
      (List.range 8).any fun j =>
        if x.dirty.getD (8 * g + j) false then x.poison.contains g else dataPoison d (8 * g + j) }

/-- Write bytes at offset `o` of a line; they become dirty. -/
def Line.put (x : Line) (o : Nat) (d : List PByte) : Line :=
  { x with
    data := (List.range 64).map fun i => if o ≤ i ∧ i < o + d.length then (d.getD (i - o) (0, false)).1 else x.data.getD i 0
    held := (List.range 64).map fun i => (o ≤ i && i < o + d.length) || x.held.getD i false
    dirty := (List.range 64).map fun i => (o ≤ i && i < o + d.length) || x.dirty.getD i false
    poison := poisonWrite x.poison o d.length (dataPoison d) }

def Line.bytes (x : Line) (o n : Nat) : List PByte :=
  (List.range n).map fun i => (x.data.getD (o + i) 0, x.poison.contains ((o + i) / 8))

def Line.clean (x : Line) : Line := { x with dirty := List.replicate 64 false, writers := [] }

/-- A line put in the place of the cached one, or beside the others as the newest. -/
def setLine (xs : List Line) (x : Line) : List Line :=
  if xs.any (fun y => y.space == x.space && y.line == x.line && y.cons == x.cons) then
    xs.map fun y => if y.space = x.space ∧ y.line = x.line ∧ y.cons = x.cons then x else y
  else x :: xs

def findLine (xs : List Line) (space ln cons : Nat) : Option Line :=
  xs.find? fun y => y.space == space && y.line == ln && y.cons == cons

/-- Line addresses of pointers: the object field lies above bit 46 of a line number. -/
def lineVa (ln : Nat) : Nat := ln * 64 % 2 ^ 52

/-- Count on a PERFQ counter of the team in hand (R267). -/
def State.perf (s : State) (n k : Nat) : State := { s with t := { s.t with perf := s.t.perf.modify n (· + k) } }

/-- A Sextant counter of two cores of a die, saturating at 32 bits (R330): CCHIT 0, DCREF 1, PEER 2, MSG 3. -/
def sextantAdd (s : State) (die i j k n : Nat) : State :=
  if i = j then s
  else
    let d := s.die die
    let old := ((d.sextant.find? (·.1 == (i, j))).map (·.2)).getD [0, 0, 0, 0]
    let new := old.modify k fun v => min (v + n) 4294967295
    s.setDie { d with sextant := ((i, j), new) :: d.sextant.filter (·.1 != (i, j)) }

/-- A refill from the die level counts against the core of the die that last wrote the line (R330). -/
def countRefill (s : State) (id : CoreId) (pa : Nat) : State :=
  match s.lastWriter.find? (·.1 == pa / 64) with
  | some (_, k) => if k.die = id.die then sextantAdd s id.die id.core k.core 1 1 else s
  | none => s

/-- A line from the die level, translated at the core's port; zeros where nothing maps it (the checks come before). A page
under migration holds the read (R312); a malformed walk is reported (R308). -/
def homeLine (s : State) (id : CoreId) (space ln : Nat) : State × List PByte :=
  match portServe s id space (lineVa ln) with
  | (s, .at_ pa) | (s, .dup pa) => (countRefill (waitRoute s pa id.die) id pa, homeRead s pa 64)
  | (s, .migrating pa) => ({ s with waits := true }, homeRead s pa 64)
  | (s, .malformed) => (reportMalformed s space (lineVa ln), clean (List.replicate 64 0))
  | (s, .absent) => (s, clean (List.replicate 64 0))

/-- The runs of consecutive dirty bytes of a line, each granule apart: offset and bytes. -/
def Line.dirtyRuns (x : Line) : List (Nat × List PByte) :=
  (List.range 8).foldr (fun g acc =>
    let run := (List.range 8).filter fun j => x.dirty.getD (8 * g + j) false
    if run.isEmpty then acc
    else if run.length = 8 then (8 * g, x.bytes (8 * g) 8) :: acc
    else run.map (fun j => (8 * g + j, x.bytes (8 * g + j) 1)) ++ acc) []

/-- A constellation-cache line written to the die level, and its clean copy; a line that nothing maps stays dirty, and one of
a page under migration waits (R312). -/
def toHome (s : State) (id : CoreId) (y : Line) : State :=
  let go (s : State) (pa : Nat) : State :=
    let s := homeRuns s pa y.dirtyRuns false (.lane id.die id.core)
    let d := s.die id.die
    s.setDie { d with cc := setLine d.cc y.clean }
  match portServe s id y.space (lineVa y.line) with
  | (s, .at_ pa) | (s, .dup pa) => go (waitRoute s pa id.die) pa
  | (s, .migrating pa) => go { s with waits := true } pa
  | (s, .malformed) => reportMalformed s y.space (lineVa y.line)
  | (s, .absent) => s

/-- The line that a set of more than `ways` lines gives up, the newest being first (DESIGN CHOICE, log 28). -/
def evictee (ways pick : Nat) (xs : List Line) : Option Line :=
  if xs.length ≤ ways then none else xs[Config.victim pick % ways + 1]?

/-- Member and set of a constellation cache of `n` members that hold a line: 512 KiB a member in 16 ways (R291). The hash is not
architectural (DESIGN CHOICE, log 28). -/
def ccSet (n : Nat) (x : Line) : Nat × Nat := ((x.space + x.line) % max 1 n, x.line / max 1 n % 512)

/-- The constellation cache keeps to its capacity: a line evicted from the set of `x` is written back first (R294). -/
def ccTrim (s : State) (die : Nat) (x : Line) : State :=
  let d := s.die die
  let n := (d.consOf x.cons).length
  match evictee 16 s.clock (d.cc.filter fun y => y.cons == x.cons && ccSet n y == ccSet n x) with
  | none => s
  | some v =>
    let s := if v.isDirty then toHome s ⟨die, v.writers.headD v.cons⟩ v else s
    let d := s.die die
    s.setDie { d with cc := d.cc.filter fun y => !(y.space == v.space && y.line == v.line && y.cons == v.cons && !y.isDirty) }

/-- A line put into the constellation cache. -/
def ccPut (s : State) (die : Nat) (x : Line) : State :=
  let d := s.die die
  ccTrim (s.setDie { d with cc := setLine d.cc x }) die x

/-- Dirty bytes of one L1 line written into the constellation cache (R294). -/
def toCc (s : State) (id : CoreId) (x : Line) : State :=
  let d := s.die id.die
  let cons := d.consId id.core
  let y := (findLine d.cc x.space x.line cons).getD { newLine x.space x.line with cons }
  let y := x.dirtyRuns.foldl (fun y r => y.put r.1 r.2) y
  ccPut s id.die { y with writers := insertNat id.core y.writers }

/-- L1 keeps to its capacity, 192 KiB in 12 ways (R291): a line evicted is written back first (R294). -/
def l1Trim (s : State) (id : CoreId) (ln : Nat) : State :=
  match evictee 12 s.clock ((s.core id).l1.filter fun y => y.line % 256 == ln % 256) with
  | none => s
  | some v =>
    let s := if v.isDirty then toCc s id v else s
    let k := s.core id
    s.setCore { k with l1 := k.l1.filter fun y => !(y.space == v.space && y.line == v.line) }

/-- A line put into the L1 of a core. -/
def l1Put (s : State) (id : CoreId) (x : Line) : State :=
  let k := s.core id
  l1Trim (s.setCore { k with l1 := setLine k.l1 x }) id x.line

/-- The constellation cache's line for a load with stamp `acc` (R295); a hit counts against the member whose slice serves it (R330). -/
def ccLine (s : State) (id : CoreId) (space ln acc : Nat) : State × Line :=
  let d := s.die id.die
  let cons := d.consId id.core
  let x := (findLine d.cc space ln cons).getD { newLine space ln with cons }
  if x.full && acc < x.fill then
    let members := d.consOf id.core
    (sextantAdd s id.die id.core (members.getD (ccSet members.length x).1 id.core) 0 1, x)
  else
    match homeLine s id space ln with
    | (s, data) =>
      let x := x.refill data (s.clock + 1)
      ((ccPut s id.die x).perf 4 1, x)

/-- The L1 line for a load with stamps `al1` and `acc` (R295): a line filled after AL1 is hit; on a miss the next level is
checked against its own stamp. -/
def l1Line (s : State) (id : CoreId) (space ln al1 acc : Nat) : State × Line :=
  let x := (findLine (s.core id).l1 space ln 0).getD (newLine space ln)
  if x.full && al1 < x.fill then (s, x)
  else
    match ccLine s id space ln acc with
    | (s, y) =>
      let x := x.refill (y.bytes 0 64) (s.clock + 1)
      ((l1Put s id x).perf 3 1, x)

/-- `n` bytes at a pointer through the caches of a core. -/
def loadBytes (s : State) (id : CoreId) (space : Nat) (p : W64) (al1 acc : Nat) : (n : Nat) → State × List PByte
  | 0 => (s, [])
  | n + 1 =>
    match l1Line s id space (lineKey p) al1 acc with
    | (s, x) =>
      match loadBytes s id space (p + 1) al1 acc n with
      | (s, rest) => (s, x.bytes (p.toNat % 64) 1 ++ rest)

/-- Bytes stored into the L1 of a core (R293: performed at TEAM there). -/
def storeL1 (s : State) (id : CoreId) (space : Nat) (p : W64) : List PByte → State
  | [] => s
  | b :: bs =>
    let k := s.core id
    let x := (findLine k.l1 space (lineKey p) 0).getD (newLine space (lineKey p))
    -- the bytes of one granule are put together, so that a whole granule clears its poison
    let n := min (bs.length + 1) (8 - p.toNat % 8)
    let x := x.put (p.toNat % 64) ((b :: bs).take n)
    storeRest (l1Put s id x) id space p n bs
where
  /-- The bytes after the first granule, one at a time down the list. -/
  storeRest (s : State) (id : CoreId) (space : Nat) (p : W64) (skip : Nat) : List PByte → State
    | [] => s
    | b :: bs =>
      if 1 < skip then storeRest s id space (p + 1) (skip - 1) bs
      else
        let q := p + 1
        let k := s.core id
        let x := (findLine k.l1 space (lineKey q) 0).getD (newLine space (lineKey q))
        let n := min (bs.length + 1) (8 - q.toNat % 8)
        let x := x.put (q.toNat % 64) ((b :: bs).take n)
        storeRest (l1Put s id x) id space q n bs

/-- The core in whose name a constellation line goes home: the one given where it wrote the line, else one that did. -/
def Line.writer (y : Line) (id : CoreId) : CoreId :=
  if y.writers.contains id.core then id else ⟨id.die, y.writers.headD id.core⟩

/-- A cache without the clean bytes of the lines named: dirty bytes are kept, and the next load fetches the others again. -/
def giveUp (here : Line → Bool) (xs : List Line) : List Line :=
  (xs.filter fun x => !here x || x.isDirty).map fun x => if here x then { x with held := x.dirty } else x

/-- The clean bytes of a space in a core's L1 are given up: R291 leaves replacement to the device (DESIGN CHOICE, log 93). -/
def renewL1 (s : State) (id : CoreId) (space : Nat) : State :=
  let k := s.core id
  s.setCore { k with l1 := giveUp (·.space == space) k.l1 }

/-- The clean bytes of a space in a core's L1 and in its constellation's cache are given up (DESIGN CHOICE, log 93). -/
def renewCc (s : State) (id : CoreId) (space : Nat) : State :=
  let s := renewL1 s id space
  let d := s.die id.die
  s.setDie { d with cc := giveUp (fun y => y.space == space && y.cons == d.consId id.core) d.cc }

/-- Every dirty line of a space in a core's L1 goes to the constellation cache (R294). -/
def l1Back (s : State) (id : CoreId) (space : Nat) : State :=
  let dirty := (s.core id).l1.filter fun x => x.space == space && x.isDirty
  let s := dirty.foldl (fun s x => toCc s id x) s
  let k := s.core id
  s.setCore { k with l1 := k.l1.map fun x => if x.space = space ∧ x.isDirty then x.clean else x }

/-- Every line of a space that this core wrote goes to the die level (R294), and with them the constellation's other dirty lines of
the space: what a core of it released at CONST to this one happens before the release (R275) (DESIGN CHOICE, log 93). -/
def ccBack (s : State) (id : CoreId) (space : Nat) : State :=
  let d := s.die id.die
  let mine := d.cc.filter fun y => y.space == space && y.cons == d.consId id.core && y.isDirty
  mine.foldl (fun s y => toHome s (y.writer id) y) s

/-- The write-backs of a release at a scope (R294). -/
def releaseCaches (s : State) (id : CoreId) (space : Nat) (sc : Scope) : State :=
  match sc with
  | .wave | .team => s
  | .gang | .const => l1Back s id space
  | _ => ccBack (l1Back s id space) id space

/-- A load that acquires reads at its scope's point (R295): the dirty bytes of its line go there first, so that two acquirers at
the die level see writes in one order (R278). -/
def pushLine (s : State) (id : CoreId) (space ln : Nat) (sc : Scope) : State :=
  match sc with
  | .wave | .team => s
  | _ =>
    let s := match findLine (s.core id).l1 space ln 0 with
      | some x =>
        if x.isDirty then
          let s := toCc s id x
          let k := s.core id
          s.setCore { k with l1 := k.l1.map fun y => if y.space = space ∧ y.line = ln then y.clean else y }
        else s
      | none => s
    if sc = .gang ∨ sc = .const then s
    else
      let d := s.die id.die
      match findLine d.cc space ln (d.consId id.core) with
      | some y => if y.isDirty then toHome s id y else s
      | none => s

/-- A core's dirty bytes of one line go to the die level and both copies are dropped (R296). -/
def dropLine (s : State) (id : CoreId) (space ln : Nat) : State :=
  let k := s.core id
  let s := match findLine k.l1 space ln 0 with
    | some x => if x.isDirty then toCc s id x else s
    | none => s
  let s := s.setCore { k with l1 := k.l1.filter fun x => !(x.space == space && x.line == ln) }
  let d := s.die id.die
  let cons := d.consId id.core
  match findLine d.cc space ln cons with
  | none => s
  | some y =>
    let s := if y.isDirty then toHome s id y else s
    let d := s.die id.die
    s.setDie { d with cc := d.cc.filter fun x => !(x.space == space && x.line == ln && x.cons == cons) }

/-- Every dirty line of a core, whatever its space, written to the die level, and every line dropped (R298, R433). -/
def flushCore (s : State) (id : CoreId) : State :=
  let spaces := ((s.core id).l1.map (·.space) ++ (s.die id.die).cc.map (·.space)).eraseDups
  let s := spaces.foldl (fun s sp => ccBack (l1Back s id sp) id sp) s
  let k := s.core id
  s.setCore { k with l1 := [] }

/-- Every copy of a range's lines leaves the caches, dirty bytes written home (R310). -/
def flushRange (s : State) (space lo len : Nat) : State :=
  let here (x : Line) : Bool := x.space == space && lo ≤ lineVa x.line && lineVa x.line < lo + len
  let cores := (if s.hand.isSome then [s.c] else []) ++ s.cores
  let s := cores.foldl (fun s k => ((k.l1.filter here).map (·.line)).foldl (fun s ln => dropLine s ⟨k.die, k.num⟩ space ln) s) s
  s.dies.foldl (fun s d => (d.cc.filter here).foldl (fun s y =>
    let s := if y.isDirty then toHome s ⟨d.num, y.cons⟩ y else s
    let d := s.die d.num
    s.setDie { d with cc := d.cc.filter fun x => !(x.space == y.space && x.line == y.line && x.cons == y.cons) }) s) s

/-! Shootdowns (R302, R310). -/

/-- Every core of the package changed, in hand or not. -/
def State.mapCores (s : State) (f : Core → Core) : State :=
  { s with c := if s.hand.isSome then f s.c else s.c, cores := s.cores.map f }

/-- A held translation that may serve an address of a range. -/
def Xlat.meets (x : Xlat) (space lo len : Nat) : Bool :=
  x.space == space && x.page * 2 ^ pageBits x.level < lo + len && lo < (x.page + 1) * 2 ^ pageBits x.level

def dropXlats (space lo len : Nat) (xs : List Xlat) : List Xlat := xs.filter fun x => !x.meets space lo len

/-- Every translation of a range is dropped everywhere (R310). -/
def shootXlat (s : State) (space lo len : Nat) : State :=
  let s := s.mapCores fun k => { k with pages := dropXlats space lo len k.pages, port := dropXlats space lo len k.port }
  { s with dies := s.dies.map fun d => { d with xlat := dropXlats space lo len d.xlat } }

/-- Every core's copy of an object's descriptor is dropped (R302). -/
def shootDesc (s : State) (space obj : Nat) : State :=
  s.mapCores fun k => { k with desc := k.desc.filter fun x => !(x.space == space && x.obj == obj) }

/-! Accesses at HOME. -/

/-- The physical address that serves a virtual one at HOME for an engine or an atomic from die `d`. -/
def homeAddr (s : State) (space : Nat) (p : W64) (d : Nat) : Option Nat :=
  match homeServe s space (pAddr p) d with
  | .at_ pa | .migrating pa | .dup pa => some pa
  | _ => none

/-- An engine's access to `n` bytes at HOME waits for every page of them that is under migration (R312). -/
def waitRange (s : State) (space : Nat) (p : W64) (n d : Nat) : State :=
  (List.range ((pAddr p + n + 65535) / 65536 - pAddr p / 65536)).foldl (fun s i =>
    waitMoving s space ((pAddr p / 65536 + i) * 65536) d) s

/-- `o`, unless from `s` on it met a page under migration: then the machine is as before, in `s` (DESIGN CHOICE, log 91). -/
def takeBack (s : State) (o : Host.Outcome State Fault Refusal) : Host.Outcome State Fault Refusal :=
  match o with
  | .next t => if t.waits && !s.waits then .next s else o
  | _ => o

/-- `n` bytes of a space at the die level, byte by byte translated (engines, cards and the device's own reads). -/
def dieRead (s : State) (space : Nat) (p : W64) (n d : Nat) : List PByte :=
  (List.range n).map fun i =>
    match homeAddr s space (p + BitVec.ofNat 64 i) d with
    | some pa => ((homeRead s pa 1).headD (0, false))
    | none => (0, false)

/-- Bytes of a space written at the die level by an engine, the device or the host. -/
def dieWrite (s : State) (space : Nat) (p : W64) (d : List PByte) (atomic : Bool) (who : Writer) (die : Nat) : State :=
  (chunks p.toNat d).foldl (fun s c =>
    let s := waitMoving s space (c.1 % 2 ^ 52) die
    match homeAddr s space (BitVec.ofNat 64 c.1) die with
    | some pa => homeWrite s pa c.2 atomic who
    | none => s) s
where
  /-- The data cut at line boundaries: one write of a line each (R392). -/
  chunks (a : Nat) (d : List PByte) : List (Nat × List PByte) :=
    let head := min d.length (64 - a % 64)
    (if d.isEmpty then [] else [(a, d.take head)]) ++
      (List.range ((d.length - head + 63) / 64)).map fun i => (a + head + 64 * i, (d.drop (head + 64 * i)).take 64)

end Sys2Proof.Machine
end

