-- ==== Sys2Proof/Machine/Ops.lean ====
section
/-! DEFINITION. The operations the meanings share: issue accounting (R28, R29, R328), the code of the overlay and control
transfers (R39, R106), completion flags (R15), parking (R23, R24, R153), taking a trap and returning from it (R344 to
R349), hems (R260), joins and barriers (R25, R34), and the end of a team. -/

namespace Sys2Proof.Machine

/-- The outcome of every meaning but those that name an absent unit. -/
abbrev Out := Host.Outcome State Fault Refusal

def State.waveId (s : State) : WaveId := ⟨s.t.id, s.w.num⟩
def State.coreId (s : State) : CoreId := ⟨s.t.die, s.t.core⟩

/-- A fresh number of the count that orders waiters and stamps. -/
def State.bump (s : State) : State := { s with order := s.order + 1 }

def State.addDue (s : State) (i : Happening) : State := { s with due := s.due ++ [i] }

def State.onCur (s : State) (f : Entry → Entry) : State := { s with w := s.w.onCur f }

/-! Waves and teams outside the hand. -/

/-- Change one wave of a team, in hand or not. -/
def State.modWave (s : State) (id : WaveId) (f : Wave → Wave) : State :=
  if s.hand.isSome && s.t.id == id.team then
    if s.w.num = id.wave then { s with w := f s.w }
    else { s with t := { s.t with waves := s.t.waves.map fun w => if w.num = id.wave then f w else w } }
  else { s with teams := s.teams.map fun t =>
    if t.id = id.team then { t with waves := t.waves.map fun w => if w.num = id.wave then f w else w } else t }

/-- Change one team, in hand or not (its waves outside the hand included). -/
def State.modTeam (s : State) (id : Nat) (f : Team → Team) : State :=
  if s.hand.isSome && s.t.id == id then { s with t := f s.t }
  else { s with teams := s.teams.map fun t => if t.id = id then f t else t }

/-- A team with all its waves, in hand or not. -/
def State.team (s : State) (id : Nat) : Option Team :=
  if s.hand.isSome && s.t.id == id then some { s.t with waves := s.w :: s.t.waves }
  else s.teams.find? (·.id == id)

/-- Every team, with all its waves. -/
def State.allTeams (s : State) : List Team :=
  if s.hand.isSome then { s.t with waves := s.w :: s.t.waves } :: s.teams else s.teams

def State.wave (s : State) (id : WaveId) : Option Wave :=
  (s.team id.team).bind fun t => t.waves.find? (·.num == id.wave)

/-- Put the wave, team and core in hand back into the lists. -/
def State.putBack (s : State) : State :=
  if s.hand.isSome then
    { s with hand := none, w := {}, t := {}, c := {}
             teams := { s.t with waves := (s.w :: s.t.waves) } :: s.teams
             cores := s.c :: s.cores.filter fun c => !(c.die == s.c.die && c.num == s.c.num) }
  else s

/-- Take a wave, its team and its core in hand; nothing happens where there is no such wave. -/
def State.take (s : State) (id : WaveId) : State :=
  let s := s.putBack
  match s.teams.find? (·.id == id.team) with
  | none => s
  | some t =>
    match t.waves.find? (·.num == id.wave) with
    | none => s
    | some w =>
      let k := s.core ⟨t.die, t.core⟩
      { s with hand := some id, w, c := k, t := { t with waves := t.waves.filter (·.num != id.wave) }
               teams := s.teams.filter (·.id != id.team)
               cores := s.cores.filter fun c => !(c.die == t.die && c.num == t.core) }

/-- Do something to a wave as the one in hand, then take up again the wave that was in hand. -/
def State.withWave (s : State) (id : WaveId) (f : State → State) : State :=
  if s.hand = some id then f s
  else
    let t := s.take id
    if t.hand = some id then
      match s.hand with
      | some old => (f t).take old
      | none => (f t).putBack
    else s

/-- The waves of the team in hand. -/
def State.waves (s : State) : List Wave := s.w :: s.t.waves

/-- The teams of the gang in hand, its own among them, with their waves (R163). -/
def State.gangTeam (s : State) (rank : Nat) : Option Team :=
  s.allTeams.find? fun t => t.launch == s.t.launch && t.gang == s.t.gang && t.rank == rank && !t.ended && t.ending.isNone

/-! Acquires (R295). -/

/-- An acquire at a scope raises the stamps of the wave in hand (R295). Its core, and at DIE and wider its constellation, give up
the clean bytes of the space too, so that what the wave releases in turn at a narrower scope carries the acquire with it: happens-before
is transitive (R275) (DESIGN CHOICE, log 93). -/
def State.acquire (s : State) (sc : Scope) : State :=
  match sc with
  | .wave | .team => s
  | .gang | .const =>
    let s := renewL1 s s.coreId s.t.space
    { s with w := { s.w with al1 := s.clock } }
  | _ =>
    let s := renewCc s s.coreId s.t.space
    { s with w := { s.w with al1 := s.clock, acc := s.clock } }

/-! Code (R39). -/

/-- The device itself fills the slot: a start, a swap, a reload or a repair (R41, R357, R383). -/
def Slot.refill (x : Slot) : Bool := x.fill && x.waiter.isNone

/-- The lowest landed slot that holds a code pointer's segment (R106). -/
def Team.slotOf (t : Team) (p : W64) : Option Slot :=
  t.slots.find? fun x => x.landed && x.tag.toNat / 4096 == p.toNat / 4096

/-- A code pointer's segment is neither landed nor on its way by the device's own fill, for which a wave waits without a
fault (R41, R357). -/
def Team.lacks (t : Team) (p : W64) : Bool :=
  (t.slotOf p).isNone && !t.slots.any fun x => x.refill && x.tag.toNat / 4096 == p.toNat / 4096

def codeHalf (code : List (Nat × Half)) (i : Nat) : Nat :=
  match code.find? (·.1 == i) with
  | some (_, h) => h.toNat
  | none => 0

/-- The halfword at a code pointer, if its segment has landed. -/
def Team.half (t : Team) (p : W64) : Option Nat :=
  (t.slotOf p).map fun x => codeHalf x.code (p.toNat % 4096 / 2)

/-- Whether a pointer lies at a clause header: the major 0x3F, at an even byte and whole in its segment (R64, R65). -/
def Team.isHeader (t : Team) (p : W64) : Bool :=
  match t.half p with
  | some h => h % 128 == 127 && p.toNat % 4096 ≤ 4092 && !p.getLsbD 0
  | none => false

/-- The address reported in XTPC: the EXT's where one is pending (R73). -/
def Wave.issuePc (w : Wave) : W64 :=
  match w.cur.clause with
  | some c => if c.ext.isSome then c.extPc else w.cur.pc
  | none => w.cur.pc

/-! Issue accounting. -/

def fairLimit (w : Wave) : Nat := 16 * max 1 (bitsOf w.xprog.toNat 15 4)
def Wave.sibp (w : Wave) : Bool := w.xprog.getLsbD 0
def hangLimit (w : Wave) : Nat := bitsOf w.xhang.toNat 31 0

/-- One granted opportunity counted (R328): towards the fairness interval, and towards the starvation counts. They stand
still in a handler (R344). -/
def Wave.countOpp (w : Wave) (fair starve : Bool) : Wave :=
  if w.inHandler then w
  else { w with paths := w.paths.map fun e =>
    if e.st = .run ∧ fair then { e with fair := e.fair + 1 }
    else if e.st = .ready ∧ starve then { e with starve := e.starve + 1 } else e }

def Wave.fairDue (w : Wave) : Bool := w.sibp && !w.inHandler && fairLimit w ≤ w.cur.fair

/-- A READY entry whose starvation count has reached the limit (R29) (DEDUCED, log 55). -/
def Entry.starved (limit : Nat) (e : Entry) : Bool := e.st == .ready && limit != 0 && limit ≤ e.starve

/-- The path table whose counts are kept: in the handler the interrupted one (R289). -/
def Wave.counted (w : Wave) : List Entry := match w.frame with | some f => f.paths | none => w.paths

def Wave.onCounted (w : Wave) (g : Entry → Entry) : Wave :=
  match w.frame with
  | some f => { w with frame := some { f with paths := f.paths.map g } }
  | none => { w with paths := w.paths.map g }

/-- The entries whose starvation is to be reported (R29). -/
def Wave.starved (w : Wave) : List Entry := w.counted.filter (Entry.starved (hangLimit w))

/-- The counts of an opportunity, and what falls due by them (R28, R29). -/
def State.count (s : State) (fair starve : Bool) : State :=
  let w := s.w.countOpp fair starve
  let s := { s with w, granted := false }
  let s := if w.fairDue then s.addDue (.fairness s.waveId) else s
  if !w.inHandler && !w.starved.isEmpty then s.addDue (.hang s.waveId) else s

/-- An instruction of `len` bytes has issued: past it in the clause (R65), with the accounting of R328 and R267. -/
def State.advance (s : State) (len : Nat) (lw : Bool := false) (fair : Bool := true) : State :=
  let w := s.w.onCur fun e =>
    { e with pc := e.pc + BitVec.ofNat 64 len
             clause := e.clause.map fun c => { c with count := c.count + 1, ext := none, lw := c.lw || lw }
             body := e.body.map fun b => { b with count := b.count + 1 }
             blocked := none, only := none }
  ({ s with w := { w with issued := w.issued + 1, cmpOk := false }, stalled := false }).count fair true

/-- A non-repeatable operation has issued: the header after it becomes the region entry when it begins (R35). -/
def State.advanceNR (s : State) : State := (s.onCur fun e => { e with fresh := true }).advance 4

/-- The instruction is held (R183, R328): the opportunity counts towards nothing. -/
def State.heldBack (s : State) : State := { s with granted := false, stalled := true, w := { s.w with held := true } }

/-- The instruction is blocked (R183); in SLEEPT only the fairness interval counts (R189). -/
def State.block (s : State) (b : Blocked) (starve : Bool := true) : State :=
  { (s.onCur fun e => { e with blocked := some b }).count true starve with stalled := true }

/-- An access in flight: it counts on its flag until it completes. -/
def State.launchPend (s : State) (p : Pend) : State :=
  { s with w := { (s.w.flagUp p.flag) with pend := s.w.pend ++ [{ p with tag := s.w.issued + 1 }] } }

/-! Reports (R347). -/

/-- A wave-level report, merged with one of the same cause that is pending. -/
def Wave.report (w : Wave) (r : Report) : Wave :=
  { w with reports := if w.reports.any (·.cause == r.cause)
      then w.reports.map fun x => if x.cause = r.cause then r else x else w.reports ++ [r] }

/-- The running entry's instruction is abandoned for a report that is now pending (R24). -/
def State.abandon (s : State) (r : Report) : State :=
  ({ s with w := s.w.report r }).count true true

/-! Capsule records (R38, R245). -/

/-- id(l): the team's capsule tag, the wave and the lane. -/
def capId (t : Team) (wave lane : Nat) : Nat := t.capTag.toNat * 1024 + wave % 32 * 32 + lane % 32

/-- Mark a held record STALLED at its home slice, if the lane still owns it (R38). -/
def stallRecord (s : State) (t : Team) (wave : Nat) (l : Lane) : State :=
  if l.holding && !l.displaced then
    match homeAddr s t.space l.capPtr t.die with
    | none => s
    | some pa =>
      let lock := leNat (readBytes s.mem pa 8)
      let st := bitsOf lock 23 20
      if bitsOf lock 63 32 = capId t wave l.id ∧ (st = 1 ∨ st = 3) then
        homeWrite (waitMoving s t.space (pAddr l.capPtr) t.die) pa (clean (leBytes 8 (lock - st * 2 ^ 20 + 2 * 2 ^ 20))) true
          (.lane t.die t.core)
      else s
  else s

/-- Every record that a wave holds, of the lanes named. -/
def stallWave (s : State) (t : Team) (w : Wave) (m : W32) : State :=
  w.lanes.foldl (fun s l => if m.getLsbD l.id then stallRecord s t w.num l else s) s

def stallTeam (s : State) (t : Team) : State :=
  t.waves.foldl (fun s w => stallWave s t w 0xFFFFFFFF) s

/-- A lane that no longer holds a capsule. -/
def Lane.release (l : Lane) : Lane := { l with holding := false, adopted := false, displaced := false, held := [], reserved := none }

/-! Freezes (R181, R182). -/

/-- The freezes on a constellation, over every team. -/
def freezeCount (s : State) (die cons : Nat) : Nat :=
  s.allTeams.foldl (fun n t => t.freezes.foldl (fun n f => if f.die = die ∧ f.cons = cons then n + f.count else n) n) 0

/-- The die notes when the total on a constellation rises from 0, and forgets it when it is 0 again (R182). -/
def noteFreeze (s : State) (die cons : Nat) : State :=
  let d := s.die die
  let held := freezeCount s die cons != 0
  let rest := d.frozenAt.filter (·.1 != cons)
  if held then if d.frozenAt.any (·.1 == cons) then s else s.setDie { d with frozenAt := (cons, s.clock) :: rest }
  else s.setDie { d with frozenAt := rest }

/-! The umbra of a wave (R377, R378, R381). -/

/-- A lane without its registers, and put over the registers of another. -/
def Lane.bare (l : Lane) : Lane := { l with g := [], k := [], latch := 0, latchPoison := false, poison := [] }
def Lane.onto (c l : Lane) : Lane := { c with g := l.g, k := l.k, latch := l.latch, latchPoison := l.latchPoison, poison := l.poison }

def Wave.course (w : Wave) : Course :=
  { paths := w.paths, hems := w.hems, inHandler := w.inHandler, frame := w.frame, xtpc := w.xtpc, xtreg := w.xtreg, xtcause := w.xtcause
    xtlanes := w.xtlanes, xtmask := w.xtmask, xtaddr := w.xtaddr, xtcls := w.xtcls, flg := w.flg, caps := w.lanes.map Lane.bare }

/-- An umbra follows its leader's course: its registers stay its own, and so do the latches in its trap frame. -/
def Umbra.follow (u : Umbra) (c : Course) : Umbra :=
  let own (f : Frame) : Frame := match u.course.frame with
    | some g => { f with latches := g.latches, badLatches := g.badLatches }
    | none => { f with latches := u.lanes.map (·.latch), badLatches := maskOf fun i => (u.lanes[i]?.map (·.latchPoison)).getD false }
  { u with lanes := List.zipWith (fun l b => Lane.onto b l) u.lanes c.caps
           course := { c with frame := c.frame.map own, caps := [] }
           xtdst := if c.frame.isSome && u.course.frame.isSome then u.xtdst else none }

/-- The leader records where it is as an event for its umbra (R378). -/
def Wave.note (w : Wave) : Wave := { w with umbra := w.umbra.map fun u => { u with trail := u.trail ++ [.event w.course] } }

/-- What of a wave's course its instructions follow: its path table, the interrupted one and its hems. -/
def Wave.heading (w : Wave) : List (PState × W64 × W32 × W64 × WaitAt) × Bool × Nat :=
  let of_ (es : List Entry) : List (PState × W64 × W32 × W64 × WaitAt) := es.map fun e => (e.st, e.pc, e.mask, e.region, e.wait)
  (of_ (w.paths ++ (w.frame.map (·.paths)).getD []), w.inHandler, w.hems.length)

/-- An event where something other than its own instructions has moved a leader from `w` to `v`. -/
def Wave.noteFrom (w v : Wave) : Wave := if v.umbra.isSome && v.heading != w.heading then v.note else v

/-- Every operation held for comparison and every queue entry is discarded (R381). -/
def Wave.discard (w : Wave) : Wave :=
  let w := (w.pend.filter (·.held)).foldl (fun w p => w.flagDown p.flag) w
  { w with pend := w.pend.filter (!·.held), umbra := w.umbra.map fun u => { u with trail := [] }, cmpWait := false, cmpOk := false }

/-- Nothing is left to follow, and the umbra goes on where its leader does. -/
def Wave.resync (w : Wave) : Wave :=
  let w := w.discard
  { w with umbra := w.umbra.map fun u => u.follow w.course }

/-! The end of a team from outside its program (R26, R258, R344, R353). -/

/-- Every wave of a team stops: no entry is left, frames and loops go; what is in flight completes, but what the comparison buffer
holds is discarded. -/
def Wave.stop (w : Wave) : Wave :=
  { w with paths := w.paths.map fun _ => {}, frame := none, inHandler := false, mloop := none, reports := []
           deferred := [], hems := [], lanes := w.lanes.map Lane.release, ended := true
           pend := w.pend.filter (!·.held), umbra := w.umbra.map fun _ => {} }

def Team.stop (t : Team) (err : Nat) : Team :=
  { t with waves := t.waves.map Wave.stop, freezes := [], bins := [], ending := some err
           spools := t.spools.map fun p => { p with head := p.tail } }

/-- A team must end: its records are STALLED, its waves stop, its freezes are dropped, and TEAM_END falls due with the error
(R256, R353). -/
def endTeam (s : State) (id : Nat) (err : Nat) : State :=
  match s.team id with
  | none => s
  | some t =>
    if t.ending.isSome then s
    else
      let s := stallTeam s t
      let s := if s.hand.isSome ∧ s.t.id = id then { s with w := s.w.stop, granted := false } else s
      let s := s.modTeam id fun t => t.stop err
      (t.freezes.foldl (fun s f => noteFreeze s f.die f.cons) s).addDue (.teamEnd id)

/-! Traps (R344 to R349). -/

/-- What a trap reports. -/
structure Trap where
  cause : Nat
  detail : Nat := 0
  lanes : W32
  addr : W64 := 0
  pc : W64
  next : W64
  dst : TrapDst := .none
  dstLatch : Bool := false
  atHeader : Bool := false
  /-- a non-repeatable operation that has been performed (R348) -/
  nr : Bool := false
  enter : Option (Option Body) := .none
  deriving DecidableEq, Repr

def ILLOP : Nat := 1

/-- XTCAUSE: the cause in [7:0], the detail in [63:16] (R264). -/
def causeWord (cause detail : Nat) : W64 := BitVec.ofNat 64 (cause + detail * 65536)

/-- Trap entry (R344) by the entry numbered `idx`, of a wave that is not in its handler; in the handler the team ends
(R346). `cl` and `body` are the interrupted clause. -/
def takeTrapOf (s : State) (t : Trap) (idx : Nat) (cl : Option Clause) (body : Option Body) : State :=
  let s := { s with granted := false, stalled := false }
  if s.w.inHandler then endTeam s s.t.id 5
  else
    let e := s.w.paths.getD idx {}
    let w := s.w
    let live := w.live
    let cl := cl.map fun c => { c with ext := none }
    let w := { w with
      xtpc := t.pc, xtreg := e.region, xtcause := causeWord t.cause t.detail, xtlanes := t.lanes, xtaddr := t.addr
      xtmask := e.mask, xtcls := BitVec.ofNat 64 ((cl.map (·.hdr)).getD 0)
      frame := some { paths := w.paths, latches := w.lanes.map (·.latch), badLatches := maskOf fun i => (w.lane i).latchPoison, trapped := idx, next := t.next, dst := t.dst
                      dstLatch := t.dstLatch, atHeader := t.atHeader, clause := cl, body
                      waiting := e.st == .waitJoin, nr := t.nr, enter := t.enter }
      xtdst := none }
    let s := { s with w }
    if s.t.xtvec == 0 then endTeam s s.t.id 5
    else if s.t.lacks s.t.xtvec then endTeam s s.t.id 2
    else
      { s with w := { s.w with
          inHandler := true
          paths := ({ st := .run, pc := s.t.xtvec, mask := live, region := s.t.xtvec } : Entry) :: List.replicate 7 {} } }

/-- A trap of the running entry, instruction- or decode-precise. -/
def takeTrap (s : State) (t : Trap) : State :=
  takeTrapOf s t (s.w.runIdx.getD 0) s.w.cur.clause s.w.cur.body

/-- ILLOP of the running instruction, with detail [31:16] and XTADDR (R264). -/
def illop (s : State) (detail : Nat) (addr : W64 := 0) (len : Nat := 4) : State :=
  takeTrap s { cause := ILLOP, detail, lanes := s.w.cur.mask, addr, pc := s.w.issuePc, next := s.w.cur.pc + BitVec.ofNat 64 len }

/-- ILLOP found at execution: [16] = 1 and the kind in [19:17] (0 encoding, 1 descriptor, 2 target, 3 state). -/
def illopExec (s : State) (kind : Nat) (addr : W64 := 0) (len : Nat := 4) : State := illop s (1 + 2 * kind) addr len

/-- Where an entry parks (R23, R247): at its region entry, in a capsule body at the step's resume address. -/
def Entry.parkAt (e : Entry) : W64 := match e.body with | some b => b.resume | none => e.region

/-- A body that begins its current step again (DEDUCED, log 83). -/
def Body.restart (b : Body) : Body := { b with count := b.base, stgs := 0 }

/-- Lanes of the running entry park (R23, R24): with an entry already parked at the same place, else in a free entry, else
the whole running entry parks. Answers the index of the parked entry, and whether all of it parked. A body's faulting lanes
lose their held stores, and the wave's records are STALLED (R38, R247). -/
def parkLanes (s : State) (m : W32) (waits : List PageWait) : State × Nat × Bool :=
  let e := s.w.cur
  let run := s.w.runIdx.getD 0
  let same := s.w.paths.findIdx? fun x => x.st == .parked && x.region == e.parkAt
  let free := s.w.paths.findIdx? (·.st == .free)
  let whole := m &&& e.mask == e.mask || e.mat || (same.isNone && free.isNone)
  let gone := if whole then e.mask else m
  let s := if e.body.isSome then
      let s := stallWave s s.t s.w 0xFFFFFFFF
      { s with w := s.w.onLanes gone fun l => { l with held := [] } }
    else s
  let parked (x : Entry) : Entry :=
    { st := .parked, pc := e.parkAt, mask := (if x.st = .parked then x.mask else 0) ||| gone, region := e.parkAt
      parks := x.parks ++ waits, body := e.body.map Body.restart, fresh := false, mat := e.mat || x.mat }
  match same with
  | some i =>
    let s := { s with w := { s.w with paths := s.w.paths.modify i parked } }
    (if whole then s.onCur fun _ => {} else s.onCur fun e => { e with mask := e.mask &&& ~~~gone }, i, whole)
  | none =>
    if whole then ({ s with w := { s.w with paths := s.w.paths.modify run fun _ => parked {} } }, run, true)
    else
      let i := free.getD 0
      let s := s.onCur fun e => { e with mask := e.mask &&& ~~~gone }
      ({ s with w := { s.w with paths := s.w.paths.set i (parked {}) } }, i, false)

/-- Whether a park of the lanes `m` takes the whole running entry (R24, R213). -/
def parksWhole (w : Wave) (m : W32) : Bool :=
  let e := w.cur
  m &&& e.mask == e.mask || e.mat ||
    !(w.paths.any fun x => x.st == .free || (x.st == .parked && x.region == e.parkAt))

/-- A region-precise trap of the whole running entry, which parks (R153, R159). -/
def trapRegion (s : State) (cause detail : Nat) (addr : W64) (dst : TrapDst := .none) (dstLatch : Bool := false) : State :=
  let e := s.w.cur
  let pc := s.w.issuePc
  if s.w.inHandler then takeTrap s { cause, detail, lanes := e.mask, addr, pc, next := e.pc + 4 }
  else
    match parkLanes s e.mask [] with
    | (s, i, _) =>
      takeTrapOf s { cause, detail, lanes := e.mask, addr, pc, next := e.pc + 4, dst, dstLatch } i e.clause e.body

/-- The detail of BOUND [19:16] (R264). -/
def boundDetail : Cause → Nat
  | .null => 1
  | .align => 2
  | _ => 0

/-- Code and detail of a cause that traps region-precisely (R264); PAGE carries whether the access wrote. -/
def causeCode (c : Cause) (write : Bool) : Nat × Nat :=
  match c with
  | .null | .align | .bound => (33, boundDetail c)
  | .rights => (34, 0)
  | .quota => (35, 0)
  | .page _ _ => (32, b2n write)
  | .watch n => (20, n)

/-! Arrivals at barriers (R30, R34). -/

def Entry.atBar (n : Nat) (e : Entry) : Bool := e.st == .waitJoin && e.wait == .bar n

/-- A wave in its handler as its interrupted path table shows it, without the lanes that have exited since. -/
def Wave.behind (w : Wave) : Wave :=
  match w.frame with
  | none => w
  | some f => { w with paths := f.paths.map fun e => if e.mask &&& w.live = 0 then {} else { e with mask := e.mask &&& w.live } }

/-- Do something to a wave's interrupted path table. -/
def Wave.inFrame (w : Wave) (g : Wave → Wave) : Wave :=
  match w.frame with
  | none => w
  | some f => { w with frame := some { f with paths := (g w.behind).paths } }

/-- All live lanes of a wave wait at BAR `n` in its path table (R34). -/
def Wave.allAtBar (w : Wave) (n : Nat) : Bool := w.paths.all fun e => e.st == .free || e.atBar n

/-- A wave has arrived at barrier `n`: all its live lanes wait there (R34). An arrival made before a trap stays counted while
the handler runs (R30), and after a hem has unwound the wave (R358). -/
def Wave.arrived (w : Wave) (n : Nat) : Bool := w.allAtBar n || w.behind.allAtBar n || w.arrivals.contains n

/-! Hems (R259, R260). -/

/-- Unwind to the innermost handler; the cause is POISON (36) or TWIN (40). -/
def unwind (s : State) (cause : Nat) (lanes : W32) (addr pc : W64) : State :=
  match s.w.hems with
  | [] => s
  | h :: rest =>
    let s := stallWave s s.t s.w 0xFFFFFFFF
    let w := { s.w with
      arrivals := (List.range 16).filter s.w.arrived
      hems := rest, frame := none, inHandler := false, mloop := none, xtdst := none
      lanes := s.w.lanes.map Lane.release
      paths := ({ st := .run, pc := h, mask := s.w.live, region := h } : Entry) :: List.replicate 7 {}
      xtcause := causeWord cause 0, xtlanes := lanes, xtaddr := addr, xtpc := pc }
    let s := { s with w := w.resync, granted := false, stalled := false }
    if s.t.lacks h then endTeam s s.t.id 2 else s

/-- Poison consumed, or a second umbra mismatch (R156, R353, R381): a hem unwinds, else the team is killed. -/
def contain (s : State) (cause : Nat) (lanes : W32) (addr pc : W64) : State :=
  if s.w.hems.isEmpty then { s with granted := false, due := .teamKill s.t.id :: s.due }
  else unwind s cause lanes addr pc

/-! Transfers (R66, R103, R106). -/

/-- The running entry goes to a header of a landed segment; a target that is none raises ILLOP (R66). -/
def transfer (s : State) (target : W64) (len : Nat := 4) : State :=
  if s.t.isHeader target then
    let s := s.advance len
    s.onCur fun e => { e with pc := target, clause := none }
  else illopExec s 2 target len

/-- A transfer through a pointer (R106). -/
def transferFar (s : State) (target : W64) : State :=
  if target.getLsbD 0 then illopExec s 2 target
  else
    match s.t.slotOf target with
    | none =>
      if !s.t.lacks target then s.heldBack
      else
      let poisoned := s.t.slots.any fun x => x.poisoned && x.tag.toNat / 4096 == target.toNat / 4096
      takeTrap s { cause := 17, detail := b2n poisoned, lanes := s.w.cur.mask, addr := target, pc := s.w.issuePc, next := s.w.cur.pc + 4 }
    | some _ => transfer s target

/-! Entries, joins and barriers (R22 to R25, R34). -/

/-- An entry that may run: RUN if no entry is RUN, else READY with a new stamp (R23). -/
def Wave.wake (w : Wave) (e : Entry) (stamp : Nat) : Entry :=
  if w.runIdx.isNone then { e with st := .run, fair := 0, starve := 0 } else { e with st := .ready, age := stamp, starve := 0 }

/-- Entries waiting at one instruction merge into the lowest-numbered of them, which goes on after it; the region entry is
that of the entry that arrived last (R35). -/
def Wave.mergeAt (w : Wave) (pc : W64) (wait : WaitAt) (len : Nat) (stamp : Nat) : Wave :=
  let here (e : Entry) : Bool := e.st == .waitJoin && e.pc == pc && e.wait == wait
  match w.paths.findIdx? here with
  | none => w
  | some i =>
    let es := w.paths.filter here
    let last := es.foldl (fun a e => if a.age ≤ e.age then e else a) (es.getD 0 {})
    let m := es.foldl (fun m e => m ||| e.mask) 0
    let e : Entry := { pc := pc + BitVec.ofNat 64 len, mask := m, region := last.region, fresh := last.fresh
                       body := last.body, clause := last.clause, mat := es.any (·.mat) }
    let e := w.wake e stamp
    { w with paths := (w.paths.map fun x => if here x then {} else x).set i e }

/-- The length of the RJOIN at a waiting entry (2 or 4 bytes, R71, R86). -/
def joinLen (t : Team) (pc : W64) : Nat := match t.half pc with | some h => if h % 2 = 1 then 4 else 2 | none => 4

/-- Complete the joins whose waiting and exited lanes cover the value of Mx last read (R25). -/
def tryJoins (s : State) : State :=
  let pcs := (s.w.paths.filter fun e => e.st == .waitJoin && e.wait == .join).map (·.pc)
  pcs.eraseDups.foldl (fun s pc =>
    let es := s.w.paths.filter fun e => e.st == .waitJoin && e.wait == .join && e.pc == pc
    let last := es.foldl (fun a e => if a.age ≤ e.age then e else a) (es.getD 0 {})
    let here := es.foldl (fun m e => m ||| e.mask) 0
    if (here ||| ~~~s.w.live) &&& last.joinMask = last.joinMask then
      { s with w := s.w.mergeAt pc .join (joinLen s.t pc) s.order, order := s.order + 1 }
    else s) s

/-- Some lanes of a wave wait at barrier `n`, in its path table or the interrupted one, or its arrival is counted. -/
def Wave.waitsBar (w : Wave) (n : Nat) : Bool :=
  w.paths.any (Entry.atBar n) || w.behind.paths.any (Entry.atBar n) || w.arrivals.contains n

/-- The entries of a path table that wait at barrier `n` go on, those at one BAR merged (R23). -/
def Wave.passBar (n stamp : Nat) (w : Wave) : Wave :=
  let pcs := (w.paths.filter (Entry.atBar n)).map (·.pc)
  pcs.eraseDups.foldl (fun w pc => w.mergeAt pc (.bar n) 4 stamp) w

/-- Release a wave from barrier `n`, in its handler too. -/
def Wave.leaveBar (w : Wave) (n stamp : Nat) : Wave :=
  w.noteFrom { (w.passBar n stamp).inFrame (Wave.passBar n stamp) with arrivals := w.arrivals.filter (· != n) }

/-- Complete every team barrier at which all live waves of the team in hand have arrived (R34). -/
def tryBars (s : State) : State :=
  (List.range 16).foldl (fun s n =>
    let ws := s.waves.filter fun w => !w.ended
    let waiting := ws.any (·.waitsBar n)
    if waiting && ws.all (fun w => w.arrived n) then
      -- the departure is an acquire at TEAM (R184), which raises no stamp (R295)
      { s with w := s.w.leaveBar n s.order, order := s.order + 1
               t := { s.t with waves := s.t.waves.map fun w => w.leaveBar n s.order } }
    else s) s

/-! The return from a trap. -/

/-- Return from a trap (R261, R348, R349): the frame's paths and latches come back and the trapped lanes resume. -/
inductive TretMode where
  | next | same | region
  deriving DecidableEq, Repr

/-- The recorded XTDST value put into the trapped destination of one lane (R349). -/
def applyDst (l : Lane) (f : Frame) (vals : List W32) : Lane :=
  match f.dst with
  | .regs code n =>
    let l := (List.range n).foldl (fun l i => l.setReg (code + i) (vals.getD i 0)) l
    if f.dstLatch then { l with latchPoison := false, latch := (if n = 2 then vals.getD 1 0 else l.latch.extractLsb' 32 32) ++ vals.getD 0 0 } else l
  | .none => l
  | .mask _ => if f.dstLatch then { l with latchPoison := false, latch := l.latch.extractLsb' 32 32 ++ (vals.getD 0 0 &&& 1) } else l

/-- The modes that act as another by their cause (R348): TORN and the deferred BOUND act as REGION (DEDUCED, log 42). -/
def effectiveMode (w : Wave) (m : TretMode) : TretMode :=
  let c := w.xtcause.toNat % 256
  if c = 37 ∨ (c = 33 ∧ bitsOf w.xtcause.toNat 19 16 = 11) then .region else m

/-- The clause of an entry that resumes mid-clause samples EXEC again (R98). -/
def resample (w : Wave) (e : Entry) : Entry :=
  { e with clause := e.clause.map fun c =>
      let m := bitsOf c.hdr 30 27
      { c with exec := if m = 0 then 0xFFFFFFFF else if m = 15 then e.mask else w.m.getD m 0 } }

/-- One more instruction of a body (R246). -/
def Body.counted (b : Body) : Body := { b with count := b.count + 1 }

/-- The trapped entry as it resumes (R261): lanes `m` of it. -/
def resumeEntry (w : Wave) (f : Frame) (mode : TretMode) (e : Entry) (m : W32) (stamp : Nat) : Entry :=
  let watch := w.xtcause.toNat % 256 == 20
  if f.waiting ∧ mode ≠ .region then
    -- the wave was waiting at this instruction: SAME leaves it waiting, NEXT goes on after it (R30, R348); if the wait ended
    -- meanwhile, both go on after it
    if mode = .same ∨ e.st ≠ .waitJoin then e else { e with st := .ready, pc := f.next, wait := .none, age := stamp, starve := 0 }
  else match mode with
  | .region => { e with wait := .none, st := .ready, pc := w.xtreg, mask := m, region := w.xtreg, clause := none
                        body := e.body.map Body.restart, age := stamp
                        blocked := none, parks := [], only := none, starve := 0, fresh := false, mat := false }
  | _ =>
    let st := if e.st = .run then PState.run else .ready
    let skip := mode == .next && !f.atHeader
    let e := { e with
      st, mask := m, age := stamp, parks := [], body := if skip then f.enter.getD (f.body.map Body.counted) else f.body
      pc := if skip then f.next else w.xtpc
      blocked := if skip then none else e.blocked
      fresh := e.fresh || (skip && f.nr)
      only := if watch && !skip then some w.xtlanes else none
      clause := if f.atHeader then none
        else if skip then f.clause.map fun c => { c with count := c.count + 1, lw := c.lw || f.dstLatch, ext := none }
        else f.clause }
    resample w e

/-- What stays of a parked entry when only its trapped lanes resume (R348). -/
def remainEntry (e : Entry) (m : W32) (stamp : Nat) : Entry :=
  { e with mask := e.mask &&& ~~~m, st := if e.parks.isEmpty then .ready else .parked, age := stamp }

/-- TRET for the wave in hand; the caller has checked that it is in its handler with one path. Lanes of a parked entry
outside XTLANES stay parked where NEXT or SAME returns, or while a fault of theirs is unanswered (R352); with no entry free to part them the whole entry restarts its region (DESIGN CHOICE, log 89).
Joins and barriers that the handler's exits complete are completed (R25, R26, R34). -/
def returnTrap (s : State) (mode : TretMode) : State :=
  match s.w.frame with
  | none => s
  | some f =>
    let w := s.w
    let mode := effectiveMode w mode
    let live := w.live
    let w := { w with lanes := (List.range w.lanes.length).map fun i =>
      let l := w.lane i
      { l with latch := f.latches.getD i 0, latchPoison := f.badLatches.getLsbD i } }
    let w : Wave := match mode, w.xtdst with
      | .next, some (_, vals) =>
        let w := w.onLanes w.xtlanes fun l => applyDst l f (vals.getD l.id [])
        match f.dst with
        | .mask m => w.setMask m (maskOf fun i => if w.xtlanes.getLsbD i then ((vals.getD i []).getD 0 0).getLsbD 0 else (w.m.getD m.val 0).getLsbD i)
        | _ => w
      | _, _ => w
    let paths := f.paths.map fun e => { e with mask := e.mask &&& live }
    let e := paths.getD f.trapped {}
    let free := paths.findIdx? (·.st == .free)
    let some_ := e.st == .parked && (mode != .region || e.parks.any (·.answer.isNone)) && w.xtlanes &&& e.mask != e.mask
    let mode := if some_ && free.isNone then .region else mode
    let part := some_ && free.isSome
    let m := if part then w.xtlanes &&& e.mask else e.mask
    let w : Wave := if mode == TretMode.region && Option.isSome e.body then w.onLanes e.mask fun l => { l with held := [] } else w
    -- L is undefined at the header where REGION resumes (R13, R261)
    let w : Wave := if mode == TretMode.region then w.onLanes e.mask fun l => { l with latch := Config.freeLatch s.free l.id, latchPoison := false } else w
    let r := resumeEntry w f mode e m s.order
    let paths := if part then (paths.set f.trapped (remainEntry e m s.order)).set (free.getD 0) r else paths.set f.trapped r
    let paths := paths.map fun e => if e.mask = 0 then {} else e
    let s : State := { s with w := { w with paths, frame := none, inHandler := false, xtdst := none }, order := s.order + 1
                              free := s.free + 1, granted := false, stalled := false }
    tryBars (tryJoins s)

/-- The index of the oldest READY entry (R22). -/
def Wave.oldestReady (w : Wave) : Option Nat :=
  match w.paths.filter (·.st == .ready) with
  | [] => none
  | e :: es =>
    let old := es.foldl (fun a x => if x.age < a.age then x else a) e
    w.paths.findIdx? fun x => x.st == .ready && x.age == old.age

/-- With no RUN entry, the oldest READY one runs (R22). -/
def Wave.pick (w : Wave) : Wave :=
  if w.runIdx.isSome then w
  else match w.oldestReady with
    | none => w
    | some i => { w with paths := w.paths.modify i fun e => { e with st := .run, fair := 0, starve := 0 } }

/-- The running entry becomes READY and the oldest other READY entry runs; alone it goes on (R28). -/
def Wave.rotate (w : Wave) (stamp : Nat) : Wave :=
  match w.runIdx, w.oldestReady with
  | some i, some j =>
    let paths := w.paths.modify i fun e => { e with st := .ready, age := stamp, starve := 0, fair := 0 }
    { w with paths := paths.modify j fun e => { e with st := .run, fair := 0, starve := 0 } }
  | none, some _ => w
  | _, none => w.onCur fun e => { e with fair := 0 }

/-- A split of the running entry (R23, R104): `taken` runs at `target`, the rest is READY where it is. The caller has
seen that an entry is free. -/
def Wave.split (w : Wave) (taken : W32) (target : Entry → Entry) (stamp : Nat) : Wave :=
  match w.paths.findIdx? (·.st == .free) with
  | none => w
  | some i =>
    let e := w.cur
    let w := w.onCur fun e => { e with mask := e.mask &&& ~~~taken, st := .ready, age := stamp, starve := 0, fair := 0 }
    { w with paths := w.paths.set i (target { e with mask := taken, fair := 0, starve := 0, st := .run }) }

/-- A split found with seven entries in use: the wave-level report with the path-table-full detail (R24). -/
def pathFull (s : State) : State :=
  s.abandon { cause := 48, detail := 1, pc := s.w.issuePc, lanes := s.w.cur.mask }

/-! Lane instructions. -/

/-- A lane instruction without exceptions (R99): every acting lane takes its result. -/
def laneOp (s : State) (len : Nat) (iw : IW) (d : Dst) (f : Wave → Lane → W64) : State :=
  ({ s with w := s.w.onLanes s.w.acting fun l => l.result s.free iw d (f s.w l), free := s.free + 1 }).advance len true

/-- The steps of R100 around an instruction whose lane `i` raises `exc i` and whose result in the lanes that do not trap
is `write`. -/
def fpFinish (s : State) (len : Nat) (act : W32) (exc : Nat → Exc) (dst : TrapDst) (lw : Bool)
    (write : W32 → State → State) : State :=
  let trap := trapLanes s.w act exc
  let s := { s with w := s.w.raise act exc }
  let s := write (act &&& ~~~trap) s
  if trap = 0 then s.advance len lw
  else
    takeTrap s { cause := 16, detail := excDetail s.w trap exc, lanes := trap, pc := s.w.issuePc
                 next := s.w.cur.pc + BitVec.ofNat 64 len, dst, dstLatch := true }

/-- A floating-point lane instruction: result pattern and exceptions in each acting lane (R100). -/
def fpOp (s : State) (len : Nat) (iw : IW) (d : Dst) (f : Wave → Lane → Nat × Exc) : State :=
  let w := s.w
  let act := w.acting
  let exc (i : Nat) : Exc := match w.lanes[i]? with | some l => (f w l).2 | none => {}
  fpFinish s len act exc (Dst.trap iw d) true fun m s =>
    { s with w := s.w.onLanes m fun l => l.result s.free iw d (BitVec.ofNat 64 (f w l).1), free := s.free + 1 }

/-- The rounding mode of XFPRM (R45). -/
def Wave.rm (w : Wave) : RMode := rmOf (w.xfprm.toNat % 4)

/-! Acquire and release (R157, R177, R294, R295). -/

def State.release (s : State) (sc : Scope) : State := releaseCaches s s.coreId s.t.space sc

def Scope.rank : Scope → Nat
  | .wave => 0 | .team => 1 | .gang => 2 | .const => 3 | .die => 4 | .pkg => 5 | .domain => 6 | .sys => 7

/-- Set the escaped-release bit (R354). -/
def State.escape (s : State) : State := { s with t := { s.t with escaped := true } }

def State.escapeAt (s : State) (sc : Scope) : State := if 1 < Scope.rank sc then s.escape else s

end Sys2Proof.Machine
end

