-- ==== Sys2Proof/Machine/FpLane.lean ====
section
/-! DEFINITION. The lane floating-point instructions (R100, R124 to R131) and the floating-point H operations (R71). -/

namespace Sys2Proof.Machine

/-- An operand's value in a type (R43, R124). -/
def fval (t : FT) (x : W64) : FVal := (FT.fmt t).dec x.toNat

/-- The pattern of an exact value, a signalling NaN kept signalling. -/
def patternOf (f : Fmt) : FVal → Nat
  | .nan true => f.infBits + 1
  | v => (v.toIeee f .rne).1

/-- The immediate of a floating-point I form (R72). -/
def fimm (w : Wave) (t : FT) (i : BitVec 7) : Nat :=
  match w.ext with
  | none => patternOf (FT.fmt t) (.num (i.toInt < 0) i.toInt.natAbs 0)
  | some p =>
    match t with
    | .f64 => patternOf fmtF64 (fmtF32.dec (p ++ i).toNat)
    | .f32 => (p ++ i).toNat
    | _ => (p ++ i).toNat % 65536

/-- A two-operand floating-point instruction on values. -/
def fpBin (s : State) (t : FT) (d : Dst) (a : Opd) (y : Wave → Lane → Nat) (f : Fmt → RMode → FVal → FVal → Nat × Exc) : State :=
  fpOp s 4 t.iw d fun w l => f (FT.fmt t) w.rm (fval t (opd w l t.iw a)) ((FT.fmt t).dec (y w l))

def fpMinMax (s : State) (t : FT) (d : Dst) (a : Opd) (y : Wave → Lane → Nat) (isMax : Bool) : State :=
  fpOp s 4 t.iw d fun w l => fMinMax (FT.fmt t) isMax (opd w l t.iw a).toNat (y w l)

def fpFma (s : State) (t : FT) (d : Dst) (a : Opd) (y : Wave → Lane → Nat) : State :=
  fpOp s 4 t.iw d fun w l =>
    fFma (FT.fmt t) w.rm (fval t (opd w l t.iw d.toOpd)) (fval t (opd w l t.iw a)) ((FT.fmt t).dec (y w l))

def fpUn (s : State) (t : FT) (d : Dst) (a : Opd) (f : Fmt → RMode → FVal → Nat × Exc) : State :=
  fpOp s 4 t.iw d fun w l => f (FT.fmt t) w.rm (fval t (opd w l t.iw a))

def yReg (t : FT) (b : Opd) (w : Wave) (l : Lane) : Nat := (opd w l t.iw b).toNat
def yImm (t : FT) (i : BitVec 7) (w : Wave) (_ : Lane) : Nat := fimm w t i

def FT.wide : FT → Option Bool | .f16 | .bf16 => none | .f32 => some false | .f64 => some true

/-- The functions of R129. -/
def fpFn (s : State) (t : FT) (d : Dst) (a : Opd) (fn : Fn) : State :=
  fpOp s 4 t.iw d fun w l => fFn (FT.fmt t) (FT.wide t) w.rm fn (opd w l t.iw a).toNat

/-- FADD (R125). -/
def execFadd (t : FT) (d : Dst) (a b : Opd) (s : State) : Out := .next (fpBin s t d a (yReg t b) fAdd)
/-- FADD with an immediate (R72, R125). -/
def execFaddI (t : FT) (d : Dst) (a : Opd) (i : BitVec 7) (s : State) : Out := .next (fpBin s t d a (yImm t i) fAdd)
/-- FSUB (R125). -/
def execFsub (t : FT) (d : Dst) (a b : Opd) (s : State) : Out := .next (fpBin s t d a (yReg t b) fSub)
/-- FSUB with an immediate (R72, R125). -/
def execFsubI (t : FT) (d : Dst) (a : Opd) (i : BitVec 7) (s : State) : Out := .next (fpBin s t d a (yImm t i) fSub)
/-- FMUL (R125). -/
def execFmul (t : FT) (d : Dst) (a b : Opd) (s : State) : Out := .next (fpBin s t d a (yReg t b) fMul)
/-- FMUL with an immediate (R72, R125). -/
def execFmulI (t : FT) (d : Dst) (a : Opd) (i : BitVec 7) (s : State) : Out := .next (fpBin s t d a (yImm t i) fMul)
/-- FDIV (R125). -/
def execFdiv (t : FT) (d : Dst) (a b : Opd) (s : State) : Out := .next (fpBin s t d a (yReg t b) fDiv)
/-- FDIV with an immediate (R72, R125). -/
def execFdivI (t : FT) (d : Dst) (a : Opd) (i : BitVec 7) (s : State) : Out := .next (fpBin s t d a (yImm t i) fDiv)
/-- FMA (R125). -/
def execFma (t : FT) (d : Dst) (a b : Opd) (s : State) : Out := .next (fpFma s t d a (yReg t b))
/-- FMA with an immediate (R72, R125). -/
def execFmaI (t : FT) (d : Dst) (a : Opd) (i : BitVec 7) (s : State) : Out := .next (fpFma s t d a (yImm t i))
/-- FMIN (R126). -/
def execFmin (t : FT) (d : Dst) (a b : Opd) (s : State) : Out := .next (fpMinMax s t d a (yReg t b) false)
/-- FMIN with an immediate (R72, R126). -/
def execFminI (t : FT) (d : Dst) (a : Opd) (i : BitVec 7) (s : State) : Out := .next (fpMinMax s t d a (yImm t i) false)
/-- FMAX (R126). -/
def execFmax (t : FT) (d : Dst) (a b : Opd) (s : State) : Out := .next (fpMinMax s t d a (yReg t b) true)
/-- FMAX with an immediate (R72, R126). -/
def execFmaxI (t : FT) (d : Dst) (a : Opd) (i : BitVec 7) (s : State) : Out := .next (fpMinMax s t d a (yImm t i) true)
/-- FSCALE (R127): the scale is a signed 32-bit integer whatever the type. -/
def execFscale (t : FT) (d : Dst) (a b : Opd) (s : State) : Out :=
  .next (fpOp s 4 t.iw d fun w l => fScale (FT.fmt t) w.rm (fval t (opd w l t.iw a)) (opd32 w l b).toInt)
/-- FSCALE with an immediate, always an integer (R72, R127). -/
def execFscaleI (t : FT) (d : Dst) (a : Opd) (i : BitVec 7) (s : State) : Out :=
  .next (fpOp s 4 t.iw d fun w l => fScale (FT.fmt t) w.rm (fval t (opd w l t.iw a)) (imm32 w i).toInt)
/-- FSQRT (R128). -/
def execFsqrt (t : FT) (d : Dst) (a : Opd) (s : State) : Out := .next (fpUn s t d a fSqrt)
/-- FRCP (R128). -/
def execFrcp (t : FT) (d : Dst) (a : Opd) (s : State) : Out := .next (fpUn s t d a fRcp)
/-- FCLASS (R131): a 32-bit result whatever the type; nothing is raised. -/
def execFclass (t : FT) (d : Dst) (a : Opd) (s : State) : Out :=
  .next (laneOp s 4 .w32 d fun w l => BitVec.ofNat 64 (fClass (FT.fmt t) (opd w l t.iw a).toNat))
/-- FRND (R130): the mode of the minor, not XFPRM's. -/
def execFrnd (m : RMode) (t : FT) (d : Dst) (a : Opd) (s : State) : Out := .next (fpUn s t d a fun f _ x => fRnd f m x)
/-- FRSQ (R129). -/
def execFrsq (t : FT) (d : Dst) (a : Opd) (s : State) : Out := .next (fpFn s t d a .rsq)
/-- FEXP2 (R129). -/
def execFexp2 (t : FT) (d : Dst) (a : Opd) (s : State) : Out := .next (fpFn s t d a .exp2)
/-- FLOG2 (R129). -/
def execFlog2 (t : FT) (d : Dst) (a : Opd) (s : State) : Out := .next (fpFn s t d a .log2)
/-- FSIN (R129). -/
def execFsin (t : FT) (d : Dst) (a : Opd) (s : State) : Out := .next (fpFn s t d a .sin)
/-- FCOS (R129). -/
def execFcos (t : FT) (d : Dst) (a : Opd) (s : State) : Out := .next (fpFn s t d a .cos)

/-! H format (R71): F32 operations; an immediate stands for the F32 value of the integer. -/

def hval (w : Wave) (l : Lane) : HSrc → Nat
  | .r h => (opd32 w l (HReg.opd h)).toNat
  | .i v => patternOf fmtF32 (.num (v.toInt < 0) v.toInt.natAbs 0)

def hFp (s : State) (d : HReg) (src : HSrc) (f : Wave → Lane → (x y : Nat) → Nat × Exc) : State :=
  fpOp s 2 .w32 (HReg.dst d) fun w l => f w l (opd32 w l (HReg.opd d)).toNat (hval w l src)

/-- FADD.F32 in H form (R71). -/
def execFaddH (d : HReg) (src : HSrc) (s : State) : Out :=
  .next (hFp s d src fun w _ x y => fAdd fmtF32 w.rm (fmtF32.dec x) (fmtF32.dec y))
/-- FMUL.F32 in H form (R71). -/
def execFmulH (d : HReg) (src : HSrc) (s : State) : Out :=
  .next (hFp s d src fun w _ x y => fMul fmtF32 w.rm (fmtF32.dec x) (fmtF32.dec y))
/-- FMA.F32 in H form: d + s * L, fused (R71). -/
def execFmaH (d : HReg) (src : HSrc) (s : State) : Out :=
  .next (hFp s d src fun w l x y =>
    fFma fmtF32 w.rm (fmtF32.dec x) (fmtF32.dec y) (fmtF32.dec (l.latch.setWidth 32).toNat))
/-- FMAX.F32 in H form (R71). -/
def execFmaxH (d : HReg) (src : HSrc) (s : State) : Out := .next (hFp s d src fun _ _ x y => fMinMax fmtF32 true x y)
/-- FMIN.F32 in H form (R71). -/
def execFminH (d : HReg) (src : HSrc) (s : State) : Out := .next (hFp s d src fun _ _ x y => fMinMax fmtF32 false x y)
/-- CVT.F32.I32 in H form (R71): an immediate is itself the integer. -/
def execCvtF32I32H (d : HReg) (src : HSrc) (s : State) : Out :=
  .next (fpOp s 2 .w32 (HReg.dst d) fun w l => convTo .f32 w.rm (Ty.value .i32 (hsrc w l src).toNat))

end Sys2Proof.Machine
end

