-- ==== Sys2Proof/Machine/IntLane.lean ====
section
/-! DEFINITION. The lane integer instructions (R115 to R119): results as functions of the operands, and one meaning per
instruction. -/

namespace Sys2Proof.Machine

def IW.bits : IW → Nat | .w32 => 32 | .w64 => 64

/-- Signed and unsigned readings of the low `w` bits. -/
def sgn (w : IW) (x : W64) : Int := match w with | .w32 => (x.setWidth 32).toInt | .w64 => x.toInt
def uns (w : IW) (x : W64) : Nat := match w with | .w32 => (x.setWidth 32).toNat | .w64 => x.toNat
/-- A result wrapped modulo 2^w, in 64 bits. -/
def wrap (w : IW) (v : Int) : W64 := match w with | .w32 => (BitVec.ofInt 32 v).setWidth 64 | .w64 => BitVec.ofInt 64 v

/-! Table A (R116). -/

def rAdd (w : IW) (x y : W64) : W64 := wrap w (uns w x + uns w y)
def rSub (w : IW) (x y : W64) : W64 := wrap w (uns w x - uns w y)
def rMul (w : IW) (x y : W64) : W64 := wrap w (uns w x * uns w y)
def rMulhI (w : IW) (x y : W64) : W64 := wrap w (sgn w x * sgn w y / 2 ^ IW.bits w)
def rMulhN (w : IW) (x y : W64) : W64 := wrap w (uns w x * uns w y / 2 ^ IW.bits w : Nat)
def rMinI (w : IW) (x y : W64) : W64 := wrap w (min (sgn w x) (sgn w y))
def rMinN (w : IW) (x y : W64) : W64 := wrap w (min (uns w x) (uns w y) : Nat)
def rMaxI (w : IW) (x y : W64) : W64 := wrap w (max (sgn w x) (sgn w y))
def rMaxN (w : IW) (x y : W64) : W64 := wrap w (max (uns w x) (uns w y) : Nat)
def rShl (w : IW) (x : W64) (n : Nat) : W64 := if IW.bits w ≤ n then 0 else wrap w (uns w x * 2 ^ n : Nat)
def rShrN (w : IW) (x : W64) (n : Nat) : W64 := if IW.bits w ≤ n then 0 else wrap w (uns w x / 2 ^ n : Nat)
def rShrI (w : IW) (x : W64) (n : Nat) : W64 :=
  if IW.bits w ≤ n then wrap w (if sgn w x < 0 then -1 else 0) else wrap w (sgn w x / 2 ^ n)
def rRot (w : IW) (x : W64) (n : Nat) : W64 :=
  let k := n % IW.bits w
  wrap w (uns w x * 2 ^ k % 2 ^ IW.bits w + uns w x / 2 ^ (IW.bits w - k) : Nat)

/-! Table B (R117, R118). -/

def rDivI (w : IW) (x y : W64) : W64 := if sgn w y = 0 then wrap w (-1) else wrap w ((sgn w x).tdiv (sgn w y))
def rDivN (w : IW) (x y : W64) : W64 := if uns w y = 0 then wrap w (-1) else wrap w (uns w x / uns w y : Nat)
def rRemI (w : IW) (x y : W64) : W64 := if sgn w y = 0 then wrap w (sgn w x) else wrap w ((sgn w x).tmod (sgn w y))
def rRemN (w : IW) (x y : W64) : W64 := if uns w y = 0 then wrap w (uns w x) else wrap w (uns w x % uns w y : Nat)
def rAddc (w : IW) (x y : W64) : W64 := wrap w (b2n (2 ^ IW.bits w ≤ uns w x + uns w y))
def rMad (w : IW) (c x y : W64) : W64 := wrap w (uns w c + uns w x * uns w y : Nat)
def rNeg (w : IW) (x : W64) : W64 := wrap w (-(uns w x : Int))
def rAbs (w : IW) (x : W64) : W64 := wrap w (sgn w x).natAbs
def rNot (w : IW) (x : W64) : W64 := wrap w (-1 - (uns w x : Int))
def rPopc (w : IW) (x : W64) : W64 := wrap w (popcount (uns w x) (IW.bits w))
def rClz (w : IW) (x : W64) : W64 := wrap w (IW.bits w - bitLen (uns w x) : Nat)
def rBrev (w : IW) (x : W64) : W64 :=
  wrap w ((List.range (IW.bits w)).foldl (fun a i => a + if bitOf (uns w x) i then 2 ^ (IW.bits w - 1 - i) else 0) 0 : Nat)

/-- Length of a bit field after R118's reduction. -/
def fieldLen (w : IW) (b : W32) : Nat := min (bitsOf b.toNat 15 8) (IW.bits w - bitsOf b.toNat 7 0)
def fieldPos (b : W32) : Nat := bitsOf b.toNat 7 0
def rBfxN (w : IW) (x : W64) (b : W32) : W64 := wrap w (uns w x / 2 ^ fieldPos b % 2 ^ fieldLen w b : Nat)
def rBfxI (w : IW) (x : W64) (b : W32) : W64 :=
  let n := fieldLen w b
  let v := uns w x / 2 ^ fieldPos b % 2 ^ n
  if n = 0 then 0 else if bitOf v (n - 1) then wrap w ((v : Int) - 2 ^ n) else wrap w v
def rBfi (w : IW) (c x : W64) (b : W32) : W64 :=
  let n := fieldLen w b
  let p := fieldPos b
  let old := uns w c
  wrap w (old - old / 2 ^ p % 2 ^ n * 2 ^ p + uns w x % 2 ^ n * 2 ^ p : Nat)

/-- A two-operand integer instruction (R115). -/
def intOp (s : State) (w : IW) (d : Dst) (a : Opd) (b : Src) (f : W64 → W64 → W64) : State :=
  laneOp s 4 w d fun v l => f (opd v l w a) (srcW v l w b)

/-- A shift, whose amount is 32 bits wide (R115). -/
def shiftOp (s : State) (w : IW) (d : Dst) (a : Opd) (b : Src) (f : W64 → Nat → W64) : State :=
  laneOp s 4 w d fun v l => f (opd v l w a) (src32 v l b).toNat

def unaryOp (s : State) (w : IW) (d : Dst) (a : Opd) (f : W64 → W64) : State :=
  laneOp s 4 w d fun v l => f (opd v l w a)

/-- An instruction that reads its destination too (MAD). -/
def accOp (s : State) (w : IW) (d : Dst) (a : Opd) (b : Src) (f : W64 → W64 → W64 → W64) : State :=
  laneOp s 4 w d fun v l => f (opd v l w d.toOpd) (opd v l w a) (srcW v l w b)

def fieldOp (s : State) (w : IW) (d : Dst) (a : Opd) (b : Src) (f : W64 → W32 → W64) : State :=
  laneOp s 4 w d fun v l => f (opd v l w a) (src32 v l b)

def bfiOp (s : State) (w : IW) (d : Dst) (a : Opd) (b : Src) : State :=
  laneOp s 4 w d fun v l => rBfi w (opd v l w d.toOpd) (opd v l w a) (src32 v l b)

/-- Add of table A (R116). -/
def execAdd (w : IW) (d : Dst) (a : Opd) (b : Src) (s : State) : Out :=
  .next (intOp s w d a b (rAdd w))
/-- Sub of table A (R116). -/
def execSub (w : IW) (d : Dst) (a : Opd) (b : Src) (s : State) : Out :=
  .next (intOp s w d a b (rSub w))
/-- Mul of table A (R116). -/
def execMul (w : IW) (d : Dst) (a : Opd) (b : Src) (s : State) : Out :=
  .next (intOp s w d a b (rMul w))
/-- MulhI of table A (R116). -/
def execMulhI (w : IW) (d : Dst) (a : Opd) (b : Src) (s : State) : Out :=
  .next (intOp s w d a b (rMulhI w))
/-- MulhN of table A (R116). -/
def execMulhN (w : IW) (d : Dst) (a : Opd) (b : Src) (s : State) : Out :=
  .next (intOp s w d a b (rMulhN w))
/-- MinI of table A (R116). -/
def execMinI (w : IW) (d : Dst) (a : Opd) (b : Src) (s : State) : Out :=
  .next (intOp s w d a b (rMinI w))
/-- MinN of table A (R116). -/
def execMinN (w : IW) (d : Dst) (a : Opd) (b : Src) (s : State) : Out :=
  .next (intOp s w d a b (rMinN w))
/-- MaxI of table A (R116). -/
def execMaxI (w : IW) (d : Dst) (a : Opd) (b : Src) (s : State) : Out :=
  .next (intOp s w d a b (rMaxI w))
/-- MaxN of table A (R116). -/
def execMaxN (w : IW) (d : Dst) (a : Opd) (b : Src) (s : State) : Out :=
  .next (intOp s w d a b (rMaxN w))
/-- And, bitwise (R116). -/
def execAnd (w : IW) (d : Dst) (a : Opd) (b : Src) (s : State) : Out :=
  .next (intOp s w d a b fun x y => x &&& y)
/-- Or, bitwise (R116). -/
def execOr (w : IW) (d : Dst) (a : Opd) (b : Src) (s : State) : Out :=
  .next (intOp s w d a b fun x y => x ||| y)
/-- Xor, bitwise (R116). -/
def execXor (w : IW) (d : Dst) (a : Opd) (b : Src) (s : State) : Out :=
  .next (intOp s w d a b fun x y => x ^^^ y)
/-- Shl (R116). -/
def execShl (w : IW) (d : Dst) (a : Opd) (b : Src) (s : State) : Out :=
  .next (shiftOp s w d a b (rShl w))
/-- ShrN (R116). -/
def execShrN (w : IW) (d : Dst) (a : Opd) (b : Src) (s : State) : Out :=
  .next (shiftOp s w d a b (rShrN w))
/-- ShrI (R116). -/
def execShrI (w : IW) (d : Dst) (a : Opd) (b : Src) (s : State) : Out :=
  .next (shiftOp s w d a b (rShrI w))
/-- Rot (R116). -/
def execRot (w : IW) (d : Dst) (a : Opd) (b : Src) (s : State) : Out :=
  .next (shiftOp s w d a b (rRot w))
/-- DivI, 32-bit majors (R117). -/
def execDivI (d : Dst) (a : Opd) (b : Src) (s : State) : Out :=
  .next (intOp s .w32 d a b (rDivI .w32))
/-- DivI, major 0x04 (R117). -/
def execDivIT64 (d : Dst) (a b : Opd) (s : State) : Out :=
  .next (intOp s .w64 d a (.r b) (rDivI .w64))
/-- DivI, major 0x08 (R117). -/
def execDivII64 (d : Dst) (a : Opd) (i : BitVec 7) (s : State) : Out :=
  .next (intOp s .w64 d a (.i i) (rDivI .w64))
/-- DivN, 32-bit majors (R117). -/
def execDivN (d : Dst) (a : Opd) (b : Src) (s : State) : Out :=
  .next (intOp s .w32 d a b (rDivN .w32))
/-- DivN, major 0x04 (R117). -/
def execDivNT64 (d : Dst) (a b : Opd) (s : State) : Out :=
  .next (intOp s .w64 d a (.r b) (rDivN .w64))
/-- DivN, major 0x08 (R117). -/
def execDivNI64 (d : Dst) (a : Opd) (i : BitVec 7) (s : State) : Out :=
  .next (intOp s .w64 d a (.i i) (rDivN .w64))
/-- RemI, 32-bit majors (R117). -/
def execRemI (d : Dst) (a : Opd) (b : Src) (s : State) : Out :=
  .next (intOp s .w32 d a b (rRemI .w32))
/-- RemI, major 0x04 (R117). -/
def execRemIT64 (d : Dst) (a b : Opd) (s : State) : Out :=
  .next (intOp s .w64 d a (.r b) (rRemI .w64))
/-- RemI, major 0x08 (R117). -/
def execRemII64 (d : Dst) (a : Opd) (i : BitVec 7) (s : State) : Out :=
  .next (intOp s .w64 d a (.i i) (rRemI .w64))
/-- RemN, 32-bit majors (R117). -/
def execRemN (d : Dst) (a : Opd) (b : Src) (s : State) : Out :=
  .next (intOp s .w32 d a b (rRemN .w32))
/-- RemN, major 0x04 (R117). -/
def execRemNT64 (d : Dst) (a b : Opd) (s : State) : Out :=
  .next (intOp s .w64 d a (.r b) (rRemN .w64))
/-- RemN, major 0x08 (R117). -/
def execRemNI64 (d : Dst) (a : Opd) (i : BitVec 7) (s : State) : Out :=
  .next (intOp s .w64 d a (.i i) (rRemN .w64))
/-- Addc, 32-bit majors (R117). -/
def execAddcN (d : Dst) (a : Opd) (b : Src) (s : State) : Out :=
  .next (intOp s .w32 d a b (rAddc .w32))
/-- Addc, major 0x04 (R117). -/
def execAddcNT64 (d : Dst) (a b : Opd) (s : State) : Out :=
  .next (intOp s .w64 d a (.r b) (rAddc .w64))
/-- Addc, major 0x08 (R117). -/
def execAddcNI64 (d : Dst) (a : Opd) (i : BitVec 7) (s : State) : Out :=
  .next (intOp s .w64 d a (.i i) (rAddc .w64))
/-- Mad, 32-bit majors (R117). -/
def execMad (d : Dst) (a : Opd) (b : Src) (s : State) : Out :=
  .next (accOp s .w32 d a b (rMad .w32))
/-- Mad, major 0x04 (R117). -/
def execMadT64 (d : Dst) (a b : Opd) (s : State) : Out :=
  .next (accOp s .w64 d a (.r b) (rMad .w64))
/-- Mad, major 0x08 (R117). -/
def execMadI64 (d : Dst) (a : Opd) (i : BitVec 7) (s : State) : Out :=
  .next (accOp s .w64 d a (.i i) (rMad .w64))
/-- Neg (R117). -/
def execNeg (d : Dst) (a : Opd) (s : State) : Out := .next (unaryOp s .w32 d a (rNeg .w32))
/-- Neg of 64 bits (R117). -/
def execNeg64 (d : Dst) (a : Opd) (s : State) : Out := .next (unaryOp s .w64 d a (rNeg .w64))
/-- Abs (R117). -/
def execAbs (d : Dst) (a : Opd) (s : State) : Out := .next (unaryOp s .w32 d a (rAbs .w32))
/-- Abs of 64 bits (R117). -/
def execAbs64 (d : Dst) (a : Opd) (s : State) : Out := .next (unaryOp s .w64 d a (rAbs .w64))
/-- Not (R117). -/
def execNot (d : Dst) (a : Opd) (s : State) : Out := .next (unaryOp s .w32 d a (rNot .w32))
/-- Not of 64 bits (R117). -/
def execNot64 (d : Dst) (a : Opd) (s : State) : Out := .next (unaryOp s .w64 d a (rNot .w64))
/-- Popc (R117). -/
def execPopc (d : Dst) (a : Opd) (s : State) : Out := .next (unaryOp s .w32 d a (rPopc .w32))
/-- Popc of 64 bits (R117). -/
def execPopc64 (d : Dst) (a : Opd) (s : State) : Out := .next (unaryOp s .w64 d a (rPopc .w64))
/-- Clz (R117). -/
def execClz (d : Dst) (a : Opd) (s : State) : Out := .next (unaryOp s .w32 d a (rClz .w32))
/-- Clz of 64 bits (R117). -/
def execClz64 (d : Dst) (a : Opd) (s : State) : Out := .next (unaryOp s .w64 d a (rClz .w64))
/-- Brev (R117). -/
def execBrev (d : Dst) (a : Opd) (s : State) : Out := .next (unaryOp s .w32 d a (rBrev .w32))
/-- Brev of 64 bits (R117). -/
def execBrev64 (d : Dst) (a : Opd) (s : State) : Out := .next (unaryOp s .w64 d a (rBrev .w64))
/-- BfxN (R118). -/
def execBfxN (d : Dst) (a : Opd) (b : Src) (s : State) : Out := .next (fieldOp s .w32 d a b (rBfxN .w32))
/-- BfxN, major 0x04 (R118). -/
def execBfxNT64 (d : Dst) (a b : Opd) (s : State) : Out := .next (fieldOp s .w64 d a (.r b) (rBfxN .w64))
/-- BfxN, major 0x08 (R118). -/
def execBfxNI64 (d : Dst) (a : Opd) (i : BitVec 7) (s : State) : Out := .next (fieldOp s .w64 d a (.i i) (rBfxN .w64))
/-- BfxI (R118). -/
def execBfxI (d : Dst) (a : Opd) (b : Src) (s : State) : Out := .next (fieldOp s .w32 d a b (rBfxI .w32))
/-- BfxI, major 0x04 (R118). -/
def execBfxIT64 (d : Dst) (a b : Opd) (s : State) : Out := .next (fieldOp s .w64 d a (.r b) (rBfxI .w64))
/-- BfxI, major 0x08 (R118). -/
def execBfxII64 (d : Dst) (a : Opd) (i : BitVec 7) (s : State) : Out := .next (fieldOp s .w64 d a (.i i) (rBfxI .w64))
/-- BFI (R118). -/
def execBfi (d : Dst) (a : Opd) (b : Src) (s : State) : Out := .next (bfiOp s .w32 d a b)
/-- BFI, major 0x04 (R118). -/
def execBfiT64 (d : Dst) (a b : Opd) (s : State) : Out := .next (bfiOp s .w64 d a (.r b))
/-- BFI, major 0x08 (R118). -/
def execBfiI64 (d : Dst) (a : Opd) (i : BitVec 7) (s : State) : Out := .next (bfiOp s .w64 d a (.i i))
/-- PADD (R119). -/
def execPadd (d : Dst) (a b : Opd) (s : State) : Out :=
  .next (laneOp s 4 .w64 d fun v l => padd (opd64 v l a) (opd64 v l b).toInt)
/-- PADD with an immediate (R119). -/
def execPaddI (d : Dst) (a : Opd) (i : BitVec 7) (s : State) : Out :=
  .next (laneOp s 4 .w64 d fun v l => padd (opd64 v l a) (immW v .w64 i).toInt)

/-! H format (R71): the integer operations, 16 bits long. -/

/-- The two-operand H form: the destination is the first source (R71). -/
def hOp (s : State) (d : HReg) (src : HSrc) (f : W64 → W64 → W64) : State :=
  laneOp s 2 .w32 (HReg.dst d) fun v l => f ((opd32 v l (HReg.opd d)).setWidth 64) ((hsrc v l src).setWidth 64)

/-- MOV in H form (R71). -/
def execMovH (d : HReg) (src : HSrc) (s : State) : Out := .next (hOp s d src (fun _ y => y))
/-- ADD.I32 in H form (R71). -/
def execAddH (d : HReg) (src : HSrc) (s : State) : Out := .next (hOp s d src (rAdd .w32))
/-- SUB.I32 in H form (R71). -/
def execSubH (d : HReg) (src : HSrc) (s : State) : Out := .next (hOp s d src (rSub .w32))
/-- MUL.I32 in H form (R71). -/
def execMulH (d : HReg) (src : HSrc) (s : State) : Out := .next (hOp s d src (rMul .w32))
/-- AND in H form (R71). -/
def execAndH (d : HReg) (src : HSrc) (s : State) : Out := .next (hOp s d src (fun x y => x &&& y))
/-- OR in H form (R71). -/
def execOrH (d : HReg) (src : HSrc) (s : State) : Out := .next (hOp s d src (fun x y => x ||| y))
/-- XOR in H form (R71). -/
def execXorH (d : HReg) (src : HSrc) (s : State) : Out := .next (hOp s d src (fun x y => x ^^^ y))
/-- SHL.I32 in H form (R71). -/
def execShlH (d : HReg) (src : HSrc) (s : State) : Out := .next (hOp s d src (fun x y => rShl .w32 x y.toNat))
/-- SHR.N32 in H form (R71). -/
def execShrNH (d : HReg) (src : HSrc) (s : State) : Out := .next (hOp s d src (fun x y => rShrN .w32 x y.toNat))

end Sys2Proof.Machine
end

