-- ==== Sys2Proof/Machine/LaneMove.lean ====
section
/-! DEFINITION. Compare, move, select and conversion (R120 to R123, R132 to R134), the cross-lane instructions (R135 to
R141), the mask instructions (R142) and the scalar instructions (R143, R144). -/

namespace Sys2Proof.Machine

/-! Compare (R120, R121). -/

def condOrd (c : Cond) (o : Ordering) : Bool :=
  match c with
  | .eq => o == .eq | .ne => o != .eq | .lt => o == .lt | .le => o != .gt | .gt => o == .gt | .ge => o != .lt
  | .un | .ord => false

/-- Whether a CMP type is signed (R83). -/
def CT.signed : CT → Bool | .i32 | .i64 => true | _ => false

def cmpLane (t : CT) (c : Cond) (a : Opd) (b : Src) (w : Wave) (l : Lane) : Bool :=
  let x := opd w l t.iw a
  let y := srcW w l t.iw b
  condOrd c (if CT.signed t then compare (sgn t.iw x) (sgn t.iw y) else compare (uns t.iw x) (uns t.iw y))

/-- A mask result in the lanes of `act`: the Md bit and the latch (R13, R120). -/
def maskResult (s : State) (m : MReg) (act : W32) (f : Lane → Bool) : State :=
  let w := s.w
  let bits := maskOf fun i => if act.getLsbD i then f (w.lane i) else (w.m.getD m.val 0).getLsbD i
  let w := w.onLanes act fun l => l.latchTo s.free .w32 (BitVec.ofNat 64 (b2n (f l)))
  { s with w := w.setMask m bits, free := s.free + 1 }

/-- CMP (R120). -/
def execCmp (t : CT) (c : Cond) (m : MReg) (a : Opd) (b : Src) (s : State) : Out :=
  .next ((maskResult s m s.w.acting (cmpLane t c a b s.w)).advance 4 true)

def fcmpLane (t : FT) (c : Cond) (a : Opd) (b : Src) (w : Wave) (l : Lane) : Bool × Exc :=
  let y := match b with | .r o => yReg t o w l | .i v => fimm w t v
  fCmp c (fval t (opd w l t.iw a)) ((FT.fmt t).dec y)

/-- FCMP (R120, R121): a trapping lane keeps its Md bit and its L. -/
def execFcmp (t : FT) (c : Cond) (m : MReg) (a : Opd) (b : Src) (s : State) : Out :=
  let w := s.w
  .next (fpFinish s 4 w.acting (fun i => (fcmpLane t c a b w (w.lane i)).2) (.mask m) true
    fun ok s => maskResult s m ok fun l => (fcmpLane t c a b w l).1)

/-! Move and select (R122, R123). -/

/-- MOV (R122). -/
def execMov (w : IW) (d : Dst) (a : Opd) (s : State) : Out := .next (laneOp s 4 w d fun v l => opd v l w a)
/-- MOVI (R122). -/
def execMovi (w : IW) (d : Dst) (i : BitVec 7) (s : State) : Out := .next (laneOp s 4 w d fun v _ => immW v w i)
/-- SEL (R123). -/
def execSel (x : MReg) (d : Dst) (a b : Opd) (s : State) : Out :=
  .next (laneOp s 4 .w32 d fun v l => if (v.mask x).getLsbD l.id then opd v l .w32 a else opd v l .w32 b)
/-- SEL64 (R123). -/
def execSel64 (x : MReg) (d : Dst) (a b : Opd) (s : State) : Out :=
  .next (laneOp s 4 .w64 d fun v l => if (v.mask x).getLsbD l.id then opd64 v l a else opd64 v l b)

/-! Conversion (R132 to R134). -/

/-- The rounding of a CVT: its own mode, or XFPRM's (R54, R79). -/
def CvtMode.rm (w : Wave) : CvtMode → RMode
  | .dflt => w.rm | .rne => .rne | .rtz => .rtz | .rup => .rup

def cvtOp (s : State) (md : Wave → RMode) (dty sty : Ty) (d : Dst) (a : Opd) : State :=
  fpOp s 4 dty.iw d fun w l => convTo dty (md w) (Ty.value sty (opd w l sty.iw a).toNat)

/-- CVT (R132). -/
def execCvt (m : CvtMode) (dty sty : Ty) (d : Dst) (a : Opd) (s : State) : Out :=
  .next (cvtOp s (fun w => CvtMode.rm w m) dty sty d a)
/-- CVT with RDN (R132). -/
def execCvtRdn (dty sty : Ty) (d : Dst) (a : Opd) (s : State) : Out := .next (cvtOp s (fun _ => .rdn) dty sty d a)

def PackFmt.ty : PackFmt → Ty
  | .e4m3 => .e4m3 | .e5m2 => .e5m2 | .e3m2 => .e3m2 | .e2m3 => .e2m3 | .e2m1 => .e2m1 | .qn4 => .qn4

/-- Register `i` of a group (R70). -/
def groupReg (l : Lane) (a : Opd) (i : Nat) : W32 :=
  match a with
  | .g n => l.reg (n.val + i)
  | .k n => l.reg (96 + n.val + i)
  | _ => 0

/-- The elements that NPACK takes from its group (R133). -/
def packValue (f : PackFmt) (l : Lane) (a : Opd) (j : Nat) : FVal :=
  match f with
  | .e2m1 | .qn4 => fmtF16.dec ((groupReg l a (j / 2)).toNat / 2 ^ (16 * (j % 2)) % 65536)
  | _ => fmtF32.dec (groupReg l a j).toNat

/-- The packed word of a lane and the union of its elements' exceptions (R133). -/
def packLane (f : PackFmt) (l : Lane) (a : Opd) : Nat × Exc :=
  (List.range f.group).foldl (fun acc j =>
    let r := convTo (PackFmt.ty f) .rne (packValue f l a j)
    (acc.1 + r.1 * 2 ^ (Ty.bits (PackFmt.ty f) * j), acc.2.or r.2)) (0, {})

/-- NPACK (R133). -/
def execNpack (f : PackFmt) (d : Dst) (a : Opd) (s : State) : Out :=
  .next (fpOp s 4 .w32 d fun _ l => packLane f l a)

/-- Element `j` of a packed word as F32 (R134). -/
def unpackElem (f : PackFmt) (x : W32) (j : Nat) : W32 :=
  BitVec.ofNat 32 ((Ty.value (PackFmt.ty f) (x.toNat / 2 ^ (Ty.bits (PackFmt.ty f) * j))).toIeee fmtF32 .rne).1

/-- One lane of NUNPK: the group's registers, and the latch with the value of register d (R134). -/
def unpackLane (w : Wave) (free : Nat) (f : PackFmt) (d : Dst) (a : Opd) (l : Lane) : Lane :=
  let x := opd32 w l a
  ((d.toOpd.regs f.group).zipIdx.foldl (fun l r => l.setReg r.1 (unpackElem f x r.2)) l).latchTo free .w32
    ((unpackElem f x 0).setWidth 64)

/-- NUNPK (R134): the group from `d` on. -/
def execNunpk (f : PackFmt) (d : Dst) (a : Opd) (s : State) : Out :=
  .next ({ s with free := s.free + 1, w := s.w.onLanes s.w.acting (unpackLane s.w s.free f d a) }.advance 4 true)

/-! Cross-lane (R135 to R141). -/

/-- A shuffle: `j` is the source lane; outside the acting set a lane keeps its own value (R136). -/
def shuffle (s : State) (d : Dst) (a : Opd) (j : Wave → Lane → Int) : State :=
  laneOp s 4 .w32 d fun w l =>
    let k := j w l
    if 0 ≤ k ∧ k ≤ 31 ∧ w.acting.getLsbD k.toNat then opd w (w.lane k.toNat) .w32 a else opd w l .w32 a

/-- SHFL.IDX (R136). -/
def execShflIdx (d : Dst) (a b : Opd) (s : State) : Out :=
  .next (shuffle s d a fun w l => ((opd32 w l b).toNat % 32 : Nat))
/-- SHFL.UP (R136). -/
def execShflUp (d : Dst) (a b : Opd) (s : State) : Out := .next (shuffle s d a fun w l => l.id - (opd32 w l b).toInt)
/-- SHFL.DOWN (R136). -/
def execShflDown (d : Dst) (a b : Opd) (s : State) : Out := .next (shuffle s d a fun w l => l.id + (opd32 w l b).toInt)
/-- SHFL.XOR (R136). -/
def execShflXor (d : Dst) (a b : Opd) (s : State) : Out :=
  .next (shuffle s d a fun w l => (l.id ^^^ ((opd32 w l b).toNat % 32) : Nat))

/-- The lane BCAST reads (R137). -/
def bcastLane (w : Wave) (b : Opd) : Nat :=
  let f := (lowest w.acting).getD 0
  let j := (opd32 w (w.lane f) b).toNat % 32
  if w.acting.getLsbD j then j else f

/-- BCAST (R137). -/
def execBcast (d : Dst) (a b : Opd) (s : State) : Out :=
  .next (laneOp s 4 .w32 d fun w _ => opd w (w.lane (bcastLane w b)) .w32 a)

/-- A vote: the same bit in every acting lane, nothing with none (R138). -/
def vote (s : State) (m : MReg) (f : Wave → List Nat → Bool) : State :=
  let act := s.w.acting
  let c := f s.w (lanesOf act)
  (maskResult s m act fun _ => c).advance 4 true

/-- VOTE.ALL (R138). -/
def execVoteAll (m : MReg) (a : Opd) (s : State) : Out :=
  .next (vote s m fun w ls => ls.all fun i => opd32 w (w.lane i) a != 0)
/-- VOTE.ANY (R138). -/
def execVoteAny (m : MReg) (a : Opd) (s : State) : Out :=
  .next (vote s m fun w ls => ls.any fun i => opd32 w (w.lane i) a != 0)
/-- VOTE.EQ (R138). -/
def execVoteEq (m : MReg) (a : Opd) (s : State) : Out :=
  .next (vote s m fun w ls => ls.all fun i => opd32 w (w.lane i) a == opd32 w (w.lane (ls.getD 0 0)) a)

def RedTy.isFloat : RedTy → Bool | .f32 | .f64 => true | _ => false
def RedTy.isSigned : RedTy → Bool | .i32 | .i64 => true | _ => false
def RedTy.fmt : RedTy → Fmt | .f64 => fmtF64 | _ => fmtF32

/-- One combination of WRED and WSCAN (R139). -/
def redOp (md : RMode) (o : RedOp) (t : RedTy) (x y : W64) : W64 × Exc :=
  let w := t.iw
  if RedTy.isFloat t then
    let f := RedTy.fmt t
    match o with
    | .add => let r := fAdd f md (f.dec x.toNat) (f.dec y.toNat); (BitVec.ofNat 64 r.1, r.2)
    | .max => let r := fMinMax f true x.toNat y.toNat; (BitVec.ofNat 64 r.1, r.2)
    | _ => let r := fMinMax f false x.toNat y.toNat; (BitVec.ofNat 64 r.1, r.2)
  else
    (match o with
      | .add => rAdd w x y
      | .min => if RedTy.isSigned t then rMinI w x y else rMinN w x y
      | .max => if RedTy.isSigned t then rMaxI w x y else rMaxN w x y
      | .and => x &&& y
      | .or => x ||| y
      | .xor => x ^^^ y, {})

/-- One level of the balanced tree (R139). -/
def redLevel (f : W64 → W64 → W64 × Exc) : List (Option (W64 × Exc)) → List (Option (W64 × Exc))
  | a :: b :: rest =>
    (match a, b with
      | none, y => y
      | x, none => x
      | some (x, ex), some (y, ey) => let r := f x y; some (r.1, (ex.or ey).or r.2)) :: redLevel f rest
  | rest => rest

def redTree (f : W64 → W64 → W64 × Exc) : (n : Nat) → List (Option (W64 × Exc)) → List (Option (W64 × Exc))
  | 0, v => v
  | n + 1, v => redTree f n (redLevel f v)

/-- The result of WRED and the union of all its exceptions; none with an empty acting set. -/
def wredResult (w : Wave) (o : RedOp) (t : RedTy) (a : Opd) : Option (W64 × Exc) :=
  ((redTree (redOp w.rm o t) 5 ((List.range 32).map fun i =>
    if w.acting.getLsbD i then some (opd w (w.lane i) t.iw a, {}) else none))[0]?).join

/-- WRED (R139). -/
def execWred (o : RedOp) (t : RedTy) (d : Dst) (a : Opd) (s : State) : Out :=
  .next (fpOp s 4 t.iw d fun w _ => match wredResult w o t a with | some r => (r.1.toNat, r.2) | none => (0, {}))

/-- The inclusive prefix over the lanes up to `i`, and the exceptions of its last operation (R140). -/
def scanTo (w : Wave) (o : RedOp) (t : RedTy) (a : Opd) (i : Nat) : W64 × Exc :=
  match (lanesOf w.acting).filter (· ≤ i) with
  | [] => (0, {})
  | f :: rest => rest.foldl (fun acc j => redOp w.rm o t acc.1 (opd w (w.lane j) t.iw a)) (opd w (w.lane f) t.iw a, {})

/-- WSCAN (R140). -/
def execWscan (o : RedOp) (t : RedTy) (d : Dst) (a : Opd) (s : State) : Out :=
  .next (fpOp s 4 t.iw d fun w l => let r := scanTo w o t a l.id; (r.1.toNat, r.2))

/-- MOVS (R141). -/
def execMovs (sd : SReg) (a b : Opd) (s : State) : Out :=
  match lowest s.w.acting with
  | none => .next (s.advance 4)
  | some f => .next ({ s with w := s.w.setS sd (opd32 s.w (s.w.lane f) b ++ opd32 s.w (s.w.lane f) a) }.advance 4)

/-! Mask (R142). -/

def maskOp (s : State) (d : MReg) (v : W32) : State := { s with w := s.w.setMask d v }.advance 4

/-- MAND (R142). -/
def execMand (d a b : MReg) (s : State) : Out := .next (maskOp s d (s.w.mask a &&& s.w.mask b))
/-- MOR (R142). -/
def execMor (d a b : MReg) (s : State) : Out := .next (maskOp s d (s.w.mask a ||| s.w.mask b))
/-- MXOR (R142). -/
def execMxor (d a b : MReg) (s : State) : Out := .next (maskOp s d (s.w.mask a ^^^ s.w.mask b))
/-- MNOT (R142). -/
def execMnot (d a : MReg) (s : State) : Out := .next (maskOp s d (~~~s.w.mask a))

/-- A scalar result (R16). -/
def scalarOp (s : State) (d : SReg) (v : W64) : State := { s with w := s.w.setS d v }.advance 4

/-- MPOP (R142). -/
def execMpop (d : SReg) (a : MReg) (s : State) : Out :=
  .next (scalarOp s d (BitVec.ofNat 64 (popcount (s.w.mask a).toNat 32)))
/-- MFIRST (R142). -/
def execMfirst (d : SReg) (a : MReg) (s : State) : Out :=
  .next (scalarOp s d (BitVec.ofNat 64 ((lowest (s.w.mask a)).getD 32)))

/-! Scalar (R143, R144). -/

def rSshl (x : W64) (n : Nat) : W64 := if 64 ≤ n then 0 else x <<< n
def rSshr (arith : Bool) (x : W64) (n : Nat) : W64 :=
  if arith then (if 64 ≤ n then (if x.msb then -1 else 0) else x.sshiftRight n) else if 64 ≤ n then 0 else x >>> n
def rScmp (c : SCond) (x y : W64) : W64 :=
  BitVec.ofNat 64 (b2n (match c with | .eq => x == y | .ne => x != y | .lt => x.slt y | .le => x.sle y))
def rScmpU (le : Bool) (x y : W64) : W64 := BitVec.ofNat 64 (b2n (if le then x.ule y else x.ult y))

/-- SADD (R143). -/
def execSadd (d a b : SReg) (s : State) : Out := .next (scalarOp s d (s.w.sreg a + s.w.sreg b))
/-- SADD with an immediate (R143). -/
def execSaddImm (d : SReg) (i : BitVec 12) (s : State) : Out := .next (scalarOp s d (s.w.sreg d + imm12w s.w i))
/-- SSUB (R143). -/
def execSsub (d a b : SReg) (s : State) : Out := .next (scalarOp s d (s.w.sreg a - s.w.sreg b))
/-- SSUB with an immediate (R143). -/
def execSsubImm (d : SReg) (i : BitVec 12) (s : State) : Out := .next (scalarOp s d (s.w.sreg d - imm12w s.w i))
/-- SMUL (R143). -/
def execSmul (d a b : SReg) (s : State) : Out := .next (scalarOp s d (s.w.sreg a * s.w.sreg b))
/-- SMUL with an immediate (R143). -/
def execSmulImm (d : SReg) (i : BitVec 12) (s : State) : Out := .next (scalarOp s d (s.w.sreg d * imm12w s.w i))
/-- SAND (R143). -/
def execSand (d a b : SReg) (s : State) : Out := .next (scalarOp s d (s.w.sreg a &&& s.w.sreg b))
/-- SAND with an immediate (R143). -/
def execSandImm (d : SReg) (i : BitVec 12) (s : State) : Out := .next (scalarOp s d (s.w.sreg d &&& imm12w s.w i))
/-- SOR (R143). -/
def execSor (d a b : SReg) (s : State) : Out := .next (scalarOp s d (s.w.sreg a ||| s.w.sreg b))
/-- SOR with an immediate (R143). -/
def execSorImm (d : SReg) (i : BitVec 12) (s : State) : Out := .next (scalarOp s d (s.w.sreg d ||| imm12w s.w i))
/-- SXOR (R143). -/
def execSxor (d a b : SReg) (s : State) : Out := .next (scalarOp s d (s.w.sreg a ^^^ s.w.sreg b))
/-- SXOR with an immediate (R143). -/
def execSxorImm (d : SReg) (i : BitVec 12) (s : State) : Out := .next (scalarOp s d (s.w.sreg d ^^^ imm12w s.w i))
/-- SSHL (R143). -/
def execSshl (d a b : SReg) (s : State) : Out := .next (scalarOp s d (rSshl (s.w.sreg a) (s.w.sreg b).toNat))
/-- SSHL with an immediate (R143). -/
def execSshlImm (d : SReg) (i : BitVec 12) (s : State) : Out := .next (scalarOp s d (rSshl (s.w.sreg d) (imm12w s.w i).toNat))
/-- SSHR (R143). -/
def execSshr (arith : Bool) (d a b : SReg) (s : State) : Out :=
  .next (scalarOp s d (rSshr arith (s.w.sreg a) (s.w.sreg b).toNat))
/-- SSHR with an immediate (R143). -/
def execSshrImm (arith : Bool) (d : SReg) (i : BitVec 12) (s : State) : Out :=
  .next (scalarOp s d (rSshr arith (s.w.sreg d) (imm12w s.w i).toNat))
/-- SCMP, signed (R144). -/
def execScmp (c : SCond) (d a b : SReg) (s : State) : Out := .next (scalarOp s d (rScmp c (s.w.sreg a) (s.w.sreg b)))
/-- SCMP with an immediate, signed (R144). -/
def execScmpImm (c : SCond) (d : SReg) (i : BitVec 12) (s : State) : Out :=
  .next (scalarOp s d (rScmp c (s.w.sreg d) (imm12w s.w i)))
/-- SCMP, unsigned (R144). -/
def execScmpU (le : Bool) (d a b : SReg) (s : State) : Out := .next (scalarOp s d (rScmpU le (s.w.sreg a) (s.w.sreg b)))
/-- SCMP with an immediate, unsigned (R144). -/
def execScmpUImm (le : Bool) (d : SReg) (i : BitVec 12) (s : State) : Out :=
  .next (scalarOp s d (rScmpU le (s.w.sreg d) (imm12w s.w i)))
/-- SMOV (R143). -/
def execSmov (d a : SReg) (s : State) : Out := .next (scalarOp s d (s.w.sreg a))
/-- SMOVI (R143). -/
def execSmovi (d : SReg) (i : BitVec 12) (s : State) : Out := .next (scalarOp s d (imm12w s.w i))

end Sys2Proof.Machine
end

