-- ==== Sys2Proof/Machine/Tensor.lean ====
section
/-! DEFINITION. Descriptors of canonical data and stored tensors (R204, R205, R230), the ranges a tile copy or matrix
instruction holds, and the range scoreboard (R162, R212). -/

namespace Sys2Proof.Machine

/-! Fields of a scratch descriptor (R204). -/
def sdDest (d : W64) : Nat := bitsOf d.toNat 63 62
def sdPeer (d : W64) : Bool := bitOf d.toNat 61
def sdRank (d : W64) : Nat := bitsOf d.toNat 60 56
def sdVp (d : W64) : Nat := bitsOf d.toNat 55 40
def sdSoff (d : W64) : Nat := bitsOf d.toNat 39 20
def sdDoff (d : W64) : Nat := bitsOf d.toNat 19 0

/-! Fields of a B-store descriptor (R205). -/
def bdPitch (d : W64) : Nat := bitsOf d.toNat 38 26
def bdSoff (d : W64) : Nat := bitsOf d.toNat 25 13
def bdDoff (d : W64) : Nat := bitsOf d.toNat 12 0

/-- A destination in the B store (R204). -/
def isB (d : W64) : Bool := sdDest d % 2 == 1

/-! A stored tensor (R230). -/
def tFmt (g : List W64) : Nat := bitsOf (g.getD 1 0).toNat 60 56
def tBs (g : List W64) : Bool := bitOf (g.getD 1 0).toNat 61
def tR (g : List W64) : Nat := bitsOf (g.getD 1 0).toNat 55 44 + 1
def tE (g : List W64) : Nat := 16 * bitsOf (g.getD 1 0).toNat 43 32
def tStride (g : List W64) : Nat := bitsOf (g.getD 1 0).toNat 31 0

/-- Storage formats by their code (R230); `none` stands for I4. -/
def storeTy (code : Nat) : Option (Option Ty) :=
  match code with
  | 0 => some (some .i8) | 8 => some (some .f16) | 9 => some (some .bf16) | 10 => some (some .f32) | 11 => some (some .f64)
  | 12 => some (some .e4m3) | 13 => some (some .e5m2) | 14 => some (some .e3m2) | 15 => some (some .e2m3)
  | 16 => some (some .e2m1) | 17 => some (some .qn4) | 19 => some none
  | _ => none

/-- Bits of a stored element (R50). -/
def storeBits (code : Nat) : Nat :=
  match storeTy code with
  | some (some t) => Ty.bits t
  | _ => 4

/-- Bytes of a canonical element that a format expands to (R58). -/
def canonBytes (code : Nat) : Nat := match code with | 8 | 9 | 10 => 4 | 11 => 8 | _ => 2
/-- Whether the canonical layout is CE16, with a scale row (R58). -/
def canonScaled (code : Nat) : Bool := canonBytes code == 2

/-- Bytes of a stored vector (R230). -/
def vecBytes (g : List W64) : Nat := tE g * storeBits (tFmt g) / 8

/-- Bytes of a source element by STYPE (R232): F16, BF16 and CE16 two, F32 four, F64 eight. -/
def stypeBytes (c : W64) : Nat := match bitsOf c.toNat 36 32 with | 10 => 4 | 11 => 8 | _ => 2

/-- A range of bytes held in the scoreboard: the team's window or, with `b`, one slice of its B-store share. -/
structure Range where
  team : Nat
  b : Bool := false
  lo : Nat
  hi : Nat
  deriving DecidableEq, Repr

/-- Data and scale ranges of `r` vectors of `bytes` bytes in a window, with scale rows of an eighth (R204). -/
def vecRanges (team : Nat) (d : W64) (r bytes : Nat) (scaled : Bool) : List Range :=
  { team, lo := sdDoff d, hi := sdDoff d + (r - 1) * sdVp d + bytes } ::
    (if scaled then [{ team, lo := sdSoff d, hi := sdSoff d + (r - 1) * (sdVp d / 8) + bytes / 8 }] else [])

/-- The ranges of `c` B columns within a slice, laid out for slice 0 (R205): every slice holds the same offsets. -/
def colRanges (team : Nat) (d : W64) (c bytes : Nat) (scaled : Bool) : List Range :=
  let q := (c + 31) / 32
  { team, b := true, lo := bdDoff d, hi := bdDoff d + (q - 1) * bdPitch d + bytes } ::
    (if scaled then [{ team, b := true, lo := bdSoff d, hi := bdSoff d + (q - 1) * (bdPitch d / 8) + bytes / 8 }] else [])

/-- What a copy writes in a window or B-store share, for the team given (R162, R231, R236). -/
def Copy.dstRanges (c : Copy) (team : Nat) : List Range :=
  match c.op with
  | .tcopy _ | .tgather =>
    let bytes := tE c.group * canonBytes (tFmt c.group)
    (if 2 ≤ sdDest c.desc then [{ team, lo := bitsOf c.ctl.toNat 51 32, hi := bitsOf c.ctl.toNat 51 32 + 8 }] else []) ++
      -- a multicast is delivered to its own team only where RANKS names the issuer's rank (R233)
      (if 2 ≤ sdDest c.desc ∧ ¬ c.own then []
       else if isB c.desc then colRanges team c.desc (tR c.group) bytes (canonScaled (tFmt c.group))
       else vecRanges team c.desc (tR c.group) bytes (canonScaled (tFmt c.group)))
  | .tloadv => vecRanges team c.desc (tR c.group) (vecBytes c.group) false
  | _ => []

/-- What a copy reads in its team's window (R232, R234, R235). -/
def Copy.srcRanges (c : Copy) : List Range :=
  let idx : List Range := [{ team := c.team, lo := bitsOf c.ctl.toNat 19 0, hi := bitsOf c.ctl.toNat 19 0 + 4 * tR c.group }]
  match c.op with
  | .tgather => idx
  | .tscat => idx ++ vecRanges c.team c.desc (tR c.group) (tE c.group * stypeBytes c.ctl) (bitsOf c.ctl.toNat 36 32 == 18)
  | .tstore _ => vecRanges c.team c.desc (tR c.group) (tE c.group * stypeBytes c.ctl) (bitsOf c.ctl.toNat 36 32 == 18)
  | _ => []

def Copy.ranges (c : Copy) : List Range := c.dstRanges c.team ++ c.srcRanges

/-- Overlap of ranges widened to 64-byte boundaries (R162). -/
def Range.meets (x y : Range) : Bool :=
  x.team == y.team && x.b == y.b && x.lo / 64 < (y.hi + 63) / 64 && y.lo / 64 < (x.hi + 63) / 64 && x.lo < x.hi && y.lo < y.hi

def anyMeets (xs ys : List Range) : Bool := xs.any fun x => ys.any x.meets

def Layout.elemBytes : Layout → Nat | .ce16 => 2 | .cf32 => 4 | .cf64 => 8
def Layout.k : Layout → Nat | .ce16 => 64 | .cf32 => 16 | .cf64 => 4

/-- Rows and columns of a region (R201). -/
def regionRows (shape : Nat) : Nat := if shape = 2 ∨ shape = 3 then 128 else 64
def regionCols (shape : Nat) (fp64 : Bool) : Nat :=
  (if shape = 1 ∨ shape = 3 then 2 else 1) * (if fp64 then 32 else 64)

/-- The operand ranges of a matrix instruction in the array (R206, R212). -/
def MatOp.ranges (o : MatOp) : List Range :=
  let bytes := o.steps * Layout.k o.layout * Layout.elemBytes o.layout
  vecRanges o.aTeam o.a (regionRows o.shape) bytes (o.layout == .ce16) ++
    colRanges o.team o.b (regionCols o.shape (o.layout == .cf64)) bytes (o.layout == .ce16)

/-- Copies of every core that reach a team (its own core's queue, and multicasts of gang peers). -/
def copiesFor (s : State) : List Copy := (if s.hand.isSome then s.c.copies else []) ++ s.cores.flatMap (·.copies)
def opsFor (s : State) : List MatOp := (if s.hand.isSome then s.c.array else []) ++ s.cores.flatMap (·.array)

/-- A window access that must wait for a tile copy, and a store also for a matrix read (R162, R212). -/
def scoreboardHolds (s : State) (rs : List Range) (store : Bool) : Bool :=
  (copiesFor s).any (fun c => anyMeets rs c.ranges) || (store && (opsFor s).any fun o => anyMeets rs o.ranges)

def AtomReq.bytes (q : AtomReq) : Nat := match q.w with | .w32 => 4 | .w64 => 8

/-- Atomics that some wave has sent and that are yet to be performed in one of the ranges: a matrix instruction and a tile copy of
these bytes wait for them, so that overlapping accesses are performed in issue order (R149, R212). -/
def atomsHold (s : State) (rs : List Range) : Bool :=
  s.allTeams.any fun t => t.waves.any fun w => w.pend.any fun p => p.atoms.any fun q =>
    match q.place with
    | .window n => anyMeets rs [{ team := n, lo := q.addr.toNat, hi := q.addr.toNat + q.bytes }]
    | .global _ => false

/-! Global ranges of copies (R229, R232). -/

def isQn4 (g : List W64) : Bool := tFmt g == 17
def ctlDerive (c : W64) : Bool := bitOf c.toNat 40
def CopyOp.outward : CopyOp → Bool | .tscat | .tstore _ => true | _ => false
def CopyOp.indexed : CopyOp → Bool | .tgather | .tscat => true | _ => false
/-- A validated read (R236). -/
def CopyOp.validated : CopyOp → Bool | .tcopy v => v | .tloadv => true | _ => false
/-- A copy that may end in a deferred fault of its data: a validated read or an indexed one (R237). -/
def CopyOp.mayFault (o : CopyOp) : Bool := o.validated || o.indexed
def CopyOp.aon : CopyOp → Bool | .tstore a => a | _ => false

/-- Bytes that a tensor covers in global space: from its first vector's start to its last one's end. -/
def tensorSpan (g : List W64) : Nat := (tR g - 1) * tStride g + vecBytes g
def supersPerVec (g : List W64) : Nat := 4 * ((tE g + 255) / 256)
def seqPtr (g : List W64) : W64 := g.getD 0 0 - 8

/-- A global range with the rights its access needs and whether it is written (R229). -/
structure Span where
  ptr : W64
  bytes : Nat
  rights : List Nat
  write : Bool
  deriving DecidableEq, Repr

/-- The global ranges of a copy (R229): tensor, block codes, super-scales, sequence word. -/
def copySpans (op : CopyOp) (c : W64) (g : List W64) : List Span :=
  let out := op.outward
  let wr := out && ctlDerive c
  let scales (p : W64) (n : Nat) : Span := { ptr := p, bytes := n, rights := [if wr then 1 else 0], write := wr }
  { ptr := g.getD 0 0, bytes := tensorSpan g, rights := [if out then 1 else 0], write := out } ::
    ((if tBs g then [scales (g.getD 2 0) (tR g * (tE g / 16))] else []) ++
     (if isQn4 g then [scales (g.getD 3 0) (tR g * supersPerVec g)] else []) ++
     (if op.aon then [{ ptr := seqPtr g, bytes := 8, rights := [0, 1, 2], write := true }]
      else if op.validated then [{ ptr := seqPtr g, bytes := 8, rights := [0], write := false }] else []))

/-- Whether pointers' ranges meet under one object number. -/
def spansMeet (p : W64) (n : Nat) (q : W64) (m : Nat) : Bool :=
  pObj p == pObj q && pAddr p < pAddr q + m && pAddr q < pAddr p + n

/-- A global access of the wave in hand that meets what one of its copies has yet to write, or a store that meets what one
has yet to read, waits for it (R149, R229). -/
def copyConflict (s : State) (ps : List W64) (n : Nat) (store : Bool) : Bool :=
  s.c.copies.any fun k => k.team == s.t.id && k.wave == s.w.num &&
    (copySpans k.op k.ctl k.group).any fun x => (store || x.write) && ps.any fun p => spansMeet p n x.ptr x.bytes

/-- The issuing wave has an atomic in flight to bytes that a copy reads or writes: it was sent before the copy (R149, R229). -/
def atomsAhead (s : State) (k : Copy) : Bool :=
  match s.wave ⟨k.team, k.wave⟩ with
  | none => false
  | some w => w.pend.any fun p => p.atoms.any fun q =>
      match q.place with
      | .global _ => (copySpans k.op k.ctl k.group).any fun x => spansMeet q.addr q.bytes x.ptr x.bytes
      | .window _ => false

end Sys2Proof.Machine
end

