-- ==== Sys2Proof/Machine/MemOps.lean ====
section
/-! DEFINITION. Loads, stores, atomics and the tag table (R146 to R175): addresses and checks by lane, the combination of
lane causes (R153), and one meaning per instruction. -/

namespace Sys2Proof.Machine

/-! Causes by lane (R152, R153). -/

/-- What keeps a lane from its access: a region-precise cause with its detail, a page, or a watch. -/
inductive Bad where
  | region (code detail : Nat)
  | page (cause space page : Nat) (write : Bool)
  | watch (detail : Nat)
  deriving DecidableEq, Repr

/-- A lane's access: where it acts, the address a report shows, and what stops it. -/
structure Acc where
  lane : Nat
  place : Place
  addr : W64
  shown : W64
  bad : Option Bad := .none
  deriving DecidableEq, Repr

def Acc.stop (a : Acc) (code : Nat) : Bool := match a.bad with | some (.region c _) => c == code | _ => false
def Acc.isWatch (a : Acc) : Bool := match a.bad with | some (.watch _) => true | _ => false

def accMask (xs : List Acc) (p : Acc → Bool) : W32 := maskOf fun i => xs.any fun a => a.lane == i && p a

/-- No lane has a cause but WATCH. -/
def watchOnly (xs : List Acc) : Bool := xs.all fun a => a.bad.isNone || a.isWatch

/-- What the lanes that fault with PAGE wait on (R311). -/
def pageWaits (xs : List Acc) (pc : W64) (clause : Option Clause) : List PageWait :=
  xs.filterMap fun a => match a.bad with
    | some (.page cause space page write) =>
      some { space, page, write, cause, lanes := BitVec.ofNat 32 (2 ^ a.lane), addr := a.shown, pc, clause }
    | _ => none

/-- Lanes of one instruction after their checks (R153): the lanes without a cause perform it; faulting lanes park; a trap
is taken for RIGHTS, BOUND or QUOTA, in that order; with watches alone it is instruction-precise. `perform` does the
access for a set of lanes and `adv` is the issue accounting; `nr` says that the operation is non-repeatable (R36), `enter` what body
state it enters. -/
def accessFinish (s : State) (xs : List Acc) (dst : TrapDst) (perform : W32 → State → State) (adv : State → State)
    (nr : Bool := false) (enter : Option Body := none) : State :=
  let e := s.w.cur
  let run := s.w.runIdx.getD 0
  let pc := s.w.issuePc
  let bad := accMask xs fun a => a.bad.isSome
  let ok := accMask xs fun a => a.bad.isNone
  if bad = 0 then adv (perform ok s)
  else if watchOnly xs then
    let low := (xs.find? (·.isWatch)).getD { lane := 0, place := .global 0, addr := 0, shown := 0 }
    let s := perform ok s
    let enter := (enter.map some).or (if e.body.isSome then some (s.w.cur.body.map Body.counted) else none)
    takeTrapOf s { cause := 20, detail := match low.bad with | some (.watch n) => n | _ => 0, lanes := bad, addr := low.shown
                   pc, next := e.pc + 4, dst, nr, enter } run e.clause e.body
  else
    let whole := parksWhole s.w bad
    let s := if whole then { s with granted := false } else adv (perform ok s)
    let waits := pageWaits xs pc e.clause
    match parkLanes s (if whole then e.mask else bad) waits with
    | (s, i, _) =>
      let s := waits.foldl addFault s
      match [34, 33, 35].find? fun c => xs.any fun a => a.stop c with
      | none => s
      | some c =>
        let low := (xs.find? fun a => a.stop c).getD { lane := 0, place := .global 0, addr := 0, shown := 0 }
        let detail := match low.bad with | some (.region _ d) => d | _ => 0
        takeTrapOf s { cause := c, detail, lanes := accMask xs fun a => a.stop c, addr := low.shown, pc, next := e.pc + 4, dst } i e.clause e.body

/-- What is wrong with a cause of R152 (R264). -/
def badOf (space : Nat) (write : Bool) : Cause → Bad
  | .page cause page => .page cause space page write
  | .watch n => .watch n
  | c => .region (causeCode c write).1 (causeCode c write).2

/-! Watchpoints (R155, R263). -/

/-- MODE of a watch against an access: bit 0 stores and atomics, bit 1 loads. -/
def watchMatch (x : W64) (space obj lo n : Nat) (store : Bool) : Bool :=
  let v := x.toNat
  bitOf v (if store then 0 else 1) && bitsOf v 5 4 == space && (space != 0 || bitsOf v 63 52 == obj) &&
    lo / 64 ≤ bitsOf v 51 6 && bitsOf v 51 6 ≤ (lo + n - 1) / 64

/-- The first of the team's watches that an access meets (R155), with the store bit of the detail. -/
def watched (s : State) (space obj lo n : Nat) (store : Bool) : Option Bad :=
  if s.w.cur.only.isSome then none
  else ((List.range 4).find? fun i => watchMatch (s.t.xwatch.getD i 0) space obj lo n store).map fun i =>
    .watch (i + if store then 4 else 0)

/-! Addresses by space. -/

def MMode.offset (w : Wave) : MMode → Int
  | .plain o => (imm32 w o).toInt
  | .ordered _ => 0

/-- A global access of one lane: checks 1 to 9 (R152, R157). -/
def globalAcc (s : State) (lane : Nat) (p : W64) (n : Nat) (q : Want) (watch : Bool := true) : State × Acc :=
  match checkGlobal s s.coreId s.t.space p n q with
  | (s, c) =>
    let bad := match c with
      | some c => some (badOf s.t.space q.write c)
      | none => if watch then watched s 0 (pObj p) (pAddr p) n q.write else none
    (s, { lane, place := .global s.t.space, addr := p, shown := p, bad })

/-- Checks 1 to 7 alone: an object's limits must cover `n` bytes (R195). -/
def limitsAcc (s : State) (p : W64) (n : Nat) (q : Want) : State × Acc :=
  match descOf s s.coreId s.t.space (pObj p) with
  | (s, x) =>
    (s, { lane := 0, place := .global s.t.space, addr := p, shown := p, bad := (checkEntry x p n q).map (badOf s.t.space q.write) })

/-- A scratch access (R161): alignment where it is asked for, the window, the watches. -/
def scratchAcc (s : State) (lane : Nat) (a : W32) (n align : Nat) (store : Bool) : State × Acc :=
  let o := a.toNat
  let bad := if o % align != 0 then some (.region 33 2)
    else if s.t.window < o + n then some (.region 33 3)
    else watched s 1 0 o n store
  (s, { lane, place := .window s.t.id, addr := a.setWidth 64, shown := a.setWidth 64, bad })

/-- A peer access (R163): rank, offset and window of the gang team. The alignment is tested first (DESIGN CHOICE, log 120). -/
def peerAcc (s : State) (lane : Nat) (v : W32) (n align : Nat) (store : Bool) : State × Acc :=
  let o := v.toNat % 2 ^ 20
  let rank := bitsOf v.toNat 24 20
  let team := s.gangTeam rank
  let bad : Option Bad :=
    if o % align != 0 then some (.region 33 2)
    else if v.toNat / 2 ^ 25 != 0 || s.t.gangSize ≤ rank then some (.region 33 4)
    else match team with
      | none => some (.region 33 4)
      | some t => if t.window < o + n then some (.region 33 4) else watched s 2 0 v.toNat n store
  (s, { lane, place := .window ((team.map (·.id)).getD 0), addr := BitVec.ofNat 64 o, shown := v.setWidth 64, bad })

/-- A peer that is not resident and started holds the access (R163). -/
def peerAbsent (s : State) (vs : List W32) : Bool :=
  vs.any fun v =>
    v.toNat / 2 ^ 25 == 0 && bitsOf v.toNat 24 20 < s.t.gangSize &&
    match s.gangTeam (bitsOf v.toNat 24 20) with
    | some t => !(t.resident && t.started)
    | none => false

/-- A private access (R164): inside P, then the private object's checks. -/
def privAcc (s : State) (lane : Nat) (tid : W32) (a : W32) (n : Nat) (write : Bool) : State × Acc :=
  if s.t.priv < a.toNat + n then
    (s, { lane, place := .global s.t.space, addr := 0, shown := a.setWidth 64, bad := some (.region 33 0) })
  else
    match descOf s s.coreId s.t.space s.t.privObj with
    | (s, none) => (s, { lane, place := .global s.t.space, addr := 0, shown := a.setWidth 64, bad := some (.region 34 0) })
    | (s, some x) =>
      let p := mkPtr s.t.privObj (x.base + tid.toNat * s.t.priv + a.toNat)
      match checkGlobal s s.coreId s.t.space p n { rights := [if write then 1 else 0], kinds := [2], write } with
      | (s, c) => (s, { lane, place := .global s.t.space, addr := p, shown := p, bad := c.map (badOf s.t.space write) })

/-- Lane by lane over the acting set, threading the state. -/
def eachLane (s : State) (ls : List Nat) (f : State → Nat → State × Acc) : State × List Acc :=
  match ls with
  | [] => (s, [])
  | i :: rest =>
    match f s i with
    | (s, a) =>
      match eachLane s rest f with
      | (s, xs) => (s, a :: xs)

/-! Data between registers and bytes. -/

/-- The registers an operand names, for `n` words: their codes (none for special operands). -/
def Opd.codes (o : Opd) (n : Nat) : List Nat := o.regs n

def Lane.bad (l : Lane) (codes : List Nat) : Bool := codes.any l.poison.contains

/-- Low bytes of a store's data, poisoned where the register is (R156, R157). -/
def storeData (w : Wave) (l : Lane) (z : MSize) (d : Opd) : List PByte :=
  let poison (i : Nat) : Bool := match d with | .s n => w.spoison.contains n.val | .l => l.latchPoison | _ => l.bad ((d.regs (i + 1)).drop i)
  let words : List W32 := match z with
    | .n64 => let v := opd64 w l d; [v.setWidth 32, (v >>> 32).setWidth 32]
    | .n128 => match d with | .g _ | .k _ => (d.regs 4).map l.reg | _ => [0, 0, 0, 0]
    | _ => [opd32 w l d]
  ((words.zipIdx.flatMap fun x => (leBytes 4 x.1.toNat).map fun b => (b, poison x.2))).take z.bytes

/-- Register writes of a load's bytes in one lane (R42, R148). -/
def loadWrites (lane : Nat) (z : MSize) (d : Dst) (bs : List PByte) : List RegWrite :=
  let v := leNat (bytesOf bs)
  let val : W64 := match z with
    | .i8 => ((BitVec.ofNat 8 v).signExtend 32).setWidth 64
    | .i16 => ((BitVec.ofNat 16 v).signExtend 32).setWidth 64
    | _ => BitVec.ofNat 64 v
  let codes := d.toOpd.regs (match z with | .n64 => 2 | .n128 => 4 | _ => 1)
  codes.zipIdx.map fun c =>
    { lane, reg := c.1, poison := anyPoison ((bs.drop (4 * c.2)).take 4)
      val := if z = .n64 ∨ z = .n128 then BitVec.ofNat 64 (v / 2 ^ (32 * c.2) % 2 ^ 32) else val }

/-- Destination registers for XTDST (R349). -/
def Dst.trapN (d : Dst) (n : Nat) : TrapDst :=
  match d with
  | .g r => .regs r.val n
  | .k r => .regs (96 + r.val) n
  | _ => .none

def MSize.regs : MSize → Nat | .n64 => 2 | .n128 => 4 | _ => 1

/-! Windows. -/

/-- Bytes of a team's window with their poison; the storage of a defined spool reads as free values (R33, DESIGN CHOICE, log 21). -/
def windowRead (s : State) (team : Nat) (a n : Nat) : List PByte :=
  match s.team team with
  | none => clean (List.replicate n 0)
  | some t => (List.range n).map fun i =>
      let o := a + i
      if t.spools.any fun p => p.defined && p.base ≤ o && o < p.base + 8 * p.cap then (Config.freeByte s.free o, false)
      else (readByte t.scratch o, t.scratchPoison.contains (o / 8))

/-- Bytes written to a team's window. -/
def windowWrite (s : State) (team : Nat) (a : Nat) (d : List PByte) : State :=
  s.modTeam team fun t => { t with
    scratch := writeBytes t.scratch a (bytesOf d)
    scratchPoison := poisonWrite t.scratchPoison a d.length (dataPoison d) }

/-! Atomics (R166 to R171). -/

/-- The value an atomic stores, and its exceptions (R168). -/
def atomResult (op : AtomOp) (w : IW) (old v cmp : W64) : W64 × Exc :=
  let f := match w with | .w32 => fmtF32 | .w64 => fmtF64
  match op with
  | .add => (rAdd w old v, {})
  | .minI => (rMinI w old v, {})
  | .minN => (rMinN w old v, {})
  | .maxI => (rMaxI w old v, {})
  | .maxN => (rMaxN w old v, {})
  | .and => (old &&& v, {})
  | .or => (old ||| v, {})
  | .xor => (old ^^^ v, {})
  | .xchg => (v, {})
  | .cas => (if old = cmp then v else old, {})
  | .fadd =>
    let x := f.dec old.toNat
    let y := f.dec v.toNat
    if x.isNan || y.isNan then (BitVec.ofNat 64 f.nanBits, Exc.ofInv)
    else let r := fAdd f .rne x y; (BitVec.ofNat 64 r.1, r.2)
  | .fmin => let r := fMinMax f false old.toNat v.toNat; (BitVec.ofNat 64 r.1, r.2)
  | .fmax => let r := fMinMax f true old.toNat v.toNat; (BitVec.ofNat 64 r.1, r.2)

def IW.bytes : IW → Nat | .w32 => 4 | .w64 => 8

/-- Perform one atomic at its executing unit (R169, R170): the old value, its poison, and the exceptions. One that finds its
page under migration is refused and tried again (R169, R312). -/
def atomAt (s : State) (q : AtomReq) (die core : Nat) : State × W64 × Bool × Exc :=
  let n := IW.bytes q.w
  match q.place with
  | .global sp =>
    let s := waitMoving s sp (pAddr q.addr) die
    match homeAddr s sp q.addr die with
    | none => (s, 0, false, {})
    | some pa =>
      let bs := homeRead s pa n
      let old := BitVec.ofNat 64 (leNat (bytesOf bs))
      -- a lost package returns poison, and one that returns nothing is discarded with an event (R409)
      if anyPoison bs then (if isLost s pa && q.ret.isNone then lostEvent s pa die else s, old, true, {})
      else
        let r := atomResult q.op q.w old q.val q.cmp
        (homeWrite s pa (clean (leBytes n r.1.toNat)) true (.lane die core), old, false, r.2)
  | .window t =>
    let bs := windowRead s t q.addr.toNat n
    let old := BitVec.ofNat 64 (leNat (bytesOf bs))
    if anyPoison bs then (s, old, true, {})
    else
      let r := atomResult q.op q.w old q.val q.cmp
      (windowWrite s t q.addr.toNat (clean (leBytes n r.1.toNat)), old, false, r.2)

/-- The registers an atomic's old value returns into (R76: CAS into the low half). -/
def atomWrites (q : AtomReq) (old : W64) (poison : Bool) : List RegWrite :=
  match q.ret with
  | none => []
  | some c =>
    { lane := q.lane, reg := c, val := old.setWidth 32 |>.setWidth 64, poison } ::
      (match q.w with | .w32 => [] | .w64 => [{ lane := q.lane, reg := c + 1, val := old >>> 32, poison }])

/-- OR exceptions into the remote-flags word of the team's launch scope (R171), in the order of R257. -/
def remoteFlags (s : State) (x : Exc) : State :=
  match s.launches.find? (·.id == s.t.launch) with
  | none => s
  | some l =>
    let bits := (if x.inv then 16 else 0) + (if x.dz then 8 else 0) + (if x.ovf then 4 else 0) + (if x.unf then 2 else 0) + (if x.nx then 1 else 0)
    s.modPart s.t.part fun p => { p with scopes := p.scopes.modify l.scope fun f => { f with rflags := f.rflags ||| bits } }

/-- The core's own copy of the line of an atomic is dropped (R169), at issue and when it is performed, so that the coherence
order of the location binds program order (R271). -/
def dropAtom (s : State) (place : Place) (p : W64) : State :=
  match place with
  | .global sp => dropLine s s.coreId sp (lineKey p)
  | .window _ => s

/-- Perform the atomics of one pending access of the wave in hand (R167): ascending lanes, values into its writes, flags of
returning forms into the lanes, of REDG into the launch's word. -/
def performAtoms (s : State) (p : Pend) : State × Pend :=
  let s := if p.order = .acq ∨ p.order = .ar then s.acquire p.scope else s
  let r := p.atoms.foldl (fun (acc : State × List RegWrite) q =>
    match atomAt (dropAtom acc.1 q.place q.addr) q s.t.die s.t.core with
    | (s, old, bad, exc) =>
      let s := if p.load then
          { s with w := s.w.raise (BitVec.ofNat 32 (2 ^ q.lane)) fun i => if i = q.lane then exc else {} }
        else remoteFlags s exc
      (s, acc.2 ++ atomWrites q old bad)) (s, p.writes)
  (r.1, { p with atoms := [], writes := r.2 })

/-- Every atomic the wave has in flight is performed, before a new access of it (R149, R157). -/
def settleAtoms (s : State) : State :=
  let r := s.w.pend.foldl (fun (acc : State × List Pend) p =>
    if p.atoms.isEmpty then (acc.1, acc.2 ++ [p])
    else let r := performAtoms acc.1 p; (r.1, acc.2 ++ [r.2])) (s, [])
  { r.1 with w := { r.1.w with pend := r.2 } }

/-! Loads and stores. -/

/-- Bytes of a held store of a capsule body over loaded ones (R247). -/
def overHeld (l : Lane) (p : W64) (bs : List PByte) : List PByte :=
  l.held.foldl (fun bs h =>
    bs.zipIdx.map fun b =>
      let a := p + BitVec.ofNat 64 b.2
      let o := (a - h.ptr).toNat
      if o < h.data.length then (h.data.getD o 0, h.poison) else b.1) bs

/-- Before the bytes of an acquiring load are read in the caches (R278, R295). -/
def acquireLine (s : State) (m : MMode) (space : Nat) (p : W64) : State :=
  match m with
  | .ordered sc => pushLine s s.coreId space (lineKey p) sc
  | .plain _ => s

/-- Load in the lanes of `ok`: values bind now, registers are written at completion (R149) (DESIGN CHOICE, log 37). -/
def performLoad (z : MSize) (m : MMode) (d : Dst) (xs : List Acc) (ok : W32) (s : State) : State :=
  let r := (xs.filter fun a => ok.getLsbD a.lane).foldl (fun (acc : State × List RegWrite) a =>
    match a.place with
    | .global sp =>
      let s := acquireLine acc.1 m sp a.addr
      match loadBytes s s.coreId sp a.addr s.w.al1 s.w.acc z.bytes with
      | (s, bs) => (s, acc.2 ++ loadWrites a.lane z d (overHeld (s.w.lane a.lane) a.addr bs))
    | .window t => (acc.1, acc.2 ++ loadWrites a.lane z d (windowRead acc.1 t a.addr.toNat z.bytes))) (s, [])
  (r.1).launchPend { flag := r.1.w.mark false, load := true, writes := r.2 }

/-- The stores of some accesses, in ascending lanes. -/
def storeReqs (w : Wave) (z : MSize) (d : Opd) (xs : List Acc) : List StoreReq :=
  xs.map fun a => { place := a.place, addr := a.addr, data := storeData w (w.lane a.lane) z d }

/-- Stores performed in order, so that the highest lane's bytes stay (R151): in the L1 of the core in hand, or in a window. -/
def performReqs (s : State) (rs : List StoreReq) : State :=
  rs.foldl (fun s r =>
    match r.place with
    | .global sp => storeL1 s s.coreId sp r.addr r.data
    | .window t => windowWrite s t r.addr.toNat r.data) s

/-- A plain store of a leader goes into the comparison buffer (R380). -/
def Wave.buffers (w : Wave) (order : Order) : Bool := w.umbra.isSome && order == .rlx

/-- Store in the lanes of `ok`, ascending; a release that some lane performs may have escaped (R354). Under TWIN a plain store
waits in the comparison buffer (R379, R380). -/
def performStore (z : MSize) (d : Opd) (sc : Scope) (order : Order) (xs : List Acc) (ok : W32) (s : State) : State :=
  let good := xs.filter fun a => ok.getLsbD a.lane
  let rs := storeReqs s.w z d good
  let held := s.w.buffers order && !good.isEmpty
  let s := if order = .rel ∧ ¬ good.isEmpty then s.escapeAt sc else s
  let s := if held then s else performReqs s rs
  s.launchPend { flag := s.w.mark true, load := false, scope := sc, order, space := s.t.space
                 global := xs.any fun a => match a.place with | .global _ => true | _ => false
                 held, stores := if held then rs else [] }

def MMode.scopeOr (m : MMode) (sc : Scope) : Scope := match m with | .plain _ => sc | .ordered x => x
def MMode.isOrdered : MMode → Bool | .plain _ => false | .ordered _ => true

/-- Before an acquire load: the stamps (R295). -/
def beforeLoad (s : State) (m : MMode) : State :=
  let s := settleAtoms s
  match m with | .plain _ => s | .ordered sc => s.acquire sc

/-- Before a release store: earlier accesses are performed at the scope (R157, R294). -/
def beforeStore (s : State) (m : MMode) : State :=
  let s := settleAtoms s
  match m with | .plain _ => s | .ordered sc => s.release sc

/-- The store a lane of a body holds back, if its access is good. -/
def heldOf (w : Wave) (z : MSize) (d : Opd) (xs : List Acc) (ok : W32) (l : Lane) : List HeldStore :=
  let data := storeData w l z d
  ((xs.filter fun a => a.lane == l.id && ok.getLsbD l.id).map fun a => HeldStore.mk a.addr (bytesOf data) (anyPoison data)).take 1

/-- A body STG holds its data until the step commits (R247); the count of R246 goes with the entry. -/
def holdStore (z : MSize) (d : Opd) (xs : List Acc) (ok : W32) (s : State) : State :=
  let v := s.w
  let w := v.onLanes 0xFFFFFFFF fun l => { l with held := l.held ++ heldOf v z d xs ok l }
  (State.onCur { s with w } fun e => { e with body := e.body.map fun b => { b with stgs := b.stgs + 1 } }).launchPend
    { flag := s.w.mark true, load := false, scope := .wave }

/-- The pointers that the acting lanes form (R157). -/
def lanePtrs (w : Wave) (m : MMode) (b : Opd) : List W64 :=
  (lanesOf w.acting).map fun i => padd (opd64 w (w.lane i) b) (MMode.offset w m)

/-- LDG (R157): base, offset, checks; the values bind at issue. -/
def execLdg (z : MSize) (m : MMode) (d : Dst) (b : Opd) (s : State) : Out :=
  if copyConflict s (lanePtrs s.w m b) (MSize.bytes z) false then .next s.heldBack else
  let s := beforeLoad s m
  let r := eachLane s (lanesOf s.w.acting) fun s i =>
    globalAcc s i (padd (opd64 s.w (s.w.lane i) b) (MMode.offset s.w m)) z.bytes { wantLoad with align := if MMode.isOrdered m then z.bytes else 1 }
  .next (accessFinish r.1 r.2 (Dst.trapN d (MSize.regs z)) (performLoad z m d r.2) (·.advance 4))

/-- STG (R157): plain stores are performed in L1; in a capsule body they are held (R247). -/
def execStg (z : MSize) (m : MMode) (d : Opd) (b : Opd) (s : State) : Out :=
  if copyConflict s (lanePtrs s.w m b) (MSize.bytes z) true then .next s.heldBack else
  let s := beforeStore s m
  let r := eachLane s (lanesOf s.w.acting) fun s i =>
    globalAcc s i (padd (opd64 s.w (s.w.lane i) b) (MMode.offset s.w m)) z.bytes { wantStore with align := if MMode.isOrdered m then z.bytes else 1 }
  let perform := if s.w.cur.body.isSome then holdStore z d r.2
    else performStore z d (MMode.scopeOr m .team) (if MMode.isOrdered m then .rel else .rlx) r.2
  .next (accessFinish r.1 r.2 .none perform (·.advance 4))

/-- SLDG (R159): once by the running entry; a fault parks all of it. -/
def execSldg (w : IW) (d a : SReg) (s : State) : Out :=
  let s := settleAtoms s
  let n := IW.bytes w
  let p := s.w.sreg a
  if copyConflict s [p] n false then .next s.heldBack else
  match globalAcc s 0 p n { wantLoad with align := n } with
  | (s, x) =>
    let e := s.w.cur
    let perform (ok : W32) (s : State) : State :=
      if ok = 0 then s
      else match loadBytes s s.coreId s.t.space p s.w.al1 s.w.acc n with
      | (s, bs) => s.launchPend { flag := s.w.mark false, load := true
                                  writes := [{ scalar := true, reg := d.val, val := BitVec.ofNat 64 (leNat (bytesOf bs)), poison := anyPoison bs }] }
    match x.bad with
    | none => .next ((perform e.mask s).advance 4)
    | some _ =>
      -- a cause of the one access is a cause of every lane of the running entry
      .next (accessFinish s ((lanesOf e.mask).map fun i => { x with lane := i }) .none perform (·.advance 4))

/-- PREFG (R160): no effect beyond timing. -/
def execPrefg (_v : PfLevel) (_o : BitVec 7) (_b : Opd) (s : State) : Out := .next (s.advance 4)

/-- The 32-bit base plus offset of a lane, modulo 2^32 (R161, R163). -/
def addr32 (w : Wave) (m : MMode) (b : Opd) (i : Nat) : W32 := opd32 w (w.lane i) b + BitVec.ofInt 32 (MMode.offset w m)

def windowRanges (team n : Nat) (as : List Nat) : List Range := as.map fun a => { team, lo := a, hi := a + n }

/-- A scratch instruction: held by the scoreboard (R162), else checked by lane and performed. -/
def scratchOp (s : State) (z : MSize) (m : MMode) (b : Opd) (store : Bool) (dst : TrapDst)
    (perform : List Acc → W32 → State → State) : State :=
  let w := s.w
  let ls := lanesOf w.acting
  if scoreboardHolds s (windowRanges s.t.id z.bytes (ls.map fun i => (addr32 w m b i).toNat)) store then s.heldBack
  else
    let r := eachLane s ls fun s i => scratchAcc s i (addr32 w m b i) z.bytes (if MMode.isOrdered m then z.bytes else 1) store
    accessFinish r.1 r.2 dst (perform r.2) (·.advance 4)

/-- Peer accesses of the lanes of `ok`, counted between the cores (R330). -/
def peerCount (s : State) (xs : List Acc) (ok : W32) : State :=
  (xs.filter fun a => ok.getLsbD a.lane).foldl (fun s a =>
    match a.place with
    | .window t => match s.team t with
      | some p => sextantAdd s s.t.die s.t.core p.core 2 1
      | none => s
    | _ => s) s

/-- A peer instruction: held while a peer is absent (R163) or a range is held (R162). -/
def peerOp (s : State) (z : MSize) (m : MMode) (b : Opd) (store : Bool) (dst : TrapDst)
    (perform : List Acc → W32 → State → State) : State :=
  let w := s.w
  let ls := lanesOf w.acting
  let r := eachLane s ls fun s i => peerAcc s i (addr32 w m b i) z.bytes (if MMode.isOrdered m then z.bytes else 1) store
  let rs := r.2.filterMap fun a => match a.place, a.bad with
    | .window t, none => some ({ team := t, lo := a.addr.toNat, hi := a.addr.toNat + z.bytes } : Range)
    | _, _ => none
  if peerAbsent s (ls.map fun i => addr32 w m b i) || scoreboardHolds s rs store then s.heldBack
  else accessFinish r.1 r.2 dst (fun ok s => perform r.2 ok (peerCount s r.2 ok)) (·.advance 4)

/-- LDS (R161). -/
def execLds (z : MSize) (m : MMode) (d : Dst) (b : Opd) (s : State) : Out :=
  .next (scratchOp (beforeLoad s m) z m b false (Dst.trapN d (MSize.regs z)) (performLoad z m d))
/-- STS (R161). -/
def execSts (z : MSize) (m : MMode) (d : Opd) (b : Opd) (s : State) : Out :=
  .next (scratchOp (beforeStore s m) z m b true .none (performStore z d (MMode.scopeOr m .team) (if MMode.isOrdered m then .rel else .rlx)))
/-- LDP (R163). -/
def execLdp (z : MSize) (m : MMode) (d : Dst) (b : Opd) (s : State) : Out :=
  .next (peerOp (beforeLoad s m) z m b false (Dst.trapN d (MSize.regs z)) (performLoad z m d))
/-- STP (R163). -/
def execStp (z : MSize) (m : MMode) (d : Opd) (b : Opd) (s : State) : Out :=
  .next (peerOp (beforeStore s m) z m b true .none (performStore z d (MMode.scopeOr m .gang) (if MMode.isOrdered m then .rel else .rlx)))

/-- LDL (R164). -/
def execLdl (z : MSize) (o : BitVec 7) (d : Dst) (b : Opd) (s : State) : Out :=
  let s := settleAtoms s
  let r := eachLane s (lanesOf s.w.acting) fun s i =>
    privAcc s i (s.w.lane i).tid (addr32 s.w (.plain o) b i) z.bytes false
  .next (accessFinish r.1 r.2 (Dst.trapN d (MSize.regs z)) (performLoad z (.plain o) d r.2) (·.advance 4))
/-- STL (R164). -/
def execStl (z : MSize) (o : BitVec 7) (d : Opd) (b : Opd) (s : State) : Out :=
  let s := settleAtoms s
  let r := eachLane s (lanesOf s.w.acting) fun s i =>
    privAcc s i (s.w.lane i).tid (addr32 s.w (.plain o) b i) z.bytes true
  .next (accessFinish r.1 r.2 .none (performStore z d .wave .rlx r.2) (·.advance 4))

/-- LDK (R165): the block as the launch card gave it. -/
def execLdk (z : MSize) (o : BitVec 7) (d : Dst) (b : Opd) (s : State) : Out :=
  let w := s.w
  let xs := (lanesOf w.acting).map fun i =>
    let a := addr32 w (.plain o) b i
    ({ lane := i, place := .window s.t.id, addr := a.setWidth 64, shown := a.setWidth 64
       bad := if s.t.params.length < a.toNat + z.bytes then some (.region 33 0) else none } : Acc)
  .next (accessFinish s xs (Dst.trapN d (MSize.regs z)) (fun ok s =>
    s.launchPend { flag := s.w.mark false, load := true
                   writes := (xs.filter fun a => ok.getLsbD a.lane).flatMap fun a =>
                     loadWrites a.lane z d (clean ((s.t.params.drop a.addr.toNat).take z.bytes)) }) (·.advance 4))

/-! Atomic instructions. -/

/-- The request of one lane (R76, R167). -/
def atomReq (w : Wave) (iw : IW) (op : AtomOp) (d : Opd) (ret : Bool) (a : Acc) : AtomReq :=
  let l := w.lane a.lane
  let wide := match iw with | .w32 => 1 | .w64 => 2
  let code := (d.regs 1)[0]?
  let word (i : Nat) : W64 := match code with | some c => (l.reg (c + i)).setWidth 64 | none => 0
  let pair (i : Nat) : W64 := if wide = 1 then word i else word (2 * i) + (word (2 * i + 1) <<< 32)
  -- a 64-bit operand that is no register group, for CAS.32: its halves (R70)
  let halves := opd64 w l d
  { lane := a.lane, place := a.place, addr := a.addr, op, w := iw
    val := if op = .cas then (if code.isSome then pair 1 else halves >>> 32) else opd w l iw d
    cmp := if op = .cas then (if code.isSome then pair 0 else halves.extractLsb' 0 32 |>.setWidth 64) else 0
    ret := if ret then code else none }

def AtomOp.isFloat : AtomOp → Bool | .fadd | .fmin | .fmax => true | _ => false

/-- Whether a lane of the set has an enable that a floating-point atomic could meet (R171). -/
def anyEnabled (w : Wave) (m : W32) : Bool := !w.inHandler && w.ten.any fun t => t &&& m != 0

/-- Registers of an atomic's old value, for XTDST (R349). -/
def atomDst (iw : IW) (d : Opd) : TrapDst :=
  let n := match iw with | .w32 => 1 | .w64 => 2
  match d with | .g r => .regs r.val n | .k r => .regs (96 + r.val) n | _ => .none

/-- What stands before an atomic is performed: the release of its order (R157, R294), and the core's copies dropped (R169). -/
def beforeAtomic (s : State) (o : Order) (sc : Scope) (good : List Acc) : State :=
  let s := if o = .rel ∨ o = .ar then s.release sc else s
  good.foldl (fun s a => dropAtom s a.place a.addr) s

/-- The atomics of a floating-point instruction that might trap, performed at once (R171): every old value is written. Answers
the lanes whose enabled exceptions rose, and the detail. -/
def fpAtoms (s : State) (p : Pend) : State × W32 × Nat :=
  let before := s.w.flg
  -- each lane's own exceptions, seen with its flags cleared, then put back over the old ones
  let r := performAtoms { s with w := { s.w with flg := List.replicate 5 0 } } p
  let s := r.1
  let exc (i : Nat) : Exc :=
    let b (k : Nat) : Bool := (s.w.flg.getD k 0).getLsbD i
    { inv := b 0, dz := b 1, ovf := b 2, unf := b 3, nx := b 4 }
  let act := maskOf fun i => p.atoms.any (·.lane == i)
  let trap := trapLanes s.w act exc
  let detail := excDetail s.w trap exc
  let s := { s with w := { s.w with flg := (List.range 5).map fun k => before.getD k 0 ||| s.w.flg.getD k 0 } }
  let w := r.2.writes.foldl (fun w x => w.onLanes (BitVec.ofNat 32 (2 ^ x.lane)) fun l =>
    let l := l.setReg x.reg (x.val.setWidth 32); if x.poison then { l with poison := insertNat x.reg l.poison } else l) s.w
  ({ s with w }, trap, detail)

/-- The FP_ATOMIC trap (R171): the lanes `trap` park at their region entry, and with them every lane that has a cause of its
own, which it meets again when it re-executes (R153) (DESIGN CHOICE, log 94). -/
def fpAtomicTrap (s : State) (xs : List Acc) (trap : W32) (detail : Nat) (dst : TrapDst) : State :=
  let e := s.w.cur
  let pc := s.w.issuePc
  let m := trap ||| accMask xs fun a => a.bad.isSome
  let waits := pageWaits xs pc e.clause
  let whole := parksWhole s.w m
  let s := if whole then { s with granted := false } else s.advanceNR
  match parkLanes s (if whole then e.mask else m) waits with
  | (s, i, _) =>
    takeTrapOf (waits.foldl addFault s) { cause := 39, detail, lanes := trap, pc, next := e.pc + 4, dst, nr := true } i e.clause e.body

/-- The lanes of `ok` send their atomics (R167). -/
def performAtomic (iw : IW) (op : AtomOp) (d : Opd) (ret : Bool) (o : Order) (sc : Scope) (esc : State → State) (xs : List Acc)
    (ok : W32) (s : State) : State :=
  let good := xs.filter fun a => ok.getLsbD a.lane
  let q := good.map (atomReq s.w iw op d ret)
  let s := if good.isEmpty then s else esc s
  let s := beforeAtomic s o sc good
  s.launchPend { flag := s.w.mark (!ret), load := ret, atoms := q, scope := sc, order := o, space := s.t.space, global := true }

/-- A checked atomic: in flight, or performed at once where an enabled exception may rise. `esc` sets R354's bit once some
lane performs it. -/
def atomicFinish (s : State) (iw : IW) (op : AtomOp) (d : Opd) (ret : Bool) (o : Order) (sc : Scope) (esc : State → State)
    (xs : List Acc) : State :=
  let good := xs.filter (·.bad.isNone)
  let bad := accMask xs fun a => a.bad.isSome
  let dst := if ret then atomDst iw d else .none
  if ret && AtomOp.isFloat op && anyEnabled s.w (accMask xs fun a => a.bad.isNone) && (watchOnly xs || !parksWhole s.w bad) then
    let q := good.map (atomReq s.w iw op d ret)
    match fpAtoms (beforeAtomic (esc s) o sc good) { flag := none, load := true, atoms := q, scope := sc, order := o } with
    | (s, trap, detail) =>
      if trap = 0 then accessFinish s xs dst (fun _ s => s) (·.advanceNR) true
      else fpAtomicTrap s xs trap detail dst
  else accessFinish s xs dst (performAtomic iw op d ret o sc esc xs) (·.advanceNR) true

/-- ATOMG (R167, R169). -/
def execAtomg (o : Order) (sc : Scope) (w : IW) (p : AtomOp) (d : Opd) (b : Opd) (s : State) : Out :=
  if copyConflict s (lanePtrs s.w (.ordered .team) b) (IW.bytes w) true then .next s.heldBack else
  let s := settleAtoms s
  let r := eachLane s (lanesOf s.w.acting) fun s i =>
    globalAcc s i (opd64 s.w (s.w.lane i) b) (IW.bytes w) { wantAtomic with align := IW.bytes w }
  .next (atomicFinish r.1 w p d true o sc State.escape r.2)

/-- REDG (R167, R171). -/
def execRedg (o : Order) (sc : Scope) (w : IW) (p : AtomOp) (d : Opd) (b : Opd) (s : State) : Out :=
  if copyConflict s (lanePtrs s.w (.ordered .team) b) (IW.bytes w) true then .next s.heldBack else
  let s := settleAtoms s
  let r := eachLane s (lanesOf s.w.acting) fun s i =>
    globalAcc s i (opd64 s.w (s.w.lane i) b) (IW.bytes w) { wantAtomic with align := IW.bytes w }
  .next (atomicFinish r.1 w p d false o sc State.escape r.2)

def atomSize : IW → MSize | .w32 => .n32 | .w64 => .n64

/-- ATOMS (R167, R169). -/
def execAtoms (o : Order) (sc : Scope) (w : IW) (p : AtomOp) (d : Opd) (b : Opd) (s : State) : Out :=
  let s := settleAtoms s
  let esc (s : State) : State := if o = .rel ∨ o = .ar then s.escapeAt sc else s
  let v := s.w
  let ls := lanesOf v.acting
  if scoreboardHolds s (windowRanges s.t.id (IW.bytes w) (ls.map fun i => (opd32 v (v.lane i) b).toNat)) true then .next s.heldBack
  else
    let r := eachLane s ls fun s i => scratchAcc s i (opd32 v (v.lane i) b) (IW.bytes w) (IW.bytes w) true
    .next (atomicFinish r.1 w p d true o sc esc r.2)

/-- ATOMP (R163, R167). -/
def execAtomp (o : Order) (sc : Scope) (w : IW) (p : AtomOp) (d : Opd) (b : Opd) (s : State) : Out :=
  let s := settleAtoms s
  let v := s.w
  let ls := lanesOf v.acting
  let r := eachLane s ls fun s i => peerAcc s i (opd32 v (v.lane i) b) (IW.bytes w) (IW.bytes w) true
  let rs := r.2.filterMap fun a => match a.place, a.bad with
    | .window t, none => some ({ team := t, lo := a.addr.toNat, hi := a.addr.toNat + IW.bytes w } : Range)
    | _, _ => none
  if peerAbsent s (ls.map fun i => opd32 v (v.lane i) b) || scoreboardHolds s rs true then .next s.heldBack
  else .next (atomicFinish r.1 w p d true o sc (fun s => (peerCount s r.2 (accMask r.2 fun a => a.bad.isNone)).escape) r.2)

/-! The tag table (R172 to R175). -/

def lineTag (p : W64) : Nat := p.toNat / 256
def TagTable.setOf (t : TagTable) (p : W64) : Nat := pAddr p / 256 % max 1 t.sets.length
def TagTable.slot (t : TagTable) (set way : Nat) : Nat := t.base + (4 * set + way) * 256
/-- The way that holds a line. -/
def TagSet.hit (x : TagSet) (tag : Nat) : Option Nat := (List.range 4).find? fun w => let y := x.ways.getD w {}; y.valid && y.tag == tag
/-- The victim: the lowest invalid way, else the least recent (R173). -/
def TagSet.victim (x : TagSet) : Nat :=
  ((List.range 4).find? fun w => !(x.ways.getD w {}).valid).getD (x.recent.getD 3 0)
def TagSet.touch (x : TagSet) (w : Nat) : TagSet := { x with recent := w :: x.recent.filter (· != w) }

/-- One lane's TLOOK: the table after it and the result (R173). -/
def tlook (t : TagTable) (p : W64) : TagTable × Nat :=
  let i := t.setOf p
  let x := t.sets.getD i {}
  match x.hit (lineTag p) with
  | some w => ({ t with sets := t.sets.set i (x.touch w) }, w * 2 ^ 20 + (t.slot i w + p.toNat % 256) % 2 ^ 20)
  | none => (t, 2 ^ 31 + x.victim * 2 ^ 20 + t.slot i x.victim % 2 ^ 20)

/-- One lane's TSET (R174). -/
def tset (t : TagTable) (p : W64) (b : W32) : TagTable × Nat :=
  let i := t.setOf p
  let x := t.sets.getD i {}
  if (x.hit (lineTag p)).isSome then (t, 1)
  else
    let w := b.toNat % 4
    let old := x.ways.getD w {}
    let x := { x with ways := x.ways.set w { valid := true, tag := lineTag p } }
    ({ t with sets := t.sets.set i (x.touch w) }, if old.valid then old.tag * 256 else 0)

/-- One lane's TEVICT (R175). -/
def tevict (t : TagTable) (p : W64) : TagTable × Nat :=
  let i := t.setOf p
  let x := t.sets.getD i {}
  match x.hit (lineTag p) with
  | some w => ({ t with sets := t.sets.set i { x with ways := x.ways.set w { x.ways.getD w {} with valid := false } } }, t.slot i w)
  | none => (t, 4294967295)

/-- The table and the results after every acting lane, ascending (R172). -/
def tagLanes (w : Wave) (t : TagTable) (f : TagTable → Lane → TagTable × Nat) : TagTable × List (Nat × Nat) :=
  (lanesOf w.acting).foldl (fun acc i =>
    let r := f acc.1 (w.lane i)
    (r.1, acc.2 ++ [(i, r.2)])) (t, [])

/-- TLOOK (R173): the lookup acts at issue, the result returns on the A mark. -/
def execTlook (d : Dst) (a : Opd) (s : State) : Out :=
  match s.t.tags with
  | none => .next (illop s 0)
  | some t =>
    let r := tagLanes s.w t fun t l => tlook t (opd64 s.w l a)
    let s := { s with t := { s.t with tags := some r.1 } }
    .next ((s.launchPend { flag := s.w.mark false, load := true
                           writes := r.2.flatMap fun x => loadWrites x.1 .n32 d (clean (leBytes 4 x.2)) }).advance 4)

/-- TSET (R174): the destination is written at once. -/
def execTset (d : Dst) (a b : Opd) (s : State) : Out :=
  match s.t.tags with
  | none => .next (illop s 0)
  | some t =>
    let w := s.w
    let r := tagLanes w t fun t l => tset t (opd64 w l a) (opd32 w l b)
    let w' := w.onLanes w.acting fun l => l.write .w64 d (BitVec.ofNat 64 (((r.2.find? (·.1 == l.id)).map (·.2)).getD 0))
    .next ({ s with t := { s.t with tags := some r.1 }, w := w' }.advance 4)

/-- TEVICT (R175). -/
def execTevict (d : Dst) (a : Opd) (s : State) : Out :=
  match s.t.tags with
  | none => .next (illop s 0)
  | some t =>
    let w := s.w
    let r := tagLanes w t fun t l => tevict t (opd64 w l a)
    let w' := w.onLanes w.acting fun l => l.write .w32 d (BitVec.ofNat 64 (((r.2.find? (·.1 == l.id)).map (·.2)).getD 0))
    .next ({ s with t := { s.t with tags := some r.1 }, w := w' }.advance 4)

end Sys2Proof.Machine
end

