-- ==== Sys2Proof/Machine/Control.lean ====
section
/-! DEFINITION. Clause headers and prefixes (R64, R73), the control instructions (R102 to R114), and the deferred faults
that a header delivers (R237). -/

namespace Sys2Proof.Machine

/-! Deferred faults (R237). -/

/-- A validated or indexed copy of the running entry's region that has not finished reading. -/
def State.copiesReading (s : State) : Bool :=
  s.c.copies.any fun k => k.team == s.t.id && k.wave == s.w.num && k.region == s.w.cur.region && k.st != .writing && k.op.mayFault

/-- Deliver the oldest deferred fault that `p` admits: region-precise, with XTPC at the copy, XTREG the region in which the copy
issued (R237) and XTCLS the copy's clause, under which NEXT and SAME resume (R261, R348; DEDUCED, log 111); the others of its
region go with it, since the region is executed again (DEDUCED, log 31). -/
def takeDeferred (s : State) (p : Deferred → Bool) : State :=
  match s.w.deferred.find? p with
  | none => s
  | some d =>
    let s := { s with w := { s.w with deferred := s.w.deferred.filter fun x => x.region != d.region } }
    let s := s.onCur fun e => { e with region := d.region }
    let e := s.w.cur
    match parkLanes s e.mask [] with
    | (s, i, _) =>
      takeTrapOf s { cause := d.cause, detail := d.detail, lanes := e.mask, addr := d.addr, pc := d.pc, next := d.pc + 4 } i d.clause e.body

/-! Clause words. -/

/-- The header word of a clause (R64). -/
def hdrWord (e : Bool) (exec : MReg) (setb seta : Fin 16) (wait : BitVec 12) : Nat :=
  b2n e * 2 ^ 31 + exec.val * 2 ^ 27 + setb.val * 2 ^ 23 + seta.val * 2 ^ 19 + wait.toNat * 2 ^ 7 + 127

/-- Pending writes of XPROG, XHANG and XBINAGE take effect (R18). -/
def State.pendingRegs (s : State) : State :=
  { s with w := { s.w with xprog := s.w.xprogNew.getD s.w.xprog, xhang := s.w.xhangNew.getD s.w.xhang
                           xprogNew := none, xhangNew := none, xbinageNew := none }
           t := { s.t with xbinage := s.w.xbinageNew.getD s.t.xbinage } }

/-- The running entry begins the clause whose header stands at its PC (R64): EXEC is sampled (R98), L becomes undefined
(R13), and with E = 1, or after a non-repeatable operation, a region begins (R35). -/
def beginClause (s : State) (e : Bool) (exec : MReg) (hdr : Nat) : State :=
  let s := s.pendingRegs
  let cur := s.w.cur
  let fresh := e || cur.fresh
  let m := s.w.mask exec
  let w := s.w.onLanes cur.mask fun l => { l with latch := Config.freeLatch s.free l.id, latchPoison := false }
  let w := { w with copyFlags := if fresh then [] else w.copyFlags }
  let w := w.onCur fun x => { x with
    pc := x.pc + 4, region := if fresh then x.pc else x.region, fresh := false, mat := x.mat && !fresh
    clause := some { hdr, addr := x.pc, exec := m } }
  { s with w, free := s.free + 1 }

/-- CLAUSE (R64): waits until every flag of WAIT reads 0 and, at a region boundary or where WAIT names the flag of a copy that
could fault, until every such copy has read; delivers deferred faults (R237), then begins the clause. The grant stays with the
clause's first instruction (R324). -/
def execClause (e : Bool) (exec : MReg) (setb seta : Fin 16) (wait : BitVec 12) (s : State) : Out :=
  let named (n : Nat) : Bool := wait.getLsbD n
  let due (d : Deferred) : Bool := e || match d.flag with | some n => named n | none => false
  if (List.range 12).any fun n => named n && s.w.f.getD n 0 != 0 then .next { s.count true true with stalled := true }
  else if (e || s.w.copyFlags.any named) && s.copiesReading then .next { s.count true true with stalled := true }
  else if s.w.deferred.any due then .next (takeDeferred s due)
  else .next (beginClause s e exec (hdrWord e exec setb seta wait))

/-- EXT (R73): its payload waits for the instruction it extends (DESIGN CHOICE, log 38). -/
def execExt (p : BitVec 25) (s : State) : Out :=
  .next (s.onCur fun e => { e with pc := e.pc + 4, clause := e.clause.map fun c => { c with ext := some p, extPc := e.pc } })

/-! Targets. -/

/-- An address `off` halfwords from the running instruction, in the address field of its pointer. -/
def relTarget (w : Wave) (off : Int) : W64 := mkPtr (pObj w.cur.pc) ((pAddr w.cur.pc + 2 * off) % 2 ^ 52).toNat

/-- Whether an offset stays in the segment of the running instruction (R39). -/
def inSegment (w : Wave) (off : Int) : Bool :=
  let o : Int := w.cur.pc.toNat % 4096 + 2 * off
  0 ≤ o && o < 4096

/-- BRA (R103). -/
def execBra (i : BitVec 12) (s : State) : Out :=
  if inSegment s.w i.toInt then .next (transfer s (relTarget s.w i.toInt)) else .next (illop s 0)

/-- BRD (R104). -/
def execBrd (m : MReg) (i : BitVec 12) (s : State) : Out :=
  if inSegment s.w i.toInt then
    let target := relTarget s.w i.toInt
    let e := s.w.cur
    let taken := s.w.acting &&& s.w.mask m
    let rest := e.mask &&& ~~~taken
    if taken = 0 then .next (s.advance 4)
    else if rest = 0 then .next (transfer s target)
    else if 7 ≤ s.w.used then .next (pathFull s)
    else if s.t.isHeader target then
      let s := s.advance 4
      .next { s with w := s.w.split taken (fun x => { x with pc := target, clause := none }) s.order, order := s.order + 1 }
    else
      .next (takeTrap s { cause := ILLOP, detail := 5, lanes := taken, addr := target, pc := s.w.issuePc, next := e.pc + 4 })
  else .next (illop s 0)

/-- CALL (R105): the link is written, then the transfer is made as BRA's (DEDUCED, log 44). -/
def execCall (x : SReg) (i : BitVec 12) (s : State) : Out :=
  if inSegment s.w i.toInt then
    let target := relTarget s.w i.toInt
    .next (transfer { s with w := s.w.setS x (s.w.cur.pc + 4) } target)
  else .next (illop s 0)

/-- JMPI (R106). -/
def execJmpi (x : SReg) (s : State) : Out := .next (transferFar s (s.w.sreg x))
/-- RET (R106). -/
def execRet (x : SReg) (s : State) : Out := .next (transferFar s (s.w.sreg x))

/-- The part of a code pointer's object that its reserved limit covers (R107) (DEDUCED, log 108). -/
def inCode (x : Option Desc) (a : Int) : Bool :=
  match x with
  | none => false
  | some x => (x.base : Int) ≤ a && a < x.base + x.reslim

/-- FJMP (R107): the reserved limit, the link, then the transfer of R106 (DEDUCED, log 45). -/
def execFjmp (link : Bool) (x : SReg) (i : BitVec 12) (s : State) : Out :=
  let pc := s.w.cur.pc
  let off := (imm12w s.w i).toInt
  match descOf s s.coreId s.t.space (pObj pc) with
  | (s, d) =>
    let target := relTarget s.w off
    if inCode d (pAddr pc + 2 * off) then
      let s := if link then { s with w := s.w.setS x (pc + 4) } else s
      .next (transferFar s target)
    else .next (trapRegion s 33 0 target)

/-! Joins and yielding. -/

/-- RJOIN (R25, R108) in either length. -/
def joinAt (s : State) (m : MReg) (len : Nat) : State :=
  let pc := s.w.cur.pc
  let v := s.w.mask m
  let e := s.w.cur
  let run := s.w.runIdx.getD 0
  let inside := e.mask &&& v
  let outside := e.mask &&& ~~~v
  let waiting (x : Entry) : Entry := { x with st := .waitJoin, wait := .join, pc, clause := none, age := s.order, joinMask := v, blocked := none }
  let news (ps : List Entry) : List Entry := ps.map fun x =>
    if x.st = .waitJoin ∧ x.wait = .join ∧ x.pc = pc then { x with joinMask := v } else x
  let go (s : State) (ps : List Entry) : State := tryJoins { s with w := { s.w with paths := news ps }, order := s.order + 1 }
  if inside = 0 then
    let s := s.advance len
    go s s.w.paths
  else if outside = 0 then
    let s := s.advance len
    go s (s.w.paths.modify run waiting)
  else if 7 ≤ s.w.used then pathFull s
  else
    let s := s.advance len
    match s.w.paths.findIdx? (·.st == .free) with
    | none => s
    | some i =>
      let e := s.w.cur
      go s ((s.w.paths.modify run fun x => { x with mask := outside }).set i (waiting { e with mask := inside }))

/-- RJOIN.W (R108). -/
def execRjoinW (m : MReg) (s : State) : Out := .next (joinAt s m 4)
/-- RJOIN, the 16-bit form (R108). -/
def execRjoin (m : MReg) (s : State) : Out := .next (joinAt s m 2)

/-- YIELD (R28, R109): past the instruction, then the oldest other READY entry runs; with none it acts as NOP (R111). -/
def yieldAt (s : State) (len : Nat) : State :=
  if s.w.oldestReady.isNone then s.advance len (fair := false)
  else
  let s := s.advance len
  { s with w := s.w.rotate s.order, order := s.order + 1 }

/-- YIELD.W (R109). -/
def execYieldW (s : State) : Out := .next (yieldAt s 4)
/-- YIELD, the 16-bit form (R109). -/
def execYield (s : State) : Out := .next (yieldAt s 2)

/-- NOP.W (R111): counts in the clause but towards no fairness interval. -/
def execNopW (s : State) : Out := .next (s.advance 4 (fair := false))
/-- NOP, the 16-bit form (R111). -/
def execNop (s : State) : Out := .next (s.advance 2 (fair := false))

/-! EXIT. -/

/-- Lanes leave the wave (R26, R110): their pending loads are discarded, their stores and atomics stay. -/
def Wave.exitLanes (w : Wave) (m : W32) : Wave :=
  { w with
    pend := w.pend.map fun p => { p with
      writes := p.writes.filter fun x => x.scalar || !m.getLsbD x.lane
      atoms := p.atoms.map fun q => if m.getLsbD q.lane then { q with ret := none } else q }
    paths := w.paths.map fun e => if e.mask &&& ~~~m = 0 then {} else { e with mask := e.mask &&& ~~~m } }

/-- A wave without live lanes ends, and its open loop and trap frame with it (R26, R222); TEAM_END falls due. -/
def endIfEmpty (s : State) : State :=
  if s.w.live = 0 then
    ({ s with w := { s.w with ended := true, mloop := none, frame := none, inHandler := false } }).addDue (.teamEnd s.t.id)
  else s

/-- EXIT (R26, R110): the acting lanes leave; joins and barriers may complete. Lanes that would fall past the segment's
end raise ILLOP at the EXIT (R65). -/
def execExit (s : State) : Out :=
  if s.copiesReading then .next s.heldBack
  else if !s.w.deferred.isEmpty then .next (takeDeferred s fun _ => true)
  else
    let pc := s.w.issuePc
    let last := s.w.cur.pc.toNat % 4096 = 4092
    let m := s.w.acting
    let rest := s.w.cur.mask &&& ~~~m
    if last ∧ rest ≠ 0 then
      let s := tryBars (tryJoins { s with w := s.w.exitLanes m })
      .next (takeTrap s { cause := ILLOP, detail := 5, lanes := rest, pc, next := s.w.cur.pc + 4 })
    else
      let s := s.advance 4
      .next (endIfEmpty (tryBars (tryJoins { s with w := s.w.exitLanes m })))

/-- BRK (R112): the trap, in every lane of the running entry. -/
def execBrk (c : BitVec 12) (s : State) : Out :=
  .next (takeTrap s { cause := 18, detail := c.toNat, lanes := s.w.cur.mask, pc := s.w.issuePc, next := s.w.cur.pc + 4 })

/-! The overlay. -/

/-- The lowest slot that a code pointer lies in, landed or being refilled by the device. -/
def Team.slotIdx (t : Team) (p : W64) : Option Nat :=
  t.slots.findIdx? fun x => (x.landed || x.refill) && x.tag.toNat / 4096 == p.toNat / 4096

/-- CFETCH (R40, R113): the checks, the wait for an earlier fill of the slot, then the fill is under way (DESIGN CHOICE, log 106). -/
def execCfetch (slot : Fin 8) (x : SReg) (s : State) : Out :=
  let p := s.w.sreg x
  let used := s.waves.any fun w => w.paths.any fun e => e.st != .free && s.t.slotIdx e.pc == some slot.val
  if used || s.t.slotIdx s.t.xtvec == some slot.val && s.t.xtvec != 0 then .next (illopExec s 3)
  else if p.toNat % 4096 ≠ 0 then .next (illopExec s 2 p)
  else
    match descOf s s.coreId s.t.space (pObj p) with
    | (s, d) =>
      match checkEntry d p 4096 { rights := [3], kinds := [3] } with
      | some c => .next (trapRegion s (causeCode c false).1 (causeCode c false).2 p)
      | none =>
        if (s.t.slots.getD slot.val {}).fill then .next s.heldBack
        else
          let f := s.w.mark true
          let t := { s.t with slots := s.t.slots.set slot.val { tag := p, fill := true, waiter := some (s.w.num, f) } }
          .next (({ s with t, w := s.w.flagUp f }).advance 4)

/-! REFORM (R31, R114). -/

/-- The bin where a thread with a next PC is filed: its own, else a free one of the eight; none when neither has room. -/
def binFor (bins : List Bin) (key : W64) : Option Nat :=
  match bins.findIdx? (·.key == key) with
  | some i => if ((bins.getD i { key, threads := [] }).threads).length < 64 then some i else none
  | none => if bins.length < 8 then some bins.length else none

/-- File lanes in ascending order until one has no bin: the bins, and the lanes filed (DEDUCED, log 58). -/
def fileLanes (w : Wave) (base : W64) (carry stamp : Nat) : (lanes : List Nat) → List Bin → List Bin × W32
  | [], bins => (bins, 0)
  | i :: rest, bins =>
    let l := w.lane i
    let key := base + ((l.reg 0).toNat % 4096 : Nat)
    match binFor bins key with
    | none => (bins, 0)
    | some b =>
      let t := (l.tid, (List.range carry).map l.reg, stamp)
      let bins := if b < bins.length then bins.modify b fun x => { x with threads := x.threads ++ [t], carry }
        else bins ++ [{ key, threads := [t], carry }]
      match fileLanes w base carry stamp rest bins with
      | (bins, m) => (bins, m ||| BitVec.ofNat 32 (2 ^ i))

/-- REFORM (R31, R114): every acting lane is filed, ascending, stalling where no bin has room; then the wave ends (DESIGN CHOICE, log 107). -/
def execReform (carry : BitVec 12) (s : State) : Out :=
  let w := s.w
  let started := match w.cur.blocked with | some b => b.mask | none => 0
  if s.copiesReading then .next s.heldBack
  else if !w.deferred.isEmpty then .next (takeDeferred s fun _ => true)
  else if 1 < w.used || w.lanes.any (·.holding) || !w.hems.isEmpty || s.t.twin then .next (illopExec s 3)
  else if w.f.any (· != 0) then .next s.heldBack
  else
    let ls := (lanesOf w.acting).filter fun i => !started.getLsbD i
    let base : W64 := BitVec.ofNat 64 (w.cur.pc.toNat / 4096 * 4096)
    let wrong := ls.filter fun i => let g := ((w.lane i).reg 0).toNat; g % 2 = 1 || g / 4096 ≠ 0
    if started = 0 ∧ wrong ≠ [] then
      .next (takeTrap s { cause := ILLOP, detail := 5, lanes := maskOf wrong.contains
                          addr := ((w.lane (wrong.headD 0)).reg 0).setWidth 64, pc := w.issuePc, next := w.cur.pc + 4 })
    else
      let r := fileLanes w base carry.toNat s.t.opps ls s.t.bins
      let s := { s with t := { s.t with bins := r.1 } }
      let filed := started ||| r.2
      if filed = maskOf fun i => w.acting.getLsbD i then
        let s := s.advance 4
        .next (endIfEmpty (tryBars { s with w := s.w.exitLanes s.w.live }))
      else .next (s.heldBack.onCur fun e => { e with blocked := some { pc := e.pc, mask := filed } })

end Sys2Proof.Machine
end

