-- ==== Sys2Proof/Machine/Sync.lean ====
section
/-! DEFINITION. Fences, scope handles, barriers, waits, spools and mailboxes (R176 to R197): one meaning per instruction. -/

namespace Sys2Proof.Machine

/-- A checked access of the running entry: a cause is a cause of the whole entry. -/
def scalarChecked (r : State × Acc) (k : State → State) : State :=
  match r.2.bad with
  | none => k r.1
  | some _ => accessFinish r.1 ((lanesOf r.1.w.cur.mask).map fun i => { r.2 with lane := i }) .none (fun _ s => s) id

/-- A running-entry access at HOME through an S register pointer, checked as R152 gives; it waits for a page under migration
(R312). -/
def scalarAccess (s : State) (p : W64) (n : Nat) (q : Want) (k : State → State) (watch : Bool := true) : State :=
  scalarChecked (globalAcc s 0 p n q watch) fun s =>
    k (waitMoving (waitMoving s s.t.space (pAddr p) s.t.die) s.t.space (pAddr p + n - 1) s.t.die)

/-- BOUND of the running entry with a detail of R264 (DEDUCED, log 109). -/
def boundTrap (s : State) (detail : Nat) (addr : W64 := 0) : State := trapRegion s 33 detail addr

def HKind.scope : HKind → Scope | .gang => .gang | .const => .const | .die => .die | .pkg => .pkg | .domain => .domain
def HKind.code : HKind → Nat | .gang => 2 | .const => 3 | .die => 4 | .pkg => 5 | .domain => 6

/-! Fences (R177). -/

/-- FENCE: what the wave has in flight is performed, written back for a release and stamped for an acquire (DEDUCED, log 43). -/
def execFence (o : FenceOrder) (sc : Scope) (s : State) : Out :=
  let s := settleAtoms s
  let s := match o with | .acq => s | .rel | .ar => (s.release sc).escapeAt sc
  let s := match o with | .rel => s | .acq | .ar => s.acquire sc
  .next (s.advance 4)

/-! Scope handles (R178 to R182). -/

def handleKind (h : W64) : Nat := bitsOf h.toNat 63 60
def handleDie (h : W64) : Nat := bitsOf h.toNat 51 48
def handleCore (h : W64) : Nat := bitsOf h.toNat 47 40

/-- A handle that raises BOUND in whatever reads it (R178). GANGNO of a handle of another kind than GANG is not looked at: R178 says
that it is 0 and does not list it among the causes (DESIGN CHOICE, log 121). -/
def handleBad (s : State) (h : W64) : Bool :=
  !(2 ≤ handleKind h && handleKind h ≤ 6) || bitsOf h.toNat 39 32 != 0 || 47 < handleCore h ||
  bitsOf h.toNat 59 52 != Config.packageNumber.toNat ||
  !((match s.part s.t.part with | some p => p.dies | none => []).contains (handleDie h))

/-- A set of cores as a mask. -/
def coreMask (cs : List Nat) : Nat := (List.range 48).foldl (fun a i => if cs.contains i then a + 2 ^ i else a) 0

/-- The R180 result with FROZEN given for a CONST handle. -/
def scopeState (s : State) (h : W64) (frozen : Nat → Bool) : W64 :=
  let d := s.die (handleDie h)
  let cons := d.consId (handleCore h)
  let kind := handleKind h
  let members := match kind with
    | 3 => coreMask (d.consOf (handleCore h))
    | 2 => coreMask ((s.allTeams.filter fun t =>
        t.launch == s.t.launch && t.gang == h.toNat % 2 ^ 32 && t.die == handleDie h && t.resident && !t.ended).map (·.core))
    | 4 => 2 ^ 48 - 1
    | _ => 0
  let count := if kind = 3 then min 255 (freezeCount s d.num cons) else 0
  BitVec.ofNat 64 (b2n (kind != 3 || frozen cons) * 2 ^ 63 + d.gen % 128 * 2 ^ 56 + count * 2 ^ 48 + members)

def Team.freezeOf (t : Team) (die cons : Nat) : Nat :=
  ((t.freezes.find? fun f => f.die == die && f.cons == cons).map (·.count)).getD 0

/-- Set a team's count on a constellation. -/
def Team.setFreeze (t : Team) (die cons n : Nat) : Team :=
  let rest := t.freezes.filter fun f => !(f.die == die && f.cons == cons)
  { t with freezes := if n = 0 then rest else rest ++ [{ die, cons, count := n }] }

/-- SCOPE (R179). -/
def execScope (k : HKind) (c : SReg) (s : State) : Out :=
  let v := HKind.code k * 2 ^ 60 + Config.packageNumber.toNat * 2 ^ 52 + s.t.die * 2 ^ 48 + s.t.core * 2 ^ 40 +
    (if k = .gang then s.t.gang % 2 ^ 32 else 0)
  .next ({ s with w := s.w.setS c (BitVec.ofNat 64 v) }.advance 4)

/-- SCOPEQ (R180). -/
def execScopeq (c a : SReg) (s : State) : Out :=
  let h := s.w.sreg a
  if handleBad s h then .next (boundTrap s 5)
  else
    let v := scopeState s h fun cons => freezeCount s (handleDie h) cons != 0
    .next ({ s with w := s.w.setS c v }.advance 4)

/-- SCOPEFZ (R181). A re-stitch is one step of the model, so none is in progress here. -/
def execScopefz (c a : SReg) (s : State) : Out :=
  let h := s.w.sreg a
  if handleBad s h then .next (boundTrap s 5)
  else
    let die := handleDie h
    let cons := (s.die die).consId (handleCore h)
    let n := s.t.freezeOf die cons
    let refused := if n = 0 then 4 ≤ s.t.freezes.length else 255 ≤ n
    let s := if handleKind h = 3 ∧ ¬ refused then noteFreeze { s with t := s.t.setFreeze die cons (n + 1) } die cons else s
    let v := scopeState s h fun cons => !refused && s.t.freezeOf die cons != 0
    .next ({ s with w := s.w.setS c v }.advanceNR)

/-- SCOPETH (R181). -/
def execScopeth (c a : SReg) (s : State) : Out :=
  let h := s.w.sreg a
  if handleBad s h then .next (boundTrap s 5)
  else
    let die := handleDie h
    let cons := (s.die die).consId (handleCore h)
    let n := s.t.freezeOf die cons
    let s := if handleKind h = 3 ∧ n ≠ 0 then noteFreeze { s with t := s.t.setFreeze die cons (n - 1) } die cons else s
    let v := scopeState s h fun cons => s.t.freezeOf die cons != 0
    .next ({ s with w := s.w.setS c v }.advanceNR)

/-! Barriers (R184 to R187). -/

/-- BAR (R34, R184): the running entry waits there; the barrier may complete. -/
def execBar (n : Fin 64) (s : State) : Out :=
  let s := settleAtoms s
  let pc := s.w.cur.pc
  let s := s.advanceNR
  let s := s.onCur fun e => { e with st := .waitJoin, wait := .bar n.val, pc, clause := none, age := s.order }
  .next (tryBars { s with order := s.order + 1 })

/-- A barrier object: kind plain with rights R, W and A (R185). -/
def wantObject (write : Bool) : Want := { rights := [0, 1, 2], kinds := [0], align := 64, write }

/-- The checks of a CONST handle for BARA and BARW (R186): the trap, when one is raised. -/
def constCheck (s : State) (h : W64) : Option State :=
  if handleBad s h || handleKind h != 3 then some (boundTrap s 5)
  else
    let d := s.die (handleDie h)
    if freezeCount s d.num (d.consId (handleCore h)) = 0 then
      some (takeTrap s { cause := 21, lanes := s.w.cur.mask, pc := s.w.issuePc, next := s.w.cur.pc + 4 })
    else if d.num ≠ s.t.die ∨ ¬ (d.consOf (handleCore h)).contains s.t.core then some (boundTrap s 5)
    else none

/-- A 64-bit word of an object at HOME. -/
def homeWord (s : State) (p : W64) (i : Nat) : Nat :=
  leNat (bytesOf (dieRead s s.t.space (p + BitVec.ofNat 64 (8 * i)) 8 s.t.die))

def setHomeWord (s : State) (p : W64) (i v : Nat) : State :=
  dieWrite s s.t.space (p + BitVec.ofNat 64 (8 * i)) (clean (leBytes 8 v)) true (.lane s.t.die s.t.core) s.t.die

/-- The core's copies of an object's line go home before the device reads it there (R296). -/
def flushLine (s : State) (p : W64) : State := dropLine s s.coreId s.t.space (lineKey p)

/-- BARA (R186) (DEDUCED, log 49). -/
def execBara (k : HKind) (c b a : SReg) (s : State) : Out :=
  let p := s.w.sreg a
  let s := settleAtoms s
  match (if k = .const then constCheck s (s.w.sreg b) else none) with
  | some t => .next t
  | none =>
    .next (scalarAccess s p 64 (wantObject true) fun s =>
      let s := flushLine s p
      let expected := homeWord s p 0
      let phase := homeWord s p 1
      if expected % 2 ^ 32 = 0 ∨ 2 ^ 32 ≤ expected then boundTrap s 6 p
      else if s.w.bara.any fun x => x.1 == p && phase ≤ x.2 then s.block { pc := s.w.cur.pc }
      else
        let s := (s.release (HKind.scope k)).escape
        let n := homeWord s p 2 + 1
        let s := if n = expected then setHomeWord (setHomeWord s p 1 (phase + 1)) p 2 0 else setHomeWord s p 2 n
        let w := s.w.setS c (BitVec.ofNat 64 phase)
        { s with w := { w with bara := (p, phase) :: w.bara.filter (·.1 != p) } }.advanceNR)

/-- BARW (R187): it reads the object, and makes no arrival's check of it (R185). -/
def execBarw (k : HKind) (c b a : SReg) (s : State) : Out :=
  let p := s.w.sreg a
  let s := settleAtoms s
  match (if k = .const then constCheck s (s.w.sreg c) else none) with
  | some t => .next t
  | none =>
    .next (scalarAccess s p 64 (wantObject false) fun s =>
      let s := flushLine s p
      if (s.w.sreg b).toNat < homeWord s p 1 then (s.acquire (HKind.scope k)).advanceNR
      else s.block { pc := s.w.cur.pc })

/-! Waits (R188, R189). -/

/-- WAITF (R188). -/
def execWaitf (hi lo : BitVec 6) (s : State) : Out :=
  let named (n : Nat) : Bool := if n < 6 then lo.getLsbD n else hi.getLsbD (n - 6)
  if (List.range 12).any fun n => named n && s.w.f.getD n 0 != 0 then .next (s.block { pc := s.w.cur.pc })
  else .next (s.advance 4)

/-- The deadline of a blocked instruction: the one it blocked with, else the one given. -/
def deadlineOf (s : State) (new : Nat) : Nat := (s.w.cur.blocked.bind (·.deadline)).getD new

/-- A deadline that has passed. -/
def deadlinePast (s : State) : Option Nat → Bool
  | some d => d ≤ s.now
  | none => false

/-- SLEEPT (R189). -/
def execSleept (abs : Bool) (a : SReg) (s : State) : Out :=
  let d := deadlineOf s (if abs then (s.w.sreg a).toNat else s.now + (s.w.sreg a).toNat)
  if d ≤ s.now then .next (s.advance 4) else .next (s.block { pc := s.w.cur.pc, deadline := some d } (starve := false))

/-! Spools (R190 to R194). -/

/-- SPINIT (R190): the spool's entries, if any, are discarded. -/
def execSpinit (gang : Bool) (b : SReg) (n : Fin 64) (s : State) : Out :=
  let v := (s.w.sreg b).toNat
  let cap := bitsOf v 26 20
  let base := bitsOf v 19 0
  if v / 2 ^ 27 ≠ 0 ∨ cap = 0 ∨ 64 < cap ∨ base % 8 ≠ 0 ∨ s.t.window < base + 8 * cap then .next (boundTrap s 7)
  else .next ({ s with t := { s.t with spools := s.t.spools.set n.val { defined := true, gang, cap, base } } }.advance 4)

def ctlPeer (v : W64) : Bool := bitOf v.toNat 5
def ctlRank (v : W64) : Nat := bitsOf v.toNat 4 0
def ctlTmo (v : W64) : Nat := bitsOf v.toNat 47 16
/-- Reserved bits of the control register that hold something (R191). -/
def ctlBad (v : W64) : Bool := bitsOf v.toNat 55 48 != 0 || bitsOf v.toNat 15 6 != 0
/-- The control register with STATUS written (R191). -/
def ctlStatus (v : W64) (st : Nat) : W64 := BitVec.ofNat 64 (v.toNat % 2 ^ 56 + st * 2 ^ 56)

/-- Where a push goes: a team's spool, to wait for an absent peer, or BOUND with its detail. -/
inductive PushTo where
  | team (id : Nat) | absent (id : Nat) | bound (detail : Nat)
  deriving DecidableEq, Repr

def pushTo (s : State) (v : W64) (n : Nat) : PushTo :=
  if ctlBad v then .bound 7
  else if ctlPeer v then
    if s.t.gangSize ≤ ctlRank v then .bound 7
    else match s.gangTeam (ctlRank v) with
      | none => .bound 4
      | some t =>
        if !(t.resident && t.started) then .absent t.id
        else if !(t.spools.getD n {}).defined || !(t.spools.getD n {}).gang then .bound 7
        else .team t.id
  else if (s.t.spools.getD n {}).defined then .team s.t.id
  else .bound 7

def spoolOf (s : State) (team n : Nat) : Spool := ((s.team team).bind fun t => t.spools[n]?).getD {}
def Spool.full (p : Spool) : Bool := p.cap ≤ p.tail - p.head
/-- Offset of entry `i`, counting pushes from SPINIT (R190). -/
def Spool.slot (p : Spool) (i : Nat) : Nat := p.base + 8 * (i % p.cap)
def Spool.range (p : Spool) (team i : Nat) : List Range := [{ team, lo := p.slot i, hi := p.slot i + 8 }]

/-- Append an entry (R192): a release at the spool's scope. -/
def spoolPush (s : State) (team n : Nat) (v : W64) : State :=
  let p := spoolOf s team n
  let sc := if p.gang then Scope.gang else .team
  let s := (s.release sc).escapeAt sc
  let s := windowWrite s team (p.slot p.tail) (clean (leBytes 8 v.toNat))
  let core := s.t.core
  s.modTeam team fun t => { t with spools := t.spools.modify n fun p => { p with tail := p.tail + 1, pushers := p.pushers ++ [core] } }

/-- A blocked instruction waits for the thing named. -/
def Blocked.waitsFor (b : Blocked) (key : Nat × Nat) : Bool := b.key == some key || (key.1 == 1 && b.mails.contains key.2)

/-- Whether another resident wave's running entry blocked earlier on the same thing (R193, R197). -/
def waitsBefore (s : State) (key : Nat × Nat) (order : Nat) : Bool :=
  s.allTeams.any fun t => t.resident && t.waves.any fun w =>
    !(t.id == s.t.id && w.num == s.w.num) &&
    match w.cur.blocked with
    | some b => b.waitsFor key && b.order < order
    | none => false

/-- The place of a waiter among those that wait for the same thing: where it blocked, else as the next to come. -/
def placeOf (s : State) (key : Nat × Nat) : Nat :=
  match s.w.cur.blocked with | some b => if b.waitsFor key then b.order else s.order | none => s.order

/-- A block that keeps its place and its deadline. -/
def keyedBlock (s : State) (key : Nat × Nat) (deadline : Option Nat) : State :=
  { (s.block { pc := s.w.cur.pc, deadline, order := placeOf s key, key := some key }) with order := s.order + 1 }

/-- Waves that wait to push into a spool, and to pop from it (R193). -/
def pushKey (team n : Nat) : Nat × Nat := (2, team * 16 + n)
def popKey (team n : Nat) : Nat × Nat := (0, team * 16 + n)

/-- SPUSH (R192): B-marked. Waves blocked on one spool are served in order (R193). -/
def execSpush (c b : SReg) (n : Fin 64) (s : State) : Out :=
  let s := settleAtoms s
  match pushTo s (s.w.sreg b) n.val with
  | .bound d => .next (boundTrap s d)
  | .absent id => .next (keyedBlock s (pushKey id n.val) none)
  | .team id =>
    let p := spoolOf s id n.val
    let key := pushKey id n.val
    if p.full ∨ waitsBefore s key (placeOf s key) then .next (keyedBlock s key none)
    else if scoreboardHolds s (p.range id p.tail) true then .next s.heldBack
    else
      let sc := if p.gang then Scope.gang else .team
      let s := spoolPush s id n.val (s.w.sreg c)
      .next ((s.launchPend { flag := s.w.mark true, load := false, scope := sc }).advanceNR)

/-- Take the oldest entry of the team's own spool (R193), an acquire at its scope; A-marked. -/
def spoolPop (s : State) (n : Nat) (c b : SReg) : State :=
  let p := s.t.spools.getD n {}
  let a := p.slot p.head
  let v := leNat (readBytes s.t.scratch a 8)
  let s := s.acquire (if p.gang then .gang else .team)
  let s := match p.pushers with
    | i :: _ => sextantAdd s s.t.die i s.t.core 3 1
    | [] => s
  let t := { s.t with spools := s.t.spools.modify n fun p => { p with head := p.head + 1, pushers := p.pushers.tail } }
  (State.launchPend { s with t } { flag := s.w.mark false, load := true, writes :=
    [{ scalar := true, reg := c.val, val := BitVec.ofNat 64 v, poison := s.t.scratchPoison.contains (a / 8) },
     { scalar := true, reg := b.val, val := ctlStatus (s.w.sreg b) 0 }] }).advanceNR

/-- STATUS alone, on the A mark. -/
def statusOnly (s : State) (b : SReg) (st : Nat) : State :=
  (s.launchPend { flag := s.w.mark false, load := true, writes := [{ scalar := true, reg := b.val, val := ctlStatus (s.w.sreg b) st }] }).advanceNR

/-- What a pop may not name (R191). -/
def popBad (s : State) (v : W64) (n : Nat) : Bool := ctlBad v || ctlPeer v || !(s.t.spools.getD n {}).defined

/-- SPOP (R193). A pop is held by the range scoreboard on the slot at the head, as a load of it would be (R162; DESIGN CHOICE, log 117). -/
def execSpop (c b : SReg) (n : Fin 64) (s : State) : Out :=
  let s := settleAtoms s
  let v := s.w.sreg b
  let p := s.t.spools.getD n.val {}
  let key := popKey s.t.id n.val
  let deadline := if ctlTmo v = 0 then none else some (deadlineOf s (s.now + 1000 * ctlTmo v))
  if popBad s v n.val then .next (boundTrap s 7)
  else if p.head < p.tail ∧ ¬ waitsBefore s key (placeOf s key) then
    if scoreboardHolds s (p.range s.t.id p.head) false then .next s.heldBack else .next (spoolPop s n.val c b)
  else if deadlinePast s deadline then .next (statusOnly s b 3)
  else .next (keyedBlock s key deadline)

/-- SPTRY with opt[0] = 0 (R194). While waves that blocked earlier on the spool are to be served (R193), it finds nothing: EMPTY
(DESIGN CHOICE, log 118). -/
def execSptryPop (c b : SReg) (n : Fin 64) (s : State) : Out :=
  let s := settleAtoms s
  let p := s.t.spools.getD n.val {}
  if popBad s (s.w.sreg b) n.val then .next (boundTrap s 7)
  else if p.head < p.tail ∧ ¬ waitsBefore s (popKey s.t.id n.val) s.order then
    if scoreboardHolds s (p.range s.t.id p.head) false then .next s.heldBack else .next (spoolPop s n.val c b)
  else .next (statusOnly s b 1)

/-- SPTRY with opt[0] = 1 (R194): its status and, as an A-marked instruction, its flag. While waves that blocked earlier on the spool
are to be served, it finds no room: FULL (DESIGN CHOICE, log 118). -/
def execSptryPush (c b : SReg) (n : Fin 64) (s : State) : Out :=
  let s := settleAtoms s
  match pushTo s (s.w.sreg b) n.val with
  | .bound d => .next (boundTrap s d)
  | .absent _ => .next (statusOnly s b 4)
  | .team id =>
    let p := spoolOf s id n.val
    if p.full ∨ waitsBefore s (pushKey id n.val) s.order then .next (statusOnly s b 2)
    else if scoreboardHolds s (p.range id p.tail) true then .next s.heldBack
    else .next (statusOnly (spoolPush s id n.val (s.w.sreg c)) b 0)

/-! Mailboxes (R195 to R197). -/

/-- The header of a mailbox: capacity, scope code, and the counts sent, received and dropped; none when illegal (R195). -/
structure Box where
  cap : Nat
  scope : Scope
  sent : Nat
  received : Nat
  dropped : Nat
  deriving DecidableEq, Repr

def scopeOfCode : Nat → Scope
  | 0 => .wave | 1 => .team | 2 => .gang | 3 => .const | 4 => .die | 5 => .pkg | 6 => .domain | _ => .sys

/-- The header as it stands at HOME; one whose bits [63:19] are not 0 is illegal too (R195; DESIGN CHOICE, log 119). -/
def readBox (s : State) (p : W64) : Option Box :=
  let h := homeWord s p 0
  let cap := h % 65536
  let sc := bitsOf h 18 16
  if (List.range 13).any (fun k => cap == 2 ^ k) && 4 ≤ sc && h / 2 ^ 19 == 0 then
    some { cap, scope := scopeOfCode sc, sent := homeWord s p 1, received := homeWord s p 2, dropped := homeWord s p 3 }
  else none

/-- The physical address that names a mailbox. -/
def boxKey (s : State) (p : W64) : Nat := (homeAddr s s.t.space p s.t.die).getD 0

/-- Slots that adopters hold for their messages (R249). -/
def reservedSlots (s : State) (pa : Nat) : Nat :=
  s.allTeams.foldl (fun n t => t.waves.foldl (fun n w => n + (w.lanes.filter fun l => l.reserved == some pa).length) n) 0

/-- Messages held count, with the difference of 64-bit counts. -/
def Box.held (b : Box) : Nat := (b.sent + 2 ^ 64 - b.received) % 2 ^ 64

/-- The pointer of message slot `j`. -/
def slotPtr (p : W64) (b : Box) (j : Nat) : W64 := p + BitVec.ofNat 64 (64 + 16 * (j % b.cap))

def wantBox (send : Bool) : Want := { rights := [if send then 1 else 0], kinds := [1], align := 64, write := send }

/-- Checks of an MSEND or MRECV (R152, R195): the header, and the limits of the object. -/
def boxAccess (s : State) (p : W64) (send : Bool) (k : State → Box → State) : State :=
  scalarAccess s p 64 (wantBox send) fun s =>
    let s := flushLine s p
    match readBox s p with
    | none => boundTrap s 8 p
    | some b => scalarChecked (limitsAcc s p (64 + 16 * b.cap) (wantBox send)) fun s => k s b

/-- The slot of a message that is written or read: steps 6 to 8 of R152 (R195). -/
def slotAccess (s : State) (p : W64) (send : Bool) (k : State → State) : State :=
  scalarAccess s p 16 { wantBox send with align := 1 } k (watch := false)

/-- Put a message into a mailbox (R196). -/
def putMessage (s : State) (p : W64) (b : Box) (d : List PByte) (who : CoreId) : State :=
  let s := flushLine s (slotPtr p b b.sent)
  let s := dieWrite s s.t.space (slotPtr p b b.sent) d true (.lane s.t.die s.t.core) s.t.die
  let s := setHomeWord s p 1 ((b.sent + 1) % 2 ^ 64)
  let key := boxKey s p
  let old := ((s.senders.find? (·.1 == key)).map (·.2)).getD []
  { s with senders := (key, old ++ [who]) :: s.senders.filter (·.1 != key) }

/-- Take the oldest message (R197): its 16 bytes. -/
def takeMessage (s : State) (p : W64) (b : Box) : State × List PByte :=
  let d := dieRead s s.t.space (slotPtr p b b.received) 16 s.t.die
  let s := setHomeWord s p 2 ((b.received + 1) % 2 ^ 64)
  let key := boxKey s p
  let old := ((s.senders.find? (·.1 == key)).map (·.2)).getD []
  let s := { s with senders := (key, old.tail) :: s.senders.filter (·.1 != key) }
  match old with
  | i :: _ => (if i.die = s.t.die then sextantAdd s s.t.die i.core s.t.core 3 1 else s, d)
  | [] => (s, d)

/-- The second register of an even pair of scalar registers. -/
def SReg.succ (r : SReg) : SReg := ⟨(r.val + 1) % 64, Nat.mod_lt _ (by decide)⟩

/-- MSEND (R196). -/
def execMsend (drop : Bool) (c a : SReg) (s : State) : Out :=
  let p := s.w.sreg a
  .next (boxAccess (settleAtoms s) p true fun s b =>
    let sent (s : State) : State := (s.launchPend { flag := s.w.mark true, load := false, scope := b.scope }).advanceNR
    if b.held + reservedSlots s (boxKey s p) < b.cap then
      slotAccess s (slotPtr p b b.sent) true fun s =>
        let s := (s.release b.scope).escape
        let data := leBytes 8 (s.w.sreg c).toNat ++ leBytes 8 (s.w.sreg (SReg.succ c)).toNat
        sent (putMessage s p b (clean data) s.coreId)
    else if drop then sent (setHomeWord s.escape p 3 ((b.dropped + 1) % 2 ^ 64))
    else s.block { pc := s.w.cur.pc })

/-- MRECV (R197). -/
def execMrecv (c b a : SReg) (s : State) : Out :=
  let p := s.w.sreg a
  .next (boxAccess (settleAtoms s) p false fun s x =>
    let key := (1, boxKey s p)
    let v := s.w.sreg b
    let deadline := if ctlTmo v = 0 then none else some (deadlineOf s (s.now + 1000 * ctlTmo v))
    if 0 < x.held ∧ ¬ waitsBefore s key (placeOf s key) then
      slotAccess s (slotPtr p x x.received) false fun s =>
        match takeMessage s p x with
        | (s, d) =>
          let s := s.acquire x.scope
          let word (i : Nat) : W64 := BitVec.ofNat 64 (leNat (bytesOf ((d.drop (8 * i)).take 8)))
          (s.launchPend { flag := s.w.mark false, load := true, writes :=
            [{ scalar := true, reg := c.val, val := word 0, poison := anyPoison (d.take 8) },
             { scalar := true, reg := (SReg.succ c).val, val := word 1, poison := anyPoison (d.drop 8) },
             { scalar := true, reg := b.val, val := ctlStatus v 0 }] }).advanceNR
    else if deadlinePast s deadline then statusOnly s b 3
    else keyedBlock s key deadline)

end Sys2Proof.Machine
end

