-- ==== Sys2Proof/Machine/Scopes.lean ====
section
/-! DEFINITION. The finish table (R256 to R258, R323): counts, errors, completion and cancellation. -/

namespace Sys2Proof.Machine

/-- Every wave of the package, in hand or not. -/
def State.mapWaves (s : State) (f : Wave → Wave) : State :=
  { s with w := if s.hand.isSome then f s.w else s.w
           t := { s.t with waves := s.t.waves.map f }
           teams := s.teams.map fun t => { t with waves := t.waves.map f } }

def State.scope (s : State) (part n : Nat) : FScope := ((s.part part).bind (·.scopes[n]?)).getD {}

def State.modScope (s : State) (part n : Nat) (f : FScope → FScope) : State :=
  s.modPart part fun p => { p with scopes := p.scopes.modify n f }

/-- STATE of the result word (R257). -/
def FScope.code (f : FScope) : Nat :=
  match f.st with
  | .free => 0
  | .open_ => 1
  | .closed => 2
  | .complete => 3
  | .cancelled => if f.count = 0 then 4 else 5

/-- The result word of R257. -/
def FScope.word (f : FScope) : W64 :=
  BitVec.ofNat 64 (f.code * 2 ^ 56 + f.err % 256 * 2 ^ 48 +
    (if f.kind = .launch then f.rflags % 32 * 2 ^ 40 else 0) + f.count % 2 ^ 32)

/-- What FSWAIT blocks on. -/
def scopeKey (part n : Nat) : Nat × Nat := (2, part * 256 + n)

/-- Every FSWAIT blocked on a scope takes the word of its completion (R257), that of a wave in its handler too. -/
def wakeScope (s : State) (part n : Nat) (word : W64) : State :=
  let wake (e : Entry) : Entry := match e.blocked with
    | some b => if b.key = some (scopeKey part n) then { e with blocked := some { b with done := true, num := word.toNat } } else e
    | none => e
  s.mapWaves fun w => { w with paths := w.paths.map wake, frame := w.frame.map fun f => { f with paths := f.paths.map wake } }

/-- An error recorded in a scope and its ancestors, where none stands yet (R256). -/
def recordErr (s : State) (part n err : Nat) : (fuel : Nat) → State
  | 0 => s
  | k + 1 =>
    let f := s.scope part n
    let s := if f.err = 0 then s.modScope part n fun f => { f with err } else s
    match f.parent with
    | some p => recordErr s part p err k
    | none => s

def State.scopeErr (s : State) (part n err : Nat) : State := if err = 0 then s else recordErr s part n err 256

/-- Whether a team still lives. -/
def State.lives (s : State) (id : Nat) : Bool := (s.team id).isSome

def State.queue (s : State) (part q : Nat) : Queue := ((s.part part).bind (·.queues[q]?)).getD {}
def State.modQueue (s : State) (part q : Nat) (f : Queue → Queue) : State :=
  s.modPart part fun p => { p with queues := p.queues.modify q f }

/-! Launch cards: some fields, and footprints (R240, R255, R317). -/

def cardWord (c : List Byte) (i : Nat) : Nat := leNat ((c.drop (8 * i)).take 8)
def cardTeams (c : List Byte) : Nat := bitsOf (cardWord c 4) 47 32 + 1
def cardGang (c : List Byte) : Nat := bitsOf (cardWord c 4) 52 48 + 1

structure Region where
  ptr : W64
  len : Nat
  deriving DecidableEq, Repr

/-- Region `i` of a footprint whose first word is `base`: 0 to 3 read, 4 to 7 write. -/
def footRegion (c : List Byte) (base i : Nat) : Region :=
  { ptr := BitVec.ofNat 64 (cardWord c (base + 2 * i)), len := cardWord c (base + 2 * i + 1) }

/-- Byte ranges that intersect under one object number. -/
def Region.meets (x y : Region) : Bool :=
  x.len != 0 && y.len != 0 && pObj x.ptr == pObj y.ptr && pAddr x.ptr < pAddr y.ptr + y.len && pAddr y.ptr < pAddr x.ptr + x.len

/-- A card `b` that an earlier card `a` holds back by their regions. -/
def footConflict (a b : List Byte) (base : Nat) : Bool :=
  (List.range 8).any fun i => (List.range 8).any fun j =>
    (4 ≤ i || 4 ≤ j) && (footRegion a base i).meets (footRegion b base j)

/-- Cards of a queue that are in its resolver window (R316). -/
def windowCards (s : State) (part q : Nat) : Nat :=
  (s.launches.filter fun l => l.part == part && l.queue == q && l.num < (s.queue part q).head && !l.done).length

/-- Device cards enter the resolver window at the head while it has room; a card whose scope has completed before leaves at
once, and offset 32 counts it (R316). -/
def windowFill (s : State) (part q : Nat) : (fuel : Nat) → State
  | 0 => s
  | n + 1 =>
    let x := s.queue part q
    if !x.device || x.tail ≤ x.head || 32 ≤ windowCards s part q then s
    else
      let gone (l : Launch) : Bool := l.part == part && l.queue == q && l.num == x.head && l.done
      let k := (s.launches.filter gone).length
      let s := { s with launches := s.launches.filter fun l => !gone l }
      let s : State := { s with launches := s.launches.map fun (l : Launch) =>
        if l.part = part ∧ l.queue = q ∧ l.num = x.head then { l with since := s.now } else l }
      windowFill (s.modQueue part q fun x => { x with head := x.head + 1, finished := x.finished + k }) part q n

/-- What a launch scope's completion does beside the table: its card leaves the window, which offset 32 counts (R316), and a
host card posts TYPE 1, with which its entry goes back (R323, R428) (DESIGN CHOICE, log 52). -/
def launchDone (s : State) (part n : Nat) : State :=
  match s.launches.find? fun l => l.part == part && l.scope == n && !l.done with
  | none => s
  | some l =>
    let inWindow := l.num < (s.queue part l.queue).head
    let s : State := { s with launches := s.launches.filterMap fun (x : Launch) =>
      if x.id = l.id then (if inWindow then none else some { x with done := true }) else some x }
    let s := if inWindow then s.modQueue part l.queue fun q => { q with finished := q.finished + 1 } else s
    -- a later card that this one held back begins to wait for its placement (R317, R322)
    let s : State := { s with launches := s.launches.map fun (x : Launch) =>
      if x.part = part ∧ x.queue = l.queue ∧ l.num < x.num ∧ x.table = l.table ∧ footConflict l.card x.card 16 then { x with since := s.now } else x }
    let s := windowFill s part l.queue 65536
    if l.host then
      postEvent s part 1 (n + (s.scope part n).err % 256 * 256) (l.queue * 2 ^ 32 + l.num % 2 ^ 32) (some (n, (s.scope part n).serial))
    else s

/-- A scope whose count is 0 and that is CLOSED or CANCELLED completes, and then counts no longer in its parent (R256). -/
def checkScope (s : State) (part n : Nat) : (fuel : Nat) → State
  | 0 => s
  | k + 1 =>
    let f := s.scope part n
    if (f.st = .closed ∨ f.st = .cancelled) ∧ f.count = 0 ∧ ¬ f.done then
      let s := s.modScope part n fun f => { f with done := true, st := if f.st = .closed then .complete else f.st }
      let s := wakeScope s part n (s.scope part n).word
      let s := if f.kind = .launch then launchDone s part n else s
      let gone : Bool := match f.owner with | some t => !s.lives t | none => false
      let s := if gone ∧ (f.kind = .user ∨ f.kind = .launch) then s.modScope part n fun _ => {} else s
      match f.parent with
      | some p => checkScope (s.modScope part p fun f => { f with count := f.count - 1 }) part p k
      | none => s
    else s

/-- One less outstanding in a scope. -/
def State.scopeDown (s : State) (part n : Nat) : State :=
  checkScope (s.modScope part n fun f => { f with count := f.count - 1 }) part n 256

def State.scopeUp (s : State) (part n : Nat) : State := s.modScope part n fun f => { f with count := f.count + 1 }

/-- Open the lowest free entry: its number, or none when the table is full. It counts in its parent at once (R256). -/
def openScope (s : State) (part : Nat) (parent : Option Nat) (kind : ScopeKind) (owner : Option Nat) (card : Option (Nat × Nat)) :
    State × Option Nat :=
  match s.part part with
  | none => (s, none)
  | some p =>
    match p.scopes.findIdx? (·.st == .free) with
    | none => (s, none)
    | some n =>
      let s := s.modScope part n fun _ => { st := .open_, parent, kind, owner, card, serial := s.order }
      let s := { s with order := s.order + 1 }
      (match parent with | some p => s.scopeUp part p | none => s, some n)

/-- The scope and its ancestors. -/
def ancestors (s : State) (part n : Nat) : (fuel : Nat) → List Nat
  | 0 => []
  | k + 1 => n :: (match (s.scope part n).parent with | some p => ancestors s part p k | none => [])

/-- The scopes in use that lie under `n`, itself among them. -/
def subtree (s : State) (part n : Nat) : List Nat :=
  (List.range 256).filter fun m => (s.scope part m).st != .free && (ancestors s part m 256).contains n

/-- Teams of a launch that a gang holds (R255). -/
def gangSizeOf (teams size gang : Nat) : Nat := min teams ((gang + 1) * size) - gang * size

/-- The ranks of a gang that its last kill stopped (R355). -/
def Launch.stoppedRanks (l : Launch) (gang : Nat) : List Nat := ((l.stopped.find? (·.1 == gang)).map (·.2)).getD []

/-- One cancelled scope: its state and error, its cards not yet started, its launch's teams, and the teams of gangs that
wait to be placed again, which end for good (R256, R258). -/
def cancelOne (s : State) (part m : Nat) : State :=
  let f := s.scope part m
  if f.st = .open_ ∨ f.st = .closed then
    let s := State.scopeErr (s.modScope part m fun f => { f with st := .cancelled }) part m 4
    let s : State := { s with cards := s.cards.map fun c =>
      if c.part = part ∧ c.counted = some m ∧ ¬ c.started ∧ c.status = none then { c with status := some 4 } else c }
    match s.launches.find? fun l => l.part == part && l.scope == m && !l.done with
    | none => s
    | some l =>
      let lost := l.again.foldl (fun n g => n + (l.stoppedRanks g).length) 0
      let s : State := { s with launches := s.launches.map fun x => if x.id = l.id then { x with again := [] } else x }
      let s := s.modScope part m fun f => { f with count := f.count - lost }
      let ids := (s.allTeams.filter fun t => t.launch == l.id).map (·.id)
      ids.foldl (fun s id => endTeam s id 4) s
  else s

/-- FSCANCEL's effect, from a program or from the window (R258, R323). -/
def cancelScope (s : State) (part n : Nat) : State :=
  let ms := subtree s part n
  let s := ms.foldl (fun s m => cancelOne s part m) s
  ms.foldl (fun s m => checkScope s part m 256) s

/-! The instructions. -/

/-- The issuing team's launch and its scope. -/
def State.launch (s : State) : Option Launch := s.launches.find? (·.id == s.t.launch)

/-- The scope that a register names (R257): 0xFFFF is the issuing launch's; none above 255, for which BOUND is raised. -/
def namedScope (s : State) (v : W64) : Option Nat :=
  if v.toNat = 65535 then s.launch.map (·.scope) else if v.toNat ≤ 255 then some v.toNat else none

/-- BOUND with the scope detail (R257, R264); no rule gives it an address, so XTADDR is 0 (R359). -/
def scopeBound (s : State) : State := boundTrap s 10

/-- FSOPEN (R257). -/
def execFsopen (c a : SReg) (s : State) : Out :=
  let v := s.w.sreg a
  match namedScope s v with
  | none => .next (scopeBound s)
  | some p =>
    let s := s.escape
    let r := if (s.scope s.t.part p).st = .open_ then openScope s s.t.part (some p) .user (some s.t.id) none else (s, none)
    let s := r.1
    .next ({ s with w := s.w.setS c (BitVec.ofNat 64 (r.2.getD 65535)) }.advanceNR)

/-- FSCLOSE (R257). -/
def execFsclose (a : SReg) (s : State) : Out :=
  let v := s.w.sreg a
  let part := s.t.part
  match namedScope s v with
  | none => .next (scopeBound s)
  | some n =>
    match (s.scope part n).st with
    | .free => .next (scopeBound s)
    | .open_ => .next (checkScope (s.escape.advanceNR.modScope part n fun f => { f with st := .closed }) part n 256)
    | _ => .next s.escape.advanceNR

/-- FSQ (R257). -/
def execFsq (c a : SReg) (s : State) : Out :=
  let v := s.w.sreg a
  match namedScope s v with
  | none => .next (scopeBound s)
  | some n => .next ({ s with w := s.w.setS c (s.scope s.t.part n).word }.advance 4)

/-- FSCANCEL (R258); a team that cancels its own launch ends as well. -/
def execFscancel (a : SReg) (s : State) : Out :=
  let v := s.w.sreg a
  let part := s.t.part
  match namedScope s v with
  | none => .next (scopeBound s)
  | some n =>
    if (s.scope part n).st = .free then .next (scopeBound s)
    else .next (cancelScope s.escape.advanceNR part n)

/-- FSWAIT returns a completion: an acquire at DOMAIN; a user or launch scope goes back to FREE (R257, R323). -/
def returnScope (s : State) (c : SReg) (n serial : Nat) (word : W64) : State :=
  let part := s.t.part
  let f := s.scope part n
  let s := if f.serial = serial ∧ f.done ∧ (f.kind = .user ∨ f.kind = .launch) then s.modScope part n fun _ => {} else s
  let s := s.acquire .domain
  { s with w := s.w.setS c word }.advance 4

/-- FSWAIT (R257). -/
def execFswait (tmo : Bool) (c b a : SReg) (s : State) : Out :=
  let v := s.w.sreg a
  let part := s.t.part
  match namedScope s v with
  | none => .next (scopeBound s)
  | some n =>
    let key := scopeKey part n
    let f := s.scope part n
    match (match s.w.cur.blocked with | some x => if x.key = some key then some x else none | none => none) with
    | some x =>
      if x.done then .next (returnScope s c n x.order (BitVec.ofNat 64 x.num))
      else if f.done ∧ f.serial = x.order then .next (returnScope s c n x.order f.word)
      else if deadlinePast s x.deadline then .next ({ s with w := s.w.setS c f.word }.advance 4)
      else .next (s.block x)
    | none =>
      let own : Bool := match s.launch with | some l => (ancestors s part l.scope 256).contains n | none => false
      if f.st = .free ∨ own then .next (scopeBound s)
      else if f.done then .next (returnScope s c n f.serial f.word)
      else
        let deadline := if tmo then some (s.now + 1000 * (s.w.sreg b).toNat) else none
        if deadlinePast s deadline then .next ({ s with w := s.w.setS c f.word }.advance 4)
        else .next (s.block { pc := s.w.cur.pc, deadline, order := f.serial, key := some key })

end Sys2Proof.Machine
end

