-- ==== Sys2Proof/Machine/Launches.lean ====
section
/-! DEFINITION. Launch cards (R8, R255), their queues (R314 to R317), and ENQ (R254). -/

namespace Sys2Proof.Machine

/-! Fields of a launch card (R255). -/

def cardThreads (c : List Byte) : Nat := bitsOf (cardWord c 4) 31 0
def cardW (c : List Byte) : Nat := bitsOf (cardWord c 5) 4 0 + 1
def cardN (c : List Byte) : Nat := 8 * bitsOf (cardWord c 5) 11 8
def cardWindow (c : List Byte) : Nat := 4096 * bitsOf (cardWord c 5) 21 16
def cardShare (c : List Byte) : Nat := 32768 * bitsOf (cardWord c 5) 27 24
def cardPriv (c : List Byte) : Nat := bitsOf (cardWord c 5) 47 32
def cardParamBytes (c : List Byte) : Nat := bitsOf (cardWord c 5) 63 48
def cardTagBase (c : List Byte) : Nat := bitsOf (cardWord c 6) 19 0
def cardTagLog (c : List Byte) : Nat := bitsOf (cardWord c 6) 22 20
def cardTags (c : List Byte) : Bool := bitOf (cardWord c 6) 23
def cardTwin (c : List Byte) : Bool := bitOf (cardWord c 7) 1
def cardIdempotent (c : List Byte) : Bool := bitOf (cardWord c 7) 2
def cardPriority (c : List Byte) : Nat := bitsOf (cardWord c 7) 7 5
def cardParent (c : List Byte) : Nat := bitsOf (cardWord c 7) 31 16

/-- XPROG at the start of a wave of the launch, FAIRINT at its reset value (R19), and its XFPRM (R18, R45). -/
def cardXprog (c : List Byte) : W64 := 0x400 + BitVec.ofNat 64 (bitsOf (cardWord c 7) 0 0)
def cardXfprm (c : List Byte) : W64 := BitVec.ofNat 64 (bitsOf (cardWord c 7) 4 3)

/-- A field out of its range, whatever the context (R255, R401): the parent is a scope number below 256 or 0xFFFF (R256), and the
object table lies at a multiple of 128 KiB (R301) (DEDUCED, log 95). -/
def cardMalformed (c : List Byte) : Bool :=
  let w (i : Nat) : Nat := cardWord c i
  cardThreads c == 0 || bitsOf (w 4) 63 53 != 0 || w 3 % 131072 != 0 || (255 < cardParent c && cardParent c != 65535) ||
  bitsOf (w 5) 7 5 != 0 || bitsOf (w 5) 15 12 != 0 || bitsOf (w 5) 23 22 != 0 || bitsOf (w 5) 31 28 != 0 ||
  cardN c == 0 || 96 < cardN c || 48 * 4096 < cardWindow c || 8 * 32768 < cardShare c || cardPriv c % 16 != 0 ||
  4096 < cardParamBytes c ||
  cardTagBase c % 4096 != 0 || 6 < cardTagLog c || bitsOf (w 6) 63 24 != 0 ||
  bitsOf (w 7) 15 12 != 0 || bitsOf (w 7) 63 32 != 0 || 3 < bitsOf (w 7) 11 8 ||
  bitsOf (w 8) 63 32 != 0 || bitsOf (w 9) 63 12 != 0 || (List.range 6).any (fun i => w (10 + i) != 0) ||
  (cardTags c && cardWindow c < cardTagBase c + 1024 * 2 ^ cardTagLog c) ||
  (cardPriv c == 0 && bitsOf (w 9) 11 0 != 0)

/-- One more than the highest thread index that exists (R11). -/
def cardThreadsEnd (c : List Byte) : Nat :=
  let last := min (cardTeams c) ((cardThreads c + 1023) / 1024) - 1
  min (cardThreads c) (1024 * last + 32 * cardW c)

/-- A team beyond the limits of one slot (R8). -/
def cardTooLarge (c : List Byte) : Bool :=
  98304 < (if cardTwin c then 2 else 1) * cardW c * cardN c * 128 || (cardTwin c && 16 < cardW c)

/-- A space whose number is in use. -/
def spaceUsed (s : State) (n : Nat) : Bool :=
  s.allTeams.any (·.space == n) || s.cards.any (·.space == n) || s.faults.any (·.space == n)

/-- A number taken from a table that no longer uses it: nothing under it is left in a cache. -/
def retireSpace (s : State) (n : Nat) : State :=
  let s := shootXlat (flushRange s n 0 (2 ^ 52)) n 0 (2 ^ 52)
  let s := s.mapCores fun k => { k with desc := k.desc.filter (·.space != n) }
  { s with spaces := s.spaces.filter (·.num != n) }

/-- The space of an object table when a team is placed (R291, R305): its number of 12 bits, or the lowest free one, or one that
is no longer in use; none while all are in use (DESIGN CHOICE, log 92). -/
def spaceFor (s : State) (part : Nat) (table : W64) : Option (State × Nat) :=
  let add (s : State) (n : Nat) : State × Nat :=
    ({ s with spaces := s.spaces ++ [{ num := n, part, table, root := Config.rootOf part table }] }, n)
  match s.spaces.find? fun x => x.part == part && x.table == table with
  | some x => some (s, x.num)
  | none =>
    match (List.range 4096).find? fun n => s.spaces.all (·.num != n) with
    | some n => some (add s n)
    | none => (s.spaces.find? fun x => !spaceUsed s x.num).map fun x => add (retireSpace s x.num) x.num

/-- The private object a card names (R164, R255): valid, private, readable and writable, and long enough. -/
def privateOk (s : State) (part : Nat) (table : W64) (c : List Byte) : Bool :=
  cardPriv c == 0 ||
  match entryIn s (Config.rootOf part table) table 0 (bitsOf (cardWord c 9) 11 0) with
  | none => false
  | some x => x.kind == 2 && x.has 0 && x.has 1 && cardThreadsEnd c * cardPriv c ≤ x.reslim

/-- The device's read of the private object's entry waits for a page under migration (R270). -/
def waitPrivate (s : State) (part : Nat) (table : W64) (c : List Byte) : State :=
  if cardPriv c = 0 then s
  else
    let space := ((s.spaces.find? fun x => x.part == part && x.table == table).map (·.num)).getD 0
    waitWalk s (Config.rootOf part table) space (pAddr table + 32 * bitsOf (cardWord c 9) 11 0) 0

/-- The object table that a card names, or its issuer's (R255). -/
def cardTable (issuer : Option W64) (c : List Byte) : W64 :=
  let named := BitVec.ofNat 64 (cardWord c 3)
  if named = 0 then issuer.getD 0 else named

/-- The examination of a card (R254): 0 legal, 1 SLOTSHARE, 3 ILLEGAL; with the table it names. -/
def examine (s : State) (part : Nat) (issuer : Option W64) (c : List Byte) : Nat × W64 :=
  let table := cardTable issuer c
  if cardMalformed c || (issuer.isNone && (cardWord c 3 == 0 || cardParent c == 65535)) then (3, table)
  else if !privateOk s part table c then (3, table)
  else if cardTooLarge c then (1, table)
  else (0, table)

/-! Queues (R314, R315). -/

/-- Physical address of slot `j` of a queue's ring. -/
def ringSlot (q : Queue) (j : Nat) : Nat := q.base.toNat % 2 ^ 52 + 256 * (j % max 1 q.cap)

/-- A device-fed card accepted: its slot, its scope, the tail (R315). -/
def appendCard (s : State) (part q : Nat) (card : List Byte) (scope : Nat) (table : W64) : State :=
  let x := s.queue part q
  let a := ringSlot x x.tail
  let s := (List.range 4).foldl (fun s i => homeWrite s (a + 64 * i) (clean ((card.drop (64 * i)).take 64)) false .host) s
  let l : Launch := { id := s.nextLaunch, part, queue := q, num := x.tail, card, scope, host := false
                      issuer := some s.t.id, table, order := s.order, since := s.now }
  let s := { s with launches := s.launches ++ [l], nextLaunch := s.nextLaunch + 1, order := s.order + 1 }
  windowFill (s.modQueue part q fun x => { x with tail := x.tail + 1 }) part q 65536

/-- ENQ's answer (R254): the result word. -/
def enqueue (s : State) (q : Nat) (card : List Byte) : State × W64 :=
  let part := s.t.part
  let x := s.queue part q
  let code (n : Nat) : W64 := BitVec.ofNat 64 (n * 2 ^ 56)
  let own := match s.space s.t.space with | some sp => sp.table | none => 0
  if !x.device || !x.enable then (s, code 3)
  else
    let s := waitPrivate s part (cardTable (some own) card) card
    match examine s part (some own) card with
    | (0, table) =>
      if x.cap ≤ x.tail - x.head then (s, code 2)
      else
        let parent := if cardParent card = 65535 then s.launch.map (·.scope) else some (cardParent card)
        match parent with
        | none => (s, code 4)
        | some p =>
          if (s.scope part p).st ≠ .open_ then (s, code 4)
          else
            match openScope s part (some p) .launch (some s.t.id) none with
            | (s, none) => (s, code 4)
            | (s, some n) => (appendCard s part q card n table, BitVec.ofNat 64 n)
    | (n, _) => (s, code n)

/-- The bytes of an object that a wave's own release has reached, read where the device reads them. -/
def deviceBytes (s : State) (p : W64) (n : Nat) : List Byte := bytesOf (dieRead s s.t.space p n s.t.die)

/-- ENQ (R254): checked, a release at PKG, then the dispatcher's answer. -/
def execEnq (c b : SReg) (q : Fin 64) (s : State) : Out :=
  let p := s.w.sreg b
  let s := settleAtoms s
  .next (scalarAccess s p 256 { rights := [0], kinds := [0], align := 64 } fun s =>
    let s := (s.release .pkg).escape
    match enqueue s q.val (deviceBytes s p 256) with
    | (s, r) => { s with w := s.w.setS c r }.advanceNR)

end Sys2Proof.Machine
end

