-- ==== Sys2Proof/Machine/Cards.lean ====
section
/-! DEFINITION. Chains and their cards as programs see them (R238 to R241): JOB and JSEQ. -/

namespace Sys2Proof.Machine

/-- A legal second word of a control block (R238). -/
def chainLegal (v : Nat) : Bool :=
  (List.range 16).any (fun k => v % 65536 == 2 ^ k) && bitsOf v 17 16 ≤ 1 && v / 2 ^ 18 == 0

def chainCap (v : Nat) : Nat := v % 65536

/-- Words of a control block in a space, at HOME. -/
def chainWord (s : State) (space die : Nat) (p : W64) (i : Nat) : Nat :=
  leNat (bytesOf (dieRead s space (p + BitVec.ofNat 64 (8 * i)) 8 die))

def setChainWord (s : State) (space die : Nat) (p : W64) (i v : Nat) : State :=
  dieWrite s space (p + BitVec.ofNat 64 (8 * i)) (clean (leBytes 8 v)) true (.card die) die

/-- Pointer of a chain's slot `j`. -/
def chainSlot (s : State) (space die : Nat) (p : W64) (j : Nat) : W64 :=
  let v := chainWord s space die p 1
  BitVec.ofNat 64 (chainWord s space die p 0) + BitVec.ofNat 64 (256 * (j % max 1 (chainCap v)))

/-- The completion scope of a card, when it is legal (R239). -/
def cardScope (c : List Byte) : Option Scope :=
  let n := bitsOf (cardWord c 0) 11 8
  if 4 ≤ n ∧ n ≤ 7 then some (scopeOfCode n) else none

/-- The page of a ring slot, which JOB writes: it is served as for the wave's own store, so that a slot not yet mapped and one in a
replicated page wait for the fault service (R311, R313) (DESIGN CHOICE, log 126). -/
def slotAcc (s : State) (p : W64) : State × Acc :=
  match checkPage s s.coreId s.t.space (pAddr p) true with
  | (s, c) => (s, { lane := 0, place := .global s.t.space, addr := p, shown := p, bad := c.map (badOf s.t.space true) })

/-- Append a card to a chain (R241, R256): its slot, the tail, and the finish scope that it counts in. -/
def appendJob (s : State) (p : W64) (card : List Byte) : State :=
  let sp := s.t.space
  let d := s.t.die
  let tail := chainWord s sp d p 2
  let s := dieWrite s sp (chainSlot s sp d p tail) (clean card) false (.lane d s.t.core) d
  let s := setChainWord s sp d p 2 (tail + 1)
  let n := cardWord card 6
  let part := s.t.part
  let named := n ≠ 65535
  let good := n ≤ 255 ∧ (s.scope part n).st = .open_
  let s := if named ∧ good then s.scopeUp part n else s
  { s with cards := s.cards ++ [{
      key := (homeAddr s sp p d).getD 0, chain := p, space := sp, part, num := tail
      counted := if named ∧ good then some n else none
      status := if named ∧ ¬ good then some 3 else none }] }

/-- What JOB does once it appends: the card as the wave sees it, the release at the card's completion scope (at DIE where the field
names none: such a card is ILLEGAL and makes no access; DESIGN CHOICE, log 123), the append. -/
def postJob (s : State) (p q : W64) : State :=
  match loadBytes s s.coreId s.t.space q s.w.al1 s.w.acc 256 with
  | (s, bs) =>
    let card := bytesOf bs
    let s := (s.release ((cardScope card).getD .die)).escape
    let s := appendJob s p card
    (s.launchPend { flag := s.w.mark true, load := false, scope := .die }).advanceNR

/-- JOB (R241) (DEDUCED, log 36). -/
def execJob (b a : SReg) (s : State) : Out :=
  let p := s.w.sreg a
  let q := s.w.sreg b
  let s := settleAtoms s
  .next (scalarAccess s p 64 (wantObject true) fun s =>
    scalarAccess s q 256 { rights := [0], kinds := [0], align := 256 } fun s =>
      let s := flushLine s p
      let v := homeWord s p 1
      if !chainLegal v then boundTrap s 9 p
      else if chainCap v ≤ homeWord s p 2 - homeWord s p 3 then s.block { pc := s.w.cur.pc }
      else scalarChecked (slotAcc s (chainSlot s s.t.space s.t.die p (homeWord s p 2))) fun s => postJob s p q)

/-- JSEQ (R241): the sequence word, an acquire at the named scope. It reads 64 bytes of the chain, aligned and with right R alone (DESIGN
CHOICE, log 124). -/
def execJseq (sc : Scope) (c a : SReg) (s : State) : Out :=
  let p := s.w.sreg a
  let s := settleAtoms s
  .next (scalarAccess s p 64 { rights := [0], kinds := [0], align := 64 } fun s =>
    let s := flushLine s p
    if !chainLegal (homeWord s p 1) then boundTrap s 9 p
    else
      let s := s.acquire sc
      { s with w := s.w.setS c (BitVec.ofNat 64 (homeWord s p 4)) }.advance 4)

end Sys2Proof.Machine
end

