-- ==== Sys2Proof/Machine/Capsule.lean ====
section
/-! DEFINITION. Capsules (R38, R245 to R253, R361 to R364): acquiring, committing, adopting and asking. -/

namespace Sys2Proof.Machine

/-! Records (R245). -/

def lockOwner (v : Nat) : Nat := bitsOf v 63 32
def lockStep (v : Nat) : Nat := bitsOf v 31 24
def lockState (v : Nat) : Nat := bitsOf v 23 20
def lockAdopt (v : Nat) : Nat := bitsOf v 19 0
def mkLock (owner step st adopt : Nat) : Nat :=
  owner % 2 ^ 32 * 2 ^ 32 + step % 256 * 2 ^ 24 + st * 2 ^ 20 + adopt % 2 ^ 20

/-- The D register `a` half `h` of a group, in a lane (R243). -/
def groupPtr (w : Wave) (i g h : Nat) : W64 :=
  let l := w.lane i
  (l.reg (4 * g + 2 * h + 1)) ++ (l.reg (4 * g + 2 * h))

/-- Lanes whose capsules a core's table holds (R38: 64 entries). -/
def tableUse (s : State) (id : CoreId) : Nat :=
  s.allTeams.foldl (fun n t =>
    if t.resident && t.die == id.die && t.core == id.core then
      t.waves.foldl (fun n w => n + (w.lanes.filter (·.holding)).length) n
    else n) 0

/-- K0 to K7 of a lane as the 32 bytes of a checkpoint. -/
def kBytes (l : Lane) : List PByte :=
  (List.range 8).flatMap fun i => (leBytes 4 (l.reg (96 + i)).toNat).map fun b => (b, l.poison.contains (96 + i))

/-- A K register written from four bytes, with their poison. -/
def Lane.setK (l : Lane) (i : Nat) (bs : List PByte) : Lane :=
  let l := l.setReg (96 + i) (BitVec.ofNat 32 (leNat (bytesOf bs)))
  if anyPoison bs then { l with poison := insertNat (96 + i) l.poison } else l

/-- A record that an adopter may take (R248). -/
def adoptable (s : State) (p : W64) : Bool :=
  let st := lockState (homeWord s p 0)
  let age := (s.now : Int) - homeWord s p 7
  st == 2 || ((st == 1 || st == 3) && (s.t.xcapdly.toNat % 2 ^ 32 : Nat) < age)

/-- One lane's bit in `n` masks from `m`: 1 in mask `m + k`, 0 in the others (R248). -/
def setBits (w : Wave) (m n k i : Nat) : Wave :=
  (List.range n).foldl (fun w j =>
    let r : MReg := ⟨(m + j) % 16, Nat.mod_lt _ (by decide)⟩
    let old := w.m.getD r.val 0
    let bit : W32 := BitVec.ofNat 32 (2 ^ i)
    w.setMask r (if j = k then old ||| bit else old &&& ~~~bit)) w

/-- The checks of one lane (R152, R248, R250): the record and, with `mail`, the return mailbox: its header and the limits of its
object (R195). Of the mailbox the right R alone is asked for: CAPB reads its header (DESIGN CHOICE, log 122). -/
def capAcc (mail : Bool) (g : Nat) (s : State) (i : Nat) : State × Acc :=
  let rec_ := groupPtr s.w i g 0
  let box := groupPtr s.w i g 1
  let want : Want := { rights := [0], kinds := [1], align := 64 }
  let shown (a : Acc) (p : W64) : Acc := { a with lane := i, addr := rec_, shown := p }
  match globalAcc s i rec_ 64 (wantObject true) with
  | (s, a) =>
    if !mail || a.bad.isSome then (s, a)
    else
      match globalAcc s i box 64 want with
      | (s, b) =>
        if b.bad.isSome then (s, shown b box)
        else
          let s := flushLine s box
          match readBox s box with
          | none => (s, { shown b box with bad := some (.region 33 8) })
          | some x => match limitsAcc s box (64 + 16 * x.cap) want with
            | (s, l) => (s, if l.bad.isSome then shown l box else a)

/-- Lanes with a region-precise cause park before any acquisition, and the others issue the instruction again without them (R248;
DEDUCED, log 32); with watches alone the other lanes complete it (R153). -/
def capGuard (s : State) (xs : List Acc) (perform : W32 → State → State) (adv : State → State) (enter : Option Body := none) : State :=
  if watchOnly xs then
    let s := (xs.filter (·.bad.isNone)).foldl (fun s a => flushLine (waitMoving s s.t.space (pAddr a.addr) s.t.die) a.addr) s
    accessFinish s xs .none perform adv true enter
  else accessFinish s xs .none (fun _ s => s) (·.count true true)

def anyHolding (w : Wave) : Bool := (lanesOf w.acting).any fun i => (w.lane i).holding

def capScope (pkg : Bool) : Scope := if pkg then .pkg else .die

/-! CAPB (R248). -/

/-- One lane at its record's home: acquired, adoptable or busy. -/
def acquireOne (pkg : Bool) (m g : Nat) (s : State) (i : Nat) : State :=
  let p := groupPtr s.w i g 0
  let v := homeWord s p 0
  if lockState v = 0 ∧ tableUse s s.coreId < 64 then
    let box := groupPtr s.w i g 1
    let id := capId s.t s.w.num i
    let s := setHomeWord s p 0 (mkLock id 0 1 (lockAdopt v))
    let s := setHomeWord s p 1 (s.w.cur.pc + 4).toNat
    let s := dieWrite s s.t.space (p + 16) (kBytes (s.w.lane i)) true (.lane s.t.die s.t.core) s.t.die
    let s := setHomeWord (setHomeWord s p 6 box.toNat) p 7 s.now
    let w := s.w.onLanes (BitVec.ofNat 32 (2 ^ i)) fun l =>
      { l with holding := true, capPtr := p, capStep := 0, capPkg := pkg, adopted := false, displaced := false, held := [], mail := box }
    let pa := boxKey s p
    { s with w := setBits w m 3 0 i, capsules := (pa, id, 0) :: s.capsules.filter (·.1 != pa) }
  else { s with w := setBits s.w m 3 (if adoptable s p then 1 else 2) i }

/-- CAPB (R248): the entry enters the body, whatever its lanes acquired; it is an acquire, acquired or not (R273). -/
def execCapb (pkg : Bool) (m g : Fin 64) (s : State) : Out :=
  if anyHolding s.w then .next (illopExec s 3)
  else
    let s := settleAtoms s
    let r := eachLane s (lanesOf s.w.acting) (capAcc true g.val)
    let body : Body := { pkg, resume := r.1.w.cur.pc + 4 }
    .next (capGuard r.1 r.2
      (fun ok s =>
        let s := ((lanesOf ok).foldl (acquireOne pkg m.val g.val) s).acquire (capScope pkg)
        if anyHolding s.w then s.escape else s)
      (fun s => s.advanceNR.onCur fun e => { e with body := some body }) (some body))

/-! Commits (R249). -/

/-- Held stores performed in program order, each at its home; the core's own copies of the lines go. -/
def performHeld (s : State) (xs : List HeldStore) : State :=
  xs.foldl (fun s h =>
    let s := flushSpan s s.coreId s.t.space h.ptr h.data.length
    dieWrite s s.t.space h.ptr (h.data.map fun b => (b, h.poison)) false (.lane s.t.die s.t.core) s.t.die) s
where
  /-- Drop the lines of a range from the core's caches. -/
  flushSpan (s : State) (id : CoreId) (space : Nat) (p : W64) (n : Nat) : State :=
    let s := dropLine s id space (lineKey p)
    if 1 < n then dropLine s id space (lineKey (p + BitVec.ofNat 64 (n - 1))) else s

def State.modLane (s : State) (i : Nat) (f : Lane → Lane) : State := { s with w := s.w.onLanes (BitVec.ofNat 32 (2 ^ i)) f }

/-- The adopter's message, into its reserved slot (R251). -/
def sendResult (s : State) (i : Nat) (adopt : Nat) : State :=
  let l := s.w.lane i
  let box := BitVec.ofNat 64 (homeWord s l.capPtr 6)
  match readBox s box with
  | none => s
  | some b =>
    let s := (s.release b.scope).escape
    let status := adopt % 2 ^ 20 * 2 ^ 44 + (l.capStep + 256 - l.capBase) % 256 * 2 ^ 32 + l.capFrom % 2 ^ 32
    let s := { s with capsules := s.capsules.filter (·.1 != boxKey s l.capPtr) }
    putMessage s box b ((kBytes l).take 8 ++ clean (leBytes 8 status)) s.coreId

/-- One holding lane's commit at its record's home, or its refusal (R249, R363); `cape` frees the record. The check is an acquire
(R274). -/
def commitOne (cape : Bool) (s : State) (i : Nat) : State :=
  let l := s.w.lane i
  let p := l.capPtr
  let s := (flushLine s p).acquire (capScope l.capPkg)
  let v := homeWord s p 0
  let id := capId s.t s.w.num i
  if lockOwner v ≠ id ∨ lockStep v ≠ l.capStep % 256 then
    s.modLane i fun l => { l with held := [], reserved := none, displaced := true }
  else
    let s := (s.release (capScope l.capPkg)).escape
    let s := performHeld s l.held
    let s := dieWrite s s.t.space (p + 16) (kBytes l) true (.lane s.t.die s.t.core) s.t.die
    let s := setHomeWord s p 7 s.now
    let s := s.modLane i fun l => { l with held := [], capStep := l.capStep + 1 }
    let s := s.perf 8 1
    if cape then
      let s := if l.adopted then (sendResult s i (lockAdopt v)).modLane i fun l => { l with reserved := none } else s
      let s := setHomeWord s p 0 (mkLock 0 0 0 (lockAdopt v))
      if l.adopted then s else s.modLane i Lane.release
    else
      let s := setHomeWord s p 0 (mkLock id (lockStep v + 1) (if l.adopted then 3 else 1) (lockAdopt v))
      setHomeWord s p 1 (s.w.cur.pc + 4).toNat

/-- The holding, non-displaced lanes of the running entry. -/
def committers (w : Wave) : List Nat := lanesOf (w.cur.mask &&& w.holders)

/-- CSTEP (R249): a step of the entry, whatever EXEC holds. -/
def execCstep (s : State) : Out :=
  let s := settleAtoms s
  let s := (committers s.w).foldl (commitOne false) s
  .next (s.advanceNR.onCur fun e => { e with body := e.body.map fun b =>
    { b with steps := b.steps + 1, stgs := 0, resume := e.pc, base := b.count } })

/-! CAPE (R249). -/

/-- What reserving the adopters' slots comes to. -/
inductive Reserved where
  | all (s : State) | full (s : State) | bad (s : State) (p : W64)

/-- Every adopted, non-displaced lane reserves a slot in its record's mailbox. -/
def reserveAll (s : State) : List Nat → Reserved
  | [] => .all s
  | i :: rest =>
    let l := s.w.lane i
    if l.adopted ∧ l.reserved.isNone then
      let box := BitVec.ofNat 64 (homeWord (flushLine s l.capPtr) l.capPtr 6)
      let s := flushLine s box
      match readBox s box with
      | none => .bad s box
      | some b =>
        if b.held + reservedSlots s (boxKey s box) < b.cap then
          let key := boxKey s box
          reserveAll (s.modLane i fun l => { l with reserved := some key }) rest
        else .full s
    else reserveAll s rest

/-- Lanes that leave for XCAPRET: the adopted ones, displaced or not, and those whose capsules CAPE has let go already. -/
def leavers (w : Wave) : W32 :=
  w.cur.mask &&& ((maskOf fun i => match w.lanes[i]? with | some l => l.adopted | none => false) |||
    ((w.cur.blocked.map (·.mask)).getD 0))

/-- Displaced lanes of the entry that are owed a message. -/
def owed (w : Wave) : List Nat := (lanesOf w.cur.mask).filter fun i => let l := w.lane i; l.displaced && !l.adopted

/-- One displaced lane takes the oldest message of its mailbox, if there is one and no receiver has waited longer (R197, R249,
R251). -/
def receiveOne (s : State) (i : Nat) : State :=
  let l := s.w.lane i
  let s := flushLine s l.mail
  let key := (1, boxKey s l.mail)
  match readBox s l.mail with
  | none => s
  | some b =>
    if b.held = 0 ∨ waitsBefore s key (placeOf s key) then s
    else
      let s := flushLine s (slotPtr l.mail b b.received)
      match takeMessage s l.mail b with
      | (s, d) =>
        (s.acquire b.scope).modLane i fun l =>
          (((l.setK 0 (d.take 4)).setK 1 ((d.drop 4).take 4)).setK 2 ((d.drop 8).take 4)).release

/-- The entry waits in CAPE, its commits made, in the mailboxes of its displaced lanes. -/
def capWaits (s : State) : State :=
  let mails := (owed s.w).map fun i => boxKey s (s.w.lane i).mail
  let order := match s.w.cur.blocked with | some b => if b.mails.isEmpty then s.order else b.order | none => s.order
  { (s.block { pc := s.w.cur.pc, done := true, order, mails }) with order := s.order + 1 }

/-- The entry passes CAPE. -/
def passCape (s : State) : State := s.advanceNR.onCur fun e => { e with body := none }

/-- The entry stays at CAPE with its commits made, and with the lanes that are still to leave. -/
def State.atCape (s : State) (out : W32) : State :=
  s.onCur fun e => { e with blocked := some { (e.blocked.getD { pc := e.pc }) with done := true, mask := out } }

/-- What follows the commits: adopted lanes let their capsules go and leave, displaced ones wait for their messages. A trap of the
transfer finds the capsules let go; NEXT goes on after CAPE, out of the body. -/
def finishCape (s : State) : State :=
  let out := leavers s.w
  let s := { s with w := s.w.onLanes out Lane.release }
  let w := s.w
  let e := w.cur
  let rest := e.mask &&& ~~~out
  let target := w.xcapret
  let at_ (x : Entry) : Entry := { x with pc := target, region := target, fresh := false, clause := none, body := none, blocked := none }
  let trap (cause detail : Nat) : State :=
    takeTrap (s.atCape out) { cause, detail, lanes := out, addr := target, pc := w.issuePc, next := e.pc + 4, enter := some none }
  if out ≠ 0 then
    if target.getLsbD 0 then trap ILLOP 5
    else if (s.t.slotOf target).isNone ∧ ¬ s.t.lacks target then
      -- the device is refilling the slot: the entry waits, its commits made (R41)
      (s.atCape out).heldBack
    else if s.t.lacks target then
      trap 17 (b2n (s.t.slots.any fun x => x.poisoned && x.tag.toNat / 4096 == target.toNat / 4096))
    else if !s.t.isHeader target then trap ILLOP 5
    else if rest ≠ 0 ∧ 7 ≤ w.used then pathFull (s.atCape out)
    else if rest = 0 then (passCape s).onCur at_
    else
      let s := if (owed w).isEmpty then passCape s else capWaits s
      { s with w := s.w.split out at_ s.order, order := s.order + 1 }
  else
    let s := (owed w).foldl receiveOne s
    if (owed s.w).isEmpty then passCape s else capWaits s

/-- CAPE (R249): slots reserved, the last step committed, then the lanes part. -/
def execCape (s : State) : Out :=
  let s := settleAtoms s
  if (match s.w.cur.blocked with | some b => b.done | none => false) then .next (finishCape s)
  else
    match reserveAll s (committers s.w) with
    | .bad s p => .next (boundTrap s 8 p)
    | .full s => .next (s.block { pc := s.w.cur.pc })
    | .all s => .next (finishCape ((committers s.w).foldl (commitOne true) s))

/-! CAPADOPT (R250). -/

/-- What R251 reports of the lane that acquired a record by CAPB: its OWNER, and the STEP at the first adoption. -/
def capOrigin (s : State) (pa v : Nat) : Nat × Nat :=
  match s.capsules.find? (·.1 == pa) with
  | some (_, owner, base) => if lockOwner v = owner then (owner, lockStep v) else (owner, base)
  | none => (lockOwner v, lockStep v)

/-- One lane adopts its record. -/
def adoptOne (pkg : Bool) (m g : Nat) (s : State) (i : Nat) : State :=
  let p := groupPtr s.w i g 0
  let v := homeWord s p 0
  let pa := boxKey s p
  let o := capOrigin s pa v
  let s := { s with capsules := (pa, o) :: s.capsules.filter (·.1 != pa) }
  let s := setHomeWord s p 0 (mkLock (capId s.t s.w.num i) (lockStep v) 3 (lockAdopt v + 1))
  let s := setHomeWord s p 7 s.now
  let ck := dieRead s s.t.space (p + 16) 32 s.t.die
  let s := s.modLane i fun l =>
    let l := (List.range 8).foldl (fun l k => l.setK k ((ck.drop (4 * k)).take 4)) l
    { l with holding := true, adopted := true, displaced := false, held := [], capPtr := p, capPkg := pkg
             capStep := lockStep v, capBase := o.2, capFrom := o.1 }
  { s.perf 9 1 with w := setBits s.w m 2 0 i }

/-- The lanes that adopt: adoptable records that resume at `r`, in ascending order while the table has room; of lanes that name one
record, through whatever object, the first. -/
def adopters (s : State) (g : Nat) (r : Nat) (room : Nat) : List Nat → List Nat → List Nat
  | [], _ => []
  | i :: rest, seen =>
    let p := groupPtr s.w i g 0
    if 0 < room ∧ adoptable s p ∧ homeWord s p 1 = r ∧ ¬ seen.contains (boxKey s p) then
      i :: adopters s g r (room - 1) rest (boxKey s p :: seen)
    else adopters s g r room rest seen

/-- Lanes that adopt nothing: their bit in the second mask. -/
def adoptNone (m : Nat) (s : State) (ls : List Nat) : State := { s with w := ls.foldl (fun w i => setBits w m 2 1 i) s.w }

/-- The adopted lanes split off as BRD splits (R104) and run at the resume address, in body state. -/
def adoptSplit (r : W64) (step : Nat) (pkg : Bool) (out : W32) (s : State) : State :=
  let at_ (x : Entry) : Entry :=
    { x with pc := r, region := r, fresh := false, clause := none, body := some { steps := step, pkg, resume := r } }
  if out = 0 then s
  else if s.w.cur.mask &&& ~~~out = 0 then s.onCur at_
  else { s with w := s.w.split out at_ s.order, order := s.order + 1 }

/-- CAPADOPT (R250): an acquire, whether any lane adopts or not (R273). -/
def execCapadopt (pkg : Bool) (m g : Fin 64) (s : State) : Out :=
  if anyHolding s.w then .next (illopExec s 3)
  else
    let s := settleAtoms s
    let r := eachLane s (lanesOf s.w.acting) (capAcc false g.val)
    let s := (r.2.filter (·.bad.isNone)).foldl (fun s a => flushLine s a.addr) r.1
    let good := (r.2.filter (·.bad.isNone)).map (·.lane)
    match (if watchOnly r.2 then good.find? fun i => adoptable s (groupPtr s.w i g.val 0) else none) with
    | none => .next (capGuard s r.2 (fun ok s => (adoptNone m.val s (lanesOf ok)).acquire (capScope pkg)) State.advanceNR)
    | some low =>
      let p := groupPtr s.w low g.val 0
      let at_ := BitVec.ofNat 64 (homeWord s p 1)
      let e := s.w.cur
      let lanes := s.w.acting
      if s.t.lacks at_ then
        .next (takeTrap s { cause := 17, detail := b2n (s.t.slots.any fun x => x.poisoned && x.tag.toNat / 4096 == at_.toNat / 4096)
                            lanes, addr := at_, pc := s.w.issuePc, next := e.pc + 4 })
      else if (s.t.slotOf at_).isNone then .next s.heldBack
      else if at_.getLsbD 0 || !s.t.isHeader at_ then
        .next (takeTrap s { cause := ILLOP, detail := 5, lanes, addr := at_, pc := s.w.issuePc, next := e.pc + 4 })
      else
        let got := adopters s g.val at_.toNat (64 - tableUse s s.coreId) good []
        let out := maskOf got.contains
        let step := lockStep (homeWord s p 0)
        if got ≠ [] ∧ e.mask &&& ~~~out ≠ 0 ∧ 7 ≤ s.w.used then .next (pathFull s)
        else
          let adopt (ok : W32) (s : State) : State :=
            let s := (got.foldl (adoptOne pkg m.val g.val) s).acquire (capScope pkg)
            let s := if got.isEmpty then s else s.escape
            adoptNone m.val s ((lanesOf ok).filter fun i => !out.getLsbD i)
          -- with watched lanes left, the split comes before their trap
          let whole := r.2.all (·.bad.isNone)
          .next (capGuard s r.2 (fun ok s => if whole then adopt ok s else adoptSplit at_ step pkg out (adopt ok s))
            (fun s => adoptSplit at_ step pkg out s.advanceNR))

/-- CAPQ (R252): the lock word, an acquire at DIE. -/
def execCapq (c a : SReg) (s : State) : Out :=
  let p := s.w.sreg a
  let s := settleAtoms s
  .next (scalarAccess s p 64 (wantObject false) fun s =>
    let s := (flushLine s p).acquire .die
    { s with w := s.w.setS c (BitVec.ofNat 64 (homeWord s p 0)) }.advance 4)

end Sys2Proof.Machine
end

