-- ==== Sys2Proof/Machine/Matrix.lean ====
section
/-! DEFINITION. The matrix array: operands in canonical layout (R204 to R206), the steps of MMA (R59 to R61, R208), the
seam and its check (R210, R215), retries (R222, R223), and one meaning per matrix and seam instruction (R199 to R228). -/

namespace Sys2Proof.Machine

/-! Exact sums. -/

/-- The exact sum of values: NaN where a term is NaN or infinities of both signs meet. -/
def exactSum (xs : List FVal) : FVal :=
  if xs.any FVal.isNan then .nan false
  else
    let pos := xs.any fun x => match x with | .inf s => !s | _ => false
    let neg := xs.any fun x => match x with | .inf s => s | _ => false
    if pos && neg then .nan false
    else if pos then .inf false
    else if neg then .inf true
    else
      let c := xs.foldl (fun c x => match x with | .num _ m e => if m = 0 then c else min c e | _ => c) (4096 : Int)
      let v := xs.foldl (fun (v : Int) x => match x with | .num s m e => if m = 0 then v else v + scaled s m e c | _ => v) 0
      .num (v < 0) v.natAbs c

def isInf : FVal → Bool | .inf _ => true | _ => false

/-- floor(log2 |t|) of a non-zero finite value. -/
def topBit : FVal → Int | .num _ m e => e + bitLen m - 1 | _ => 0

/-- A term cut to multiples of 2^k towards zero (R59): the value, and whether bits were lost. -/
def cutTo (k : Int) : FVal → FVal × Bool
  | .num s m e =>
    if k ≤ e ∨ m = 0 then (.num s m e, false)
    else
      let n := min (k - e).toNat (bitLen m + 1)
      (.num s (m / 2 ^ n) k, m % 2 ^ n != 0)
  | x => (x, false)

/-- The rounding of a step (R59, R60) of terms T, the accumulator first: the pattern and MFLAGS {INV, OF, UF, NX}. -/
def sumStep (keep : Int) (ts : List FVal) : Nat × Nat :=
  match exactSum ts with
  | .nan _ => (0x7FC00000, 1)
  | .inf s => (((FVal.inf s).toIeee fmtF32 .rne).1, 0)
  | _ =>
    let live := ts.filter fun t => !t.isZero
    match live with
    | [] => (0, 0)
    | t :: rest =>
      let e := rest.foldl (fun e t => max e (topBit t)) (topBit t)
      let cut := live.map (cutTo (e - keep))
      let lost := cut.any Prod.snd
      match exactSum (cut.map Prod.fst) with
      | .num s m x =>
        if m = 0 then (0, if lost then 8 else 0)
        else
          let r := roundIeee fmtF32 .rne s ⟨m, x, false⟩
          let nx := lost || r.2.nx
          let mag := r.1 % 2 ^ 31
          let tiny := mag != 0 && mag < 2 ^ 23
          (r.1, (if mag = fmtF32.infBits then 2 else 0) + (if tiny && nx then 4 else 0) + if nx then 8 else 0)
      | _ => (0x7FC00000, 1)

/-- P[q] of a CE16 step (R59): a block sum under its two scale entries. -/
def blockTerm (b sa sb : FVal) : FVal :=
  if b.isNan || sa.isNan || sb.isNan then .nan false
  else if b.isZero && (isInf sa || isInf sb) then .nan false
  else if (sa.isZero && isInf sb) || (isInf sa && sb.isZero) then .nan false
  else
    match (mulExact b sa).bind (mulExact · sb) with
    | some p => p
    | none => .nan false

def products (a b : List FVal) : List FVal :=
  (a.zip b).map fun x => match mulExact x.1 x.2 with | some p => p | none => .nan false

/-- One vector's operands of one step: elements and, for CE16, four scale entries. -/
structure Strip where
  elems : List FVal
  scales : List FVal
  deriving DecidableEq, Repr

/-- The contributions P of an element's step (R59, R60): four block terms, or the products. -/
def stepTerms (y : Layout) (a b : Strip) : List FVal :=
  match y with
  | .ce16 => (List.range 4).map fun q =>
      blockTerm (exactSum (products ((a.elems.drop (16 * q)).take 16) ((b.elems.drop (16 * q)).take 16)))
        (a.scales.getD q (.num false 1 0)) (b.scales.getD q (.num false 1 0))
  | _ => products a.elems b.elems

/-- One CF64 step (R60): fused additions, k ascending. -/
def cf64Step (c : Nat) (ps : List (FVal × FVal)) : Nat × Nat :=
  let infIn := isInf (fmtF64.dec c) || ps.any fun p => isInf p.1 || isInf p.2
  let r := ps.foldl (fun (acc : Nat × Bool) p =>
    let x := fFma fmtF64 .rne (fmtF64.dec acc.1) p.1 p.2
    (x.1, acc.2 || x.2.nx)) (c, false)
  let mag := r.1 % 2 ^ 63
  (r.1, (if (fmtF64.dec r.1).isNan then 1 else 0) + (if mag = fmtF64.infBits ∧ ¬ infIn then 2 else 0) +
    (if mag ≠ 0 ∧ mag < 2 ^ 52 ∧ r.2 then 4 else 0) + if r.2 then 8 else 0)

/-! Tiles. -/

def TileKind.fmt : TileKind → Fmt | .fp32 => fmtF32 | .fp64 => fmtF64
def TileKind.cols : TileKind → Nat | .fp32 => 64 | .fp64 => 32

/-- Element (i, j) as a pattern (R207). -/
def Tile.elem (t : Tile) (i j : Nat) : Nat :=
  let row := t.rows.getD i []
  match t.kind with
  | .fp32 => (row.getD j 0).toNat
  | .fp64 => (row.getD (2 * j) 0).toNat + (row.getD (2 * j + 1) 0).toNat * 2 ^ 32

/-- A row of patterns as the words of a tile row. -/
def rowWords (k : TileKind) (es : List Nat) : List W32 :=
  match k with
  | .fp32 => es.map (BitVec.ofNat 32)
  | .fp64 => es.flatMap fun e => [BitVec.ofNat 32 e, BitVec.ofNat 32 (e / 2 ^ 32)]

def Tile.rowElems (t : Tile) (i : Nat) : List Nat := (List.range t.kind.cols).map (t.elem i)
def Tile.value (t : Tile) (i j : Nat) : FVal := t.kind.fmt.dec (t.elem i j)

/-- Round an exact value once to the tile's type. -/
def toTile (k : TileKind) (v : FVal) : Nat := (v.toIeee k.fmt .rne).1

/-- The seam recomputed from the contents (R210). -/
def Tile.reseam (t : Tile) : Tile :=
  { t with
    seamCol := (List.range 64).map fun i => BitVec.ofNat 64 (toTile t.kind (exactSum ((List.range t.kind.cols).map (t.value i))))
    seamRow := (List.range t.kind.cols).map fun j => BitVec.ofNat 64 (toTile t.kind (exactSum ((List.range 64).map (t.value · j)))) }

/-- A value widened exactly to F64. -/
def widen (v : FVal) : Nat := (v.toIeee fmtF64 .rne).1

def addF64 (a b : Nat) : Nat := (fAdd fmtF64 .rne (fmtF64.dec a) (fmtF64.dec b)).1
def absF64 (a : Nat) : Nat := a % 2 ^ 63

/-- A tolerance field: its sign ignored, a NaN as 0 (R215). -/
def tolField (w : Nat) : Nat :=
  let v := fmtF32.dec (w % 2 ^ 31)
  if v.isNan then 0 else widen v

/-- Whether one row or column fails (R215): its prediction, and its elements in ascending order. -/
def lineFails (tol : W64) (pred : FVal) (xs : List FVal) : Bool × Nat :=
  let ws := xs.map widen
  let rs := ws.foldl addF64 0
  let as := ws.foldl (fun a x => addF64 a (absF64 x)) 0
  let p := widen pred
  let finite (b : Nat) : Bool := absF64 b < fmtF64.infBits
  if !finite p && !finite rs then (false, rs)
  else if !finite p || !finite rs then (true, rs)
  else
    let d := absF64 (addF64 p (if rs < 2 ^ 63 then rs + 2 ^ 63 else rs - 2 ^ 63))
    let rel := (fMul fmtF64 .rne (fmtF64.dec (tolField (tol.toNat / 2 ^ 32))) (fmtF64.dec as)).1
    let bound := addF64 (tolField (tol.toNat % 2 ^ 32)) rel
    ((fmtF64.dec d).cmp (fmtF64.dec bound) == .gt, rs)

/-- Row `i` against its seam entry (R215): whether it fails, and its sum. -/
def Tile.rowCheck (t : Tile) (tol : W64) (i : Nat) : Bool × Nat :=
  lineFails tol (t.kind.fmt.dec ((t.seamCol.getD i 0).toNat)) ((List.range t.kind.cols).map (t.value i))

def Tile.colCheck (t : Tile) (tol : W64) (j : Nat) : Bool × Nat :=
  lineFails tol (t.kind.fmt.dec ((t.seamRow.getD j 0).toNat)) ((List.range 64).map (t.value · j))

/-- The rows and the columns that fail. -/
def Tile.failing (t : Tile) (tol : W64) : List Nat × List Nat :=
  ((List.range 64).filter fun i => (t.rowCheck tol i).1, (List.range t.kind.cols).filter fun j => (t.colCheck tol j).1)

/-- A check of a tile (R215): its outcome and, for SINGLE, where and DIFF (R220). -/
def Tile.check (t : Tile) (tol : W64) : Tile :=
  match t.failing tol with
  | ([], []) => { t with outcome := 1, atRow := 0, atCol := 0, diff := 0 }
  | ([i], [j]) =>
    let d := exactSum [t.kind.fmt.dec ((t.seamCol.getD i 0).toNat), (fmtF64.dec (t.rowCheck tol i).2).negate]
    { t with outcome := 2, atRow := i, atCol := j, diff := BitVec.ofNat 32 (d.toIeee fmtF32 .rne).1 }
  | _ => { t with outcome := 3, atRow := 0, atCol := 0, diff := 0 }

/-! Tiles of the team in hand. -/

def State.tile (s : State) (n : Nat) : Tile := s.t.tiles.getD n {}
def State.setTile (s : State) (n : Nat) (x : Tile) : State := { s with t := { s.t with tiles := s.t.tiles.set n x } }

/-- XSEAMST after a check of tile `n` (R224). -/
def seamWord (old : W64) (n : Nat) (x : Tile) (result : Nat) : W64 :=
  let v := old.toNat
  let fails := if x.outcome = 1 then v / 2 ^ 32 else min (v / 2 ^ 32 + 1) 4294967295
  let at_ := if x.outcome = 2 then x.atCol * 2 ^ 11 + x.atRow * 2 ^ 5 else v % 2 ^ 17 / 2 ^ 5 * 2 ^ 5
  BitVec.ofNat 64 (fails * 2 ^ 32 + at_ + n * 2 ^ 3 + result)

/-- ACLK cycles of array work counted towards DUTY (R421); the first of a window of 100 us says which window it is. -/
def Core.spend (k : Core) (clock n : Nat) : Core :=
  { k with dutyUsed := k.dutyUsed + n, window := if k.dutyUsed = 0 then clock / 300000 * 300000 else k.window }

/-- One check as the device makes it (R215, R216): XSEAMST, PERFQ 6, and the self-test that a failure starts (R214): after SINGLE of
one element of the array, after MULTI of its rows and columns that the failing ones lie in (R387). -/
def noteCheck (s : State) (n : Nat) (x : Tile) (result : Nat) : State :=
  let s := { s with t := { s.t with xseamst := seamWord s.t.xseamst n x result } }
  let s := s.perf 6 1
  let s := { s with c := s.c.spend s.clock 32 }
  if x.outcome = 1 then s
  else
    let e : ErrorAt := { block := .array, core := s.coreId, slot := s.t.slot, wave := s.w.num, lane := 0
                         pos := (x.atRow % 32) * 32 + x.atCol % 32 }
    let lines (xs : List Nat) : List Nat := if x.outcome = 3 then (List.range 32).filter fun r => xs.any (· % 32 == r) else []
    let bad := x.failing (s.t.xmtol.getD x.sel 0)
    let t : Test := match s.c.test with
      | some t => { t with joined := t.joined ++ [(x.outcome, s.now)] }
      | none => { at_ := e, kind := x.outcome, time := s.now, rows := lines bad.1, cols := lines bad.2 }
    { s with c := { s.c with test := some t } }

/-- XTALLOW.DUTY as it stands: what the power controller set, else the device's own (R263, R421; DESIGN CHOICE, log 13). -/
def Core.dutyNow (k : Core) : Nat := max 10 (min 100 (k.duty.getD (Config.dutyAtStart k.die k.num).toNat))

/-- ACLK cycles of a 100 us window at the core's ratio (R414). -/
def Core.windowAclk (k : Core) : Nat := match k.ratio with | 0 => 75000 | 1 => 150000 | _ => 300000

/-- The ACLK cycles of a window that DUTY allows (R421). -/
def Core.dutyLimit (k : Core) : Nat := k.dutyNow * k.windowAclk / 100

/-- The duty window has room for the checks of `n` tiles, 32 ACLK each (R215, R421); else the instruction waits at issue. -/
def checksFit (s : State) (n : Nat) : Bool := s.c.dutyUsed + 32 * n ≤ s.c.dutyLimit

/-- Check a tile of the team. -/
def checkTile (s : State) (n : Nat) : State :=
  let x := (s.tile n).check (s.t.xmtol.getD (s.tile n).sel 0)
  noteCheck (s.setTile n x) n x x.outcome

/-- Check tiles in ascending order up to the first that fails. -/
def checkTiles (s : State) : List Nat → State × Option (Nat × Nat)
  | [] => (s, none)
  | n :: rest =>
    let s := checkTile s n
    if (s.tile n).outcome = 1 then checkTiles s rest else (s, some (n, (s.tile n).outcome))

/-- The tiles of a list in ascending number (R395), the first of equals first. -/
def byTile (xs : List (Nat × Bool)) : List (Nat × Bool) :=
  (List.range 4).flatMap fun n => xs.filter (·.1 == n)

/-- Check tiles of the team and, those marked, of a gang peer, up to the first that fails: its number, its outcome and whether it is
the peer's. A peer's tile is held to the issuing team's tolerances, and its own record stays as it is (DESIGN CHOICE, log 113). -/
def checkMixed (p : Team) (s : State) : List (Nat × Bool) → State × Option (Nat × Nat × Bool)
  | [] => (s, none)
  | (n, true) :: rest =>
    let x := (p.tiles.getD n {}).check (s.t.xmtol.getD (p.tiles.getD n {}).sel 0)
    let s := noteCheck s n x x.outcome
    if x.outcome = 1 then checkMixed p s rest else (s, some (n, x.outcome, true))
  | (n, false) :: rest =>
    let s := checkTile s n
    if (s.tile n).outcome = 1 then checkMixed p s rest else (s, some (n, (s.tile n).outcome, false))

/-! Regions (R201, R202). -/

def ctlShape (c : W64) : Nat := c.toNat % 4
def ctlZt (c : W64) : Nat := bitsOf c.toNat 3 2
def ctlSteps (c : W64) : Nat := bitsOf c.toNat 7 4 + 1

def zonesOk (shape zt : Nat) : Bool :=
  match shape with
  | 0 => true
  | 1 => zt == 0 || zt == 2
  | 2 => zt == 0 || zt == 1
  | _ => zt == 0

/-- Malformed control words (R200, R201). -/
def ctlMalformed (c : W64) (steps : Bool) : Bool :=
  c.toNat / 256 != 0 || (!steps && bitsOf c.toNat 7 4 != 0) || !zonesOk (ctlShape c) (ctlZt c)

/-- The tiles of a region with their place: tile, tile row, tile column. -/
def regionTiles (shape zt : Nat) : List (Nat × Nat × Nat) :=
  match shape with
  | 0 => [(zt, 0, 0)]
  | 1 => [(zt, 0, 0), (zt + 1, 0, 1)]
  | 2 => [(zt, 0, 0), (zt + 2, 1, 0)]
  | _ => [(0, 0, 0), (1, 0, 1), (2, 1, 0), (3, 1, 1)]

/-- Whether an acting lane owns a row of the region (R202). -/
def ownsRow (shape : Nat) (lanes : W32) (r : Nat) : Bool :=
  if shape = 2 ∨ shape = 3 then lanes.getLsbD (r / 4) else lanes.getLsbD (r / 2)

/-- Rows of a tile that the acting lanes own. -/
def ownedRows (shape : Nat) (lanes : W32) (tr : Nat) : List Nat := (List.range 64).filter fun i => ownsRow shape lanes (64 * tr + i)

/-- Every row of the tile is owned. -/
def ownsAll (shape : Nat) (lanes : W32) (tr : Nat) : Bool := (ownedRows shape lanes tr).length == 64

/-- R203: one path, and no tile of a loop that another wave of the team has open. -/
def matrixForbidden (s : State) (tiles : List Nat) : Bool :=
  1 < s.w.used || s.t.waves.any fun w => match w.mloop with
    | some l => tiles.any fun n => l.tiles.testBit n
    | none => false

/-- Matrix instructions of the team in the array on one of the tiles (R203). A tile of the wave's open loop brings the
loop's whole set with it, so that a retry never finds an instruction of the set in flight (R223). -/
def teamBusy (s : State) (tiles : List Nat) : Bool :=
  let set := match s.w.mloop with
    | some l => if tiles.any fun n => l.tiles.testBit n then l.tiles else 0
    | none => 0
  s.c.array.any fun o => o.team == s.t.id &&
    (regionTiles o.shape o.zt).any fun x => tiles.contains x.1 || set.testBit x.1

/-- The same, or a self-test of the array (R214, R396). -/
def arrayBusy (s : State) (tiles : List Nat) : Bool := s.c.test.isSome || teamBusy s tiles

/-- A matrix instruction has issued in the entry's region (R213). -/
def State.matrix (s : State) : State := s.onCur fun e => { e with mat := true }

/-! Retry (R222, R223). -/

def snapBytes : Nat := 17152

/-- A tile as the snapshot area holds it (R222). -/
def Tile.snapshot (t : Tile) : List Byte :=
  let w := match t.kind with | .fp32 => 4 | .fp64 => 8
  let pad (n : Nat) (bs : List Byte) : List Byte := bs ++ List.replicate (n - bs.length) 0
  ((List.range 64).flatMap fun i => pad 256 ((t.rows.getD i []).flatMap fun x => leBytes 4 x.toNat)) ++
    pad 256 ((t.seamRow.take t.kind.cols).flatMap fun x => leBytes w x.toNat) ++
    pad 512 ((t.seamCol.take 64).flatMap fun x => leBytes w x.toNat)

/-- A tile read back from its snapshot; the record of its most recent check stays (R220, R223). -/
def restoreTile (x : Tile) (kind : TileKind) (flags sel : Nat) (bs : List Byte) : Tile :=
  let w := match kind with | .fp32 => 4 | .fp64 => 8
  let word (o n : Nat) : Nat := leNat ((bs.drop o).take n)
  { x with
    kind, flags, sel
    rows := (List.range 64).map fun i => (List.range 64).map fun j => BitVec.ofNat 32 (word (256 * i + 4 * j) 4)
    seamRow := (List.range kind.cols).map fun j => BitVec.ofNat 64 (word (16384 + w * j) w)
    seamCol := (List.range 64).map fun i => BitVec.ofNat 64 (word (16640 + w * i) w) }

def zeroTile (x : Tile) : Tile :=
  { x with rows := List.replicate 64 (List.replicate 64 0), flags := 0
           seamRow := List.replicate x.kind.cols 0, seamCol := List.replicate 64 0 }

/-- The tiles of the open loop's set, ascending. -/
def MLoop.list (l : MLoop) : List Nat := (List.range 4).filter l.tiles.testBit

/-- The tiles of an open loop as R223 restores them. -/
def restoreLoop (s : State) (l : MLoop) : State :=
  l.list.zipIdx.foldl (fun s n =>
    if l.policy = 0 then s.setTile n.1 (zeroTile (s.tile n.1))
    else
      let saved := ((l.saved.find? (·.1 == n.1)).map (·.2)).getD (.fp32, 0, 0)
      s.setTile n.1 (restoreTile (s.tile n.1) saved.1 saved.2.1 saved.2.2 (readBytes s.t.scratch (l.snap + snapBytes * n.2) snapBytes))) s

/-- A restart at the loop's point (R223): with `retry` the count rises. No matrix instruction on the set is in flight. -/
def loopRestart (s : State) (l : MLoop) (retry : Bool) : State :=
  let s := restoreLoop s l
  let s := if retry then s.perf 11 1 else s
  let s := { s with w := { s.w with mloop := some { l with redirect := true, retryDue := false, retries := l.retries + b2n retry } }
                    granted := false, stalled := false }
  s.onCur fun e => { e with pc := l.point, region := l.point, clause := none, blocked := none }

/-- A failed check of MDRAIN, MLOADZ or MZERO (R216): the retry, else SEAM. `own` says the tile is the team's. A retry that restores
snapshots waits for the self-test that the failure has started (R396). -/
def seamFailed (s : State) (own : Bool) (n outcome : Nat) : State :=
  match s.w.mloop with
  | some l =>
    if own ∧ l.tiles.testBit n ∧ l.retries < l.limit then
      if l.policy = 1 ∧ s.c.test.isSome then { s with w := { s.w with mloop := some { l with retryDue := true } } }.heldBack
      else loopRestart s l true
    else trapRegion s 38 (n + outcome * 4) 0
  | none => trapRegion s 38 (n + outcome * 4) 0

/-! Operand checks (R200, R204, R205). -/

/-- A malformed operand: ILLOP with the descriptor detail, XTADDR the S register's number (R200). -/
def malformed (s : State) (r : Nat) : State := illopExec s 1 (BitVec.ofNat 64 r)

/-- The first of some ranges (start, end) that leaves a limit: the first byte outside it (DEDUCED, log 47). -/
def firstOut (limit : Nat) (xs : List (Nat × Nat)) : Option Nat :=
  (xs.find? fun x => limit < x.2).map fun x => max x.1 limit

/-- `r` vectors of `bytes` bytes from a scratch descriptor, with their scale rows. -/
def vecSpans (d : W64) (r bytes : Nat) (scaled : Bool) : List (Nat × Nat) :=
  (List.range r).map (fun v => (sdDoff d + v * sdVp d, sdDoff d + v * sdVp d + bytes)) ++
    (if scaled then (List.range r).map fun v => (sdSoff d + v * (sdVp d / 8), sdSoff d + v * (sdVp d / 8) + bytes / 8) else [])

/-- `c` B columns within a slice. -/
def colSpans (d : W64) (c bytes : Nat) (scaled : Bool) : List (Nat × Nat) :=
  let q := (c + 31) / 32
  (List.range q).map (fun g => (bdDoff d + g * bdPitch d, bdDoff d + g * bdPitch d + bytes)) ++
    (if scaled then (List.range q).map fun g => (bdSoff d + g * (bdPitch d / 8), bdSoff d + g * (bdPitch d / 8) + bytes / 8) else [])

/-- Alignment and reserved fields of a scratch descriptor that is no destination of a multicast. -/
def sdMalformed (d : W64) (scaled peer : Bool) : Bool :=
  sdDest d != 0 || sdPeer d != peer || (!peer && sdRank d != 0) ||
  sdVp d % (if scaled then 128 else 16) != 0 || sdDoff d % 16 != 0 ||
  (if scaled then sdSoff d % 16 != 0 else sdSoff d != 0)

/-- A B-store descriptor's fields (R205). -/
def bdMalformed (d : W64) (dests : List Nat) (scaled : Bool) : Bool :=
  !dests.contains (sdDest d) || bitsOf d.toNat 61 39 != 0 ||
  bdPitch d % (if scaled then 128 else 16) != 0 || bdSoff d % 16 != 0 || bdDoff d % 16 != 0

/-! MMA. -/

/-- A canonical element's value. -/
def canonVal (y : Layout) (b : Nat) : FVal :=
  match y with
  | .ce16 => fmtCE16.decNarrow b
  | .cf32 => fmtF32.dec b
  | .cf64 => fmtF64.dec b

/-- One element from bytes with poison: a poisoned one reads as +0 (R228). -/
def readElem (y : Layout) (bs : List PByte) : FVal × Bool :=
  if anyPoison bs then (.num false 0 0, true) else (canonVal y (leNat (bytesOf bs)), false)

def readScale (bs : List PByte) : FVal × Bool :=
  if anyPoison bs then (.num false 0 0, true) else (fmtF32.dec (leNat (bytesOf bs)), false)

/-- One vector's operands of step `st` through a reader of bytes (data offset, scale offset): the strip, and the elements
and scale entries replaced: whether a scale, and k within the vector. -/
def readStrip (y : Layout) (st data scale : Nat) (rd : Nat → Nat → List PByte) : Strip × List (Bool × Nat) :=
  let k := Layout.k y
  let w := Layout.elemBytes y
  let es := (List.range k).map fun i => readElem y (rd (data + (st * k + i) * w) w)
  let ss := if y = .ce16 then (List.range 4).map fun q => readScale (rd (scale + ((st * 64 + 16 * q) / 16) * 4) 4) else []
  ({ elems := es.map Prod.fst, scales := ss.map Prod.fst },
   (es.zipIdx.filterMap fun e => if e.1.2 then some (false, st * k + e.2) else none) ++
     (ss.zipIdx.filterMap fun e => if e.1.2 then some (true, st * 64 + 16 * e.2) else none))

/-- Bytes of a team's window or B-store share with poison, as the array reads them. -/
def scratchBytes (t : Team) (a n : Nat) : List PByte := (List.range n).map fun i => (readByte t.scratch (a + i), t.scratchPoison.contains ((a + i) / 8))
def bstoreBytes (t : Team) (slice a n : Nat) : List PByte :=
  (List.range n).map fun i =>
    let p := slice * (t.share / 32) + a + i
    (readByte t.bstore p, t.bstorePoison.contains (p / 8))

/-- Append to MERRQ (R228): at most four entries, then OVF. -/
def Team.merr (t : Team) (tile : Nat) (opb scale : Bool) (index k : Nat) : Team :=
  let e := 2 ^ 63 + tile * 2 ^ 50 + b2n opb * 2 ^ 49 + b2n scale * 2 ^ 48 + index % 64 * 2 ^ 32 + k % 65536
  if t.merrq.length < 4 then { t with merrq := t.merrq ++ [BitVec.ofNat 64 e] } else { t with merrqOvf := true }

/-- One element's step: the new pattern, its MFLAGS and its contribution. -/
def stepElem (y : Layout) (c : Nat) (a b : Strip) : Nat × Nat × FVal :=
  let ps := stepTerms y a b
  let r := match y with
    | .ce16 => sumStep 48 (fmtF32.dec c :: ps)
    | .cf32 => sumStep 64 (fmtF32.dec c :: ps)
    | .cf64 => cf64Step c (a.elems.zip b.elems)
  (r.1, r.2, exactSum ps)

/-- One step on one tile of a region (R208, R210): A strips by region row, B strips by region column. -/
def stepTile (y : Layout) (shape : Nat) (lanes : W32) (tr tc : Nat) (a b : List Strip) (t : Tile) : Tile :=
  let cols := t.kind.cols
  let none_ : Strip := ⟨[], []⟩
  let rows := ownedRows shape lanes tr
  let out := rows.map fun i => (i, (List.range cols).map fun j =>
    stepElem y (t.elem i j) (a.getD (64 * tr + i) none_) (b.getD (cols * tc + j) none_))
  let contrib (i j : Nat) : FVal := ((((out.find? (·.1 == i)).map (·.2)).getD []).getD j (0, 0, .num false 0 0)).2.2
  let f := t.kind.fmt
  let bump (old : W64) (xs : List FVal) : W64 := BitVec.ofNat 64 (toTile t.kind (exactSum (f.dec old.toNat :: xs)))
  { t with
    rows := out.foldl (fun rs o => rs.set o.1 (rowWords t.kind (o.2.map (·.1)))) t.rows
    flags := out.foldl (fun fl o => o.2.foldl (fun fl e => fl ||| e.2.1) fl) t.flags
    seamCol := rows.foldl (fun sc i => sc.modify i fun old => bump old ((List.range cols).map (contrib i))) t.seamCol
    seamRow := (List.range cols).map fun j => bump (t.seamRow.getD j 0) (rows.map (contrib · j)) }

/-- XSINJ (R225): once armed, the pattern goes into the target element after the last write. -/
def injectTile (t : Team) (tiles : List Nat) : Team :=
  let v := t.xsinj.toNat
  let n := bitsOf v 51 50
  if bitOf v 63 && tiles.contains n then
    let x := t.tiles.getD n {}
    let col := bitsOf v 43 38
    let t := { t with xsinj := BitVec.ofNat 64 (v % 2 ^ 63) }
    if x.kind = .fp64 ∧ 31 < col then t
    else
      let w := if x.kind = .fp64 then 2 * col else col
      let row := bitsOf v 49 44
      { t with tiles := t.tiles.set n { x with rows := x.rows.modify row fun r => r.modify w fun e => e ^^^ BitVec.ofNat 32 (v % 2 ^ 32) } }
  else t

/-- One step of a matrix instruction in the array (R208, R214), on its team as given. -/
def MatOp.step (o : MatOp) (t : Team) (aTeam : Team) : Team :=
  let y := o.layout
  let rowsN := regionRows o.shape
  let colsN := regionCols o.shape (y == .cf64)
  let as := (List.range rowsN).map fun r =>
    if ownsRow o.shape o.lanes r then
      readStrip y o.done (sdDoff o.a + r * sdVp o.a) (sdSoff o.a + r * (sdVp o.a / 8)) (scratchBytes aTeam)
    else (⟨[], []⟩, [])
  let bs := (List.range colsN).map fun c =>
    readStrip y o.done (bdDoff o.b + c / 32 * bdPitch o.b) (bdSoff o.b + c / 32 * (bdPitch o.b / 8)) (bstoreBytes t (c % 32))
  let a := as.map Prod.fst
  let b := bs.map Prod.fst
  let zones := regionTiles o.shape o.zt
  let perTile := colsN / (if o.shape = 1 ∨ o.shape = 3 then 2 else 1)
  -- a tile none of whose rows an acting lane owns is fed by no element (R202, R228)
  let fed := zones.filter fun z => !(ownedRows o.shape o.lanes z.2.1).isEmpty
  let badRow (tr : Nat) : Bool := as.zipIdx.any fun x => !x.1.2.isEmpty && x.2 / 64 == tr
  let badCol (tc : Nat) : Bool := bs.zipIdx.any fun x => !x.1.2.isEmpty && x.2 / perTile == tc
  let t := zones.foldl (fun t z =>
    let x := stepTile y o.shape o.lanes z.2.1 z.2.2 a b (t.tiles.getD z.1 {})
    let x := if fed.contains z && (badRow z.2.1 || badCol z.2.2) then { x with flags := x.flags ||| 16 } else x
    { t with tiles := t.tiles.set z.1 x }) t
  let note (t : Team) (p : Nat × Nat × Nat → Bool) (opb scale : Bool) (index k : Nat) : Team :=
    match fed.find? p with
    | some z => t.merr z.1 opb scale index k
    | none => t
  let t := as.zipIdx.foldl (fun t x => x.1.2.foldl (fun t e => note t (fun z => z.2.1 == x.2 / 64) false e.1 (x.2 % 64) e.2) t) t
  bs.zipIdx.foldl (fun t x => x.1.2.foldl (fun t e =>
    note t (fun z => z.2.2 == x.2 / perTile) true e.1 (x.2 % perTile) e.2) t) t

/-- The content a layout needs (R208). -/
def Layout.kind : Layout → TileKind | .cf64 => .fp64 | _ => .fp32

/-- MMA and MMAG (R208, R209): the checks, then the instruction enters the array; not while the team's share of the B store is
yet to be filled after a swap (R357). -/
def mmaIssue (s : State) (y : Layout) (peer : Bool) (c b a : SReg) : State :=
  let ctl := s.w.sreg c
  let ad := s.w.sreg a
  let bd := s.w.sreg b
  let scaled := y == .ce16
  let zones := regionTiles (ctlShape ctl) (ctlZt ctl)
  let tiles := zones.map (·.1)
  if ctlMalformed ctl true then malformed s c.val
  else if sdMalformed ad scaled peer then malformed s a.val
  else if bdMalformed bd [1] scaled then malformed s b.val
  else if matrixForbidden s tiles then illopExec s 3
  else
    let aTeam := if peer then s.gangTeam (sdRank ad) else some { s.t with waves := s.w :: s.t.waves }
    match aTeam with
    | none => boundTrap s 4
    | some at_ =>
      let bytes := ctlSteps ctl * Layout.k y * Layout.elemBytes y
      let rowsN := regionRows (ctlShape ctl)
      let colsN := regionCols (ctlShape ctl) (y == .cf64)
      if peer ∧ s.t.gangSize ≤ sdRank ad then boundTrap s 4
      else if ¬ (at_.resident ∧ (at_.started ∨ ¬ peer)) ∧ peer then s.heldBack
      else
        match firstOut at_.window (vecSpans ad rowsN bytes scaled) with
        | some x => boundTrap s (if peer then 4 else 3) (BitVec.ofNat 64 x)
        | none =>
          match firstOut (s.t.share / 32) (colSpans bd colsN bytes scaled) with
          | some x => boundTrap s 0 (BitVec.ofNat 64 x)
          | none =>
            if tiles.any fun n => (s.tile n).kind != Layout.kind y then illopExec s 3
            else
              let rs := vecRanges at_.id ad rowsN bytes scaled ++ colRanges s.t.id bd colsN bytes scaled
              if s.c.test.isSome || s.t.bwait || (copiesFor s).any (fun k => anyMeets rs (k.dstRanges k.team)) || atomsHold s rs then s.heldBack
              else
                let f := s.w.mark true
                let op : MatOp := { team := s.t.id, wave := s.w.num, flag := f, layout := y, zt := ctlZt ctl, shape := ctlShape ctl
                                    steps := ctlSteps ctl, a := ad, b := bd, aTeam := at_.id, lanes := s.w.acting
                                    pc := s.w.issuePc, region := s.w.cur.region, clause := s.w.cur.clause }
                let s := tiles.foldl (fun s n =>
                  let x := s.tile n
                  if x.sel = 3 then s
                  else s.setTile n { x with sel := match y with | .ce16 => 0 | .cf32 => 1 | .cf64 => 2 }) s
                let s := { s with w := s.w.flagUp f, c := { s.c with array := s.c.array ++ [op] } }
                (s.matrix).advance 4

/-- MMA (R208). -/
def execMma (y : Layout) (c b a : SReg) (s : State) : Out := .next (mmaIssue s y false c b a)
/-- MMAG (R209). -/
def execMmag (y : Layout) (c b a : SReg) (s : State) : Out := .next (mmaIssue s y true c b a)

/-! MZERO, MLOADZ, MDRAIN. -/

/-- MZERO (R207). -/
def execMzero (fp64 strict : Bool) (a : SReg) (s : State) : Out :=
  let ctl := s.w.sreg a
  let shape := ctlShape ctl
  let zones := regionTiles shape (ctlZt ctl)
  let tiles := zones.map (·.1)
  let lanes := s.w.acting
  if ctlMalformed ctl false then .next (malformed s a.val)
  else if matrixForbidden s tiles then .next (illopExec s 3)
  else
    let kept := (zones.filter fun z => !ownsAll shape lanes z.2.1).map (·.1)
    if arrayBusy s tiles || !checksFit s kept.length then .next s.heldBack
    else match checkTiles s kept with
    | (s, some (n, o)) => .next (seamFailed s true n o)
    | (s, none) =>
      let kind : TileKind := if fp64 then .fp64 else .fp32
      let s := zones.foldl (fun s z =>
        let x := s.tile z.1
        let rows := (ownedRows shape lanes z.2.1).foldl (fun rs i => rs.set i (List.replicate 64 0)) x.rows
        s.setTile z.1 (Tile.reseam { x with kind, rows, flags := 0, sel := if strict then 3 else if fp64 then 2 else 0 })) s
      .next ((s.matrix).advance 4)

/-- MLOADZ's source elements of one tile row, with what reading replaced (R211, R228). -/
structure ZSource where
  kind : TileKind
  sel : Nat
  elem : Nat → Nat → Nat × Bool

/-- Fill one destination tile (R211): a bit copy or an addition, then the seam. -/
def loadTile (shape : Nat) (lanes : W32) (tr : Nat) (add : Bool) (src : ZSource) (x : Tile) : Tile :=
  let x := { x with kind := src.kind, sel := src.sel }
  let f := src.kind.fmt
  let one (i j : Nat) : Nat × Nat :=
    let e := (src.elem i j).1
    if add then
      let r := fAdd f .rne (f.dec (x.elem i j)) (f.dec e)
      (r.1, (if r.2.inv then 1 else 0) + (if r.2.ovf then 2 else 0) + (if r.2.unf then 4 else 0) + if r.2.nx then 8 else 0)
    else (e, 0)
  let out := (ownedRows shape lanes tr).map fun i => (i, (List.range src.kind.cols).map (one i))
  let zop := (ownedRows shape lanes tr).any fun i => (List.range src.kind.cols).any fun j => (src.elem i j).2
  Tile.reseam { x with
    rows := out.foldl (fun rs o => rs.set o.1 (rowWords src.kind (o.2.map Prod.fst))) x.rows
    flags := out.foldl (fun fl o => o.2.foldl (fun fl e => fl ||| e.2) fl) x.flags ||| (if zop then 16 else 0) }

/-- Load every destination tile of a region, then XSINJ; the sources are as they stood before. The MERRQ entry of a poisoned scratch
element has OPB 0, the tile's row in INDEX and its column in K, of which R228 says nothing (DESIGN CHOICE, log 114). -/
def loadRegion (s : State) (shape : Nat) (lanes : W32) (add : Bool) (zones : List (Nat × Nat × Nat)) (src : Nat × Nat × Nat → ZSource) : State :=
  let s := zones.foldl (fun s z => s.setTile z.1 (loadTile shape lanes z.2.1 add (src z) (s.tile z.1))) s
  let merr := zones.flatMap fun z => (ownedRows shape lanes z.2.1).flatMap fun i =>
    (List.range (src z).kind.cols).filterMap fun j => if ((src z).elem i j).2 then some (z.1, i, j) else none
  let t := merr.foldl (fun t m => t.merr m.1 false false m.2.1 m.2.2) s.t
  { s with t := injectTile t (zones.map (·.1)) }

/-- The end of an MLOADZ: its flag counts until its writes are done. -/
def loadzDone (s : State) : State := ((s.matrix).launchPend { flag := s.w.mark true, load := false }).advance 4

/-- MLOADZ (R211). -/
def execMloadz (src : ZSrc) (add : Bool) (c b a : SReg) (s : State) : Out :=
  let ctl := s.w.sreg c
  let bv := (s.w.sreg b).toNat
  let ad := s.w.sreg a
  let shape := ctlShape ctl
  let zones := regionTiles shape (ctlZt ctl)
  let tiles := zones.map (·.1)
  let lanes := s.w.acting
  let retained := (zones.filter fun z => add || !ownsAll shape lanes z.2.1).map (·.1)
  let from_ := regionTiles shape (bv % 4)
  if ctlMalformed ctl false then .next (malformed s c.val)
  else if matrixForbidden s tiles then .next (illopExec s 3)
  else match src with
  | .scratch =>
    let kind : TileKind := if bv % 2 = 1 then .fp64 else .fp32
    let w := if bv % 2 = 1 then 8 else 4
    let cols := kind.cols * (if shape = 1 ∨ shape = 3 then 2 else 1)
    if bv / 2 ≠ 0 then .next (malformed s b.val)
    else if sdMalformed ad false false then .next (malformed s a.val)
    else match firstOut s.t.window (vecSpans ad (regionRows shape) (cols * w) false) with
      | some x => .next (boundTrap s 3 (BitVec.ofNat 64 x))
      | none =>
        let rs := vecRanges s.t.id ad (regionRows shape) (cols * w) false
        if arrayBusy s tiles || !checksFit s retained.length || (copiesFor s).any (fun k => anyMeets rs (k.dstRanges k.team)) || atomsHold s rs then
          .next s.heldBack
        else match checkTiles s retained with
          | (s, some (n, o)) => .next (seamFailed s true n o)
          | (s, none) =>
            let t := s.t
            let source (z : Nat × Nat × Nat) : ZSource :=
              { kind, sel := if bv % 2 = 1 then 2 else 0
                elem := fun i j =>
                  let bs := scratchBytes t (sdDoff ad + (64 * z.2.1 + i) * sdVp ad + (kind.cols * z.2.2 + j) * w) w
                  if anyPoison bs then (0, true) else (leNat (bytesOf bs), false) }
            .next (loadzDone (loadRegion s shape lanes add zones source))
  | .own =>
    if bv / 4 ≠ 0 ∨ ¬ zonesOk shape (bv % 4) then .next (malformed s b.val)
    else if from_.any (fun z => tiles.contains z.1) || matrixForbidden s (from_.map (·.1)) then .next (illopExec s 3)
    else if arrayBusy s (tiles ++ from_.map (·.1)) || !checksFit s (from_.length + retained.length) then .next s.heldBack
    else match checkMixed s.t s (byTile ((from_.map (·.1) ++ retained).map fun n => (n, false))) with
      | (s, some (n, o, _)) => .next (seamFailed s true n o)
      | (s, none) =>
        let t := s.t
        let at_ (z : Nat × Nat × Nat) : Tile := t.tiles.getD (((from_.find? (·.2 == z.2)).map (·.1)).getD 0) {}
        .next (loadzDone (loadRegion s shape lanes add zones fun z => { kind := (at_ z).kind, sel := (at_ z).sel, elem := fun i j => ((at_ z).elem i j, false) }))
  | .peer =>
    let rank := bitsOf bv 8 4
    if bv / 512 ≠ 0 ∨ bitsOf bv 3 2 ≠ 0 ∨ ¬ zonesOk shape (bv % 4) then .next (malformed s b.val)
    else if s.t.gangSize ≤ rank then .next (boundTrap s 4)
    else match s.gangTeam rank with
      | none => .next (boundTrap s 4)
      | some p =>
        let own := p.id == s.t.id
        let srcs := from_.map (·.1)
        if own ∧ (from_.any (fun z => tiles.contains z.1) ∨ matrixForbidden s srcs) then .next (illopExec s 3)
        else if !(p.resident && p.started) || arrayBusy s (if own then tiles ++ srcs else tiles) ||
            !checksFit s (srcs.length + retained.length) then .next s.heldBack
        else match checkMixed p s (byTile ((srcs.map fun n => (n, !own)) ++ retained.map fun n => (n, false))) with
          | (s, some (n, o, peers)) => .next (seamFailed s (!peers) n o)
          | (s, none) =>
            let x (z : Nat × Nat × Nat) : Tile := p.tiles.getD (((from_.find? (·.2 == z.2)).map (·.1)).getD 0) {}
            .next (loadzDone (loadRegion s shape lanes add zones fun z => { kind := (x z).kind, sel := (x z).sel, elem := fun i j => ((x z).elem i j, false) }))

/-- Output types of MDRAIN (R217): the type, none for native. -/
def outTy (code : Nat) : Option Ty :=
  match code with | 1 => some .f16 | 2 => some .bf16 | 3 => some .e4m3 | 4 => some .e5m2 | 5 => some .i8 | _ => none

/-- The epilogue of one element (R217): the output pattern and MFLAGS. -/
def epilogue (k : TileKind) (dc : Nat) (scale bias : FVal) (v : Nat) : Nat × Nat :=
  let f := k.fmt
  let fl (x : Exc) : Nat := (if x.inv then 1 else 0) + (if x.ovf then 2 else 0) + (if x.unf then 4 else 0) + if x.nx then 8 else 0
  let a := if bitOf dc 14 then fMul f .rne (f.dec v) scale else (v, {})
  let b := if bitOf dc 13 then fAdd f .rne (f.dec a.1) bias else (a.1, {})
  let val := f.dec b.1
  let c := if bitsOf dc 12 11 = 1 ∧ ¬ val.isNan ∧ val.sign then 0 else b.1
  match outTy (bitsOf dc 10 8) with
  | none => (c, fl a.2 ||| fl b.2)
  | some ty =>
    let r := convTo ty .rne (f.dec c)
    (r.1, fl a.2 ||| fl b.2 ||| fl r.2)

/-- Columns of a region to the left of a tile: the tiles of one row may differ in content (R207). -/
def colBase (s : State) (zones : List (Nat × Nat × Nat)) (z : Nat × Nat × Nat) : Nat :=
  zones.foldl (fun n y => if y.2.1 = z.2.1 ∧ y.2.2 < z.2.2 then n + (s.tile y.1).kind.cols else n) 0

def TileKind.bytes : TileKind → Nat | .fp32 => 4 | .fp64 => 8

/-- Bytes of an element that MDRAIN writes from a tile (R217). -/
def drainBytes (dc : Nat) (k : TileKind) : Nat :=
  match outTy (bitsOf dc 10 8) with | some ty => Ty.bits ty / 8 | none => k.bytes

/-- The most that `f` says of the tiles of a tile row. -/
def rowMax (zones : List (Nat × Nat × Nat)) (tr : Nat) (f : Nat × Nat × Nat → Nat) : Nat :=
  zones.foldl (fun n z => if z.2.1 = tr then max n (f z) else n) 0

/-- A bias entry of a tile's type at a window offset: a poisoned one reads as +0 (R217, R228). -/
def biasAt (t : Team) (k : TileKind) (a : Nat) : FVal × Bool :=
  let bs := scratchBytes t a k.bytes
  if anyPoison bs then (.num false 0 0, true) else (k.fmt.dec (leNat (bytesOf bs)), false)

/-- A tile drained into the window (R217): the owned rows stored, and MFLAGS. The bias is as `t` holds it, before the drain. -/
def drainTile (t : Team) (dc ep : Nat) (ad : W64) (lanes : W32) (shape base : Nat) (z : Nat × Nat × Nat) (s : State) : State :=
  let x := s.tile z.1
  let w := drainBytes dc x.kind
  let bias (j : Nat) : FVal × Bool := if bitOf dc 13 then biasAt t x.kind (ep % 2 ^ 20 + (base + j) * x.kind.bytes) else (.num false 0 0, false)
  let rows := ownedRows shape lanes z.2.1
  let zop := !rows.isEmpty && (List.range x.kind.cols).any fun j => (bias j).2
  rows.foldl (fun s i =>
    let outs := (List.range x.kind.cols).map fun j => epilogue x.kind dc (fmtF32.dec (ep / 2 ^ 32)) (bias j).1 (x.elem i j)
    let s := windowWrite s s.t.id (sdDoff ad + (64 * z.2.1 + i) * sdVp ad + base * w) (clean (outs.flatMap fun o => leBytes w o.1))
    s.setTile z.1 { s.tile z.1 with flags := outs.foldl (fun f o => f ||| o.2) (s.tile z.1).flags })
    (s.setTile z.1 { x with flags := x.flags ||| (if zop then 16 else 0) })

/-- The entries of MERRQ for poisoned bias entries: one each, for the lowest tile that it feeds (R228) (DESIGN CHOICE, log 97). -/
def biasErrors (s : State) (dc ep : Nat) (lanes : W32) (shape : Nat) (zones : List (Nat × Nat × Nat)) : State :=
  if !bitOf dc 13 then s
  else
    let fed := zones.filter fun z => !(ownedRows shape lanes z.2.1).isEmpty
    let one (t : Team) (z : Nat × Nat × Nat) : Team :=
      if fed.any fun y => y.2.2 == z.2.2 && y.1 < z.1 then t
      else (List.range (s.tile z.1).kind.cols).foldl (fun t j =>
        if (biasAt s.t (s.tile z.1).kind (ep % 2 ^ 20 + (colBase s zones z + j) * (s.tile z.1).kind.bytes)).2 then t.merr z.1 true false j 0 else t) t
    { s with t := fed.foldl one s.t }

/-- MDRAIN (R217): each tile is stored in its own element width, from its own column of the region on (DESIGN CHOICE, log 98). -/
def execMdrain (c b a : SReg) (s : State) : Out :=
  let dc := (s.w.sreg b).toNat
  let ep := (s.w.sreg c).toNat
  let ad := s.w.sreg a
  let ctl : W64 := BitVec.ofNat 64 (dc % 16)
  let shape := ctlShape ctl
  let zones := regionTiles shape (ctlZt ctl)
  let tiles := zones.map (·.1)
  let lanes := s.w.acting
  if dc / 2 ^ 15 ≠ 0 ∨ 1 < bitsOf dc 12 11 ∨ 5 < bitsOf dc 10 8 ∨ bitsOf dc 7 4 ≠ 0 ∨ ¬ zonesOk shape (ctlZt ctl) then .next (malformed s b.val)
  else if bitsOf ep 31 20 ≠ 0 ∨ (bitOf dc 13 ∧ ep % 16 ≠ 0) ∨ (¬ bitOf dc 13 ∧ ¬ bitOf dc 14 ∧ ep ≠ 0) then .next (malformed s c.val)
  else if sdMalformed ad false false then .next (malformed s a.val)
  else if matrixForbidden s tiles then .next (illopExec s 3)
  else if arrayBusy s tiles || !checksFit s tiles.length then .next s.heldBack
  else
    let kind (z : Nat × Nat × Nat) : TileKind := (s.tile z.1).kind
    let endOf (n : TileKind → Nat) (z : Nat × Nat × Nat) : Nat := (colBase s zones z + (kind z).cols) * n (kind z)
    let rows := regionRows shape
    let out (tr : Nat) : Nat := rowMax zones tr (endOf (drainBytes dc))
    let biasEnd := if bitOf dc 13 then max (rowMax zones 0 (endOf TileKind.bytes)) (rowMax zones 1 (endOf TileKind.bytes)) else 0
    let b0 := ep % 2 ^ 20
    match firstOut s.t.window ((List.range rows).map (fun r => (sdDoff ad + r * sdVp ad, sdDoff ad + r * sdVp ad + out (r / 64))) ++
        (if bitOf dc 13 then [(b0, b0 + biasEnd)] else [])) with
    | some x => .next (boundTrap s 3 (BitVec.ofNat 64 x))
    | none =>
      let rs : List Range := [{ team := s.t.id, lo := sdDoff ad, hi := sdDoff ad + (rows - 1) * sdVp ad + max (out 0) (out 1) }]
      let bs : List Range := if bitOf dc 13 then [{ team := s.t.id, lo := b0, hi := b0 + biasEnd }] else []
      if (copiesFor s).any (fun k => anyMeets rs k.ranges || anyMeets bs (k.dstRanges k.team)) || (opsFor s).any (fun o => anyMeets rs o.ranges) ||
          atomsHold s (rs ++ bs) then .next s.heldBack
      else match checkTiles s tiles with
        | (s, some (n, o)) => .next (seamFailed s true n o)
        | (s, none) =>
          let t := s.t
          let base := colBase s zones
          let s := zones.foldl (fun s z => drainTile t dc ep ad lanes shape (base z) z s) (biasErrors s dc ep lanes shape zones)
          .next (((s.matrix).launchPend { flag := s.w.mark true, load := false }).advance 4)

/-! Loops and seam instructions. -/

/-- MLOOP.OPEN (R222). -/
def execMloopOpen (a : SReg) (s : State) : Out :=
  let v := (s.w.sreg a).toNat
  let set := v % 16
  let policy := bitsOf v 4 4
  let snap := bitsOf v 39 20
  let tiles := (List.range 4).filter set.testBit
  let size := tiles.length * snapBytes
  if v / 2 ^ 40 ≠ 0 ∨ bitsOf v 19 8 ≠ 0 ∨ set = 0 ∨ snap % 256 ≠ 0 ∨ (policy = 0 ∧ snap ≠ 0) then .next (malformed s a.val)
  else if matrixForbidden s tiles then .next (illopExec s 3)
  else if (match s.w.mloop with | some l => l.redirect | none => false) then
    let w := { s.w with mloop := s.w.mloop.map fun l => { l with redirect := false } }
    .next (State.advance (State.matrix { s with w }) 4)
  else if policy = 1 ∧ s.t.window < snap + size then .next (boundTrap s 3 (BitVec.ofNat 64 (max snap s.t.window)))
  else
    let rs : List Range := [{ team := s.t.id, lo := snap, hi := snap + size }]
    if teamBusy s tiles || (policy == 1 && (s.c.test.isSome || (copiesFor s).any (fun k => anyMeets rs k.ranges) ||
        (opsFor s).any (fun o => anyMeets rs o.ranges) || atomsHold s rs)) then
      .next s.heldBack
    else
      let s := if policy = 1 then
          tiles.zipIdx.foldl (fun s n => windowWrite s s.t.id (snap + snapBytes * n.2) (clean (s.tile n.1).snapshot)) s
        else s
      let point := match s.w.cur.clause with | some c => c.addr | none => s.w.cur.pc
      let l : MLoop := { point, tiles := set, policy, limit := bitsOf v 7 5, snap
                         saved := tiles.map fun n => (n, (s.tile n).kind, (s.tile n).flags, (s.tile n).sel) }
      .next (State.advance (State.matrix { s with w := { s.w with mloop := some l } }) 4)

/-- MLOOP.CLOSE (R222). -/
def execMloopClose (s : State) : Out :=
  if 1 < s.w.used then .next (illopExec s 3)
  else .next (State.advance (State.matrix { s with w := { s.w with mloop := none } }) 4)

/-- MSEAM (R219). -/
def execMseam (c : SReg) (mask : Fin 64) (s : State) : Out :=
  let tiles := (List.range 4).filter mask.val.testBit
  if arrayBusy s tiles || !checksFit s tiles.length then .next s.heldBack
  else
    let s := tiles.foldl checkTile s
    let v := tiles.foldl (fun v n => v + (s.tile n).outcome * 2 ^ (3 * n)) 0
    .next ({ s with w := s.w.setS c (BitVec.ofNat 64 v) }.advance 4)

/-- MSEAMLOC (R220). -/
def execMseamloc (c : SReg) (t : Fin 64) (s : State) : Out :=
  let n := t.val % 4
  if teamBusy s [n] then .next s.heldBack
  else
    let x := s.tile n
    let v := if x.outcome = 2 then x.diff.toNat * 2 ^ 32 + 2 ^ 31 + x.atCol * 2 ^ 8 + x.atRow else 0
    .next ({ s with w := s.w.setS c (BitVec.ofNat 64 v) }.advance 4)

/-- MSEAMFIX (R221). -/
def execMseamfix (c : SReg) (t : Fin 64) (s : State) : Out :=
  let n := t.val % 4
  if arrayBusy s [n] || !checksFit s 1 then .next s.heldBack
  else
    let x := s.tile n
    if x.outcome = 2 then
      let others := ((List.range x.kind.cols).filter (· != x.atCol)).map fun j => (x.value x.atRow j).negate
      let v := toTile x.kind (exactSum (x.kind.fmt.dec ((x.seamCol.getD x.atRow 0).toNat) :: others))
      let es := (x.rowElems x.atRow).set x.atCol v
      let y := Tile.check { x with rows := x.rows.set x.atRow (rowWords x.kind es) } (s.t.xmtol.getD x.sel 0)
      let s := noteCheck (s.setTile n y) n y (if y.outcome = 1 then 4 else y.outcome)
      .next ({ s with w := s.w.setS c (BitVec.ofNat 64 y.outcome) }.advance 4)
    else .next ({ s with w := s.w.setS c (BitVec.ofNat 64 x.outcome) }.advance 4)

/-- MFLAGS (R227). -/
def execMflags (clear : Bool) (c : SReg) (mask : Fin 64) (s : State) : Out :=
  if teamBusy s [0, 1, 2, 3] then .next s.heldBack
  else
    let v := (List.range 4).foldl (fun v n => v + (s.tile n).flags % 32 * 2 ^ (8 * n)) 0
    let s := if clear then
        ((List.range 4).filter mask.val.testBit).foldl (fun s n => s.setTile n { s.tile n with flags := 0 }) s
      else s
    .next ({ s with w := s.w.setS c (BitVec.ofNat 64 v) }.advance 4)

/-- MERRQ (R228): the oldest entry with MORE and OVF, or 0; with CLEAR the queue is emptied. -/
def execMerrq (clear : Bool) (c : SReg) (s : State) : Out :=
  let v : W64 := match s.t.merrq with
    | [] => 0
    | e :: rest => BitVec.ofNat 64 (e.toNat + rest.length * 2 ^ 60 + b2n s.t.merrqOvf * 2 ^ 59)
  let t := { s.t with merrq := if clear then [] else s.t.merrq.tail, merrqOvf := if clear then false else s.t.merrqOvf }
  .next (State.advance { s with t, w := s.w.setS c v } 4)

end Sys2Proof.Machine
end

