-- ==== Sys2Proof/Machine/TileData.lean ====
section
/-! DEFINITION. The data of tile copies: packing (R50), expansion into canonical layout (R58), and compression with
derived or supplied scales (R52, R53, R235). -/

namespace Sys2Proof.Machine

/-! Packing (R50). -/

/-- The code of element `i` of packed bytes, with the poison of the bytes it lies in. -/
def unpackAt (width : Nat) (bs : List PByte) (i : Nat) : Nat × Bool :=
  if width = 6 then
    let g := (bs.drop (i / 4 * 3)).take 3
    (leNat (bytesOf g) / 2 ^ (6 * (i % 4)) % 64, anyPoison g)
  else if width = 4 then
    let b := (bs.drop (i / 2)).take 1
    (leNat (bytesOf b) / 2 ^ (4 * (i % 2)) % 16, anyPoison b)
  else
    let b := (bs.drop (i * (width / 8))).take (width / 8)
    (leNat (bytesOf b), anyPoison b)

/-- Pack `n` elements (a multiple of 16). -/
def packAll (width : Nat) (xs : List (Nat × Bool)) : List PByte :=
  let at_ (i : Nat) : Nat × Bool := xs.getD i (0, false)
  let group (g k w : Nat) : Nat × Bool :=
    ((List.range k).foldl (fun a j => a + (at_ (g * k + j)).1 % 2 ^ w * 2 ^ (w * j)) 0, (List.range k).any fun j => (at_ (g * k + j)).2)
  let spread (b : Nat) (x : Nat × Bool) : List PByte := (leBytes b x.1).map fun y => (y, x.2)
  if width = 6 then (List.range (xs.length / 4)).flatMap fun g => spread 3 (group g 4 6)
  else if width = 4 then (List.range (xs.length / 2)).flatMap fun g => spread 1 (group g 2 4)
  else xs.flatMap fun x => spread (width / 8) x

/-! Expansion (R58). -/

/-- A stored element in canonical layout: exact, a narrow NaN as 0x8000. -/
def expandCode (fmt code : Nat) : Nat :=
  match storeTy fmt with
  | some (some .f32) | some (some .f64) => code
  | some (some .f16) => ((fmtF16.dec code).toIeee fmtF32 .rne).1
  | some (some .bf16) => ((fmtBF16.dec code).toIeee fmtF32 .rne).1
  | some (some t) => ((Ty.value t code).toNarrow fmtCE16).1
  | _ => ((if code % 16 < 8 then FVal.num false (code % 16) 0 else .num true (16 - code % 16) 0).toNarrow fmtCE16).1

/-- The value of a block code (R51). -/
def blockScale (e : Nat) : FVal := if e = 255 then .nan false else .num false 1 ((e : Int) - 127)

/-- A scale as an FP32 pattern. -/
def scaleBits (v : FVal) : Nat := (v.toIeee fmtF32 .rne).1

/-- S of a QN4 block (R52). -/
def qnScale (d k : Nat) : Nat :=
  match fmtF32.dec d with
  | .num s m e => (roundIeee fmtF32 .rne s ⟨m * (k + 1), e - 8, false⟩).1
  | v => scaleBits v

/-- Block codes of a vector: pointer and count (R230). -/
def codePtr (g : List W64) (v : Nat) : W64 := g.getD 2 0 + BitVec.ofNat 64 (v * (tE g / 16))
def superPtr (g : List W64) (v : Nat) : W64 := g.getD 3 0 + BitVec.ofNat 64 (4 * v * ((tE g + 255) / 256))
def vecPtr (g : List W64) (v : Nat) : W64 := g.getD 0 0 + BitVec.ofNat 64 (v * tStride g)
/-- Scale-row entries of a stored vector from its block codes and super-scales, with their poison. -/
def expandScales (g : List W64) (codes supers : List PByte) : List (Nat × Bool) :=
  (List.range (tE g / 16)).map fun b =>
    let c := (codes.drop b).take 1
    let k := leNat (bytesOf c)
    if isQn4 g then
      let d := (supers.drop (4 * (b / 16))).take 4
      (qnScale (leNat (bytesOf d)) k, anyPoison c || anyPoison d)
    else if tBs g then (scaleBits (blockScale k), anyPoison c)
    else (0x3F800000, false)

/-- Canonical bytes of a vector, and its scale row where the layout has one. -/
def expandVec (g : List W64) (raw codes supers : List PByte) : List PByte × List PByte :=
  let fmt := tFmt g
  let xs := (List.range (tE g)).map fun i =>
    let c := unpackAt (storeBits fmt) raw i
    (expandCode fmt c.1, c.2)
  (packAll (8 * canonBytes fmt) xs, if canonScaled fmt then packAll 32 (expandScales g codes supers) else [])

/-! Compression (R53, R235). -/

/-- The largest magnitude among finite values. -/
def amaxOf (xs : List FVal) : FVal :=
  xs.foldl (fun a x => match x with
    | .num _ m e => if (FVal.num false m e).cmp a == .gt then .num false m e else a
    | _ => a) (.num false 0 0)

/-- The largest finite value of a scaled format. -/
def topValue (fmt : Nat) : FVal :=
  match fmt with
  | 0 => .num false 127 0
  | 19 => .num false 7 0
  | 12 => fmtE4M3.decNarrow 0x7F | 13 => fmtE5M2.decNarrow 0x7F
  | 14 => fmtE3M2.decNarrow 0x1F | 15 => fmtE2M3.decNarrow 0x1F | _ => fmtE2M1.decNarrow 7

/-- A value times 2^k, exactly. -/
def shiftVal (k : Int) : FVal → FVal
  | .num s m e => .num s m (e + k)
  | x => x

/-- The derived block code (R53). -/
def deriveCode (fmt : Nat) (amax : FVal) : Nat :=
  if amax.isZero then 127
  else (((List.range 254).map (· + 1)).find? fun (e : Nat) => (shiftVal (127 - (e : Int)) amax).cmp (topValue fmt) != .gt).getD 254

/-- The derived super-scale D (R53): rounded up, always finite. -/
def deriveSuper (amaxes : List FVal) : Nat :=
  match amaxOf amaxes with
  | .num _ m e => min (roundIeee fmtF32 .rup false ⟨m, e, false⟩).1 (fmtF32.infBits - 1)
  | _ => 0

/-- The derived QN4 block code (R53). -/
def deriveQn (d : Nat) (amax : FVal) : Nat :=
  match fmtF32.dec d, amax with
  | .num _ md ed, .num _ m e =>
    if md = 0 then 0
    else
      let num := m * 256 * 2 ^ (e - ed).toNat
      let den := md * 2 ^ (ed - e).toNat
      min 255 ((num + den - 1) / den - 1)
  | _, _ => 0

/-- x divided by a block's scale, a power of two or NaN; a NaN element stays the NaN it is, signalling or quiet, for the
conversion that follows (R44, R54). -/
def overScale (x : FVal) (e : Nat) : FVal :=
  if e = 255 then (match x with | .nan q => .nan q | _ => .nan false) else shiftVal (127 - e) x

/-- A QN4 code for x under scale S (R53), with the exceptional scales of its table. -/
def qnCode (x s : FVal) : Nat × Exc :=
  match x, s with
  | .nan _, _ => (8, Exc.ofInv)
  | _, .nan _ => (8, Exc.ofInv)
  | .inf _, .inf _ => (8, Exc.ofInv)
  | .inf a, _ => (if a = s.sign then 15 else 0, Exc.ofOvf)
  | .num _ m _, .inf _ => if m = 0 then (8, {}) else (8, { nx := true })
  | .num a m e, .num b n d =>
    if m = 0 then (8, {})
    else if n = 0 then (if a = b then 15 else 0, Exc.ofOvf)
    else if (FVal.num false m e).cmp (.num false n d) == .gt then (if a = b then 15 else 0, Exc.ofOvf)
    else
      let c := min e (d - 7)
      let t := scaled (a != b) m e c
      let u : Int := (n : Int) * 2 ^ (d - 7 - c).toNat
      let dist (k : Nat) : Nat := (t - qn4 k * u).natAbs
      let best := (List.range 16).foldl (fun best k =>
        if dist k < dist best || (dist k == dist best && (qn4 k).natAbs < (qn4 best).natAbs) then k else best) 8
      (best, { nx := dist best != 0 })

/-- An element's code in a format that is no QN4, after division by its scale. -/
def storeCode (fmt : Nat) (x : FVal) : Nat × Exc :=
  match storeTy fmt with
  | some (some t) => let r := convTo t .rne x; (r.1 % 2 ^ Ty.bits t, r.2)
  | _ => let r := toInt true 4 .rne x; ((r.1 % 16).toNat, r.2)

/-- A source element of STYPE (R232). -/
def stypeVal (st code : Nat) : FVal :=
  match st with
  | 8 => fmtF16.dec code | 9 => fmtBF16.dec code | 10 => fmtF32.dec code | 11 => fmtF64.dec code | _ => fmtCE16.decNarrow code

/-- One vector to be compressed: source codes with poison, and scale entries for CE16. -/
structure SrcVec where
  codes : List (Nat × Bool)
  scales : List (Nat × Bool)
  deriving DecidableEq, Repr

/-- What a compressed vector writes: its bytes, block codes and super-scales, and the exceptions. -/
structure Packed where
  data : List PByte
  codes : List PByte
  supers : List PByte
  exc : Exc
  deriving DecidableEq, Repr

/-- Compress a vector (R235). `codes` and `supers` are the supplied scales, read through Sn+2 and Sn+3. Where STYPE is the tensor's
own format no conversion is made: the bits are copied and no flag is raised (R394).
A CE16 element 0 under an infinite scale-row entry has no value that R235 gives: it is the quiet NaN of R59, which raises no INV in
its conversion (DEDUCED, log 99); a scale-row entry that is a signalling NaN makes its elements quiet NaNs too, with no INV
(DEDUCED, log 99). -/
def compressVec (g : List W64) (st : Nat) (derive : Bool) (v : SrcVec) (codes supers : List PByte) : Packed :=
  let fmt := tFmt g
  let w := storeBits fmt
  if fmt = st ∧ ¬ tBs g then { data := packAll w v.codes, codes := [], supers := [], exc := {} }
  else
    let value (i : Nat) : FVal :=
      let x := stypeVal st (v.codes.getD i (0, false)).1
      if st = 18 then ((mulExact x (fmtF32.dec (v.scales.getD (i / 16) (0, false)).1)).getD (.nan false)) else x
    let bad (i : Nat) : Bool := (v.codes.getD i (0, false)).2 || (st == 18 && (v.scales.getD (i / 16) (0, false)).2)
    let blocks := tE g / 16
    let block (b : Nat) : List FVal := (List.range 16).map fun i => value (16 * b + i)
    let badBlock (b : Nat) : Bool := (List.range 16).any fun i => bad (16 * b + i)
    let amaxes := (List.range blocks).map fun b => amaxOf (block b)
    let superOf (q : Nat) : Nat × Bool :=
      if derive then (deriveSuper ((amaxes.drop (16 * q)).take 16), (List.range 16).any fun b => 16 * q + b < blocks && badBlock (16 * q + b))
      else let d := (supers.drop (4 * q)).take 4; (leNat (bytesOf d), anyPoison d)
    let ds := (List.range ((blocks + 15) / 16)).map superOf
    let codeOf (b : Nat) : Nat × Bool :=
      if derive then
        (if isQn4 g then deriveQn (ds.getD (b / 16) (0, false)).1 (amaxes.getD b (.num false 0 0)) else deriveCode fmt (amaxes.getD b (.num false 0 0)),
         badBlock b || (isQn4 g && (ds.getD (b / 16) (0, false)).2))
      else let c := (codes.drop b).take 1; (leNat (bytesOf c), anyPoison c)
    let cs := (List.range blocks).map fun b => if tBs g then codeOf b else (127, false)
    let out := (List.range (tE g)).map fun i =>
      let b := i / 16
      let c := cs.getD b (127, false)
      let r := if isQn4 g then qnCode (value i) (fmtF32.dec (qnScale (ds.getD (b / 16) (0, false)).1 c.1)) else storeCode fmt (overScale (value i) c.1)
      (r.1, bad i || (tBs g && c.2) || (isQn4 g && (ds.getD (b / 16) (0, false)).2), r.2)
    { data := packAll w (out.map fun o => (o.1, o.2.1))
      codes := if derive ∧ tBs g then packAll 8 cs else []
      supers := if derive ∧ isQn4 g then packAll 32 ds else []
      exc := out.foldl (fun x o => x.or o.2.2) {} }

end Sys2Proof.Machine
end

