-- ==== Sys2Proof/Machine/TileCopy.lean ====
section
/-! DEFINITION. Tile copies: the checks at issue (R200, R229 to R236), the queue's states (R371), multicast (R233, R370),
deferred and page faults (R237, R373), and one meaning per tile-copy instruction and event. -/

namespace Sys2Proof.Machine

/-! Checks at issue. -/

/-- The tensor group's malformed register, if any (R230). -/
def tensorBad (g : List W64) (n : Nat) : Option Nat :=
  let w1 := (g.getD 1 0).toNat
  let fmt := tFmt g
  let bs := tBs g
  if w1 / 2 ^ 62 ≠ 0 ∨ (storeTy fmt).isNone ∨ tE g = 0 ∨ (fmt = 17 ∧ ¬ bs) ∨ (8 ≤ fmt ∧ fmt ≤ 11 ∧ bs) then some (n + 1)
  else if g.getD 2 0 ≠ 0 ∧ ¬ bs then some (n + 2)
  else if g.getD 3 0 ≠ 0 ∧ fmt ≠ 17 then some (n + 3)
  else none

def ctlStype (c : W64) : Nat := bitsOf c.toNat 36 32
def ctlIdx (c : W64) : Nat := bitsOf c.toNat 19 0
def ctlRanks (c : W64) : Nat := c.toNat % 2 ^ 32
def ctlStat (c : W64) : Nat := bitsOf c.toNat 51 32
def ctlScope (c : W64) : Scope := scopeOfCode (bitsOf c.toNat 39 37)

/-- Whether the copy control is malformed for the instruction (R232, R233) (DEDUCED, log 48). -/
def copyCtlBad (op : CopyOp) (multicast : Bool) (gang : Nat) (c : W64) : Bool :=
  let v := c.toNat
  match op with
  | .tcopy _ =>
    if multicast then v / 2 ^ 52 != 0 || ctlStat c % 8 != 0 || ctlRanks c / 2 ^ gang != 0 else v != 0
  | .tgather => v / 2 ^ 20 != 0 || v % 4 != 0
  | .tscat => v / 2 ^ 41 != 0 || bitsOf v 31 20 != 0 || v % 4 != 0 || !([8, 9, 10, 11, 18].contains (ctlStype c))
  | .tstore _ => v / 2 ^ 41 != 0 || v % 2 ^ 32 != 0 || !([8, 9, 10, 11, 18].contains (ctlStype c))
  | .tloadv => false

/-- The first byte of a span outside its limit (R200). -/
def offending (x : Option Desc) (p : W64) (c : Cause) : W64 :=
  match x, c with
  | some d, .bound => if pAddr p < d.base then p else mkPtr (pObj p) (max (pAddr p) (d.base + d.reslim))
  | some d, .quota => mkPtr (pObj p) (max (pAddr p) (d.base + d.comlim))
  | _, _ => p

/-- Checks 1 to 7 of R152 over the spans: the first cause, and its address. -/
def checkSpans (s : State) : List Span → State × Option (Cause × W64)
  | [] => (s, none)
  | x :: rest =>
    match descOf s s.coreId s.t.space (pObj x.ptr) with
    | (s, d) =>
      match checkEntry d x.ptr x.bytes { rights := x.rights, kinds := if x.write then [0] else [0, 3], write := x.write } with
      | some c => (s, some (c, offending d x.ptr c))
      | none => checkSpans s rest

/-- Drop the core's lines of a range, dirty bytes written home first, so that a copy and the lanes meet there (R149). -/
def flushSpan (s : State) (id : CoreId) (space : Nat) (p : W64) (n : Nat) : State :=
  let cons := (s.die id.die).consId id.core
  let here (ln : Nat) : Bool := ln * 64 < p.toNat + n && p.toNat < ln * 64 + 64
  let lines := (((s.core id).l1.filter fun x => x.space == space && here x.line).map (·.line) ++
    ((s.die id.die).cc.filter fun x => x.space == space && x.cons == cons && here x.line).map (·.line)).eraseDups
  lines.foldl (fun s ln => dropLine s id space ln) s

/-- Element bytes and vector count of what the destination or source of a copy in the window holds, and whether a scale row
goes with it. -/
def copyShape (op : CopyOp) (c : W64) (g : List W64) : Nat × Bool :=
  match op with
  | .tloadv => (vecBytes g, false)
  | .tcopy _ | .tgather => (tE g * canonBytes (tFmt g), canonScaled (tFmt g))
  | _ => (tE g * stypeBytes c, ctlStype c == 18)

/-- A tile-copy instruction at issue (R229): field checks, ranges, then the queue. DEST 2 and 3 of a TGATHER, of which R204 and
R232 say nothing, are malformed (DESIGN CHOICE, log 112). -/
def copyIssue (s : State) (op : CopyOp) (c : Option SReg) (b : SReg) (a : Fin 16) : State :=
  let n := 4 * a.val
  let g := (List.range 4).map fun i => s.w.s.getD (n + i) 0
  let cv : W64 := match c with | some r => s.w.sreg r | none => 0
  let d := s.w.sreg b
  let dest := sdDest d
  let inB := isB d
  let multicast := (match op with | .tcopy _ => true | _ => false) && 2 ≤ dest
  let shape := copyShape op cv g
  let dests : List Nat := match op with | .tcopy _ => [0, 1, 2, 3] | .tgather => [0, 1] | _ => [0]
  let descBad := !dests.contains dest ||
    (if inB then bdMalformed d [1, 3] shape.2 else sdMalformed (BitVec.ofNat 64 (d.toNat % 2 ^ 62)) shape.2 false)
  match tensorBad g n with
  | some r => malformed s r
  | none =>
    if op.outward ∧ tStride g = 0 then malformed s (n + 1)
    else if copyCtlBad op multicast s.t.gangSize cv then malformed s ((c.map (·.val)).getD 0)
    else if descBad then malformed s b.val
    else
      let local_ := if multicast then [(ctlStat cv, ctlStat cv + 8)]
        else if inB then [] else vecSpans d (tR g) shape.1 shape.2
      let idx := if op.indexed then [(ctlIdx cv, ctlIdx cv + 4 * tR g)] else []
      match firstOut s.t.window (local_ ++ idx) with
      | some x => boundTrap s 3 (BitVec.ofNat 64 x)
      | none =>
        match (if inB ∧ ¬ multicast then firstOut (s.t.share / 32) (colSpans d (tR g) shape.1 shape.2) else none) with
        | some x => boundTrap s 0 (BitVec.ofNat 64 x)
        | none =>
          match checkSpans s (copySpans op cv g) with
          | (s, some (cause, at_)) => trapRegion s (causeCode cause false).1 (causeCode cause false).2 at_
          | (s, none) =>
            if 16 ≤ s.c.copies.length then s.heldBack
            else
              let s := (copySpans op cv g).foldl (fun s x => flushSpan s s.coreId s.t.space x.ptr x.bytes) s
              let s := if op.aon then s.escape else s
              let f := s.w.mark true
              let k : Copy := { op, team := s.t.id, wave := s.w.num, flag := f, ctl := cv, desc := d, group := g
                                pc := s.w.issuePc, region := s.w.cur.region, clause := s.w.cur.clause
                                own := multicast && (ctlRanks cv).testBit s.t.rank }
              let w := s.w.flagUp f
              let w := { w with copyFlags := w.copyFlags ++ (if op.mayFault then f.toList else []) }
              State.advance { s with w, c := { s.c with copies := s.c.copies ++ [k] } } 4

/-- TCOPY (R231, R233). -/
def execTcopy (v : Bool) (c b : SReg) (a : Fin 16) (s : State) : Out := .next (copyIssue s (.tcopy v) (some c) b a)
/-- TGATHER (R234). -/
def execTgather (c b : SReg) (a : Fin 16) (s : State) : Out := .next (copyIssue s .tgather (some c) b a)
/-- TSCAT (R234, R235). -/
def execTscat (c b : SReg) (a : Fin 16) (s : State) : Out := .next (copyIssue s .tscat (some c) b a)
/-- TSTORE (R235). -/
def execTstore (aon : Bool) (c b : SReg) (a : Fin 16) (s : State) : Out := .next (copyIssue s (.tstore aon) (some c) b a)
/-- TLOADV (R236). -/
def execTloadv (b : SReg) (a : Fin 16) (s : State) : Out := .next (copyIssue s .tloadv none b a)

/-! The queue (R371). -/

def State.modCopy (s : State) (id : CoreId) (i : Nat) (f : Copy → Copy) : State :=
  let k := s.core id
  s.setCore { k with copies := k.copies.modify i f }

/-- Copies in READING or WRITING. -/
def activeCopies (k : Core) : Nat := (k.copies.filter fun c => c.st != .queued).length

/-- A copy into the B store of a team whose share is yet to be filled after a swap (R357). -/
def Copy.waitsFill (s : State) (c : Copy) : Bool :=
  isB c.desc && !c.op.outward && (match s.team c.team with | some t => t.bwait | none => false)

/-- The oldest queued copy that no earlier copy of its ranges, no matrix instruction and no atomic in flight holds back (R149, R212,
R229, R371). -/
def startable (s : State) (id : CoreId) : Option Nat :=
  let k := s.core id
  if 4 ≤ activeCopies k then none
  else (List.range k.copies.length).find? fun i =>
    match k.copies[i]? with
    | none => false
    | some c => c.st == .queued && (match c.fault with | some f => f.answer.isSome | none => true) &&
        !((k.copies.take i).any fun x => anyMeets c.ranges x.ranges) &&
        !(k.array.any fun o => anyMeets (c.dstRanges c.team) o.ranges) && !atomsHold s c.ranges && !atomsAhead s c &&
        !c.waitsFill s

/-- Whether a page serves an access: the cause of R311 where it does not. A read of a MIGRATING page is no fault: it waits in the
translation unit (R312). -/
def pageCause (s : State) (space va : Nat) (write : Bool) : Option Nat :=
  match walk s.mem (s.root space) va with
  | .absent => some 0
  | .malformed => some 3
  | .leaf _ e => if write && bitsOf e 63 62 == 1 then some 1 else if write && bitsOf e 63 62 == 2 then some 2 else none

/-- The first page of ranges that does not serve. -/
def firstFault (s : State) (space : Nat) (xs : List (W64 × Nat)) (write : Bool) : Option PageWait :=
  xs.findSome? fun x =>
    let lo := pAddr x.1 / 65536
    let hi := (pAddr x.1 + x.2 - 1) / 65536
    if x.2 = 0 then none
    else (List.range (hi - lo + 1)).findSome? fun i =>
      let page := lo + i
      match pageCause s space (page * 65536) write with
      | none => none
      | some cause => some { space, page, write, cause, lanes := 0, pc := 0
                             addr := if i = 0 then x.1 else mkPtr (pObj x.1) (page * 65536) }

def copyFlags (e : Exc) : List Bool := e.list
def orFlags (a b : List Bool) : List Bool := (List.range 5).map fun i => a.getD i false || b.getD i false

/-- Where vector `v` of a copy lies on its local side: the data's and the scale row's offsets, a B-store one with its slice
above bit 20. -/
def localPlace (d : W64) (v : Nat) : Nat × Nat :=
  if isB d then
    let q := v / 32
    (v % 32 * 2 ^ 20 + bdDoff d + q * bdPitch d, v % 32 * 2 ^ 20 + bdSoff d + q * (bdPitch d / 8))
  else (sdDoff d + v * sdVp d, sdSoff d + v * (sdVp d / 8))

/-- The index list of a copy (R234). -/
def copyIndices (t : Team) (k : Copy) : List Nat :=
  (List.range (tR k.group)).map fun v => leNat (readBytes t.scratch (ctlIdx k.ctl + 4 * v) 4)

/-- The global ranges that the copy touches for a stored vector: data, block codes, super-scales; TLOADV reads them all and delivers
the data (R236, R394). -/
def vecRangesOf (k : Copy) (v : Nat) : List (W64 × Nat) :=
  (vecPtr k.group v, vecBytes k.group) ::
    ((if tBs k.group then [(codePtr k.group v, tE k.group / 16)] else []) ++
     (if isQn4 k.group then [(superPtr k.group v, supersPerVec k.group)] else []))

/-- Stored vectors that a copy touches, in order, with the local vector of each: indices out of range are left out. -/
def vecPairs (t : Team) (k : Copy) : List (Nat × Nat) :=
  if k.op.indexed then (copyIndices t k).zipIdx.filterMap fun x => if x.1 < tR k.group then some (x.1, x.2) else none
  else (List.range (tR k.group)).map fun v => (v, v)

/-- Inbound data of a copy (R231, R234, R236): what is written on the local side. -/
def inbound (s : State) (t : Team) (k : Copy) : List CopyOut :=
  let rd (p : W64) (n : Nat) : List PByte := dieRead s t.space p n t.die
  let g := k.group
  let put (v : Nat) (x : List PByte × List PByte) : List CopyOut :=
    let at_ := localPlace k.desc v
    { ptr := BitVec.ofNat 64 at_.1, data := x.1 } :: (if x.2.isEmpty then [] else [{ ptr := BitVec.ofNat 64 at_.2, data := x.2 }])
  let one (src v : Nat) : List CopyOut :=
    if k.op = .tloadv then put v (rd (vecPtr g src) (vecBytes g), [])
    else put v (expandVec g (rd (vecPtr g src) (vecBytes g))
      (if tBs g then rd (codePtr g src) (tE g / 16) else []) (if isQn4 g then rd (superPtr g src) (supersPerVec g) else []))
  let zero (v : Nat) : List CopyOut :=
    put v (clean (List.replicate (tE g * canonBytes (tFmt g)) 0),
      if canonScaled (tFmt g) then packAll 32 (List.replicate (tE g / 16) (0x3F800000, false)) else [])
  if k.op.indexed then (copyIndices t k).zipIdx.flatMap fun x =>
    if x.1 = 4294967295 then zero x.2 else if x.1 < tR g then one x.1 x.2 else []
  else (List.range (tR g)).flatMap fun v => one v v

/-- Outbound data (R235): what is written in global space, and the exceptions. -/
def outbound (s : State) (t : Team) (k : Copy) : List CopyOut × Exc :=
  let g := k.group
  let st := ctlStype k.ctl
  let w := stypeBytes k.ctl
  let rd (p : W64) (n : Nat) : List PByte := dieRead s t.space p n t.die
  let derive := ctlDerive k.ctl
  (vecPairs t k).foldl (fun acc p =>
    let at_ := localPlace k.desc p.2
    let codes := (List.range (tE g)).map fun i =>
      let b := scratchBytes t (at_.1 + i * w) w
      (leNat (bytesOf b), anyPoison b)
    let scales := if st = 18 then (List.range (tE g / 16)).map fun i =>
      let b := scratchBytes t (at_.2 + 4 * i) 4
      (leNat (bytesOf b), anyPoison b) else []
    let r := compressVec g st derive ⟨codes, scales⟩
      (if tBs g ∧ ¬ derive then rd (codePtr g p.1) (tE g / 16) else []) (if isQn4 g ∧ ¬ derive then rd (superPtr g p.1) (supersPerVec g) else [])
    (acc.1 ++ { ptr := vecPtr g p.1, data := r.data } ::
      ((if r.codes.isEmpty then [] else [{ ptr := codePtr g p.1, data := r.codes }]) ++
       (if r.supers.isEmpty then [] else [{ ptr := superPtr g p.1, data := r.supers }])), acc.2.or r.exc)) ([], {})

/-- A deferred fault recorded for the issuing wave (R237). -/
def deferFault (s : State) (k : Copy) (cause detail : Nat) (addr : W64) : State :=
  s.modWave ⟨k.team, k.wave⟩ fun w => if w.ended then w else
    { w with deferred := w.deferred ++ [{ cause, detail, addr, pc := k.pc, clause := k.clause, region := k.region, flag := k.flag }] }

/-- The copy leaves the queue: its ranges are released and its flag falls (R371). -/
def retireCopy (s : State) (id : CoreId) (i : Nat) (k : Copy) : State :=
  let c := s.core id
  (s.setCore { c with copies := c.copies.eraseIdx i }).modWave ⟨k.team, k.wave⟩ (·.flagDown k.flag)

/-- Write local data of a copy into a team's window or B-store share. -/
def writeLocal (s : State) (team : Nat) (b : Bool) (xs : List CopyOut) : State :=
  if b then s.modTeam team fun t => xs.foldl (fun t x =>
    let a := x.ptr.toNat / 2 ^ 20 * (t.share / 32) + x.ptr.toNat % 2 ^ 20
    { t with bstore := writeBytes t.bstore a (bytesOf x.data)
             bstorePoison := poisonWrite t.bstorePoison a x.data.length (dataPoison x.data) }) t
  else xs.foldl (fun s x => windowWrite s team x.ptr.toNat x.data) s

/-- Free bytes for the whole range that a stopped or torn copy would have written locally (R236, R373; DESIGN CHOICE, log 7). -/
def undefinedLocal (k : Copy) (n : Nat) : List CopyOut :=
  let bytes := copyShape k.op k.ctl k.group
  let spans := (List.range (tR k.group)).flatMap fun v =>
    let at_ := localPlace k.desc v
    (at_.1, bytes.1) :: (if bytes.2 then [(at_.2, bytes.1 / 8)] else [])
  spans.map fun x => { ptr := BitVec.ofNat 64 x.1, data := (List.range x.2).map fun i => (Config.freeByte n (x.1 + i), false) }

/-- An inbound copy that stops goes on with undefined bytes: they are what it delivers, its status word is written and its flag
falls (R233, R236, R373). -/
def spoilCopy (s : State) (id : CoreId) (i : Nat) (k : Copy) : State :=
  { (s.modCopy id i fun c => { c with st := .writing, fault := none, out := undefinedLocal k s.free }) with free := s.free + 1 }

/-- A copy whose page fault was declined (R373): a deferred PAGE; its destination holds undefined bytes, or in global space
old and new bytes mixed. An AON store that has not opened its bracket has written nothing, and writes nothing. -/
def stopCopy (s : State) (id : CoreId) (i : Nat) (k : Copy) (t : Team) (f : PageWait) : State :=
  let s := deferFault s k 32 (b2n f.write) f.addr
  if k.op.aon ∧ k.seqWord.isNone then retireCopy s id i k
  else if k.op.outward then
      let outs := (outbound s t k).1
      let n := s.free
      let s := { s with free := s.free + 1 }
      let s := outs.foldl (fun s x => x.data.zipIdx.foldl (fun s b =>
        let p := x.ptr + BitVec.ofNat 64 b.2
        if Config.freeMix n (p.toNat) && (pageCause s t.space (pAddr p) true).isNone then
          dieWrite s t.space p [b.1] false (.copy id.die id.core) id.die
        else s) s) s
      retireCopy s id i k
  else spoilCopy s id i k

/-- Global ranges the copy reads and writes once it begins. -/
def copyReads (t : Team) (k : Copy) : List (W64 × Nat) :=
  if k.op.outward then
    if ctlDerive k.ctl then [] else (vecPairs t k).flatMap fun p => (vecRangesOf k p.1).tail
  else (if k.op.validated then [(seqPtr k.group, 8)] else []) ++ (vecPairs t k).flatMap fun p => vecRangesOf k p.1
def copyWrites (t : Team) (k : Copy) : List (W64 × Nat) :=
  if k.op.outward then
    (if k.op.aon then [(seqPtr k.group, 8)] else []) ++ (vecPairs t k).flatMap fun p =>
      if ctlDerive k.ctl then vecRangesOf k p.1 else (vecRangesOf k p.1).take 1
  else []

/-- The sequence word of a copy's tensor at HOME. -/
def seqWordOf (s : State) (t : Team) (k : Copy) : Nat := leNat (bytesOf (dieRead s t.space (seqPtr k.group) 8 t.die))

/-- The AON bracket opens (R235): an even word is raised by one; an odd one is tried again. -/
def aonBegin (s : State) (id : CoreId) (i : Nat) (k : Copy) (t : Team) : Option State :=
  if !k.op.aon || k.seqWord.isSome || (pageCause s t.space (pAddr (seqPtr k.group)) true).isSome then some s
  else
    let w := seqWordOf s t k
    if w % 2 = 1 then none
    else
      let s := flushSpan s id t.space (seqPtr k.group) 8
      let s := dieWrite s t.space (seqPtr k.group) (clean (leBytes 8 (w + 1))) true (.copy id.die id.core) id.die
      some (s.modCopy id i fun k => { k with seqWord := some (BitVec.ofNat 64 w) })

/-- A copy begins, or reads on: pages, the sequence word, then the reading (R236, R371); what it reads of a page under migration is
read later (R312). Until all is read it is in READING, and counts among the four. -/
def startCopy (s : State) (id : CoreId) (i : Nat) (k : Copy) (t : Team) : State :=
  match k.fault with
  | some f =>
    match f.answer with
    | some false => stopCopy s id i k t f
    | some true => s.modCopy id i fun k => { k with fault := none }
    | none => s
  | none =>
    let s := s.modCopy id i fun k => { k with st := .reading }
    match aonBegin s id i k t with
    | none => s
    | some s =>
      match (firstFault s t.space (copyReads t k) false).or (firstFault s t.space (copyWrites t k) true) with
      | some f => (addFault s f).modCopy id i fun k => { k with fault := some f }
      | none =>
        let s := (copyReads t k).foldl (fun s x => waitRange s t.space x.1 x.2 id.die) s
        if k.op.validated ∧ seqWordOf s t k % 2 = 1 then
          if k.attempts + 1 < 16 then s.modCopy id i fun k => { k with attempts := k.attempts + 1 }
          else spoilCopy (deferFault s k 37 0 (k.group.getD 0 0)) id i k
        else if k.op.outward then
          let r := outbound s t k
          let s := s.modCopy id i fun k => { k with st := .writing, out := r.1, exc := copyFlags r.2 }
          badIndex s k t
        else
          let out := inbound s t k
          badIndex (s.modCopy id i fun k => { k with st := .writing, out }) k t
where
  /-- The deferred BOUND of an index beyond the tensor (R234). -/
  badIndex (s : State) (k : Copy) (t : Team) : State :=
    if k.op.indexed then
      match (copyIndices t k).find? fun x => tR k.group ≤ x && x != 4294967295 with
      | some x => deferFault s k 33 11 (BitVec.ofNat 64 x)
      | none => s
    else s

/-- A copy in READING that may read on: it waits on no page, or its page's answer has come. -/
def Copy.readsOn (k : Copy) : Bool := k.st == .reading && match k.fault with | some f => f.answer.isSome | none => true

/-- A core and an index that exist. -/
def coreOk (id : CoreId) : Bool := id.die < 8 && id.core < 48

/-- EVENT TILE_COPY_START (R371): nothing unless the copy is the one that may begin, or reads on. -/
def execTileCopyStart (id : CoreId) (i : Nat) (s : State) : Out :=
  if !coreOk id then .fault .noSuchUnit
  else
    match (s.core id).copies[i]? with
    | none => .next s
    | some k =>
      if startable s id = some i ∨ k.readsOn then
        match s.team k.team with
        | some t => .next (startCopy s id i k t)
        | none => .next (retireCopy s id i k)
      else .next s

/-- Ranks that have yet to decide about a multicast (R370). -/
def Copy.undecided (k : Copy) (gang : Nat) : List Nat :=
  if 2 ≤ sdDest k.desc ∧ k.op ≠ .tgather then
    (List.range gang).filter fun r => (ctlRanks k.ctl).testBit r && !k.accepted.contains r && !k.refused.contains r
  else []

/-- The team of a gang by rank, for a copy's team. -/
def gangOf (s : State) (t : Team) (rank : Nat) : Option Team :=
  s.allTeams.find? fun x => x.launch == t.launch && x.gang == t.gang && x.rank == rank && !x.ended && x.ending.isNone

/-- EVENT MULTICAST_DELIVERY (R233, R370): the receiver accepts and takes the data whole, or refuses. -/
def execMulticastDelivery (id : CoreId) (i rank : Nat) (s : State) : Out :=
  if !coreOk id then .fault .noSuchUnit
  else match (s.core id).copies[i]? with
  | none => .next s
  | some k =>
    match s.team k.team with
    | none => .next s
    | some t =>
      if k.st = .writing ∧ (k.undecided t.gangSize).contains rank then
        let refuse := .next (s.modCopy id i fun k => { k with refused := rank :: k.refused })
        match gangOf s t rank with
        | none => refuse
        | some r =>
          let shape := copyShape k.op k.ctl k.group
          let out := if isB k.desc then (firstOut (r.share / 32) (colSpans k.desc (tR k.group) shape.1 shape.2)).isSome
            else (firstOut r.window (vecSpans k.desc (tR k.group) shape.1 shape.2)).isSome
          if !r.resident || out then refuse
          else
            -- ranges that the receiver's array or copies hold keep the delivery waiting (R212)
            let rs := if isB k.desc then colRanges r.id k.desc (tR k.group) shape.1 shape.2
              else vecRanges r.id k.desc (tR k.group) shape.1 shape.2
            -- of the issuer's own copies, only those before the multicast hold its own delivery
            let before := if r.id = k.team then (s.core id).copies.take i else copiesFor s
            if (r.bwait && isB k.desc) || (opsFor s).any (fun o => anyMeets rs o.ranges) || before.any (fun c => anyMeets rs (c.srcRanges)) ||
                atomsHold s rs then .next s
            else .next ((writeLocal s r.id (isB k.desc) k.out).modCopy id i fun k => { k with accepted := rank :: k.accepted })
      else .next s

/-- The global writes of a copy that has read, its sequence word last (R235, R371); a re-stitch performs them at once (R334). -/
def performOut (s : State) (id : CoreId) (i : Nat) (k : Copy) (space : Nat) : State :=
  let s := k.out.foldl (fun s x =>
    dieWrite (flushSpan s id space x.ptr x.data.length) space x.ptr x.data false (.copy id.die id.core) id.die) s
  let s := match k.seqWord with
    | some w => dieWrite (flushSpan s id space (seqPtr k.group) 8) space (seqPtr k.group) (clean (leBytes 8 (w.toNat + 2))) true (.copy id.die id.core) id.die
    | none => s
  s.modCopy id i fun k => { k with out := [], seqWord := none }

/-- EVENT TILE_COPY_RETIRE (R371): every write is performed, the status word or sequence word written, and the flag falls. -/
def execTileCopyRetire (id : CoreId) (i : Nat) (s : State) : Out :=
  if !coreOk id then .fault .noSuchUnit
  else match (s.core id).copies[i]? with
  | none => .next s
  | some k =>
    match s.team k.team with
    | none => .next s
    | some t =>
      if k.st ≠ .writing ∨ k.undecided t.gangSize ≠ [] then .next s
      else
        let s := if k.op.outward then
            let s := performOut s id i k t.space
            s.modWave ⟨k.team, k.wave⟩ fun w => { w with flg := (List.range 5).map fun n =>
              (w.flg.getD n 0) ||| (if k.exc.getD n false then 1 else 0) }
          else if 2 ≤ sdDest k.desc then
            windowWrite s k.team (ctlStat k.ctl) (clean (leBytes 8 (k.refused.foldl (fun a r => a ||| 2 ^ r) 0)))
          else writeLocal s k.team (isB k.desc) k.out
        let bytes := k.out.foldl (fun n x => n + x.data.length) 0
        let s := s.modTeam k.team fun t => { t with perf := t.perf.modify 5 (· + bytes) }
        -- the acquire of a validated read goes on with the flag, at TEAM, which raises no stamp (R236, R273, R295): what the core
        -- and its constellation hold from before is given up (DESIGN CHOICE, log 93)
        let s := if k.op.validated then renewCc s id t.space else s
        .next (retireCopy s id i k)

/-- EVENT DEFERRED_FAULT (R237): the wave in hand takes its deferred fault where it stands at a delivery point, a header
with E = 1 or one that names the copy's flag. -/
def execDeferredFault (w : WaveId) (s : State) : Out :=
  .next (s.withWave w fun s =>
    if s.w.cur.clause.isNone ∧ s.w.runIdx.isSome ∧ s.w.reports.isEmpty then
      match s.t.half s.w.cur.pc, s.t.half (s.w.cur.pc + 2) with
      | some lo, some hi =>
        let h := lo + hi * 65536
        let due (d : Deferred) : Bool := bitOf h 31 || (match d.flag with | some n => bitOf h (7 + n) && s.w.f.getD n 0 == 0 | none => false)
        if s.t.isHeader s.w.cur.pc && s.w.deferred.any due && !s.copiesReading then takeDeferred s due else s
      | _, _ => s
    else s)

/-! Steps of the array (R214, R421). -/

/-- Bytes of A that a step reads (R367). -/
def MatOp.aBytes (o : MatOp) : Nat :=
  let data := regionRows o.shape * Layout.k o.layout * Layout.elemBytes o.layout
  if o.layout = .ce16 then data + data / 8 else data

/-- ACLK of a step (R367): 64, and of MMAG what the peer path takes to bring its A at 128 bytes a cycle. -/
def MatOp.stepAclk (o : MatOp) : Nat :=
  if sdPeer o.a then max 64 (o.aBytes / 128) else 64

/-- MMAG's reads of a step count against the peer's core (R330). -/
def countPeerStep (s : State) (o : MatOp) (t : Team) (a : Option Team) : State :=
  match a with
  | some a => if sdPeer o.a then sextantAdd s t.die t.core a.core 2 ((o.aBytes + 63) / 64) else s
  | none => s

/-- The array after a step of its first instruction: while other teams wait, their oldest instructions come first, in turn; those of
one team stay in issue order (R203, R214) (DESIGN CHOICE, log 96). -/
def turnArray (team : Nat) (array : List MatOp) : List MatOp :=
  array.filter (·.team != team) ++ array.filter (·.team == team)

/-- A gang peer that has ended, or is ending, cannot supply A (R242). -/
def peerGone (a : Option Team) (own : Nat) : Bool :=
  match a with
  | none => true
  | some a => a.ended || (a.ending.isSome && a.id != own)

/-- Whether a core's array begins no step of `n` ACLK: during a hop (R415), a stretch (R416) or a self-test (R214), and where the duty
window has no room for it (R421). -/
def Core.arrayHeld (k : Core) (clock n : Nat) : Bool :=
  k.hop.isSome || clock < k.late || k.test.isSome || k.dutyLimit < k.dutyUsed + n

/-- EVENT ARRAY_STEP (R214): one step of the instruction whose turn it is, unless the array is held or a share of the B store is still to be
exchanged (R357). -/
def execArrayStep (id : CoreId) (s : State) : Out :=
  if !coreOk id then .fault .noSuchUnit
  else
    let k := s.core id
    match k.array with
    | [] => .next s
    | o :: rest =>
      if k.arrayHeld s.clock o.stepAclk then .next s
      else
        match s.team o.team with
        | none => .next (s.setCore { k with array := rest })
        | some t =>
          let a := s.team o.aTeam
          if t.bwait then .next s
          else if peerGone a t.id then
            let s := s.modWave ⟨o.team, o.wave⟩ fun w => if w.ended then w else
              { w.flagDown o.flag with deferred := w.deferred ++ [{ cause := 33, detail := 4, addr := 0, pc := o.pc, clause := o.clause, region := o.region, flag := o.flag }] }
            .next (s.setCore { s.core id with array := rest })
          else
            let t' := o.step t (if o.aTeam = t.id then t else a.getD t)
            let last := o.done + 1 ≥ o.steps
            let t' := if last then injectTile t' ((regionTiles o.shape o.zt).map (·.1)) else t'
            let s := s.modTeam o.team fun t => { t with
              tiles := t'.tiles, merrq := t'.merrq, merrqOvf := t'.merrqOvf, xsinj := t'.xsinj, perf := t.perf.modify 2 (· + 1) }
            let k := s.core id
            let array := turnArray o.team (if last then rest else { o with done := o.done + 1 } :: rest)
            let s := s.setCore { k.spend s.clock o.stepAclk with array, fell := if array.isEmpty then some s.clock else k.fell }
            let s := countPeerStep s o t a
            .next (if last then s.modWave ⟨o.team, o.wave⟩ (·.flagDown o.flag) else s)

end Sys2Proof.Machine
end

