-- ==== Sys2Proof/Machine/System.lean ====
section
/-! DEFINITION. Hems, the return from a trap, the system registers, time, services and counters (R259 to R267, R348 to
R351). -/

namespace Sys2Proof.Machine

/-! Hems (R259). -/

/-- HEMO: the handler is checked as a target of JMPI, then pushed. -/
def execHemo (a : SReg) (s : State) : Out :=
  let h := s.w.sreg a
  if 1 < s.w.used || 4 ≤ s.w.hems.length then .next (illopExec s 3)
  else if h.getLsbD 0 then .next (illopExec s 2 h)
  else if s.t.lacks h then
    .next (takeTrap s { cause := 17, detail := b2n (s.t.slots.any fun x => x.poisoned && x.tag.toNat / 4096 == h.toNat / 4096)
                        lanes := s.w.cur.mask, addr := h, pc := s.w.issuePc, next := s.w.cur.pc + 4 })
  else if (s.t.slotOf h).isNone then .next s.heldBack
  else if !s.t.isHeader h then .next (illopExec s 2 h)
  else .next (State.advanceNR { s with w := { s.w with hems := h :: s.w.hems } })

/-- HEMC: the innermost handler is popped. -/
def execHemc (s : State) : Out :=
  if 1 < s.w.used || s.w.hems.isEmpty then .next (illopExec s 3)
  else .next (State.advanceNR { s with w := { s.w with hems := s.w.hems.tail } })

/-! The return from a trap (R261, R345, R348). -/

/-- TRET in one mode: ILLOP outside a handler or with more than one path; a REGION return to an open loop's point waits for
the loop's matrix instructions and restores its tiles (R223). -/
def tret (s : State) (mode : TretMode) : State :=
  if !s.w.inHandler || 1 < s.w.used then illopExec s 3
  else
    let eff := effectiveMode s.w mode
    match (if eff = .region then s.w.mloop else none) with
    | some l =>
      if l.point = s.w.xtreg then
        let tiles := (List.range 4).filter l.tiles.testBit
        if teamBusy s tiles || (l.policy == 1 && s.c.test.isSome) then s.heldBack
        else
          let s := restoreLoop (s.advance 4) l
          returnTrap { s with w := { s.w with mloop := some { l with redirect := true } } } mode
      else returnTrap (s.advance 4) mode
    | none => returnTrap (s.advance 4) mode

/-- TRET.NEXT (R261). -/
def execTretNext (s : State) : Out := .next (tret s .next)
/-- TRET.SAME (R261). -/
def execTretSame (s : State) : Out := .next (tret s .same)
/-- TRET.REGION (R261). -/
def execTretRegion (s : State) : Out := .next (tret s .region)

/-! System registers (R18, R262, R263). -/

/-- XSEAMST as the wave reads it: OPEN, LIMIT and COUNT are of its own loop (R224). -/
def seamStatus (s : State) : W64 :=
  let v := s.t.xseamst.toNat
  let base := v / 2 ^ 32 * 2 ^ 32 + v % 2 ^ 17
  match s.w.mloop with
  | some l => BitVec.ofNat 64 (base + 2 ^ 25 + l.limit % 8 * 2 ^ 22 + l.retries % 8 * 2 ^ 19)
  | none => BitVec.ofNat 64 base

/-- XQUOTA (R263): the allowance of the launch card, and what has been committed (DEDUCED, log 50). -/
def quotaWord (s : State) : W64 :=
  match s.launch with
  | some l => BitVec.ofNat 64 (cardWord l.card 8 % 2 ^ 32 * 2 ^ 32 + l.used % 2 ^ 32)
  | none => 0

/-- Counter of a register number's group: XTVEC is 0, and so on (R262) (DEDUCED, log 51). -/
def readX (s : State) (x : Nat) : W64 :=
  let w := s.w
  match x with
  | 0 => s.t.xtvec
  | 1 => w.xtpc
  | 2 => w.xtreg
  | 3 => w.xtcause
  | 4 => w.xtlanes.setWidth 64
  | 5 => w.xtmask.setWidth 64
  | 6 => w.xtaddr
  | 8 => w.xtcls
  | 9 => w.xfprm
  | 20 => w.xprog
  | 21 => w.xhang
  | 22 => s.t.xbinage
  | 23 => s.t.xcapdly
  | 24 => w.xcapret
  | 29 => seamStatus s
  | 30 => s.t.xsinj
  | 35 => BitVec.ofNat 64 s.c.dutyNow
  | 36 => quotaWord s
  | n =>
    if n < 15 then (w.ten.getD (n - 10) 0).setWidth 64
    else if n < 20 then (w.flg.getD (n - 15) 0).setWidth 64
    else if n < 29 then s.t.xmtol.getD (n - 25) 0
    else s.t.xwatch.getD (n - 31) 0

/-- A write, with reserved bits ignored (R18 to R21, R45, R225, R263); XPROG, XHANG and XBINAGE wait for the wave's next
header, and a FLG bit written 1 is cleared. -/
def writeX (s : State) (x : Nat) (v : W64) : State :=
  let w := s.w
  let low := v.setWidth 32
  match x with
  | 0 => { s with t := { s.t with xtvec := v } }
  | 9 => { s with w := { w with xfprm := v &&& 3 } }
  | 20 => { s with w := { w with xprogNew := some (v &&& 0xFFF1) } }
  | 21 => { s with w := { w with xhangNew := some (v &&& 0xFFFFFFFF) } }
  | 22 => { s with w := { w with xbinageNew := some (v &&& 0xFFFFFF) } }
  | 23 => { s with t := { s.t with xcapdly := v &&& 0xFFFFFFFF } }
  | 24 => { s with w := { w with xcapret := v } }
  | 30 => { s with t := { s.t with xsinj := v &&& 0x800FFFC0FFFFFFFF } }
  | n =>
    if n < 15 then { s with w := { w with ten := w.ten.set (n - 10) low } }
    else if n < 20 then { s with w := { w with flg := w.flg.modify (n - 15) (· &&& ~~~low) } }
    else if n < 29 then { s with t := { s.t with xmtol := s.t.xmtol.set (n - 25) v } }
    else { s with t := { s.t with xwatch := s.t.xwatch.set (n - 31) (v &&& 0xFFFFFFFFFFFFFFF3) } }

/-- XSINJ exists in debug mode only (R18, R393). -/
def debugOff (s : State) (x : Nat) : Bool := x == 30 && !(match s.part s.t.part with | some p => p.debug | none => false)

/-- MOVX with opt 0 (R262). -/
def execMovxR (c : SReg) (x : Fin 64) (s : State) : Out :=
  if debugOff s x.val then .next (illop s 0)
  else .next ({ s with w := s.w.setS c (readX s x.val) }.advance 4)

/-- MOVX with opt 1 (R262). -/
def execMovxW (x : Fin 64) (a : SReg) (s : State) : Out :=
  if debugOff s x.val then .next (illop s 0)
  else .next ((writeX s x.val (s.w.sreg a)).advance 4)

/-- MOVX with opt 2 (R262, R349): the value for the trapped instruction's destination, by lane. -/
def execMovxDst (g : Fin 64) (s : State) : Out :=
  match (if s.w.inHandler then s.w.frame else none) with
  | none => .next (illopExec s 3)
  | some f =>
    let n := match f.dst with | .none => 0 | .regs _ n => n | .mask _ => 1
    if (n != 0 && g.val % n != 0) || s.t.n < g.val + n then .next (illopExec s 0)
    else
      let vals := (List.range 32).map fun i => (List.range n).map fun k => (s.w.lane i).reg (g.val + k)
      .next (State.advance { s with w := { s.w with xtdst := some (n, vals) } } 4)

/-! Time, services and counters. -/

/-- RDTIME (R265). -/
def execRdtime (c : SReg) (s : State) : Out := .next ({ s with w := s.w.setS c (BitVec.ofNat 64 s.now) }.advance 4)

/-- What a service call blocks on. -/
def serviceKey (code : Nat) : Nat × Nat := (3, code)

/-- TRAPI (R266, R351): the trap, a service call, or nothing where no lane acts (DEDUCED, log 62). -/
def execTrapi (h l : BitVec 6) (s : State) : Out :=
  let code := h.toNat * 64 + l.toNat
  let lanes := s.w.acting
  if lanes = 0 then .next s.advanceNR
  else if code < 3840 then
    .next (takeTrap (s.onCur fun e => { e with fresh := true })
      { cause := 19, detail := code, lanes, pc := s.w.issuePc, next := s.w.cur.pc + 4 })
  else if code < 3842 then
    match s.w.cur.blocked with
    | some b =>
      if b.done then .next (State.advanceNR { s with w := s.w.setS 63 (BitVec.ofNat 64 b.num) })
      else .next (s.block b)
    | none => .next (s.block { pc := s.w.cur.pc, key := some (serviceKey code) })
  else .next (State.advanceNR { s with w := s.w.setS 63 (BitVec.allOnes 64) })

/-- PERFQ (R267). -/
def execPerfq (c : SReg) (n : Fin 64) (s : State) : Out :=
  let v := match n.val with
    | 0 => s.w.issued
    | 1 => s.w.granted
    | 10 => s.t.residentNs + (if s.t.resident then s.now - s.t.since else 0)
    | k => s.t.perf.getD k 0
  .next ({ s with w := s.w.setS c (BitVec.ofNat 64 v) }.advance 4)

end Sys2Proof.Machine
end

