-- ==== Sys2Proof/Machine/Uses.lean ====
section
/-! DEFINITION. What each instruction names, for the checks made before it issues: registers read and written (R10, R13,
R156), its mark (R67), its place in a clause (R36, R65, R66, R244), its legality under EXT (R73) and in a capsule body
(R246), and whether it has an effect outside the wave (R378). -/

namespace Sys2Proof.Machine

/-- Operands with the number of 32-bit registers that each names: read, written, read as store data (R156), and the
scalar registers read. -/
structure Uses where
  reads : List (Opd × Nat) := []
  dst : List (Opd × Nat) := []
  data : List (Opd × Nat) := []
  /-- named without being read as operands: the second pair of CAPADOPT's group (R250), the first register of MOVX.DST -/
  named : List (Opd × Nat) := []
  s : List Nat := []
  deriving DecidableEq, Repr

def IW.regs : IW → Nat | .w32 => 1 | .w64 => 2

def srcUse (w : IW) : Src → List (Opd × Nat)
  | .r o => [(o, IW.regs w)]
  | .i _ => []

def hUse : HSrc → List (Opd × Nat)
  | .r h => [(HReg.opd h, 1)]
  | .i _ => []

def dstUse (w : IW) (d : Dst) : Opd × Nat := (d.toOpd, IW.regs w)
def sizeRegs : MSize → Nat | .n64 => 2 | .n128 => 4 | _ => 1
def atomRegs (w : IW) (p : AtomOp) : Nat := IW.regs w * (if p = .cas then 2 else 1)
/-- S registers of a tensor group (R230). -/
def groupUse (a : Fin 16) : List Nat := (List.range 4).map (4 * a.val + ·)

/-- What an instruction reads, whose poison it consumes by issuing (R156), PREFG's base among it (DEDUCED, log 102), and what it
writes, as far as registers beyond N and L are checked at decode (R10, R13). -/
def Instr.uses : Instr → Uses
  | .add w d a b | .sub w d a b | .mul w d a b | .mulhI w d a b | .mulhN w d a b | .minI w d a b | .minN w d a b
  | .maxI w d a b | .maxN w d a b | .and w d a b | .or w d a b | .xor w d a b =>
    { reads := (a, IW.regs w) :: srcUse w b, dst := [dstUse w d] }
  | .shl w d a b | .shrN w d a b | .shrI w d a b | .rot w d a b =>
    { reads := (a, IW.regs w) :: srcUse .w32 b, dst := [dstUse w d] }
  | .divI d a b | .divN d a b | .remI d a b | .remN d a b | .addcN d a b | .bfxN d a b | .bfxI d a b =>
    { reads := (a, 1) :: srcUse .w32 b, dst := [dstUse .w32 d] }
  | .mad d a b | .bfi d a b => { reads := dstUse .w32 d :: (a, 1) :: srcUse .w32 b, dst := [dstUse .w32 d] }
  | .divIT64 d a b | .divNT64 d a b | .remIT64 d a b | .remNT64 d a b | .addcNT64 d a b | .padd d a b =>
    { reads := [(a, 2), (b, 2)], dst := [dstUse .w64 d] }
  | .madT64 d a b => { reads := [dstUse .w64 d, (a, 2), (b, 2)], dst := [dstUse .w64 d] }
  | .bfxNT64 d a b | .bfxIT64 d a b => { reads := [(a, 2), (b, 1)], dst := [dstUse .w64 d] }
  | .bfiT64 d a b => { reads := [dstUse .w64 d, (a, 2), (b, 1)], dst := [dstUse .w64 d] }
  | .divII64 d a _ | .divNI64 d a _ | .remII64 d a _ | .remNI64 d a _ | .addcNI64 d a _ | .bfxNI64 d a _
  | .bfxII64 d a _ | .paddI d a _ => { reads := [(a, 2)], dst := [dstUse .w64 d] }
  | .madI64 d a _ | .bfiI64 d a _ => { reads := [dstUse .w64 d, (a, 2)], dst := [dstUse .w64 d] }
  | .neg d a | .abs d a | .not d a | .popc d a | .clz d a | .brev d a => { reads := [(a, 1)], dst := [dstUse .w32 d] }
  | .neg64 d a | .abs64 d a | .not64 d a | .popc64 d a | .clz64 d a | .brev64 d a =>
    { reads := [(a, 2)], dst := [dstUse .w64 d] }
  | .fadd t d a b | .fsub t d a b | .fmul t d a b | .fmin t d a b | .fmax t d a b | .fdiv t d a b =>
    { reads := [(a, IW.regs t.iw), (b, IW.regs t.iw)], dst := [dstUse t.iw d] }
  | .fma t d a b => { reads := [dstUse t.iw d, (a, IW.regs t.iw), (b, IW.regs t.iw)], dst := [dstUse t.iw d] }
  | .fscale t d a b => { reads := [(a, IW.regs t.iw), (b, 1)], dst := [dstUse t.iw d] }
  | .faddI t d a _ | .fsubI t d a _ | .fmulI t d a _ | .fminI t d a _ | .fmaxI t d a _ | .fdivI t d a _
  | .fscaleI t d a _ => { reads := [(a, IW.regs t.iw)], dst := [dstUse t.iw d] }
  | .fmaI t d a _ => { reads := [dstUse t.iw d, (a, IW.regs t.iw)], dst := [dstUse t.iw d] }
  | .fsqrt t d a | .frcp t d a | .frsq t d a | .fexp2 t d a | .flog2 t d a | .fsin t d a | .fcos t d a
  | .frnd _ t d a => { reads := [(a, IW.regs t.iw)], dst := [dstUse t.iw d] }
  | .fclass t d a => { reads := [(a, IW.regs t.iw)], dst := [dstUse .w32 d] }
  | .cmp t _ _ a b => { reads := (a, IW.regs t.iw) :: srcUse t.iw b }
  | .fcmp t _ _ a b => { reads := (a, IW.regs t.iw) :: srcUse t.iw b }
  | .mov w d a => { reads := [(a, IW.regs w)], dst := [dstUse w d] }
  | .movi w d _ => { dst := [dstUse w d] }
  | .sel _ d a b => { reads := [(a, 1), (b, 1)], dst := [dstUse .w32 d] }
  | .sel64 _ d a b => { reads := [(a, 2), (b, 2)], dst := [dstUse .w64 d] }
  | .cvt _ dt st d a | .cvtRdn dt st d a => { reads := [(a, IW.regs st.iw)], dst := [dstUse dt.iw d] }
  | .npack _ d a => { reads := [(a, 4)], dst := [dstUse .w32 d] }
  | .nunpk f d a => { reads := [(a, 1)], dst := [(d.toOpd, f.group)] }
  | .shflIdx d a b | .shflUp d a b | .shflDown d a b | .shflXor d a b | .bcast d a b =>
    { reads := [(a, 1), (b, 1)], dst := [dstUse .w32 d] }
  | .voteAll _ a | .voteAny _ a | .voteEq _ a => { reads := [(a, 1)] }
  | .wred _ t d a | .wscan _ t d a => { reads := [(a, IW.regs t.iw)], dst := [dstUse t.iw d] }
  | .movs _ a b => { reads := [(a, 1), (b, 1)] }
  | .sadd _ a b | .ssub _ a b | .smul _ a b | .sand _ a b | .sor _ a b | .sxor _ a b | .sshl _ a b | .sshr _ _ a b
  | .scmp _ _ a b | .scmpU _ _ a b => { s := [a.val, b.val] }
  | .saddImm d _ | .ssubImm d _ | .smulImm d _ | .sandImm d _ | .sorImm d _ | .sxorImm d _ | .sshlImm d _
  | .sshrImm _ d _ | .scmpImm _ d _ | .scmpUImm _ d _ => { s := [d.val] }
  | .smov _ a => { s := [a.val] }
  | .ldg z _ d b => { reads := [(b, 2)], dst := [(d.toOpd, sizeRegs z)] }
  | .stg z _ d b => { reads := [(b, 2)], data := [(d, sizeRegs z)] }
  | .sldg _ _ a => { s := [a.val] }
  | .prefg _ _ b => { reads := [(b, 2)] }
  | .lds z _ d b | .ldp z _ d b => { reads := [(b, 1)], dst := [(d.toOpd, sizeRegs z)] }
  | .sts z _ d b | .stp z _ d b => { reads := [(b, 1)], data := [(d, sizeRegs z)] }
  | .ldl z _ d b | .ldk z _ d b => { reads := [(b, 1)], dst := [(d.toOpd, sizeRegs z)] }
  | .stl z _ d b => { reads := [(b, 1)], data := [(d, sizeRegs z)] }
  | .atomg _ _ w p d b => { reads := [(d, atomRegs w p), (b, 2)], dst := [(d, IW.regs w)] }
  | .redg _ _ w p d b => { reads := [(d, atomRegs w p), (b, 2)] }
  | .atoms _ _ w p d b | .atomp _ _ w p d b => { reads := [(d, atomRegs w p), (b, 1)], dst := [(d, IW.regs w)] }
  | .tlook d a | .tevict d a => { reads := [(a, 2)], dst := [dstUse .w32 d] }
  | .tset d a b => { reads := [(a, 2), (b, 1)], dst := [dstUse .w64 d] }
  | .jmpi s | .ret s | .cfetch _ s => { s := [s.val] }
  | .movH d s | .cvtF32I32H d s => { reads := hUse s, dst := [(HReg.opd d, 1)] }
  | .addH d s | .subH d s | .mulH d s | .andH d s | .orH d s | .xorH d s | .shlH d s | .shrNH d s | .faddH d s
  | .fmulH d s | .fmaxH d s | .fminH d s => { reads := (HReg.opd d, 1) :: hUse s, dst := [(HReg.opd d, 1)] }
  | .fmaH d s => { reads := (HReg.opd d, 1) :: (.l, 1) :: hUse s, dst := [(HReg.opd d, 1)] }
  | .reform c => { reads := (List.range (max 1 c.toNat)).map fun i => (.g (Fin.ofNat 96 i), 1) }   -- G0 is the next PC (R114)
  | .scopeq _ a | .scopefz _ a | .scopeth _ a => { s := [a.val] }
  | .bara k _ b a => { s := a.val :: (if k = .const then [b.val] else []) }
  | .barw k c b a => { s := a.val :: b.val :: (if k = .const then [c.val] else []) }
  | .sleept _ a => { s := [a.val] }
  | .spinit _ b _ | .spop _ b _ | .sptryPop _ b _ => { s := [b.val] }
  | .spush c b _ | .sptryPush c b _ => { s := [c.val, b.val] }
  | .msend _ c a => { s := [c.val, c.val + 1, a.val] }
  | .mrecv _ b a => { s := [b.val, a.val] }
  | .mloopOpen a | .mzero _ _ a => { s := [a.val] }
  | .mma _ c b a | .mmag _ c b a | .mdrain c b a => { s := [c.val, b.val, a.val] }
  | .mloadz k _ c b a => { s := c.val :: b.val :: (if k = .scratch then [a.val] else []) }
  | .tcopy _ c b a | .tgather c b a | .tscat c b a | .tstore _ c b a => { s := c.val :: b.val :: groupUse a }
  | .tloadv b a => { s := b.val :: groupUse a }
  | .job b a => { s := [b.val, a.val] }
  | .jseq _ _ a => { s := [a.val] }
  | .enq _ b _ => { s := [b.val] }
  | .fsopen _ a | .fsclose a | .fscancel a | .fsq _ a => { s := [a.val] }
  | .fswait tmo _ b a => { s := a.val :: (if tmo then [b.val] else []) }
  | .capb _ _ g => { reads := [(.g (Fin.ofNat 96 (4 * g.val)), 4)] }
  | .capadopt _ _ g => { reads := [(.g (Fin.ofNat 96 (4 * g.val)), 2)], named := [(.g (Fin.ofNat 96 (4 * g.val + 2)), 2)] }
  | .movxDst g => { named := [(.g (Fin.ofNat 96 g.val), 1)] }   -- as many more as the destination has when it executes (R349)
  | .capq _ a | .hemo a | .movxW _ a => { s := [a.val] }
  | _ => {}

/-- Every operand named. -/
def Uses.operands (u : Uses) : List (Opd × Nat) := u.reads ++ u.dst ++ u.data ++ u.named

/-- Names a G register at or above `n` (R10). -/
def Uses.beyond (u : Uses) (n : Nat) : Bool :=
  u.operands.any fun x => match x.1 with | .g r => n < r.val + x.2 | _ => false

/-- Reads L (R13). -/
def Uses.latch (u : Uses) : Bool := (u.reads ++ u.data).any fun x => x.1 == .l

/-- The instructions that take no part in the latch (R13): memory, atomic and tag instructions. -/
def Instr.memory : Instr → Bool
  | .ldg .. | .lds .. | .ldp .. | .ldl .. | .ldk .. | .atomg .. | .atoms .. | .atomp .. | .redg .. | .tlook .. | .tset ..
  | .tevict .. => true
  | _ => false

/-- The destination that XTDST stands for, and whether the instruction writes L (R13, R349). -/
def Instr.trapDst (i : Instr) : TrapDst × Bool :=
  match i with
  | .cmp _ _ m _ _ | .fcmp _ _ m _ _ | .voteAll m _ | .voteAny m _ | .voteEq m _ => (.mask m, true)
  | _ =>
    match (Instr.uses i).dst with
    | (.g r, n) :: _ => (.regs r.val n, !Instr.memory i)
    | (.k r, n) :: _ => (.regs (96 + r.val) n, !Instr.memory i)
    | (.l, n) :: _ => (.regs 104 n, true)
    | _ => (.none, false)

/-- The fixed mark (R67): false A, true B. -/
def Instr.mark : Instr → Option Bool
  | .ldg .. | .sldg .. | .lds .. | .ldp .. | .ldl .. | .ldk .. | .atomg .. | .atoms .. | .atomp .. | .tlook .. | .spop ..
  | .sptryPop .. | .sptryPush .. | .mrecv .. => some false
  | .stg .. | .redg .. | .sts .. | .stp .. | .stl .. | .spush .. | .msend .. | .tcopy .. | .tgather .. | .tscat ..
  | .tstore .. | .tloadv .. | .cfetch .. | .mma .. | .mmag .. | .mloadz .. | .mdrain .. | .job .. => some true
  | _ => none

/-- Non-repeatable operations (R36, R244). -/
def Instr.nonRepeatable : Instr → Bool
  | .atomg .. | .atoms .. | .atomp .. | .redg .. | .spush .. | .spop .. | .sptryPop .. | .sptryPush .. | .msend ..
  | .mrecv .. | .bar .. | .bara .. | .barw .. | .scopefz .. | .scopeth .. | .enq .. | .job .. | .fsopen .. | .fsclose ..
  | .fscancel .. | .capb .. | .cstep | .cape | .capadopt .. | .hemo .. | .hemc | .trapi .. => true
  | _ => false

/-- Must be the last instruction of its clause (R66). -/
def Instr.ends (i : Instr) : Bool :=
  Instr.nonRepeatable i || match i with
    | .bra .. | .brd .. | .call .. | .ret .. | .jmpi .. | .fjmp .. | .rjoin .. | .rjoinW .. | .yield | .yieldW
    | .reform .. => true
    | _ => false

/-- May be the last instruction of a segment (R65). -/
def Instr.lastOk : Instr → Bool
  | .bra .. | .jmpi .. | .fjmp .. | .ret .. | .reform .. | .tretNext | .tretSame | .tretRegion | .exit => true
  | _ => false

/-- The immediate field of an instruction that EXT may precede (R73): its value as a signed number, and its width (DEDUCED, log 105). -/
def Instr.imm : Instr → Option (Int × Nat)
  | .add _ _ _ (.i v) | .sub _ _ _ (.i v) | .mul _ _ _ (.i v) | .mulhI _ _ _ (.i v) | .mulhN _ _ _ (.i v)
  | .minI _ _ _ (.i v) | .minN _ _ _ (.i v) | .maxI _ _ _ (.i v) | .maxN _ _ _ (.i v) | .and _ _ _ (.i v)
  | .or _ _ _ (.i v) | .xor _ _ _ (.i v) | .shl _ _ _ (.i v) | .shrN _ _ _ (.i v) | .shrI _ _ _ (.i v)
  | .rot _ _ _ (.i v) => some (v.toInt, 7)
  | .divI _ _ (.i v) | .divN _ _ (.i v) | .remI _ _ (.i v) | .remN _ _ (.i v) | .addcN _ _ (.i v) | .mad _ _ (.i v)
  | .bfxN _ _ (.i v) | .bfxI _ _ (.i v) | .bfi _ _ (.i v) => some (v.toInt, 7)
  | .divII64 _ _ v | .divNI64 _ _ v | .remII64 _ _ v | .remNI64 _ _ v | .addcNI64 _ _ v | .madI64 _ _ v | .bfxNI64 _ _ v
  | .bfxII64 _ _ v | .bfiI64 _ _ v | .paddI _ _ v => some (v.toInt, 7)
  | .faddI _ _ _ v | .fsubI _ _ _ v | .fmulI _ _ _ v | .fmaI _ _ _ v | .fminI _ _ _ v | .fmaxI _ _ _ v | .fdivI _ _ _ v
  | .fscaleI _ _ _ v => some (v.toInt, 7)
  | .cmp _ _ _ _ (.i v) | .fcmp _ _ _ _ (.i v) => some (v.toInt, 7)
  | .movi _ _ v => some (v.toInt, 7)
  | .ldg _ (.plain v) _ _ | .stg _ (.plain v) _ _ | .lds _ (.plain v) _ _ | .sts _ (.plain v) _ _ | .ldp _ (.plain v) _ _
  | .stp _ (.plain v) _ _ => some (v.toInt, 7)
  | .prefg _ v _ | .ldl _ v _ _ | .stl _ v _ _ | .ldk _ v _ _ => some (v.toInt, 7)
  | .saddImm _ v | .ssubImm _ v | .smulImm _ v | .sandImm _ v | .sorImm _ v | .sxorImm _ v | .sshlImm _ v
  | .sshrImm _ _ v | .scmpImm _ _ v | .scmpUImm _ _ v | .smovi _ v | .fjmp _ _ v => some (v.toInt, 12)
  | _ => none

/-- A shift or rotation by an immediate (R116), and the scalar shifts (R143). -/
def Instr.shiftImm : Instr → Bool
  | .shl _ _ _ (.i _) | .shrN _ _ _ (.i _) | .shrI _ _ _ (.i _) | .rot _ _ _ (.i _) => true
  | _ => false
def Instr.sshiftImm : Instr → Bool
  | .sshlImm .. | .sshrImm .. => true
  | _ => false

/-- An F16 or BF16 immediate form (R72). -/
def Instr.halfImm : Instr → Bool
  | .faddI t _ _ _ | .fsubI t _ _ _ | .fmulI t _ _ _ | .fmaI t _ _ _ | .fminI t _ _ _ | .fmaxI t _ _ _ | .fdivI t _ _ _
  | .fcmp t _ _ _ (.i _) => t == .f16 || t == .bf16
  | _ => false

/-- The immediate as it stands breaks a rule (R72, R73, R116, R143), given the EXT payload. -/
def immBad (i : Instr) (ext : Option (BitVec 25)) : Bool :=
  match ext, Instr.imm i with
  | some _, none => true
  | some p, some (v, n) =>
    let full : BitVec 32 := p ++ BitVec.ofInt 7 v
    (n == 12 && ((BitVec.ofInt 12 v).toNat / 128 != 0)) ||
      (Instr.halfImm i && full.toNat / 65536 != 0) || (Instr.sshiftImm i && full.msb)
  | none, some (v, _) => (Instr.shiftImm i || Instr.sshiftImm i) && v < 0
  | none, none => false

/-! Capsule bodies (R246). -/

/-- An operand that a body may name. -/
def bodyOpd (o : Opd) (n : Nat) : Bool :=
  match o with
  | .k _ | .zero => true
  | .l | .tid => n == 1
  | _ => false

/-- Instructions that a body may hold, by group. -/
def Instr.bodyOk : Instr → Bool
  | .shflIdx .. | .shflUp .. | .shflDown .. | .shflXor .. | .bcast .. | .voteAll .. | .voteAny .. | .voteEq .. | .wred ..
  | .wscan .. | .movs .. | .mpop .. | .mfirst .. => false
  | .sadd .. | .saddImm .. | .ssub .. | .ssubImm .. | .smul .. | .smulImm .. | .sand .. | .sandImm .. | .sor .. | .sorImm ..
  | .sxor .. | .sxorImm .. | .sshl .. | .sshlImm .. | .sshr .. | .sshrImm .. | .scmp .. | .scmpImm .. | .scmpU ..
  | .scmpUImm .. | .smov .. | .smovi .. => false
  | .ldg _ (.plain _) _ _ | .stg _ (.plain _) _ _ => true
  | .ldg .. | .stg .. | .sldg .. | .prefg .. | .lds .. | .sts .. | .ldp .. | .stp .. | .ldl .. | .stl .. | .ldk .. | .atomg ..
  | .redg .. | .atoms .. | .atomp .. | .tlook .. | .tset .. | .tevict .. => false
  | .call .. | .ret .. | .jmpi .. | .fjmp .. | .reform .. | .yield | .yieldW | .exit | .brk .. | .cfetch .. | .trapi .. => false
  | .fence .. | .scope .. | .scopeq .. | .scopefz .. | .scopeth .. | .bar .. | .bara .. | .barw .. | .waitf .. | .sleept ..
  | .spinit .. | .spush .. | .spop .. | .sptryPop .. | .sptryPush .. | .msend .. | .mrecv .. => false
  | .mloopOpen .. | .mloopClose | .mma .. | .mmag .. | .mzero .. | .mloadz .. | .mdrain .. | .mseam .. | .mseamloc ..
  | .mseamfix .. | .mflags .. | .merrq .. | .tcopy .. | .tgather .. | .tscat .. | .tstore .. | .tloadv .. | .job .. | .jseq ..
  | .enq .. | .fsopen .. | .fsclose .. | .fswait .. | .fscancel .. | .fsq .. => false
  | .capb .. | .capadopt .. | .capq .. => false
  | .hemo .. | .hemc | .tretNext | .tretSame | .tretRegion | .movxR .. | .movxW .. | .movxDst .. | .rdtime .. | .perfq .. => false
  | _ => true

def Instr.isStg : Instr → Bool | .stg .. => true | _ => false
def Instr.isLdgStg : Instr → Bool | .ldg .. | .stg .. => true | _ => false
def Instr.branch : Instr → Option Int
  | .bra i | .brd _ i => some i.toInt
  | _ => none

/-- Instructions that act by lane, in no lane where none acts (R14, R243); all others act once per issue. -/
def Instr.byLane : Instr → Bool
  | .stg .. | .sts .. | .stp .. | .stl .. | .redg .. | .atomg .. | .atoms .. | .atomp .. | .tset .. | .tevict .. | .capb ..
  | .capadopt .. => true
  | _ => false

/-- A call of the fault service (R351). -/
def Instr.service : Instr → Bool
  | .trapi h _ => 60 ≤ h.toNat
  | _ => false

/-- An effect outside the wave, which the umbra's comparison holds (R378, R380); a service call has one, and returns a value (R351)
(DESIGN CHOICE, log 30). -/
def Instr.outside : Instr → Bool
  | .stg .. | .sts .. | .stp .. | .stl .. | .redg .. | .atomg .. | .atoms .. | .atomp .. | .spush .. | .sptryPush .. | .msend ..
  | .job .. | .tset .. | .tevict .. | .cstep | .cape | .capb .. | .capadopt .. | .cfetch .. | .enq .. | .fsopen ..
  | .fsclose .. | .fscancel .. => true
  | .mloopOpen .. | .mloopClose | .mma .. | .mmag .. | .mzero .. | .mloadz .. | .mdrain .. | .tcopy .. | .tgather .. | .tscat ..
  | .tstore .. | .tloadv .. => true
  | .movxW x _ => x.val == 0 || x.val == 22 || x.val == 23 || (25 ≤ x.val && x.val ≤ 34)
  | .trapi h _ => 60 ≤ h.toNat
  | _ => false

/-- Returns a value from outside the wave, which the umbra takes from the result queue (R378). -/
def Instr.fromOutside : Instr → Bool
  | .ldg .. | .sldg .. | .lds .. | .ldp .. | .ldl .. | .ldk .. | .atomg .. | .atoms .. | .atomp .. | .tlook .. | .spop ..
  | .sptryPop .. | .sptryPush .. | .mrecv .. | .scope .. | .scopeq .. | .scopefz .. | .scopeth .. | .capb .. | .capadopt ..
  | .capq .. | .enq .. | .fsopen .. | .fswait .. | .fsq .. | .jseq .. | .rdtime .. | .perfq .. | .mseam .. | .mseamloc ..
  | .mseamfix .. | .mflags .. | .merrq .. | .movxR .. => true
  | .trapi h _ => 60 ≤ h.toNat
  | _ => false

/-- Has no effect in the umbra (R378): barriers and waits, and what only prepares an access. -/
def Instr.idle : Instr → Bool
  | .bar .. | .bara .. | .barw .. | .fence .. | .waitf .. | .sleept .. | .yield | .yieldW | .prefg .. | .spinit .. => true
  | _ => false

/-- The umbra executes the instruction on its own registers (R378). -/
def Instr.ownRegs (i : Instr) : Bool := !Instr.outside i && !Instr.fromOutside i && !Instr.idle i

/-- Begins or extends an instruction and is none itself (R64, R73). -/
def Instr.prefix_ : Instr → Bool
  | .clause .. | .ext _ => true
  | _ => false

/-- The scalar register that a value from outside the wave is returned in at once. -/
def Instr.returned : Instr → List Nat
  | .scope _ c | .scopeq c _ | .scopefz c _ | .scopeth c _ | .mseam c _ | .mseamloc c _ | .mseamfix c _ | .mflags _ c _ | .merrq _ c
  | .jseq _ c _ | .enq c _ _ | .fsopen c _ | .fswait _ c _ _ | .fsq c _ | .capq c _ | .movxR c _ | .rdtime c | .perfq c _ => [c.val]
  | .trapi .. => [63]
  | _ => []

/-- The mask registers that an instruction returns what it found in (R248). -/
def Instr.returnedMasks : Instr → List Nat
  | .capb _ m _ => [m.val, m.val + 1, m.val + 2]
  | .capadopt _ m _ => [m.val, m.val + 1]
  | _ => []

/-- A plain store, which the comparison buffer holds while its leader goes on (R379). -/
def Instr.plainStore : Instr → Bool
  | .stg _ (.plain _) _ _ | .sts _ (.plain _) _ _ | .stp _ (.plain _) _ _ | .stl .. => true
  | _ => false

/-- Acts on the wave's own registers alone, and leaves its paths as they are: it need not wait for the operations that the
comparison buffer holds (R378, R379) (DESIGN CHOICE, log 30). -/
def Instr.ownOnly (i : Instr) : Bool :=
  !Instr.outside i && !Instr.fromOutside i && !Instr.ends i &&
  match i with
  | .clause e _ _ _ _ => !e
  | .exit | .brk .. | .tretNext | .tretSame | .tretRegion | .fence .. | .waitf .. | .sleept .. | .spinit .. | .hemo .. | .hemc
  | .movxW .. | .movxDst .. | .rjoin .. | .prefg .. => false
  | _ => true

end Sys2Proof.Machine
end

