-- ==== Sys2Proof/Machine/Issue.lean ====
section
/-! DEFINITION. From the grant to the instruction: fetching (R39, R40), reports at the boundary (R347, R350), the checks of a
clause word (R64 to R66, R73), the decode checks (R10, R13, R246), and what holds or replaces an instruction before it acts
(R15, R156, R237, R364, R380). -/

namespace Sys2Proof.Machine

/-! Fetching. -/

/-- The word that decoding takes at a code pointer, none where the segment has not landed. A word that would cross the
segment's end is short (R65). -/
def Team.fetch (t : Team) (pc : W64) : Option (Dec Instr) :=
  (t.half pc).map fun h => decodeHalves h (if pc.toNat % 4096 ≤ 4092 then t.half (pc + 2) else none)

/-- The clause header's word at a pointer. -/
def Team.headerWord (t : Team) (pc : W64) : Nat := (t.half pc).getD 0 + (t.half (pc + 2)).getD 0 * 65536

/-- Length of the instruction at a pointer, an EXT with the instruction that it extends. -/
def Team.instrLen (t : Team) (pc : W64) : Nat :=
  match t.half pc with
  | some h => if h % 2 = 0 then 2 else if h % 128 = 125 then 8 else 4
  | none => 4

/-- The running entry stands at a clause boundary: outside a clause, or at the header that ends one. -/
def atBoundary (s : State) : Bool :=
  match s.w.cur.clause with
  | none => true
  | some c => c.ext.isNone && 0 < c.count && s.t.isHeader s.w.cur.pc

/-! The leader of an umbra (R377 to R382). -/

/-- Entries of the result queue that the umbra has yet to take (R378, R379). -/
def Umbra.results (u : Umbra) : Nat :=
  (u.trail.filter fun x => match x with | .op o => o.queued | .event _ => true | .own .. => false).length

/-- Instructions that the leader has issued and the umbra has not (R379). -/
def Umbra.lag (u : Umbra) : Nat :=
  (u.trail.filter fun x => match x with | .op _ => true | .own i _ => !Instr.prefix_ i | .event _ => false).length

/-- The umbra has yet to come to where its leader is. -/
def Wave.lagging (w : Wave) : Bool := match w.umbra with | some u => !u.trail.isEmpty | none => false

/-- Operations that the comparison buffer holds (R380). -/
def Wave.buffered (w : Wave) : Nat := (w.pend.filter (·.held)).length

/-- The result queue of 64 entries is full (R379). -/
def Wave.queueFull (w : Wave) : Bool := match w.umbra with | some u => 64 ≤ u.results | none => false

/-- The leader cannot issue: a queue is full (R379). -/
def Wave.stallsLeader (w : Wave) : Bool := w.umbra.isSome && (w.queueFull || 16 ≤ w.buffered)

/-- The leader waits for operations that are held (R379). -/
def State.waitHeld (s : State) : State := { s.heldBack with w := { s.heldBack.w with waitsHeld := true } }

/-- An operation with an effect outside the wave that is compared before it acts (R380): all but the plain stores, which the
comparison buffer holds while their leader goes on. CSTEP and CAPE act whatever EXEC holds (R249, R253). -/
def Wave.mustCompare (w : Wave) (i : Instr) : Bool :=
  w.umbra.isSome && Instr.outside i && !(Instr.plainStore i && w.cur.body.isNone) && !w.cmpOk &&
    (w.acting != 0 || !Instr.byLane i)

/-- What a lane operand of `n` registers holds. -/
def opdFields (w : Wave) (l : Lane) (x : Opd) (n : Nat) : List Nat :=
  match x with
  | .g _ | .k _ => (x.regs n).map fun c => (l.reg c).toNat
  | _ => if n ≤ 1 then [(opd32 w l x).toNat] else [(opd64 w l x).toNat]

/-- What is compared of an instruction that a wave is about to issue (R378, R380): where it stands, its lane set, and in these lanes all
that its address, order, scope and data come from. -/
def Instr.fields (i : Instr) (w : Wave) : List Nat :=
  let u := Instr.uses i
  [w.cur.pc.toNat, w.cur.mask.toNat, w.acting.toNat] ++
    (lanesOf w.acting).flatMap (fun l => (u.reads ++ u.data).flatMap fun x => opdFields w (w.lane l) x.1 x.2) ++
    (u.s ++ (if Instr.service i then [60, 61] else [])).map fun n => (w.s.getD n 0).toNat

/-- The register values that an instruction returned at once as it took the leader from `w` to `v`: its destination, and all that changed. -/
def returnedNow (i : Instr) (w v : Wave) : List RegWrite :=
  let now := !v.pend.any fun p => p.tag == v.issued && p.load
  let codes := if now then (Instr.uses i).dst.flatMap fun x => x.1.regs x.2 else []
  let lane (a b : Lane) : List RegWrite := (List.range 104).filterMap fun c =>
    if a.reg c != b.reg c || a.poison.contains c != b.poison.contains c || (w.acting.getLsbD b.id && codes.contains c) then
      some { lane := b.id, reg := c, val := (b.reg c).setWidth 64, poison := b.poison.contains c }
    else none
  let scalar (n : Nat) : Option RegWrite :=
    if w.s.getD n 0 != v.s.getD n 0 || w.spoison.contains n != v.spoison.contains n || (Instr.returned i).contains n then
      some { scalar := true, reg := n, val := v.s.getD n 0, poison := v.spoison.contains n }
    else none
  let mask (n : Nat) : Option RegWrite :=
    if w.m.getD n 0 != v.m.getD n 0 || (Instr.returnedMasks i).contains n then some { scalar := true, reg := 128 + n, val := (v.m.getD n 0).setWidth 64 }
    else none
  (List.zipWith lane w.lanes v.lanes).flatten ++ (List.range v.s.length).filterMap scalar ++ (List.range v.m.length).filterMap mask

/-- What the umbra will follow of an instruction that took the leader from `w` to `v` (R378), with the fields that its operation is
compared by: at a trap nothing, whose entry is an event of its own. -/
def Wave.trailOf (w v : Wave) (i : Instr) : List Trail :=
  let held := w.buffered < v.buffered
  if v.inHandler && !w.inHandler then []
  else if v.issued != w.issued || (Instr.prefix_ i && v.cur.pc != w.cur.pc) then
    if Instr.ownRegs i then [.own i w.cur.pc]
    else [.op { i, pc := w.cur.pc, tag := v.issued, queued := Instr.fromOutside i, held
                todo := held || (Instr.fromOutside i && !Instr.outside i) || (Instr.outside i && Instr.byLane i && w.acting == 0)
                fields := Instr.fields i w, path := w.runIdx.getD 0, region := w.cur.region, writes := returnedNow i w v, after := v.course }]
  else if v.heading != w.heading then [.event v.course]
  else []

/-- The leader's outcome with what its umbra will follow. -/
def leadOut (i : Instr) (s : State) (o : Out) : Out :=
  match o, s.w.umbra with
  | .next t, some u =>
    if t.hand = s.hand && t.w.umbra.isSome then
      .next { t with w := { t.w with umbra := t.w.umbra.map fun v => { v with trail := u.trail ++ s.w.trailOf t.w i } } }
    else o
  | _, _ => o

/-! The umbra itself. -/

/-- The umbra has followed the events that come next (R378). -/
def Umbra.past (u : Umbra) : List Trail → Umbra
  | .event c :: rest => (u.follow c).past rest
  | rest => { u with trail := rest }

def Umbra.settled (u : Umbra) : Umbra := u.past u.trail

/-- The umbra as a wave in its leader's place: its own registers, course and stamps (R377). -/
def Wave.under (w : Wave) (u : Umbra) : Wave :=
  { w with lanes := u.lanes, s := u.s, m := u.m, f := u.f, spoison := u.spoison, xtdst := u.xtdst, xfprm := u.xfprm, ten := u.ten
           al1 := u.al1, acc := u.acc, paths := u.course.paths, hems := u.course.hems, inHandler := u.course.inHandler
           frame := u.course.frame, xtpc := u.course.xtpc, xtreg := u.course.xtreg, xtcause := u.course.xtcause
           xtlanes := u.course.xtlanes, xtmask := u.course.xtmask, xtaddr := u.course.xtaddr, xtcls := u.course.xtcls
           flg := u.course.flg, umbra := none }.pick

/-- The umbra after what it has done as a wave in its leader's place. -/
def Umbra.become (u : Umbra) (v : Wave) : Umbra :=
  { u with lanes := v.lanes, s := v.s, m := v.m, f := v.f, spoison := v.spoison, xtdst := v.xtdst, xfprm := v.xfprm, ten := v.ten
           al1 := v.al1, acc := v.acc, course := { v.course with caps := [] } }

/-- A wave of a team under TWIN at its start: its umbra has the leader's registers (R377). -/
def Wave.withUmbra (w : Wave) : Wave := { w with umbra := some (({} : Umbra).become w) }

/-- A leader moves from `s` to `t` by a report: the umbra follows it as an event once it has caught up (R378, R382). -/
def leadReport (s t : State) : State :=
  if s.w.umbra.isSome && t.hand == s.hand then
    if s.w.lagging then s.heldBack else { t with w := s.w.noteFrom t.w }
  else t

/-! Reports (R347, R350). -/

/-- A report that names the next instruction of the running entry: starvation and FREEZE_EXPIRED. -/
def Report.async (r : Report) : Bool := r.cause == 50 || (r.cause == 48 && r.detail == 0)

/-- The entry that takes a report: the running one, else the lowest-numbered that waits where the report names it, at a barrier
(R30). -/
def Wave.reporter (w : Wave) (r : Report) : Nat :=
  (w.runIdx.or (w.paths.findIdx? fun e => e.st == .waitJoin && e.wait != .join && e.pc == r.pc)).getD 0

/-- The report that the wave can take: the oldest. One that names the running entry's next instruction stays pending while no entry
can run (R350; DEDUCED, log 115). -/
def Wave.takeable (w : Wave) : Option Report :=
  w.reports.find? fun r => !r.async || w.paths.any fun e => e.st == .run || e.st == .ready

/-- The wave is inside an instruction: after an EXT (R73), or with a retry that waits for the self-test (R396). -/
def Wave.midway (w : Wave) : Bool := w.ext.isSome || (match w.mloop with | some l => l.retryDue | none => false)

/-- The oldest pending report is taken (R347); not while the wave is in its handler (R346). -/
def takeReport (s : State) : State :=
  match (if s.w.inHandler then none else s.w.takeable) with
  | none => s
  | some r =>
    let s : State := { s with w := s.w.pick }
    let s : State := { s with w := { s.w with reports := s.w.reports.erase r } }
    let i := s.w.reporter r
    let e := s.w.paths.getD i {}
    if r.async && atBoundary s && e.st == .run then
      takeTrapOf s { cause := r.cause, detail := r.detail, lanes := r.lanes, pc := e.pc, next := e.pc, atHeader := true } i
        (some { hdr := s.t.headerWord e.pc, addr := e.pc, exec := 0 }) e.body
    else
      let pc := if r.async then s.w.issuePc else r.pc
      let nr := r.cause == 49 && (e.blocked.map (·.done)).getD false
      takeTrapOf s { cause := r.cause, detail := r.detail, lanes := r.lanes, pc
                     next := pc + BitVec.ofNat 64 (s.t.instrLen pc), nr } i e.clause e.body

/-- EVENT TRAP_ENTRY (R344, R347): a wave at an instruction boundary takes its pending report; a leader once its umbra has caught
up (R382). -/
def execTrapEntry (w : WaveId) (s : State) : Out :=
  .next (s.withWave w fun s => if s.w.lagging || s.w.midway then s else leadReport s (takeReport s))

/-! The checks. -/

/-- What issue comes to: done with an outcome, or the instruction to execute. -/
inductive Pre where
  | done (o : Out) | run (i : Instr) (s : State)

/-- A decode-precise cause of the running entry; where the word decodes, XTDST stands for the instruction's destination
(R348, R349). -/
def decodeTrap (s : State) (cause : Nat) (len : Nat) (i : Option Instr := none) : Pre :=
  let d := match i with | some i => Instr.trapDst i | none => (.none, false)
  .done (.next (takeTrap s { cause, lanes := s.w.cur.mask, pc := s.w.issuePc, next := s.w.cur.pc + BitVec.ofNat 64 len
                             dst := d.1, dstLatch := d.2 }))

/-- The PC's segment has not landed (R40): OVERLAY_MISS, or a wait where the device itself is filling it (R357, R383). -/
def notLanded (s : State) : Pre :=
  let pc := s.w.cur.pc
  let mine (x : Slot) : Bool := x.tag.toNat / 4096 == pc.toNat / 4096
  if !s.t.lacks pc then .done (.next s.heldBack)
  else .done (.next (takeTrap s { cause := 17, detail := b2n (s.t.slots.any fun x => mine x && x.poisoned), lanes := s.w.cur.mask
                                  addr := pc, pc, next := pc + BitVec.ofNat 64 (s.t.instrLen pc) }))

/-- At a header position: the header itself, ILLOP where there is none, and the empty clause (R65). -/
def preHeader (s : State) : Pre :=
  let pc := s.w.cur.pc
  if !s.t.isHeader pc then decodeTrap s ILLOP 4
  else if pc.toNat % 4096 = 4092 || s.t.isHeader (pc + 4) then decodeTrap s ILLOP 4
  else
    match s.t.fetch pc with
    | some (.ok i) => if s.w.buffered != 0 && !Instr.ownOnly i then .done (.next s.waitHeld) else .run i s
    | _ => decodeTrap s ILLOP 4

/-- The address of the first CAPE at or after a pointer in its segment (R246) (DEDUCED, log 59). -/
def findCape (t : Team) (pc : W64) : (fuel : Nat) → Option W64
  | 0 => none
  | n + 1 =>
    match t.half pc with
    | none => none
    | some h =>
      let len := if h % 2 = 0 then 2 else 4
      if pc.toNat % 4096 + len > 4096 then none
      else
        match t.fetch pc with
        | some (.ok .cape) => some pc
        | _ => if pc.toNat % 4096 + len = 4096 then none else findCape t (pc + BitVec.ofNat 64 len) n

/-- A body branch that R246 forbids: backward, or beyond the body's CAPE. -/
def badBranch (s : State) (i : Instr) : Bool :=
  match Instr.branch i with
  | none => false
  | some off =>
    off ≤ 0 || match findCape s.t s.w.cur.pc 2048 with
      | some c => pAddr c < pAddr s.w.cur.pc + 2 * off.toNat
      | none => false

/-- CAPSULE_ILL (R246). -/
def capsuleIll (s : State) (i : Instr) : Bool :=
  match s.w.cur.body with
  | none => false
  | some b =>
    32 ≤ b.count || !Instr.bodyOk i || !((Instr.uses i).operands.all fun x => bodyOpd x.1 x.2) || badBranch s i ||
      (match i with | .cstep => 7 ≤ b.steps | _ => false) || (Instr.isStg i && 4 ≤ b.stgs)

/-- A word that decodes stands at a pointer, inside the segment. -/
def Team.instrAt (t : Team) (pc : W64) : Bool := match t.fetch pc with | some (.ok _) => true | _ => false

/-- Where an instruction of `len` bytes may stand in its clause and segment (R36, R65, R66). An illegal word is no
instruction (R63, R88), and one that the path never reaches raises nothing (R89): what stands before it is the last of its
clause (DEDUCED, log 33). -/
def misplaced (s : State) (i : Instr) (len : Nat) : Bool :=
  let pc := s.w.cur.pc
  let last := pc.toNat % 4096 + len = 4096
  let next := pc + BitVec.ofNat 64 len
  (last && !Instr.lastOk i) || (Instr.ends i && !last && !s.t.isHeader next && s.t.instrAt next)

/-- Registers that MOVX.DST reads: as many as the trapped destination has (R349). -/
def xtdstCodes (w : Wave) (g : Nat) : List Nat :=
  match (if w.inHandler then w.frame else none) with
  | none => []
  | some f => match f.dst with | .none => [] | .regs _ n => (List.range n).map (g + ·) | .mask _ => [g]

/-- The source lane of each acting lane of a shuffle (R136). -/
def shuffleFrom (w : Wave) (j : Lane → Int) (l : Nat) : Nat :=
  let k := j (w.lane l)
  if 0 ≤ k ∧ k ≤ 31 ∧ w.acting.getLsbD k.toNat then k.toNat else l

/-- Whether an operand that a lane reads is poisoned: one of its registers, or its latch (R156, R383). -/
def Lane.poisoned (l : Lane) (x : Opd) (n : Nat) : Bool := (x.regs n).any l.poison.contains || (x == .l && l.latchPoison)

/-- Lanes of a shuffle whose values are read and poisoned: b in each acting lane, a in the lanes selected (R136, R156). -/
def shufflePoison (w : Wave) (a b : Opd) (j : Lane → Int) : W32 :=
  let bad (x : Opd) (l : Nat) : Bool := (w.lane l).poisoned x 1
  let from_ := (lanesOf w.acting).map (shuffleFrom w j)
  maskOf fun l => (w.acting.getLsbD l && bad b l) || (from_.contains l && bad a l)

/-- Lanes of a BCAST whose values are read and poisoned: b in the lowest acting lane, a in the lane that it selects (R137, R156). -/
def bcastPoison (w : Wave) (a b : Opd) : W32 :=
  let bad (x : Opd) (l : Nat) : Bool := (w.lane l).poisoned x 1
  maskOf fun l => w.acting != 0 && ((lowest w.acting == some l && bad b l) || (l == bcastLane w b && bad a l))

/-- Lanes that consume poison by issuing an instruction (R156); MOVX.DST reads in the XTLANES lanes (R349, DEDUCED, log 90). -/
def consumers (w : Wave) (i : Instr) : W32 :=
  let u := Instr.uses i
  let sBad := u.s.any w.spoison.contains || u.reads.any fun x => match x.1 with | .s n => w.spoison.contains n.val | _ => false
  if sBad then w.cur.mask
  else match i with
  | .shflIdx _ a b => shufflePoison w a b fun l => ((opd32 w l b).toNat % 32 : Nat)
  | .shflUp _ a b => shufflePoison w a b fun l => l.id - (opd32 w l b).toInt
  | .shflDown _ a b => shufflePoison w a b fun l => l.id + (opd32 w l b).toInt
  | .shflXor _ a b => shufflePoison w a b fun l => (l.id ^^^ ((opd32 w l b).toNat % 32) : Nat)
  | .bcast _ a b => bcastPoison w a b
  | _ =>
    let bad (l : Lane) : Bool :=
      match i with
      | .movxDst g => (xtdstCodes w g.val).any l.poison.contains
      | _ => u.reads.any fun (x : Opd × Nat) => l.poisoned x.1 x.2
    let who : W32 := match i with
      | .movxDst _ => w.xtlanes
      | .movs .. => match lowest w.acting with | some l => BitVec.ofNat 32 (2 ^ l) | none => 0
      | _ => w.acting
    maskOf fun l => who.getLsbD l && bad (w.lane l)

/-- An instruction of a capsule body that acts in no lane (R364): it issues and does nothing. -/
def inert (s : State) (i : Instr) : Bool := s.w.cur.body.isSome && Instr.isLdgStg i && s.w.acting == 0

def countStg (s : State) (i : Instr) : State :=
  if Instr.isStg i then s.onCur fun e => { e with body := e.body.map fun b => { b with stgs := b.stgs + 1 } } else s

/-- What may hold or replace a decoded instruction before it acts (DEDUCED, log 84). -/
def preExec (s : State) (i : Instr) : Pre :=
  if inert s i then .done (leadOut i s (.next ((countStg s i).advance 4)))
  else
    let full : Bool := match (Instr.mark i).bind s.w.mark with | some n => 63 ≤ s.w.f.getD n 0 | none => false
    if full then .done (.next s.heldBack)
    else if s.w.buffered != 0 && !Instr.ownOnly i && !(Instr.plainStore i && s.w.cur.body.isNone) then .done (.next s.waitHeld)
    else if Instr.nonRepeatable i && s.copiesReading then .done (.next s.heldBack)
    else if Instr.nonRepeatable i && !s.w.deferred.isEmpty then .done (.next (takeDeferred s fun _ => true))
    else
      let eaten := consumers s.w i
      if eaten != 0 then .done (.next (if s.w.lagging then s.heldBack else contain s 36 eaten 0 s.w.issuePc))
      else if s.w.mustCompare i then
        .done (.next { s.heldBack with w := { s.heldBack.w with cmpWait := true } })
      else .run i s

/-- REFORM beyond N (R31), MLOOP.OPEN outside a clause with E = 1 (R222; DEDUCED, log 110), a tag instruction without a tag
table (R172). -/
def wrongHere (s : State) (i : Instr) (c : Clause) : Bool :=
  match i with
  | .reform n => s.t.n < n.toNat
  | .mloopOpen _ => !bitOf c.hdr 31
  | .tlook .. | .tset .. | .tevict .. => s.t.tags.isNone
  | _ => false

/-- An instruction inside a clause. -/
def preInstr (s : State) (c : Clause) : Pre :=
  let pc := s.w.cur.pc
  let len := match s.t.half pc with | some h => if h % 2 = 0 then 2 else 4 | none => 4
  if s.t.isHeader pc then decodeTrap s ILLOP 0   -- an EXT before a header (R73): it alone is skipped (DESIGN CHOICE, log 38)
  else if 32 ≤ c.count then decodeTrap s ILLOP len
  else
    match s.t.fetch pc with
    | some (.ok i) =>
      match i with
      | .ext _ => if c.ext.isSome then decodeTrap s ILLOP 0 else if pc.toNat % 4096 = 4092 then decodeTrap s ILLOP len else .run i s
      | _ =>
        if misplaced s i len || immBad i c.ext || (Instr.uses i).beyond s.t.n then decodeTrap s ILLOP len i
        else if wrongHere s i c then decodeTrap s ILLOP len i
        else if (Instr.uses i).latch && !c.lw then decodeTrap s 2 len i
        else if capsuleIll s i then decodeTrap s 3 len i
        else preExec s i
    | _ => decodeTrap s ILLOP len

/-- The wave in hand holds a grant: what it does with it, in the order of R347. -/
def preIssue (s : State) : Pre :=
  match s.w.mloop.filter (·.retryDue) with
  -- a failed check whose retry waits for the self-test (R396)
  | some l => .done (.next (if s.c.test.isSome then s.heldBack else loopRestart s l true))
  | none =>
  if s.w.runIdx.isNone || s.w.stallsLeader then .done (.next s.heldBack)
  else if !s.w.inHandler && !s.w.reports.isEmpty && !s.w.midway then
    .done (.next (if s.w.lagging then s.heldBack else takeReport s))
  else if (s.t.slotOf s.w.cur.pc).isNone then notLanded s
  else
    match s.w.cur.clause with
    | none => preHeader s
    | some c => if atBoundary s then preHeader (s.onCur fun e => { e with clause := none }) else preInstr s c

end Sys2Proof.Machine
end

