-- ==== Sys2Proof/Machine/Progress.lean ====
section
/-! DEFINITION. Events of issue and progress: the scheduler's grant (R324 to R329), fairness, starvation and deadlock reports
(R28 to R30), draws from REFORM bins (R32), completions (R15, R149, R170), blocked instructions (R183), the kill and the
end of a team (R26, R353 to R355), and the umbra's comparison (R380, R381). -/

namespace Sys2Proof.Machine

/-! The scheduler (R324 to R327). -/

/-- Waves of a scheduler that are eligible (R324): resident, started, with a RUN or READY entry. -/
def eligible (s : State) (id : CoreId) (sched : Nat) : List (Team × Wave) :=
  s.allTeams.flatMap fun t =>
    if t.resident && t.started && t.die == id.die && t.core == id.core && t.ending.isNone then
      (t.waves.filter fun w => w.num % 4 == sched && !w.ended && w.paths.any fun e => e.st == .run || e.st == .ready).map (t, ·)
    else []

/-- Whether a wave is able to issue, as far as the scheduler can see (DESIGN CHOICE, log 3): not blocked, not found held since the last
completion, no queue of its umbra full (R379), and at a header not waiting on a flag. -/
def canIssue (t : Team) (w : Wave) : Bool :=
  let v := w.pick
  let e := v.cur
  e.blocked.isNone && !w.held && !w.cmpWait && !w.stallsLeader &&
    (e.clause.isSome || match t.half e.pc, t.half (e.pc + 2) with
      | some lo, some hi => let h := lo + hi * 65536; !(List.range 12).any fun n => bitOf h (7 + n) && w.f.getD n 0 != 0
      | _, _ => true)

/-- A wave or an umbra that the scheduler may grant an opportunity to; an umbra is numbered 16 above its leader (R377; DESIGN CHOICE,
DESIGN CHOICE, log 30). -/
structure Cand where
  t : Team
  w : Wave
  umbra : Bool

def Cand.num (x : Cand) : Nat := if x.umbra then x.w.num + 16 else x.w.num
def Cand.id (x : Cand) : WaveId := ⟨x.t.id, x.num⟩

/-- Umbras that are eligible (R324): with a RUN or READY entry of their own, once they have followed the events that come next, or
with something left to follow. -/
def umbrasOf (s : State) (id : CoreId) (sched : Nat) : List Cand :=
  let ready (u : Umbra) : Bool := let v := u.settled; !v.trail.isEmpty || v.course.paths.any fun e => e.st == .run || e.st == .ready
  s.allTeams.flatMap fun t =>
    if t.resident && t.started && t.die == id.die && t.core == id.core && t.ending.isNone then
      (t.waves.filter fun w => w.num % 4 == sched && (w.umbra.map ready).getD false).map fun w => { t, w, umbra := true }
    else []

def cands (s : State) (id : CoreId) (sched : Nat) : List Cand :=
  (eligible s id sched).map (fun x => { t := x.1, w := x.2, umbra := false }) ++ umbrasOf s id sched

/-- The umbra of a leader that is stalled by a full queue or by an operation held (R379). -/
def Wave.stalledLead (w : Wave) : Bool := w.stallsLeader || w.cmpWait || w.waitsHeld

/-- The umbra has something to follow, or to submit for a leader that waits with it (R378, R380). A value from outside the wave has come
to its leader first. -/
def Wave.umbraWork (w : Wave) : Bool :=
  match w.umbra.map fun u => (u.settled.trail : List Trail) with
  | none => false
  | some [] => w.cmpWait
  | some (.op o :: _) => !w.pend.any fun p => p.tag == o.tag && p.load
  | some _ => true

/-- An umbra issues only while it is 8 instructions behind, or its leader cannot issue (R379). -/
def Cand.able (x : Cand) : Bool :=
  let leads := x.w.paths.any (fun e => e.st == .run || e.st == .ready) && canIssue x.t x.w
  if x.umbra then x.w.umbraWork && (8 ≤ (x.w.umbra.map Umbra.lag).getD 0 || !leads) else canIssue x.t x.w

def Cand.promoted (x : Cand) : Option Nat := if x.umbra then x.w.umbra.bind (·.promoted) else x.w.promoted

/-- Rank of R325 among waves: class, age, then distance in wave-number order from the scheduler's position. -/
def rankOf (turn : Nat) (x : Cand) : Nat × Nat × Nat :=
  (if x.umbra then (if x.w.stalledLead then 2 else 3) else if x.w.inHandler then 1 else 3, x.t.age, (x.num + 32 - turn) % 32)

def ranksBefore (turn : Nat) (x y : Cand) : Bool :=
  let a := rankOf turn x
  let b := rankOf turn y
  a.1 < b.1 || (a.1 == b.1 && (a.2.1 < b.2.1 || (a.2.1 == b.2.1 && a.2.2 < b.2.2)))

def bestOf (turn : Nat) : List Cand → Option Cand
  | [] => none
  | x :: rest => some (rest.foldl (fun a b => if ranksBefore turn b a then b else a) x)

/-- The longest-promoted of some waves (R326). -/
def bestPromoted (xs : List Cand) : Option Cand :=
  xs.foldl (fun a x => match x.promoted, a.bind (·.promoted) with
    | some p, some q => if p < q then some x else a
    | some _, none => some x
    | none, _ => a) none

/-- The wave that would be granted if all of some waves could issue (R325). -/
def firstOf (turn : Nat) (xs : List Cand) : Option Cand := (bestPromoted xs).or (bestOf turn xs)

/-- Who an opportunity goes to (R325): of those able to issue the first, else the first of all. -/
def grantee (s : State) (id : CoreId) (sched : Nat) : Option Cand :=
  let all := cands s id sched
  let turn := (s.core id).turn.getD sched 0
  (firstOf turn (all.filter (·.able))).or (firstOf turn all)

/-- An opportunity exists at this FCLK (R324, R415, R416). -/
def opportunity (s : State) (id : CoreId) : Bool :=
  let k := s.core id
  k.hop.isNone && k.late ≤ s.clock && (s.clock / 2 + 4 - k.phase % 4) % 2 ^ (2 - min 2 k.ratio) == 0

/-- Change the counts of R326 of a wave, or of an umbra by its number: consecutive opportunities without a grant, and promotion. -/
def State.modCounts (s : State) (id : WaveId) (f : Nat × Option Nat → Nat × Option Nat) : State :=
  let lead (w : Wave) : Wave := let c := f (w.ungranted, w.promoted); { w with ungranted := c.1, promoted := c.2 }
  let under (u : Umbra) : Umbra := let c := f (u.ungranted, u.promoted); { u with ungranted := c.1, promoted := c.2 }
  match s.wave id with
  | some _ => s.modWave id lead
  | none => s.modWave ⟨id.team, id.wave - 16⟩ fun w => { w with umbra := w.umbra.map under }

/-- The consecutive opportunities that a wave, or an umbra by its number, has gone without a grant. -/
def State.ungrantedOf (s : State) (id : WaveId) : Nat :=
  match s.wave id with
  | some w => w.ungranted
  | none => (((s.wave ⟨id.team, id.wave - 16⟩).bind (·.umbra)).map (·.ungranted)).getD 0

/-- The waves of a core's scheduler, and their umbras. -/
def schedWaves (s : State) (id : CoreId) (sched : Nat) : List WaveId :=
  s.allTeams.flatMap fun t =>
    if t.resident && t.die == id.die && t.core == id.core then
      (t.waves.filter fun w => w.num % 4 == sched).flatMap fun w =>
        ⟨t.id, w.num⟩ :: (if w.umbra.isSome then [⟨t.id, w.num + 16⟩] else [])
    else []

/-- An opportunity given to another: an eligible wave has gone one more without it, and one that is not eligible begins anew; at
4,096 a promotion falls due (R326). -/
def State.passOver (s : State) (ids waiting : List WaveId) : State :=
  ids.foldl (fun s id =>
    let s := s.modCounts id fun c => (if waiting.contains id then c.1 + 1 else 0, c.2)
    if s.ungrantedOf id = 4096 then s.addDue (.promote id) else s) s

/-- EVENT ISSUE_OPPORTUNITY (R324, R325): the opportunity goes to one wave, which is taken in hand, or to an umbra, whose leader is. -/
def execIssueOpportunity (id : CoreId) (sched : Nat) (s : State) : Out :=
  if !coreOk id || 4 ≤ sched then .fault .noSuchUnit
  else if s.granted then .next s
  else if !opportunity s id then .next s
  else
    match grantee s id sched with
    | none => .next (s.passOver (schedWaves s id sched) [])
    | some x =>
      let waiting := ((cands s id sched).map Cand.id).filter (· != x.id)
      let s := s.passOver ((schedWaves s id sched).filter (· != x.id)) waiting
      if x.umbra then
        let s := (s.modCounts x.id fun _ => (0, none)).take ⟨x.t.id, x.w.num⟩
        .next { s with granted := true, under := true, c := { s.c with turn := s.c.turn.set sched (x.num + 1) } }
      else
        let s := s.take x.id
        let w := { s.w with ungranted := 0, promoted := none, granted := s.w.granted + 1, waitsHeld := false }
        .next { s with w := w.pick, granted := true
                       t := { s.t with opps := s.t.opps + 1 }
                       c := { s.c with turn := s.c.turn.set sched (x.num + 1), lastPart := some s.t.part } }

/-- EVENT WAVE_PROMOTION (R326). -/
def execWavePromotion (w : WaveId) (s : State) : Out :=
  .next ({ s.modCounts w (fun c => if 4096 ≤ c.1 ∧ c.2.isNone then (c.1, some s.order) else c) with order := s.order + 1 })

/-! Fairness, starvation and deadlock (R28 to R30). -/

/-- EVENT FAIRNESS_INTERVAL_EXPIRY (R28): with SIBP set and the count reached, the running entry rotates; a report that is
pending is taken first (R347). -/
def execFairnessIntervalExpiry (w : WaveId) (s : State) : Out :=
  .next { s.modWave w (fun w =>
    if w.fairDue && w.reports.isEmpty && w.ext.isNone then
      w.noteFrom (w.rotate s.order)
    else w) with order := s.order + 1 }

/-- EVENT HANG_SIB (R29, R290): the starvation of each READY entry at the limit is reported with its mask, and its count
becomes 0. In the handler the report stays pending (R346). -/
def execHangSib (w : WaveId) (s : State) : Out :=
  .next (s.modWave w fun w =>
    let limit := hangLimit w
    (w.starved.foldl (fun w e => w.report { cause := 48, detail := 0, pc := w.issuePc, lanes := e.mask }) w).onCounted
      fun e => if e.starved limit then { e with starve := 0 } else e)

/-- The instruction in which a wave is blocked. -/
def blockedIn (t : Team) (w : Wave) : Option Instr :=
  match w.cur.blocked with
  | none => none
  | some b => match t.fetch b.pc with | some (.ok i) => some i | _ => none

/-- The teams whose waves may pop a spool, or push into it (R30, R33). -/
def spoolTeams (s : State) (t : Team) (n : Nat) : List Team :=
  if (t.spools.getD n {}).gang then s.allTeams.filter fun x => x.launch == t.launch && x.gang == t.gang && x.ending.isNone else [t]

/-- The team whose spool a control word names, from a wave of `t` (R191). -/
def spoolTarget (s : State) (t : Team) (v : W64) : Option Team :=
  if ctlPeer v then s.allTeams.find? fun x => x.launch == t.launch && x.gang == t.gang && x.rank == ctlRank v else some t

/-- How a wave stands to a deadlock of spool `n` of `own`, whose poppers belong to the teams `group` (R30): 0 not caught, 1 blocked
in SPUSH on the spool, 2 blocked elsewhere, without a timeout, in a wait that only waves of the group can end: on another spool all
of whose users are of the group, at a team barrier, or at BARA or BARW on the barrier of a gang that is all in the group. An FSWAIT
never waits for the group's own launch (R257). Who ends a wait for a message the monitor cannot tell, and such a wave is not caught
(DEDUCED, log 54). -/
def spoolRole (s : State) (own : Team) (n : Nat) (group : List Nat) (t : Team) (w : Wave) : Nat :=
  let inside (x : Team) (m : Nat) : Bool := (spoolTeams s x m).all fun y => group.contains y.id
  let untimed := (w.cur.blocked.bind (·.deadline)).isNone
  match blockedIn t w with
  | some (.spush _ b m) =>
    match spoolTarget s t (w.sreg b) with
    | some x => if x.id = own.id ∧ m.val = n then 1 else if inside x m.val then 2 else 0
    | none => 0
  | some (.spop _ _ m) => if untimed && !(m.val == n && t.id == own.id) && inside t m.val then 2 else 0
  | some (.barw .gang ..) | some (.bara .gang ..) =>
    let gang := s.allTeams.filter fun x => x.launch == t.launch && x.gang == t.gang && x.ending.isNone
    if gang.all fun y => group.contains y.id then 2 else 0
  | some _ => 0
  | none =>
    if w.paths.all (fun e => e.st == .free || e.st == .waitJoin) && w.paths.any (fun e => match e.wait with | .bar _ => e.st == .waitJoin | _ => false) then 2 else 0

/-- The waves that may pop a spool, with how each stands to its deadlock. -/
def spoolWaves (s : State) (t : Team) (n : Nat) : List (WaveId × Nat) :=
  let ts := spoolTeams s t n
  let group := ts.map (·.id)
  ts.flatMap fun x => (x.waves.filter fun w => !w.ended).map fun w => (⟨x.id, w.num⟩, spoolRole s t n group x w)

def spoolDeadlock (s : State) (t : Team) (n : Nat) : Bool :=
  let p := t.spools.getD n {}
  let ws := (spoolWaves s t n).map Prod.snd
  p.defined && p.full && ws.all (· != 0) && ws.any (· == 1)

/-- Where a wave waits at barriers: the PC of its lowest-numbered waiting entry. -/
def barPc (w : Wave) : W64 :=
  match w.paths.find? fun e => e.st == .waitJoin && (match e.wait with | .bar _ => true | _ => false) with
  | some e => e.pc
  | none => 0

/-- The report of SPOOL_DL to one wave: a SPUSH on the spool is abandoned, another block is kept (R30). -/
def spoolReport (role n : Nat) (w : Wave) : Wave :=
  let pc := match w.cur.blocked with | some b => b.pc | none => barPc w
  let lanes := if w.runIdx.isSome then w.cur.mask else w.live
  let w := if role = 1 then w.onCur fun e => { e with blocked := none } else w
  w.report { cause := 49, detail := n + if role = 1 then 0 else 16, pc, lanes }

/-- EVENT SPOOL_DL (R30): reported once to every wave involved, until the deadlock is gone. -/
def execSpoolDl (team spool : Nat) (s : State) : Out :=
  match s.team team with
  | none => .next s
  | some t =>
    let seen := t.reported.contains (false, spool)
    if !spoolDeadlock s t spool then .next (s.modTeam team fun t => { t with reported := t.reported.filter (· != (false, spool)) })
    else if seen then .next s
    else
      let s := (spoolWaves s t spool).foldl (fun s x => s.modWave x.1 (spoolReport x.2 spool)) s
      .next (s.modTeam team fun t => { t with reported := (false, spool) :: t.reported })

/-- Waits at a barrier with the rest of its lanes in entries that wait too (R30). -/
def barStuck (n : Nat) (w : Wave) : Bool :=
  !w.arrived n && w.paths.all (fun e => e.st == .free || e.st == .waitJoin) &&
    w.paths.any fun e => e.st == .waitJoin && e.wait == .bar n

def barDeadlock (t : Team) (n : Nat) : Bool :=
  let ws := t.waves.filter fun w => !w.ended
  ws.all (fun w => w.arrived n || barStuck n w) && ws.any (barStuck n)

/-- Lanes of a wave that do not wait at barrier `n`. -/
def missingLanes (n : Nat) (w : Wave) : W32 :=
  w.paths.foldl (fun m e => if e.st = .waitJoin ∧ e.wait = .bar n then m &&& ~~~e.mask else m) w.live

/-- EVENT BARRIER_DEADLOCK (R30): HANG_SIB with the barrier detail to each wave that has not arrived. -/
def execBarrierDeadlock (team bar : Nat) (s : State) : Out :=
  match s.team team with
  | none => .next s
  | some t =>
    if !barDeadlock t bar then .next (s.modTeam team fun t => { t with reported := t.reported.filter (· != (true, bar)) })
    else if t.reported.contains (true, bar) then .next s
    else
      let ids := (t.waves.filter fun w => !w.ended && barStuck bar w).map (·.num)
      let s := ids.foldl (fun s n => s.modWave ⟨team, n⟩ fun w =>
        w.report { cause := 48, detail := 2, pc := barPc w, lanes := missingLanes bar w }) s
      .next (s.modTeam team fun t => { t with reported := (true, bar) :: t.reported })

/-! Completions (R15, R149, R170). -/

/-- A value written into its register, poison and all (R156). -/
def applyWrite (w : Wave) (x : RegWrite) : Wave :=
  if x.scalar && 128 ≤ x.reg then { w with m := w.m.set (x.reg - 128) (x.val.setWidth 32) }
  else if x.scalar then
    let w := { w with s := w.s.set x.reg x.val, spoison := w.spoison.filter (· != x.reg) }
    if x.poison then { w with spoison := x.reg :: w.spoison } else w
  else w.onLanes (BitVec.ofNat 32 (2 ^ x.lane)) fun l =>
    let l := l.setReg x.reg (x.val.setWidth 32)
    if x.poison then { l with poison := x.reg :: l.poison } else l

/-- What an access returned goes into its entry of the result queue (R378). -/
def Wave.deliver (w : Wave) (p : Pend) : Wave :=
  let give (x : Trail) : Trail := match x with
    | .op o => if o.tag = p.tag then .op { o with writes := o.writes ++ p.writes } else x
    | _ => x
  { w with umbra := w.umbra.map fun u => { u with trail := u.trail.map give } }

/-- An access of a wave is complete: its results are written, and its flag falls. -/
def Wave.complete (w : Wave) (i : Nat) : Wave :=
  match w.pend[i]? with
  | none => w
  | some p => ({ (p.writes.foldl applyWrite w).flagDown p.flag with pend := w.pend.eraseIdx i, held := false } : Wave).deliver p

/-- EVENT LOAD_COMPLETION (R149). -/
def execLoadCompletion (w : WaveId) (i : Nat) (s : State) : Out :=
  match (s.wave w).bind (·.pend[i]?) with
  | none => .next s
  | some p => if p.load && p.atoms.isEmpty then .next { s.modWave w (·.complete i) with stalled := false } else .next s

/-- EVENT STORE_PERFORMED (R149): the bytes reach the scope that the store names (R294); not while the comparison buffer holds the
store (R380). -/
def execStorePerformed (w : WaveId) (i : Nat) (s : State) : Out :=
  match (s.wave w).bind (·.pend[i]?), s.team w.team with
  | some p, some t =>
    if p.load || !p.atoms.isEmpty || p.held then .next s
    else
      let s := if p.global then releaseCaches s ⟨t.die, t.core⟩ p.space p.scope else s
      .next { s.modWave w (·.complete i) with stalled := false }
  | _, _ => .next s

/-- EVENT ATOMIC_AT_HOME (R167, R170): the atomics of one access are performed; the old values are then on their way. -/
def execAtomicAtHome (w : WaveId) (i : Nat) (s : State) : Out :=
  .next (s.withWave w fun s =>
    match s.w.pend[i]? with
    | none => s
    | some p =>
      if p.atoms.isEmpty then s
      else
        let r := performAtoms s p
        { r.1 with w := { r.1.w with pend := r.1.w.pend.set i r.2 } })

/-! Blocked instructions (R183). -/

/-- The blocked instruction of the running entry evaluated again; where it stays blocked nothing changes, but that a REFORM files
what lanes it can. -/
def reblock (s : State) : State :=
  let run (o : Out) : State := match (match blockedIn s.t s.w with | some i => leadOut i s o | none => o) with
    | .next s' => if s'.stalled && s'.w.cur.blocked.isSome then s else { s' with granted := s.granted }
    | _ => s
  -- a REFORM that still waits keeps the lanes that it has filed now (R31)
  let file (o : Out) : State := match o with
    | .next s' => { s' with granted := s.granted, stalled := s.stalled, w := { s'.w with held := s.w.held } }
    | _ => s
  match s.w.cur.blocked with
  | none => s
  | some b =>
    match s.t.fetch b.pc with
    | some (.ok i) =>
      match i with
      | .bara k c b a => run (execBara k c b a s)
      | .barw k c b a => run (execBarw k c b a s)
      | .waitf h l => run (execWaitf h l s)
      | .sleept x a => run (execSleept x a s)
      | .spush c b n => run (execSpush c b n s)
      | .spop c b n => run (execSpop c b n s)
      | .msend d c a => run (execMsend d c a s)
      | .mrecv c b a => run (execMrecv c b a s)
      | .job b a => run (execJob b a s)
      | .fswait x c b a => run (execFswait x c b a s)
      | .cape => run (execCape s)
      | .trapi h l => run (execTrapi h l s)
      | .reform n => file (execReform n s)
      | _ => s
    | _ => s

/-- The blocked instruction of a resident wave evaluated again; one out of its core keeps it for the resumption (R183, R198). -/
def evalBlocked (s : State) (w : WaveId) : State :=
  match s.team w.team with
  | some t => if t.resident then s.withWave w reblock else s
  | none => s

/-- EVENT BLOCKED_REEVALUATION (R183) (DEDUCED, log 56). -/
def execBlockedReevaluation (w : WaveId) (s : State) : Out := .next (evalBlocked s w)

/-- The deadline of the instruction that a wave's running entry is blocked in, when it is of a kind. -/
def timeoutOf (s : State) (w : WaveId) (kind : Instr → Bool) : Option Nat :=
  match s.team w.team, s.wave w with
  | some t, some v =>
    match blockedIn t v with
    | some i => if kind i then v.cur.blocked.bind (·.deadline) else none
    | none => none
  | _, _ => none

/-- A deadline passes: Meridian time has reached it, and the instruction is evaluated again (R183, R420). -/
def timeout (s : State) (w : WaveId) (kind : Instr → Bool) : State :=
  match timeoutOf s w kind with
  | none => s
  | some d => evalBlocked { s with clock := max s.clock (3 * d) } w

/-- EVENT SLEEPT_WAKE (R189). -/
def execSleeptWake (w : WaveId) (s : State) : Out := takeBack s (.next (timeout s w fun i => match i with | .sleept .. => true | _ => false))
/-- EVENT SPOP_TIMEOUT (R193). -/
def execSpopTimeout (w : WaveId) (s : State) : Out := takeBack s (.next (timeout s w fun i => match i with | .spop .. => true | _ => false))
/-- EVENT MRECV_TIMEOUT (R197). -/
def execMrecvTimeout (w : WaveId) (s : State) : Out := takeBack s (.next (timeout s w fun i => match i with | .mrecv .. => true | _ => false))
/-- EVENT FSWAIT_TIMEOUT (R257). -/
def execFswaitTimeout (w : WaveId) (s : State) : Out := takeBack s (.next (timeout s w fun i => match i with | .fswait .. => true | _ => false))

/-! REFORM bins (R32, R329). -/

/-- The filing stamp of a bin's oldest thread. -/
def Bin.oldest (b : Bin) : Nat := match b.threads with | [] => 0 | x :: _ => x.2.2

/-- A wave number that a draw may take: below W, with no wave, or a wave that has ended with nothing in flight (R32). -/
def Team.freeWave (t : Team) : Option Nat :=
  (List.range t.w).find? fun n => t.waves.all fun w => w.num != n || (w.ended && w.pend.isEmpty && w.f.all (· == 0))

/-- The bin that is drawn next (R32, R329): 32 threads, or the oldest has waited long enough, or no wave is left. -/
def drawable (t : Team) : Option Nat :=
  let alone := t.waves.all (·.ended)
  let ok (b : Bin) : Bool := !b.threads.isEmpty && (alone || 32 ≤ b.threads.length || t.xbinage.toNat % 2 ^ 24 ≤ t.opps - b.oldest)
  let best := t.bins.zipIdx.foldl (fun (a : Option (Bin × Nat)) x =>
    if ok x.1 then match a with | some y => if x.1.oldest < y.1.oldest then some x else a | none => some x else a) none
  best.map (·.2)

/-- A lane of a fresh wave: a drawn thread in it, or none. -/
def drawnLane (free n i : Nat) (x : Option (W32 × List W32 × Nat)) : Lane :=
  { id := i
    g := (List.range n).map fun r => match x with
      | some (_, gs, _) => match gs[r]? with | some v => v | none => Config.freeReg free i r
      | none => Config.freeReg free i r
    k := List.replicate 8 0
    latch := Config.freeLatch free i
    tid := match x with | some (tid, _, _) => tid | none => 0 }

/-- The scalar registers of a wave at its start (R11, R32). -/
def startS (index wave rank w : Nat) : List W64 :=
  [index, wave, rank, w].map (BitVec.ofNat 64) ++ List.replicate 60 0

/-- The fresh wave of a draw (R32): XPROG and XFPRM are the launch card's, as at a team's start (R18, R19); TEN, FLG, XHANG and
XCAPRET have their reset values, of which R32 says nothing (DESIGN CHOICE, log 101). -/
def drawnWave (s : State) (t : Team) (card : List Byte) (num : Nat) (key : W64) (ts : List (W32 × List W32 × Nat)) : Wave :=
  { num, al1 := s.clock, acc := s.clock, xprog := cardXprog card, xfprm := cardXfprm card
    lanes := (List.range 32).map fun i => drawnLane s.free t.n i ts[i]?
    s := startS t.index num t.rank t.w
    m := 0xFFFFFFFF :: List.replicate 15 0
    paths := ({ st := .run, pc := key, mask := BitVec.ofNat 32 (2 ^ ts.length - 1), region := key } : Entry) :: List.replicate 7 {} }

/-- EVENT BIN_DRAW (R32, R329). -/
def execBinDraw (team : Nat) (s : State) : Out :=
  match s.team team with
  | none => .next s
  | some t =>
    match t.freeWave, drawable t with
    | some num, some b =>
      if t.ending.isSome ∨ (s.hand.isSome ∧ s.t.id = team ∧ s.w.num = num) then .next s
      else
        let bin := t.bins.getD b { key := 0, threads := [] }
        let ts := bin.threads.take 32
        let card := ((s.launches.find? (·.id == t.launch)).map (·.card)).getD []
        let w := drawnWave s t card num bin.key ts
        let left := bin.threads.drop 32
        let s := { s with free := s.free + 1 }
        .next (s.modTeam team fun t => { t with
          waves := (t.waves.filter (·.num != num)) ++ [w]
          bins := if left.isEmpty then t.bins.eraseIdx b else t.bins.modify b fun x => { x with threads := left } })
    | _, _ => .next s

/-! The kill and the end of a team (R26, R353 to R355). -/

/-- An entry into the module error log (R389), reported to the partition it names (R390). A lasting fault or a repair goes
into the persistent log as well, while it has room. -/
def logError (s : State) (e : LogEntry) : State :=
  let keep := e.cls % 4 == 1 || e.repair != 0
  let fits := s.persist.length < 1024
  let e := if keep && !fits then { e with cls := e.cls + 128 } else e
  let s := { s with log := (s.log ++ [e]).drop (s.log.length + 1 - 4096), persist := if keep && fits then s.persist ++ [e] else s.persist }
  if e.part < 8 then
    postEvent s e.part 5 (e.kind * 2 ^ 40 + e.cls * 2 ^ 32 + e.block * 2 ^ 24 + e.die * 2 ^ 16 + e.unit_) e.loc
  else s

/-- Marks a team that ends only to be started again (R355). -/
def relaunchMark : Nat := 256

/-- EVENT TEAM_KILL (R353, R355): every team of the gang stops; the gang is relaunched or ends as killed (DEDUCED, log 57). -/
def execTeamKill (team : Nat) (s : State) : Out :=
  match s.team team with
  | none => .next s
  | some t =>
    let gang := s.allTeams.filter fun x => x.launch == t.launch && x.gang == t.gang
    if t.ending.isSome then .next s
    else match s.launches.find? (·.id == t.launch) with
    | none => .next s
    | some l =>
      let before := ((l.kills.find? (·.1 == t.gang)).map (·.2)).getD 0
      let again := cardIdempotent l.card && gang.all (fun x => !x.escaped) && before < 3
      let twin := t.twin && t.waves.any fun w => (w.umbra.map (·.failed)).getD false
      let s := { s with launches := s.launches.map fun x =>
        if x.id = l.id then { x with kills := (t.gang, before + 1) :: x.kills.filter (·.1 != t.gang)
                                     stopped := (t.gang, gang.map (·.rank)) :: x.stopped.filter (·.1 != t.gang) } else x }
      .next (gang.foldl (fun s x =>
        let s := logError s { time := s.now, kind := if twin then 4 else 1, cls := 2, block := 13, die := x.die, unit_ := x.core, part := x.part }
        endTeam s x.id (if again then relaunchMark else 1)) s)

/-- Nothing of a team is left to complete: every wave has ended and every flag is clear (R26). Loads, fills and matrix
instructions of a team that was stopped from outside are discarded (R358). -/
def endable (s : State) (t : Team) : Bool :=
  let stopped := t.ending.isSome
  let done (w : Wave) : Bool := w.ended && (stopped || !w.lagging) &&
    (if stopped then w.pend.all fun p => p.load && p.atoms.isEmpty else w.pend.isEmpty && w.f.all (· == 0))
  let k := s.core ⟨t.die, t.core⟩
  t.waves.all done && t.bins.all (·.threads.isEmpty) && !(k.copies.any (·.team == t.id)) &&
    (stopped || !(k.array.any (·.team == t.id)))

/-- An entry that a team opened, once it has completed, goes back to FREE (R257, R323). -/
def freeIfOwned (team : Nat) (f : FScope) : FScope :=
  if f.owner == some team && f.done && (f.kind == .user || f.kind == .launch) then {} else f

def freeOwned (s : State) (part team : Nat) : State :=
  s.modPart part fun p => { p with scopes := p.scopes.map (freeIfOwned team) }

/-- Take a team out of the machine: its slot is free, its freezes are dropped (R181). -/
def removeTeam (s : State) (t : Team) : State :=
  let inHand : Bool := s.hand.isSome && s.t.id == t.id
  let s := if inHand then s.putBack else s
  let s := { s with teams := s.teams.filter (·.id != t.id), granted := s.granted && !inHand }
  let k := s.core ⟨t.die, t.core⟩
  let s := s.setCore { k with array := k.array.filter (·.team != t.id) }
  t.freezes.foldl (fun s f => noteFreeze s f.die f.cons) s

/-- EVENT TEAM_END (R26, R256): a release at SYS, then the launch scope counts the team as ended; a gang that is to be
relaunched waits for placement instead (R355). -/
def execTeamEnd (team : Nat) (s : State) : Out :=
  match s.team team with
  | none => .next s
  | some t =>
    if !endable s t then .next s
    else
      let s := releaseCaches s ⟨t.die, t.core⟩ t.space .sys
      match s.launches.find? (·.id == t.launch) with
      | none => .next (removeTeam s t)
      | some l =>
        if t.ending = some relaunchMark then
          let s := removeTeam s t
          let rest := s.allTeams.any fun x => x.launch == t.launch && x.gang == t.gang
          if rest then .next s
          else .next { s with launches := s.launches.map fun x => if x.id = l.id then { x with again := x.again ++ [t.gang], since := s.now } else x }
        else
          let s := s.scopeErr t.part l.scope (t.ending.getD 0)
          let s := freeOwned s t.part t.id
          .next ((removeTeam s t).scopeDown t.part l.scope)

/-! The umbra (R380, R381). -/

/-- A path-table entry restarts at a region entry (R381). -/
def Entry.restart (e : Entry) (region : W64) (stamp : Nat) : Entry :=
  { e with pc := region, region, clause := none, blocked := none, body := e.body.map Body.restart, fresh := false, mat := false, only := none
           wait := .none, st := if e.st = .waitJoin then .ready else e.st, age := if e.st = .waitJoin then stamp else e.age }

/-- Both waves restart where the differing operation's path was at its region entry: what is held or queued is discarded, and at the point
of the wave's open loop the loop's tiles are restored (R213, R223, R381). -/
def umbraRestart (s : State) (path : Nat) (region : W64) : State :=
  let w := s.w.discard
  let path := if (w.paths.getD path {}).st = .free then w.runIdx.getD path else path
  let s := { s with w := { w with paths := w.paths.modify path fun e => e.restart region s.order, held := false }, order := s.order + 1 }
  let s := match s.w.mloop with
    | some l => if l.point = region then { restoreLoop s l with w := { s.w with mloop := some { l with redirect := true } } } else s
    | none => s
  let w := s.w.resync
  { s with w := { w with umbra := w.umbra.map fun u => { u with miss := some (region, true) } } }

/-- A mismatch of leader and umbra (R381): the first restarts the region, a second before the next region boundary raises TWIN there. While
the matrix array works for the open loop that restarts, it waits. -/
def umbraMismatch (s : State) (path : Nat) (region : W64) : State :=
  let s := { s with granted := false, under := false }
  let again := (s.w.umbra.bind (·.miss)).isSome
  let busy := match s.w.mloop with | some l => l.point == region && teamBusy s l.list | none => false
  if busy then s
  else
    let s := umbraRestart s path region
    if again then
      let s := { s with w := { s.w with umbra := s.w.umbra.map fun u => { u with failed := true } } }
      let e := s.w.paths.getD path {}
      contain s 40 e.mask 0 e.pc
    else s

/-- The oldest operation that the comparison buffer holds is performed as issued (R380). -/
def performBuffered (s : State) : State :=
  match s.w.pend.findIdx? (·.held) with
  | none => s
  | some i =>
    let s := performReqs s ((s.w.pend[i]?.map (·.stores)).getD [])
    { s with w := { s.w with pend := s.w.pend.modify i fun p => { p with held := false, stores := [] }, held := false } }

/-- The umbra takes an instruction's result and course from its leader (R378). -/
def Umbra.taken (u : Umbra) (w : Wave) (o : Follow) : Umbra :=
  { (u.become (o.writes.foldl applyWrite (w.under u))).follow o.after with trail := u.trail.tail }

def State.setUmbra (s : State) (u : Umbra) : State := { s with w := { s.w with umbra := some u } }

/-- EVENT UMBRA_COMPARISON (R378, R380, R381): the umbra submits the fields of the instruction that it has come to, from its own registers;
`equal` says that the hardware finds the two as the registers give them. Equal, an operation that is held is performed, one that the
leader waits with acts at its next grant, and the umbra takes what its leader has recorded; else it is a mismatch. -/
def execUmbraComparison (w : WaveId) (equal : Bool) (s : State) : Out :=
  .next (s.withWave w fun s =>
    match s.w.umbra.map Umbra.settled with
    | none => s
    | some u =>
      let same (i : Instr) (fields : List Nat) : Bool := equal && Instr.fields i (s.w.under u) == fields
      match u.trail with
      | .op o :: _ =>
        if !o.todo || !s.w.umbraWork then s
        else if same o.i o.fields then (if o.held then performBuffered s else s).setUmbra (u.taken s.w o)
        else umbraMismatch s o.path o.region
      | [] =>
        match (if s.w.cmpWait then s.t.fetch s.w.cur.pc else none) with
        | some (.ok i) =>
          if same i (Instr.fields i s.w) then
            { s with w := { s.w with umbra := some u, cmpWait := false, cmpOk := true, held := false } }
          else umbraMismatch s (s.w.runIdx.getD 0) s.w.cur.region
        | _ => { s with w := { s.w with cmpWait := false } }
      | _ => s)

end Sys2Proof.Machine
end

