-- ==== Sys2Proof/Machine/PageService.lean ====
section
/-! DEFINITION. Shootdowns (R302, R310), the fault service (R311, R313), the answer to parked entries (R352), service calls
(R303, R351), and the landing of a CFETCH (R113). -/

namespace Sys2Proof.Machine

/-! The fault service's writes. -/

/-- The fault service writes one doubleword of a table or record. -/
def serviceWord (s : State) (pa v : Nat) : State :=
  homeWrite s pa (clean (leBytes 8 v)) false (.card ((ownerDie pa).getD 0))

/-- A run of doublewords. -/
def serviceWords (s : State) (pa : Nat) (vs : List Nat) : State :=
  vs.zipIdx.foldl (fun s x => serviceWord s (pa + 8 * x.2) x.1) s

/-- One home watch against a long run of bytes: the first line that it watches, and the rest as matches merged (R392) (DEDUCED, log 82). -/
def watchRun (s : State) (part i pa len : Nat) (who : Writer) : State :=
  let v := (Option.elim (s.part part) 0 fun p => p.hwatch.getD i 0).toNat
  let bits := min (bitsOf v 61 56) 20 + 6
  let lo := max pa (v % 2 ^ 52 / 2 ^ bits * 2 ^ bits)
  let hi := min (pa + len) (v % 2 ^ 52 / 2 ^ bits * 2 ^ bits + 2 ^ bits)
  if !bitOf v 63 || hi ≤ lo then s
  else
    let n := (hi + 63) / 64 - lo / 64
    (watchOne s part i false lo who).modPart part fun p => { p with
      hwatchAt := p.hwatchAt.modify i fun x => (x.1, x.2 + (n - 1)) }

/-- Zeros written over a frame, which clears its poison (R311, R384). -/
def zeroFrame (s : State) (pa len : Nat) : State :=
  let s := { s with mem := s.mem.filter fun x => !(pa ≤ x.1 && x.1 < pa + len)
                    memPoison := s.memPoison.filter fun g => !(pa / 8 ≤ g && g < (pa + len) / 8) }
  match (ownerDie pa).bind s.partOfDie with
  | none => s
  | some p => (List.range 8).foldl (fun s i => watchRun s p.num i pa len (.card ((ownerDie pa).getD 0))) s

/-! Page tables as the service sees them. -/

/-- Where a walk stops: the level, the physical address of its last entry, and what the walk says (R305). -/
def walkStop (m : Memory) (va : Nat) : (levels : List Nat) → (table : Nat) → Nat × Nat × Walk
  | [], t => (0, t, .malformed)
  | l :: ls, t =>
    let a := t + 8 * levelIndex l va
    let e := leNat (readBytes m a 8)
    if e % 2 = 0 then (l, a, .absent)
    else if bitOf e 52 || l = 3 then (l, a, walkFrom m va (l :: ls) t)
    else match walkFrom m va [l] t with
      | .malformed => if bitsOf e 63 53 != 0 || bitsOf e 5 1 != 0 || pteAddr e % tableAlign (l + 1) != 0 then (l, a, .malformed) else walkStop m va ls (pteAddr e)
      | w => (l, a, w)

/-- A NORMAL leaf (R306). -/
def normalLeaf (frame : Nat) : Nat := 2 ^ 52 + frame + 1

def tableSize (level : Nat) : Nat := if level = 3 then 32 else if level = 0 then 8192 else 512

/-- Tables given for a mapping lie where their levels may have them (R305). -/
def tablesFit (level : Nat) : List Nat → Bool
  | [] => true
  | t :: ts => t % tableAlign (level + 1) == 0 && frameOk t (8 * tableSize (level + 1)) && tablesFit (level + 1) ts

/-- Map `va` below the absent entry at `a` of a level, through new tables, to a zeroed frame: the lowest table first, and the
entry that makes the page present in one write last. -/
def mapBelow (s : State) (va frame : Nat) : (tables : List Nat) → (level a : Nat) → State
  | [], _, a => serviceWord s a (normalLeaf frame)
  | t :: ts, level, a =>
    let s := zeroFrame s t (8 * tableSize (level + 1))
    let s := mapBelow s va frame ts (level + 1) (t + 8 * levelIndex (level + 1) va)
    serviceWord s a (t + 1)

/-- A page that the fault service may not migrate, replicate or collapse (R301): no object with the M right covers it, or an
object without it does. -/
def withoutM (s : State) (space va size : Nat) : Bool :=
  let objs := (List.range 4095).filterMap fun i =>
    (tableEntry s space (i + 1)).filter fun x => decide (x.base < va + size) && decide (va < x.base + x.reslim)
  !objs.any (·.has 4) || objs.any fun x => !x.has 4

/-- The owner's copy of the page of `bits` bits at `va`, from a replica record (R307). -/
def ownerFrame (m : Memory) (rec va bits : Nat) : Nat :=
  let w := leNat (readBytes m rec 8)
  let span := 2 ^ pageBits (3 - w % 4)
  leNat (readBytes m (rec + 8) 8) + va / 2 ^ bits * 2 ^ bits % span

/-- The table that a replicated leaf `e` is split into: the same leaf everywhere but at the written place (R313). -/
def splitTable (level va e here : Nat) : List Nat :=
  (List.range (tableSize level)).map fun i => if i = levelIndex level va then here else e

/-- The collapse of a replicated page (R313): none where the tables do not fit. The entry is replaced in one write. -/
def collapse (s : State) (va level a e : Nat) (tables : List Nat) : Option State :=
  let own := normalLeaf (ownerFrame s.mem (pteAddr e) va 16)
  match level, tables with
  | 3, _ => some (serviceWord s a own)
  | 2, t :: _ => if tablesFit 2 [t] then some (serviceWord (serviceWords s t (splitTable 3 va e own)) a (t + 1)) else none
  | 1, t :: u :: _ =>
    if tablesFit 1 [t, u] then
      let s := serviceWords s u (splitTable 3 va e own)
      let s := serviceWords s t (splitTable 2 va e (u + 1))
      some (serviceWord s a (t + 1))
    else none
  | _, _ => none

/-- What the service comes to on one page (R311): none while it waits, else the state and whether the page is released. -/
def servePage (s : State) (f : PageWait) (frame : Nat) (tables : List Nat) : Option (State × Bool) :=
  let va := f.page * 65536
  match walkStop s.mem va [0, 1, 2, 3] (s.root f.space) with
  | (l, a, .absent) =>
    let lv := l + tables.length
    let size := 2 ^ pageBits lv
    if 1 ≤ lv ∧ lv ≤ 3 ∧ frame % size = 0 ∧ frameOk frame size ∧ tablesFit l tables then
      some (mapBelow (zeroFrame s frame size) va frame tables l a, true)
    else some (s, false)
  | (_, _, .malformed) => some (s, false)
  | (_, a, .leaf l e) =>
    if !f.write || bitsOf e 63 62 == 0 then some (s, true)
    else if bitsOf e 63 62 = 2 then none
    else
      let size := 2 ^ pageBits l
      if withoutM s f.space (va / size * size) size then some (s, false)
      else match collapse s va l a e tables with
        | some s => some (shootXlat s f.space (va / size * size) size, true)
        | none => some (s, false)

/-- The answer put into every wait on the page. -/
def PageWait.answered (f : PageWait) (ok : Bool) (x : PageWait) : PageWait :=
  if x.space = f.space ∧ x.page = f.page ∧ x.answer = none then { x with answer := some ok } else x

def Entry.answered (f : PageWait) (ok : Bool) (e : Entry) : Entry := { e with parks := e.parks.map (f.answered ok) }
def Wave.answered (f : PageWait) (ok : Bool) (w : Wave) : Wave :=
  { w with paths := w.paths.map (Entry.answered f ok)
           frame := w.frame.map fun x => { x with paths := x.paths.map (Entry.answered f ok) } }

/-- Everything that waits on the page learns the answer (R311). -/
def answerAll (s : State) (f : PageWait) (ok : Bool) : State :=
  let s := s.mapWaves (Wave.answered f ok)
  let fill (x : Slot) : Slot := { x with fault := x.fault.map (f.answered ok) }
  let inTeam (t : Team) : Team := { t with slots := t.slots.map fill }
  let s := { s with t := inTeam s.t, teams := s.teams.map inTeam }
  let s := s.mapCores fun k => { k with copies := k.copies.map fun c => { c with fault := c.fault.map (f.answered ok) } }
  { s with cards := s.cards.map fun c => { c with fault := c.fault.map (f.answered ok) }
           faults := s.faults.filter fun x => !(x.space == f.space && x.page == f.page) }

/-- EVENT PAGE_FAULT_SERVICE (R311): the record numbered `i` is served or declined (DESIGN CHOICE, log 60). -/
def execPageFaultService (i : Nat) (act : FaultAct) (s : State) : Out :=
  match s.faults[i]? with
  | none => .next s
  | some f =>
    match act with
    | .decline => .next (answerAll s f false)
    | .serve frame tables =>
      match servePage s f frame tables with
      | none => .next s
      | some (s, ok) => .next (answerAll s f ok)

/-! Shootdowns (R302, R310). -/

/-- A present page of a range made absent: its leaf entry is written. -/
def unmapAt (s : State) (space va : Nat) : State :=
  match walkStop s.mem va [0, 1, 2, 3] (s.root space) with
  | (_, a, .leaf _ e) => if bitsOf e 63 62 = 2 then s else serviceWord s a 0
  | _ => s

/-- The whole page that a leaf maps at an address, or the 64 KiB there, leaves every cache, dirty bytes written home (R310). -/
def flushLeaf (s : State) (space va : Nat) : State :=
  match walk s.mem (s.root space) va with
  | .leaf l _ => let size := 2 ^ pageBits l; flushRange s space (va / size * size) size
  | _ => flushRange s space va 65536

/-- EVENT TRANSLATION_SHOOTDOWN (R310): after a change of an entry. With `change.unmap` the change is the one that makes the range's
pages not present: every copy of their lines leaves the caches first, dirty bytes written home (DESIGN CHOICE, log 60). -/
def execTranslationShootdown (space lo : Nat) (change : EntryChange) (s : State) : Out := takeBack s <|
  let len := change.len
  let s := if change.unmap then
      let pages := (List.range ((lo + len + 65535) / 65536 - lo / 65536)).map fun i => (lo / 65536 + i) * 65536
      pages.foldl (fun s va => unmapAt s space va) (pages.foldl (fun s va => flushLeaf s space va) s)
    else s
  .next (shootXlat s space lo len)
/-- EVENT DESCRIPTOR_SHOOTDOWN (R302). -/
def execDescriptorShootdown (space obj : Nat) (s : State) : Out := .next (shootDesc s space obj)

/-! Parked entries (R352). -/

/-- A parked entry all of whose faults have been answered: READY, at an open loop's point with the loop's tiles restored
(R213, R223). -/
def releaseEntry (s : State) (i : Nat) (e : Entry) : State :=
  let ready : Entry := { e with st := .ready, parks := [], age := s.order, starve := 0, fair := 0, mat := false }
  let put (s : State) : State := { s with w := { s.w with paths := s.w.paths.set i ready }, order := s.order + 1 }
  match s.w.mloop with
  | some l =>
    if l.point = e.region ∧ e.body.isNone then
      if teamBusy s ((List.range 4).filter l.tiles.testBit) then s
      else
        let s := restoreLoop s l
        put { s with w := { s.w with mloop := some { l with redirect := true } } }
    else put s
  | none => put s

/-- The instruction at the address of a report, past an EXT (R73). -/
def Team.instrOf (t : Team) (pc : W64) : Option Instr :=
  match t.fetch pc with
  | some (.ok (.ext _)) => match t.fetch (pc + 4) with | some (.ok i) => some i | _ => none
  | some (.ok i) => some i
  | _ => none

/-- Lanes of a parked entry that have faults, every one of them answered (R352). -/
def Entry.answeredLanes (e : Entry) : W32 :=
  let of_ (xs : List PageWait) : W32 := xs.foldl (fun m x => m ||| x.lanes) 0
  of_ e.parks &&& ~~~(of_ (e.parks.filter (·.answer.isNone)))

/-- Waits without some lanes. -/
def without (m : W32) (xs : List PageWait) : List PageWait :=
  (xs.map fun x => { x with lanes := x.lanes &&& ~~~m }).filter fun x => x.lanes != 0

/-- A declined fault: PAGE in the lanes of one access whose faults are all answered, and their waits are gone (R264, R352). -/
def declineEntry (s : State) (i : Nat) (e : Entry) (f : PageWait) : State :=
  let mine (x : PageWait) : Bool := x.answer == some false && x.pc == f.pc
  let lanes := e.answeredLanes &&& (e.parks.filter mine).foldl (fun m x => m ||| x.lanes) 0
  let s := { s with w := { s.w with paths := s.w.paths.modify i fun e => { e with
    parks := e.parks.filter (fun x => !mine x) ++ without lanes (e.parks.filter mine) } } }
  let d : TrapDst × Bool := match s.t.instrOf f.pc with | some x => Instr.trapDst x | none => (.none, false)
  takeTrapOf s { cause := 32, detail := b2n f.write, lanes, addr := f.addr, pc := f.pc
                 next := f.pc + BitVec.ofNat 64 (s.t.instrLen f.pc), dst := d.1, dstLatch := d.2 } i f.clause e.body

/-- The declined wait of the lowest lane whose faults are all answered. -/
def firstDeclined (e : Entry) : Option PageWait :=
  (e.parks.filter fun x => x.answer == some false && x.lanes &&& e.answeredLanes != 0).foldl (fun a x =>
    let low (x : PageWait) : Nat := (lowest (x.lanes &&& e.answeredLanes)).getD 32
    match a with
    | none => some x
    | some y => if low x < low y then some x else a) none

/-- The entry into which the answered lanes of a parked entry part while others of it still wait (R352): a free one, and none in a
region with matrix instructions, whose lanes go on together (R213) (DESIGN CHOICE, log 116). -/
def partsTo (w : Wave) (e : Entry) : Option Nat :=
  let looped := match w.mloop with | some l => l.point == e.region | none => false
  if e.mat || looped || e.answeredLanes = 0 then none else w.paths.findIdx? (·.st == .free)

/-- Something can be done for a parked entry: a decline to raise, or lanes to release (R352). -/
def parkReady (w : Wave) (e : Entry) : Bool :=
  e.st == .parked && (e.parks.all (·.answer.isSome) || (firstDeclined e).isSome || (partsTo w e).isSome)

/-- The answered lanes become READY in an entry of their own; the others stay parked. -/
def partEntry (s : State) (i j : Nat) (e : Entry) : State :=
  let ready : Entry := { e with st := .ready, mask := e.answeredLanes, parks := [], age := s.order, starve := 0, fair := 0 }
  let stay : Entry := { e with mask := e.mask &&& ~~~e.answeredLanes, parks := without e.answeredLanes e.parks }
  { s with w := { s.w with paths := (s.w.paths.set i stay).set j ready }, order := s.order + 1 }

/-- What is done for a parked entry whose lanes' faults have been answered (R352). -/
def answerEntry (s : State) (entry : Nat) (e : Entry) : State :=
  match firstDeclined e with
  | some f => declineEntry s entry e f
  | none =>
    if e.parks.all (·.answer.isSome) then releaseEntry s entry e
    else match partsTo s.w e with
      | some j => partEntry s entry j e
      | none => s

/-- EVENT PARKED_ENTRY_RELEASE (R352): at an instruction boundary of the wave, the lanes whose faults have all been answered. An umbra
follows it as an event (R378), a trap of its leader once it has caught up (R382). -/
def execParkedEntryRelease (w : WaveId) (entry : Nat) (s : State) : Out :=
  .next (s.withWave w fun s =>
    let e := s.w.paths.getD entry {}
    if !s.t.resident || s.w.midway || !parkReady s.w e then s
    else
      let t := answerEntry s entry e
      if s.w.umbra.isNone || t.hand ≠ s.hand then t
      else if t.w.inHandler && !s.w.inHandler && s.w.lagging then s
      else { t with w := s.w.noteFrom t.w })

/-! Service calls (R303, R351). -/

/-- The answer to a service call of a wave: the entry that waits for it takes the result. -/
def Wave.serviced (w : Wave) (code result : Nat) : Wave :=
  let f (e : Entry) : Entry :=
    match e.blocked with
    | some b => if b.key = some (serviceKey code) ∧ ¬ b.done then { e with blocked := some { b with done := true, num := result } } else e
    | none => e
  { w with paths := w.paths.map f }

def Wave.calls (w : Wave) (code : Nat) : Bool :=
  w.paths.any fun e => match e.blocked with | some b => b.key == some (serviceKey code) && !b.done | none => false

/-- The commit of R303 for a team: the state and the result word. The new pages are left absent (DESIGN CHOICE, log 61). -/
def commitRaise (s : State) (t : Team) (obj lim : Nat) : State × Nat :=
  match (if obj = 0 ∨ 4096 ≤ obj then none else tableEntry s t.space obj), s.space t.space, s.launches.find? (·.id == t.launch) with
  | some x, some sp, some l =>
    if lim % 65536 ≠ 0 ∨ lim < x.comlim ∨ x.reslim < lim then (s, 2)
    else if lim = x.comlim then (s, 0)
    else
      let more := (lim - x.comlim) / 65536
      if cardWord l.card 8 % 2 ^ 32 < l.used + more then (s, 1)
      else
        let p := BitVec.ofNat 64 (sp.table.toNat % 2 ^ 52 + 32 * obj + 16)
        let s := dieWrite s t.space p (clean (leBytes 8 lim)) false (.card t.die) t.die
        let s := { s with launches := s.launches.map fun x => if x.id = l.id then { x with used := x.used + more } else x }
        (shootDesc s t.space obj, 0)
  | _, _, _ => (s, 2)

/-- EVENT SERVICE_COMMIT_RAISE (R303, R351). -/
def execServiceCommitRaise (w : WaveId) (s : State) : Out :=
  match s.team w.team, s.wave w with
  | some t, some v =>
    if v.calls 3840 then
      let r := commitRaise s t (v.s.getD 60 0).toNat (v.s.getD 61 0).toNat
      .next (r.1.modWave w fun v => v.serviced 3840 r.2)
    else .next s
  | _, _ => .next s

/-- EVENT SERVICE_DESCRIPTOR_SHOOTDOWN (R302, R351). -/
def execServiceDescriptorShootdown (w : WaveId) (s : State) : Out :=
  match s.team w.team, s.wave w with
  | some t, some v =>
    if v.calls 3841 then .next ((shootDesc s t.space (v.s.getD 60 0).toNat).modWave w fun v => v.serviced 3841 0)
    else .next s
  | _, _ => .next s

/-! Fills (R113). -/

/-- The 2,048 halfwords of a segment. -/
def halvesOf : List Byte → List Half
  | a :: b :: rest => (b ++ a) :: halvesOf rest
  | _ => []

def codeCells (bs : List Byte) : List (Nat × Half) :=
  ((halvesOf bs).zipIdx.filter fun x => x.1 != 0).map fun x => (x.2, x.1)

/-- A fill ends: landed with its code, or not landed and poisoned; the flag of its CFETCH falls. -/
def endFill (s : State) (team slot : Nat) (code : Option (List (Nat × Half))) : State :=
  match s.team team with
  | none => s
  | some t =>
    let x := t.slots.getD slot {}
    let y : Slot := { x with fill := false, fault := none, waiter := none, landed := code.isSome, poisoned := code.isNone
                             code := code.getD [] }
    let s := s.modTeam team fun t => { t with slots := t.slots.set slot y
                                              started := t.started || (slot == 0 && code.isSome) }
    match x.waiter with
    | some (w, f) => s.modWave ⟨team, w⟩ fun w => { w.flagDown f with held := false }
    | none => s

/-- EVENT CFETCH_FILL_COMPLETE (R39, R113): the segment is read at the die level; a page that is not there is asked for first,
and an error or a declined fault leaves the slot not landed (DEDUCED, log 46). -/
def execCfetchFillComplete (team slot : Nat) (poisoned : Bool) (s : State) : Out :=
  match s.team team with
  | none => .next s
  | some t =>
    match t.slots[slot]? with
    | none => .next s
    | some x =>
      if !x.fill || !t.resident then .next s
      else match x.fault.map (·.answer) with
        | some none => .next s
        | some (some false) => .next (endFill s team slot none)
        | _ =>
          match firstFault s t.space [(x.tag, 4096)] false with
          | some f => .next ((addFault s f).modTeam team fun t => { t with slots := t.slots.modify slot fun x => { x with fault := some f } })
          | none =>
            let s := waitRange s t.space x.tag 4096 t.die
            let d := dieRead s t.space x.tag 4096 t.die
            .next (endFill s team slot (if poisoned || anyPoison d then none else some (codeCells (bytesOf d))))

end Sys2Proof.Machine
end

