-- ==== Sys2Proof/Machine/Placement.lean ====
section
/-! DEFINITION. Events of the dispatcher and of context moves: host cards taken (R315, R316), placement (R317 to R321), the
eviction trigger (R322), eviction, reload, swap and spill (R336 to R340, R355 to R357). -/

namespace Sys2Proof.Machine

/-! Host cards (R315, R316). -/

/-- A card is taken at the head: the tail writes whose cards have all been taken are forgotten. -/
def Queue.taken (x : Queue) : Queue := { x with head := x.head + 1, marks := x.marks.filter fun m => x.head + 1 < m.1 }

/-- The place of a host card in the order of appends: that of the tail write that appended it (R315, R318). -/
def appendedAt (s : State) (x : Queue) (num : Nat) : Nat := ((x.marks.find? fun m => num < m.1).map (·.2)).getD s.order

/-- A refused host card: counted at offsets 24 and 32, its code at offset 40, and TYPE 3 with detail 4 (R315, R428). -/
def refuseCard (s : State) (part q num code : Nat) : State :=
  let s := s.modQueue part q fun x => { x.taken with finished := x.finished + 1, latest := num % 2 ^ 56 * 256 + code }
  postEvent s part 3 (q + 4 * 256) num

/-- EVENT HOST_CARD_TAKE (R315, R316): the host card at the head is examined and enters the window, is refused, or waits. -/
def execHostCardTake (part q : Nat) (s : State) : Out :=
  match s.part part with
  | none => .next s
  | some p =>
    let x := s.queue part q
    if !p.ready || !p.verok || x.device || !x.enable || x.tail ≤ x.head || 32 ≤ windowCards s part q then .next s
    else
      let num := x.head
      let card := bytesOf (homeRead s (ringSlot x num) 256)
      let s := waitPrivate s part (cardTable none card) card
      match examine s part none card with
      | (0, table) =>
        if (s.scope part (cardParent card)).st ≠ .open_ then .next (refuseCard s part q num 4)
        else
          match openScope s part (some (cardParent card)) .launch none (some (q, num)) with
          | (s, none) => .next s
          | (s, some n) =>
            let l : Launch := { id := s.nextLaunch, part, queue := q, num, card, scope := n, host := true
                                table, order := appendedAt s x num, since := s.now }
            let s := { s with launches := s.launches ++ [l], nextLaunch := s.nextLaunch + 1 }
            .next (s.modQueue part q fun x => x.taken)
      | (code, _) => .next (refuseCard s part q num code)

/-! The choice of cores (R319). -/

/-- Teams in the slots of a core. -/
def slotTeams (s : State) (id : CoreId) : List Team := s.allTeams.filter fun t => t.resident && t.die == id.die && t.core == id.core

def slotFree (s : State) (id : CoreId) (n : Nat) : Bool := n < 4 && (slotTeams s id).all (·.slot != n)

/-- Teams of a core, in its slots or in its shadow bank. -/
def coreTeams (s : State) (id : CoreId) : List Team :=
  s.allTeams.filter fun t => (t.resident || t.shadow) && t.die == id.die && t.core == id.core

/-- A core that may take a team (R319, R388). -/
def coreOpen (s : State) (id : CoreId) : Bool := coreOk id && (slotTeams s id).length < 4 && !(s.core id).retired

/-- Rank of cores: DUTY highest first, then fewest occupied slots, then the number (R319). -/
def coreBefore (s : State) (x y : CoreId) : Bool :=
  let dx := (s.core x).dutyNow
  let dy := (s.core y).dutyNow
  let nx := (slotTeams s x).length
  let ny := (slotTeams s y).length
  dy < dx || (dx == dy && (nx < ny || (nx == ny && x.core < y.core)))

def insertBy (before : CoreId → CoreId → Bool) (x : CoreId) : List CoreId → List CoreId
  | [] => [x]
  | y :: ys => if before x y then x :: y :: ys else y :: insertBy before x ys

def sortBy (before : CoreId → CoreId → Bool) (xs : List CoreId) : List CoreId := xs.foldr (insertBy before) []

/-- The best `g` cores of a constellation, if it has them, with their DUTY sum. -/
def bestCores (s : State) (die : Nat) (cons : List Nat) (g : Nat) : Option (List CoreId × Nat) :=
  let xs := (sortBy (coreBefore s) ((cons.map (CoreId.mk die)).filter (coreOpen s))).take g
  if xs.length = g then some (xs, xs.foldl (fun n x => n + (s.core x).dutyNow) 0) else none

/-- The cores for a gang of `g` (R319): the constellation with the largest sum, then the lowest die, then the one with the
lowest-numbered member. -/
def choosePlacement (s : State) (dies : List Nat) (g : Nat) : Option (List CoreId) :=
  let cands := (dies.foldl (fun l d => insertNat d l) []).flatMap fun d =>
    ((s.die d).cons.filterMap fun c => (bestCores s d c g).map fun x => (x, c.foldl min 48))
  let best := cands.foldl (fun (a : Option ((List CoreId × Nat) × Nat)) x =>
    match a with
    | none => some x
    | some y =>
      let dx := ((x.1.1.head?).map (·.die)).getD 0
      let dy := ((y.1.1.head?).map (·.die)).getD 0
      if y.1.2 < x.1.2 || (x.1.2 == y.1.2 && dx == dy && x.2 < y.2) then some x else a) none
  best.map (·.1.1)

/-! Cards that may be placed (R317, R318). -/

/-- Gangs of a launch. -/
def gangCount (c : List Byte) : Nat := (cardTeams c + cardGang c - 1) / cardGang c

/-- The next gang to place: one that is to be started again first (R355). -/
def Launch.nextGang (l : Launch) : Option Nat :=
  match l.again with
  | g :: _ => some g
  | [] => if l.placed < gangCount l.card then some l.placed else none

/-- A card that may begin placement: in the window, its scope not cancelled, no earlier card of the queue in its way (R317). -/
def mayPlace (s : State) (l : Launch) : Bool :=
  let st := (s.scope l.part l.scope).st
  let ready : Bool := match s.part l.part with | some p => p.ready | none => false
  ready && l.num < (s.queue l.part l.queue).head && !l.done && l.nextGang.isSome &&
    (st == .open_ || (st == .closed && !l.again.isEmpty)) &&
    !(s.launches.any fun a => a.part == l.part && a.queue == l.queue && a.num < l.num && !a.done && a.table == l.table &&
      footConflict a.card l.card 16)

/-- Order of service: priority, then the append, then the queue (R318); the cards of one tail write by their numbers. -/
def servedBefore (a b : Launch) : Bool :=
  let pa := cardPriority a.card
  let pb := cardPriority b.card
  pb < pa || (pa == pb && (a.order < b.order || (a.order == b.order && (a.queue < b.queue || (a.queue == b.queue && a.num < b.num)))))

/-- The ranks of a gang that are to be placed: all of a new one, and of one that a kill stopped those that it stopped (R355). -/
def Launch.ranksOf (l : Launch) (g : Nat) : List Nat :=
  if l.again.head? = some g then l.stoppedRanks g else List.range (gangSizeOf (cardTeams l.card) (cardGang l.card) g)

def launchGangSize (l : Launch) (g : Nat) : Nat := (l.ranksOf g).length

/-- Where a card's next gang would go now. -/
def placementOf (s : State) (l : Launch) : Option (List CoreId) :=
  match s.part l.part, l.nextGang with
  | some p, some g => choosePlacement s p.dies (launchGangSize l g)
  | _, _ => none

/-- Priority of a team's launch. -/
def teamPriority (s : State) (t : Team) : Nat := ((s.launches.find? (·.id == t.launch)).map fun l => cardPriority l.card).getD 0

/-- Peers of a gang beside the team. -/
def gangPeers (s : State) (t : Team) : List Team :=
  s.allTeams.filter fun x => x.launch == t.launch && x.gang == t.gang && x.id != t.id

/-- Where a team may be reloaded (R339): a core of its partition, for a member of a gang in the constellation that holds the
rest and on no core that holds another member. -/
def mayReload (s : State) (t : Team) (id : CoreId) : Bool :=
  let dies := ((s.part t.part).map (·.dies)).getD []
  let peers := (gangPeers s t).filter fun x => x.resident || x.shadow
  coreOk id && dies.contains id.die && !(s.core id).retired &&
    peers.all fun x => x.die == id.die && x.core != id.core && ((s.die id.die).consOf id.core).contains x.core

/-- A team that waits for a slot. -/
def waitsReload (t : Team) : Bool := t.recorded && !t.resident && !t.shadow && t.ending.isNone

/-- A reload that comes before new cards of a priority (R339). -/
def reloadFirst (s : State) (part prio : Nat) : Bool :=
  s.allTeams.any fun t => t.part == part && waitsReload t && prio ≤ teamPriority s t &&
    (((s.part part).map (·.dies)).getD []).any fun d => (List.range 48).any fun c => coreOpen s ⟨d, c⟩ && mayReload s t ⟨d, c⟩

/-! Starting a team (R11, R321). -/

/-- A tile whose contents are undefined (R11): its elements are free, taken as FP32 with tolerance selector 0 until MZERO or MLOADZ
sets them (DESIGN CHOICE, log 5). -/
def freshTile (n i : Nat) : Tile :=
  { rows := (List.range 64).map fun r => (List.range 64).map fun c => Config.freeTile n i r c }

def startLane (free n index wave i : Nat) : Lane :=
  { id := i, g := List.replicate n 0, k := List.replicate 8 0, latch := Config.freeLatch free i
    tid := BitVec.ofNat 32 (wave * 32 + i + 1024 * index) }

/-- The lanes of a wave that exist (R11). -/
def existing (threads index wave : Nat) : W32 := maskOf fun i => decide (wave * 32 + i + 1024 * index < threads)

/-- A wave at its start (R11). -/
def startWave (s : State) (card : List Byte) (index rank num : Nat) : Wave :=
  let mask := existing (cardThreads card) index num
  let entry := BitVec.ofNat 64 (cardWord card 0)
  let w : Wave :=
    { num, al1 := s.clock, acc := s.clock
      lanes := (List.range 32).map (startLane s.free (cardN card) index num)
      s := startS index num rank (cardW card)
      m := 0xFFFFFFFF :: List.replicate 15 0
      xprog := cardXprog card, xfprm := cardXfprm card
      ended := mask == 0
      paths := (if mask == 0 then {} else { st := .run, pc := entry, mask, region := entry } : Entry) :: List.replicate 7 {} }
  if cardTwin card then w.withUmbra else w

/-- The capsule tag of a new team: the partition's choice, or the first one after it that no live team has (R245). -/
def freshTag (s : State) : BitVec 22 :=
  let used := s.allTeams.map (·.capTag)
  let t := Config.capTag s.nextTeam
  (((List.range (used.length + 1)).map fun k => t + BitVec.ofNat 22 k).find? fun x => !used.contains x).getD t

/-! Context records (R356). -/

/-- Sizes of a record's areas, in order: header, wave frames, G registers, bins, window, Z tiles, share. -/
def recordSizes (t : Team) : List Nat :=
  [4096, 4096 * t.w, 128 * t.w * t.n, 34816, t.window, 4 * snapBytes, t.share]

/-- The areas, each from a 4 KiB boundary on. -/
def layAreas (sizes : List Nat) : List (Nat × Nat) :=
  (sizes.foldl (fun (a : List (Nat × Nat) × Nat) n => (a.1 ++ [(a.2, n)], (a.2 + n + 4095) / 4096 * 4096)) ([], 0)).1

/-- The bytes of a list that are not 0, at an offset. -/
def nonZero (at_ : Nat) (bs : List Byte) : List (Nat × Byte) := (bs.zipIdx.filter (·.1 != 0)).map fun x => (at_ + x.2, x.1)

/-- The bytes of the areas whose layout R356 gives: G registers, by wave, register and lane, the window, the tiles as snapshots, and
the share by slice. -/
def recordBytes (areas : List (Nat × Nat)) (t : Team) : List (Nat × Byte) :=
  let base (k : Nat) : Nat := (areas.getD k (0, 0)).1
  let regs := (List.range t.w).flatMap fun n =>
    match t.waves.find? (·.num == n) with
    | some w => nonZero (base 2 + 128 * t.n * n) ((List.range t.n).flatMap fun r => w.lanes.flatMap fun l => leBytes 4 (l.g.getD r 0).toNat)
    | none => []
  let tiles := (List.range 4).flatMap fun n => nonZero (base 5 + snapBytes * n) (t.tiles.getD n {}).snapshot
  regs ++ t.scratch.map (fun x => (base 4 + x.1, x.2)) ++ tiles ++ t.bstore.map fun x => (base 6 + x.1, x.2)

/-- The spill engine writes a team's record (R337, R338). -/
def Team.save (t : Team) : Team := { t with recorded := true, record := { t.record with bytes := recordBytes t.record.areas t } }

/-- The partition manager allocates a team's record (R356). -/
def Team.allocate (t : Team) : Team := { t with record := { areas := layAreas (recordSizes t) } }

/-- A team placed in a slot: its window, shares and tag table clear, its entry segment on the way into slot 0 (R321). -/
def startTeam (s : State) (l : Launch) (params : List Byte) (space gang rank size : Nat) (at_ : CoreId × Nat) : Team :=
  let c := l.card
  let index := gang * cardGang c + rank
  { id := s.nextTeam, die := at_.1.die, core := at_.1.core, slot := at_.2, resident := true, launch := l.id
    index, rank, gang, w := cardW c, n := cardN c
    waves := (List.range (cardW c)).map (startWave s c index rank)
    window := cardWindow c, share := cardShare c
    tiles := (List.range 4).map (freshTile s.free)
    xtvec := BitVec.ofNat 64 (cardWord c 1)
    tags := if cardTags c then some { base := cardTagBase c, sets := List.replicate (2 ^ cardTagLog c) {} } else none
    slots := { tag := BitVec.ofNat 64 (cardWord c 0 / 4096 * 4096), fill := true } :: List.replicate 7 {}
    age := (s.core at_.1).ages, capTag := freshTag s, since := s.now, twin := cardTwin c
    part := l.part, space, params, priv := cardPriv c, privObj := bitsOf (cardWord c 9) 11 0, gangSize := size }

/-- One team of a gang: its record, its age, its place in the list, and its count in the launch scope (R321, R327, R356). Its start
is an acquire at PKG (R273): what its core and constellation hold of the space is given up (DESIGN CHOICE, log 93). -/
def placeTeam (s : State) (l : Launch) (params : List Byte) (space gang rank size : Nat) (at_ : CoreId × Nat) (counts : Bool) : State :=
  let t := (startTeam s l params space gang rank size at_).allocate
  let k := s.core at_.1
  let s := renewCc (s.setCore { k with ages := k.ages + 1 }) at_.1 space
  let s := { s with teams := s.teams ++ [t], nextTeam := s.nextTeam + 1, free := s.free + 1 }
  if counts then s.scopeUp l.part l.scope else s

/-- A whole gang placed on its cores; the launch scope closes after the last (R256, R318, R321). -/
def placeGang (s : State) (l : Launch) (g : Nat) (cores : List (CoreId × Nat)) : State :=
  match spaceFor s l.part l.table with
  | none => s
  | some (s, space) =>
    let c := l.card
    let die := ((cores.head?).map (·.1.die)).getD 0
    let params := bytesOf (dieRead s space (BitVec.ofNat 64 (cardWord c 2)) (cardParamBytes c) die)
    let again := l.again.head? == some g
    let size := gangSizeOf (cardTeams c) (cardGang c) g
    let s := ((l.ranksOf g).zip cores).foldl (fun s x => placeTeam s l params space g x.1 size x.2 (!again)) s
    let l' : Launch := if again then { l with again := l.again.tail, since := s.now } else { l with placed := l.placed + 1, since := s.now }
    let s := { s with launches := s.launches.map fun x => if x.id = l.id then l' else x }
    if !again && gangCount c ≤ l'.placed then
      checkScope (s.modScope l.part l.scope fun f => if f.st = .open_ then { f with st := .closed } else f) l.part l.scope 256
    else s

/-- EVENT CARD_PLACEMENT (R317 to R321): the card's next gang goes to the cores that R319 chooses, in free slots of them. No
card of higher rank that could be placed, and no reload that comes first, is passed over. -/
def execCardPlacement (part q card : Nat) (cores : List (CoreId × Nat)) (s : State) : Out :=
  match s.launches.find? fun l => l.part == part && l.queue == q && l.num == card && !l.done with
  | none => .next s
  | some l =>
    let earlier := s.launches.any fun x => x.part == part && servedBefore x l && mayPlace s x && (placementOf s x).isSome
    match l.nextGang with
    | none => .next s
    | some g =>
      if mayPlace s l && !earlier && !reloadFirst s part (cardPriority l.card) &&
          placementOf s l == some (cores.map (·.1)) && cores.all (fun x => slotFree s x.1 x.2) then
        .next (placeGang s l g cores)
      else .next s

/-- A core that a placement demand may name (R320): a free slot, no frozen constellation, no team of another gang. -/
def mayGather (s : State) (id : CoreId) : Bool :=
  let d := s.die id.die
  coreOpen s id && !(d.frozenAt.any fun x => x.1 == d.consId id.core) && !(coreTeams s id).any fun t => 1 < t.gangSize

/-- A team that waits for a slot on one of some cores of a die, and comes before a placement demand for them (R340). -/
def reloadWants (s : State) (die : Nat) (cores : List Nat) : Bool :=
  s.allTeams.any fun t => waitsReload t && cores.any fun c => coreOpen s ⟨die, c⟩ && mayReload s t ⟨die, c⟩

/-- The demand that the dispatcher posts for a card which no constellation can hold (R320): the best cores, in the order of
R319, of the lowest die that has enough of them. R320 leaves die and cores open: the event takes any (DESIGN CHOICE, log 35). -/
def demandFor (s : State) (l : Launch) : Option (Nat × List Nat) :=
  match s.part l.part, l.nextGang with
  | some p, some g =>
    let size := launchGangSize l g
    (p.dies.foldl (fun l d => insertNat d l) []).findSome? fun d =>
      let xs := (sortBy (coreBefore s) (((List.range 48).map (CoreId.mk d)).filter (mayGather s))).take size
      if xs.length = size && size ≤ 32 then some (d, xs.map (·.core)) else none
  | _, _ => none

/-- EVENT PLACEMENT_DEMAND (R320): no constellation can hold the gang, the die has cores that could, and no reload wants their slots
(R340). -/
def execPlacementDemand (die : Nat) (cores : List Nat) (s : State) : Out :=
  if 8 ≤ die || cores.any (48 ≤ ·) then .fault .noSuchUnit
  else
    let wanted := s.launches.any fun l => mayPlace s l && (placementOf s l).isNone &&
      (((s.part l.part).map (·.dies)).getD []).contains die && (l.nextGang.map (launchGangSize l)) == some cores.length
    if wanted && !reloadWants s die cores && cores.eraseDups.length == cores.length && cores.length ≤ 32 && cores.all fun c => mayGather s ⟨die, c⟩ then
      .next (s.setDie { s.die die with demand := cores })
    else .next s

/-! Eviction (R322, R338). -/

/-- Some but not all live waves of a team have arrived at a barrier (R338). -/
def partlyArrived (t : Team) : Bool :=
  let ws := t.waves.filter fun w => !w.ended
  (List.range 16).any fun n => ws.any (fun w => w.waitsBar n && w.arrived n) && !ws.all fun w => w.arrived n

/-- Stores, atomics, copies and array steps of a team that are in flight: they are performed before it leaves (R198, R338) (DESIGN CHOICE, log 64). -/
def inFlight (s : State) (t : Team) : Bool :=
  let k := s.core ⟨t.die, t.core⟩
  t.waves.any (fun w => w.pend.any fun p => !p.load || !p.atoms.isEmpty) || k.copies.any (fun c => c.team == t.id) ||
    k.array.any (fun o => o.team == t.id)

/-- The most recently started gang of the lowest priority at least two levels below `prio` (R322). -/
def victim (s : State) (part prio : Nat) : Option Team :=
  (s.allTeams.filter fun t => t.part == part && t.resident && t.ending.isNone && teamPriority s t + 2 ≤ prio).foldl
    (fun (a : Option Team) t => match a with
      | none => some t
      | some x => if teamPriority s t < teamPriority s x || (teamPriority s t == teamPriority s x && x.id < t.id) then some t else a) none

/-- EVENT PLACEMENT_EVICTION_TRIGGER (R322): a card that has waited 100 us evicts the gang chosen; one eviction at a time (DESIGN CHOICE, log 65). -/
def execPlacementEvictionTrigger (part q card : Nat) (s : State) : Out :=
  match s.launches.find? fun l => l.part == part && l.queue == q && l.num == card && !l.done with
  | none => .next s
  | some l =>
    let busy := s.allTeams.any fun t => t.part == part && t.evict.isSome
    if !mayPlace s l || (placementOf s l).isSome || s.now < l.since + 100000 || busy then .next s
    else match victim s part (cardPriority l.card) with
      | none => .next s
      | some v =>
        let ids := (s.allTeams.filter fun t => t.launch == v.launch && t.gang == v.gang && t.resident).map (·.id)
        .next (ids.foldl (fun s id => s.modTeam id fun t => { t with evict := some (s.now + 50000) }) s)

/-- A team leaves its slot: its records are STALLED and its core's dirty bytes are home first (R38, R338). `bank` says that it
goes to the shadow bank. -/
def leaveCore (s : State) (id : Nat) (bank : Bool) : State :=
  let s := if s.hand.isSome && s.t.id == id then { s.putBack with granted := false } else s
  match s.team id with
  | none => s
  | some t =>
    let s := stallTeam s t
    let s := releaseCaches s ⟨t.die, t.core⟩ t.space .sys
    let out (t : Team) : Team :=
      { t with resident := false, shadow := bank, recorded := false, bwait := false, evict := none, residentNs := t.residentNs + (s.now - t.since)
               -- out of the core no opportunity of a scheduler is missed (R326)
               waves := t.waves.map fun w => { w with ungranted := 0, umbra := w.umbra.map fun u => { u with ungranted := 0 } } }
    s.modTeam id fun t => if bank then out t else (out t).save

/-- EVENT SLOT_EVICTION (R338): the team's context is in its record and the slot is free. -/
def execSlotEviction (team : Nat) (s : State) : Out :=
  match s.team team with
  | none => .next s
  | some t =>
    if !t.resident || t.evict.isNone || t.ending.isSome || partlyArrived t || inFlight s t then .next s
    else .next (leaveCore s team false)

/-- EVENT EVICTION_DEFERRAL_EXPIRY (R338): after 50 us the eviction proceeds with its barriers' arrivals in the record. -/
def execEvictionDeferralExpiry (team : Nat) (s : State) : Out :=
  match s.team team with
  | none => .next s
  | some t =>
    match t.evict with
    | none => .next s
    | some d =>
      if !t.resident || t.ending.isSome || inFlight s t then .next s
      else .next (leaveCore { s with clock := max s.clock (3 * d) } team false)

/-! Reload and swap (R336 to R340, R357). -/

/-- Overlay slots that had landed are filled again from their tags (R41, R357). -/
def refillSlots (t : Team) : Team :=
  { t with slots := t.slots.map fun x => if x.landed then { x with landed := false, fill := true, waiter := none, code := [] } else x }

/-- A receiver that was out of its core has withdrawn its wait: it waits from now on, behind those that blocked meanwhile (R197). -/
def Entry.waitAgain (order : Nat) (e : Entry) : Entry :=
  { e with blocked := e.blocked.map fun b =>
      if (match b.key with | some k => k.1 == 1 | none => false) || !b.mails.isEmpty then { b with order } else b }

def Wave.waitAgain (order : Nat) (w : Wave) : Wave :=
  { w with paths := w.paths.zipIdx.map fun x => x.1.waitAgain (order + 8 * w.num + x.2)
           frame := w.frame.map fun f => { f with paths := f.paths.zipIdx.map fun x => x.1.waitAgain (order + 8 * w.num + x.2) } }

/-- A team comes into a slot with the stamps of its record (R295, R356). -/
def arriveTeam (order now : Nat) (id : CoreId) (slot : Nat) (t : Team) : Team :=
  let t := refillSlots t
  { t with die := id.die, core := id.core, slot, resident := true, shadow := false, recorded := false, since := now
           waves := t.waves.map fun w => { w.waitAgain order with held := false } }

/-- A team that waits comes into a slot. What its new core and constellation hold of its space is given up, so that it sees its own
stores (R339; DESIGN CHOICE, log 64). -/
def bringIn (s : State) (team : Nat) (core : CoreId) (slot : Nat) (f : Team → Team) : State :=
  let s := match s.team team with | some t => renewCc s core t.space | none => s
  { s.modTeam team fun t => f (arriveTeam s.order s.now core slot t) with order := s.order + 256 }

/-- EVENT TEAM_RELOAD (R339). -/
def execTeamReload (team : Nat) (core : CoreId) (slot : Nat) (s : State) : Out :=
  if !coreOk core || 4 ≤ slot then .fault .noSuchUnit
  else match s.team team with
    | none => .next s
    | some t =>
      if waitsReload t && slotFree s core slot && mayReload s t core then
        .next (bringIn s team core slot id)
      else .next s

/-- EVENT SHADOW_SWAP (R336, R357): all four slots change places with the shadow bank, in 1,536 FCLK. The B store stays in place: the
share of a team that comes in is filled later, slot by slot; slots with no share on either side are skipped. -/
def execShadowSwap (core : CoreId) (s : State) : Out := takeBack s <|
  if !coreOk core then .fault .noSuchUnit
  else if (s.core core).spillDue then .next s
  else
    let out := slotTeams s core
    let inn := s.allTeams.filter fun t => t.shadow && t.die == core.die && t.core == core.core
    let s := out.foldl (fun s t => leaveCore s t.id true) s
    let s := { s with clock := s.clock + 3072 }
    let s := inn.foldl (fun s t => bringIn s t.id core t.slot fun t => { t with bwait := t.share != 0 }) s
    let shares := (List.range 4).filter fun n => (out ++ inn).any fun t => t.slot == n && t.share != 0
    .next (s.setCore { s.core core with spillDue := !out.isEmpty || !shares.isEmpty, exchange := shares })

/-- The exchange of one slot's share of the B store (R357): the outgoing share is in its record, and the incoming one has landed. -/
def exchangeSlot (s : State) (core : CoreId) (slot : Nat) : State :=
  let here (t : Team) : Bool := t.die == core.die && t.core == core.core && t.slot == slot
  let ids := (s.allTeams.filter fun t => t.resident && here t).map (·.id)
  ids.foldl (fun s id => s.modTeam id fun t => { t with bwait := false }) s

/-- EVENT SPILL (R337, R357): the next slot's share of the B store is exchanged; after the last, the displaced teams are in their
records, and the bank holds nothing of them. -/
def execSpill (core : CoreId) (s : State) : Out :=
  if !coreOk core then .fault .noSuchUnit
  else if !(s.core core).spillDue then .next s
  else
    match (s.core core).exchange with
    | slot :: rest =>
      let s := exchangeSlot s core slot
      .next (s.setCore { s.core core with exchange := rest })
    | [] =>
      let ids := (s.allTeams.filter fun t => t.shadow && t.die == core.die && t.core == core.core).map (·.id)
      let s := ids.foldl (fun s id => s.modTeam id fun t => { t.save with shadow := false }) s
      .next (s.setCore { s.core core with spillDue := false })

/-- EVENT SHADOW_BANK_PREFILL (R337): a team that waits is put into a slot of the shadow bank from its record. -/
def execShadowBankPrefill (core : CoreId) (team : Nat) (s : State) : Out :=
  if !coreOk core then .fault .noSuchUnit
  else match s.team team with
    | none => .next s
    | some t =>
      let bank := s.allTeams.filter fun x => x.shadow && x.die == core.die && x.core == core.core
      match (List.range 4).find? fun n => bank.all (·.slot != n) with
      | none => .next s
      | some n =>
        if (s.core core).spillDue || !waitsReload t || !mayReload s t core then .next s
        else .next (s.modTeam team fun t => { t with shadow := true, recorded := false, die := core.die, core := core.core, slot := n })

end Sys2Proof.Machine
end

