-- ==== Sys2Proof/Machine/Regroup.lean ====
section
/-! DEFINITION. Events of the regrouping engine (R330 to R343): its interval, the driver's request and its decision, the
re-stitch itself (R284, R298, R334), and the end of a freeze (R182). -/

namespace Sys2Proof.Machine

/-! The Sextant (R330). -/

/-- A(i, j): the eight counters of (i, j) and (j, i). -/
def Die.affinity (d : Die) (i j : Nat) : Nat :=
  d.sextant.foldl (fun n x => if x.1 = (i, j) ∨ x.1 = (j, i) then n + x.2.foldl (· + ·) 0 else n) 0

/-- score(P): A over the unordered pairs that share a constellation (R332). -/
def Die.score (d : Die) (p : List (List Nat)) : Nat :=
  p.foldl (fun n c => c.foldl (fun n i => c.foldl (fun n j => if i < j then n + d.affinity i j else n) n) n) 0

def Die.halve (d : Die) : Die := { d with sextant := d.sextant.map fun x => (x.1, x.2.map (· / 2)) }

/-! Proposals (R331). -/

/-- Members in rising order, the constellations by their lowest member. -/
def sortCons (p : List (List Nat)) : List (List Nat) :=
  let q := p.map fun c => c.foldl (fun l x => insertNat x l) []
  (List.range 48).filterMap fun i => q.find? fun c => c.head? == some i

/-- The cores of a die that teams of one gang are on. -/
def gangCores (s : State) (die : Nat) : List (List Nat) :=
  let ts := s.allTeams.filter fun t => (t.resident || t.shadow) && t.die == die && 1 < t.gangSize
  ts.map fun t => ((ts.filter fun x => x.launch == t.launch && x.gang == t.gang).map (·.core)).eraseDups

/-- A partition of the die's cores that keeps the conditions of R331. -/
def proposalOk (s : State) (die : Nat) (p : List (List Nat)) : Bool :=
  let d := s.die die
  let all := p.flatten
  let frozen := d.frozenAt.map fun x => d.consOf x.1
  all.length == 48 && (List.range 48).all all.contains && p.all (fun c => 1 ≤ c.length && c.length ≤ 32) &&
    frozen.all (fun f => (sortCons p).contains (f.foldl (fun l x => insertNat x l) [])) &&
    (gangCores s die).all (fun g => p.any fun c => g.all c.contains) &&
    p.all fun c => c.length == 1 || c.all fun n => !(s.core ⟨die, n⟩).retired

/-! The re-stitch (R284, R298, R334). -/

/-- Cores whose constellation or whose constellation's membership changes (R284). -/
def affected (old new : List (List Nat)) : List Nat :=
  (List.range 48).filter fun n =>
    (old.find? (·.contains n)).getD [n] != (new.find? (·.contains n)).getD [n]

/-- Accesses that a team has issued are performed (R334 step 1). -/
def settleTeam (s : State) (t : Team) : State :=
  t.waves.foldl (fun s w => s.withWave ⟨t.id, w.num⟩ settleAtoms) s

/-- The global writes of a core's copies that have read are performed (R334 step 1); queued ones wait. -/
def settleCopies (s : State) (id : CoreId) : State :=
  (s.core id).copies.zipIdx.foldl (fun s x =>
    match s.team x.1.team with
    | some t => if x.1.st = .writing ∧ x.1.op.outward then performOut s id x.2 x.1 t.space else s
    | none => s) s

/-- FENCE.AR.DIE for every wave of a team in a slot: its stamps, once the caches are written back (R284). -/
def fenceTeam (clock : Nat) (t : Team) : Team :=
  { t with perf := t.perf.modify 7 (· + 1), waves := t.waves.map fun w => { w with al1 := clock, acc := clock, held := false } }

/-- One re-stitch of a die to a new membership (R334): the affected cores stop, their accesses and the writes of their started copies
are performed, their dirty lines go to the die level and all their lines are dropped; then the membership and GEN change. -/
def reStitch (s : State) (die : Nat) (new : List (List Nat)) : State :=
  let d := s.die die
  let new := sortCons new
  let hit := affected (sortCons d.cons) new
  if hit.isEmpty then s
  else
    let teams := hit.flatMap fun n => slotTeams s ⟨die, n⟩
    let s := teams.foldl settleTeam s
    let s := hit.foldl (fun s n => settleCopies s ⟨die, n⟩) s
    let s := hit.foldl (fun s n => flushCore s ⟨die, n⟩) s
    let names := hit.map fun n => d.consId n
    let s := teams.foldl (fun s t => s.modTeam t.id (fenceTeam s.clock)) s
    let s := match s.hand with
      | some h => if teams.any (·.id == h.team) then { s with w := { s.w with al1 := s.clock, acc := s.clock, held := false } } else s
      | none => s
    let d := s.die die
    s.setDie { d with cons := new, gen := d.gen + 1, cc := d.cc.filter fun y => !names.contains y.cons }

/-! Decisions (R320, R332, R341, R342). -/

/-- A constellation made of some cores, taken from those they were in. -/
def gather (old : List (List Nat)) (cores : List Nat) : List (List Nat) :=
  (if cores.isEmpty then [] else [cores]) ++ (old.map fun c => c.filter fun n => !cores.contains n).filter (!·.isEmpty)

/-- A placement demand that is pending, applied without the test of R332 (R320); it waits while a reload wants its slots (R340). -/
def applyDemand (s : State) (die : Nat) : State :=
  let d := s.die die
  if d.demand.isEmpty || reloadWants s die d.demand then s
  else
    let p := gather d.cons d.demand
    let s := s.setDie { d with demand := [] }
    if proposalOk s die p then reStitch s die p else s

def Die.enabled (d : Die) : Bool := bitOf d.xregrp.toNat 63
def Die.hyst (d : Die) : Nat := bitsOf d.xregrp.toNat 47 40

/-- The clock at the end of the interval that runs, of at least 100 us (R330). -/
def Die.nextRegroup (d : Die) : Nat := d.lastRegroup + 3000 * max 100 (bitsOf d.xregrp.toNat 31 0)

/-- EVENT REGROUP_INTERVAL (R330 to R333): an interval has gone by. A demand that is pending is applied; else, with EN = 1, a proposal
that passes the tests. The counters are halved after a decision; with EN = 0 and no demand there is none (DESIGN CHOICE, log 66). -/
def execRegroupInterval (die : Nat) (proposal : List (List Nat)) (s : State) : Out := takeBack s <|
  if 8 ≤ die then .fault .noSuchUnit
  else
    let d := s.die die
    let s : State := { s with clock := max s.clock d.nextRegroup }
    let s := s.setDie { d with lastRegroup := s.clock }
    if !d.demand.isEmpty then
      let s := applyDemand s die
      .next (s.setDie (s.die die).halve)
    else if !d.enabled then .next s
    else
      let old := d.score d.cons
      let new := d.score proposal
      let s := if proposalOk s die proposal && sortCons proposal != sortCons d.cons &&
            (64 + d.hyst) * old ≤ 64 * new && old < new then reStitch s die proposal else s
      .next (s.setDie (s.die die).halve)

/-- The window takes writes: a version is accepted and no reset is under way (R424, R431). -/
def windowOpen (s : State) (part : Nat) : Bool :=
  match s.part part with
  | some p => p.verok && !p.resetting
  | none => false

/-- The die registers exist from version 1.1 on (R431). -/
def dieWindow (s : State) (die : Nat) : Bool :=
  match s.partOfDie die with
  | some p => windowOpen s p.num && p.hostver == 0x11
  | none => false

/-- EVENT REGROUP_REQUEST (R341): a write of XREGREQ; while GO reads 1 it is ignored. A request has no answer yet: RESULT reads 0
until it is decided. -/
def execRegroupRequest (die : Nat) (v : W64) (s : State) : Out :=
  if 8 ≤ die then .fault .noSuchUnit
  else
    let d := s.die die
    if !dieWindow s die || bitOf d.xregreq.toNat 63 then .next s
    else
      let result := if bitOf v.toNat 63 then 0 else d.xregreq &&& 0x6000000000000000
      .next (s.setDie { d with xregreq := result ||| (v &&& 0x9000FFFFFFFFFFFF) })

/-- What a read of XREGREQ gives: GEN, in [54:48], is the die's re-stitch count (R180, R341). -/
def xregreqWord (d : Die) : W64 :=
  (d.xregreq &&& 0xFF80FFFFFFFFFFFF) ||| BitVec.ofNat 64 (d.gen % 128 * 2 ^ 48)

/-- The team that a request names: index within the launch of a scope, resident on the die (R341). -/
def namedTeam (s : State) (part die scope index : Nat) : Option Team :=
  if (s.scope part scope).st = .free ∨ (s.scope part scope).kind ≠ .launch then none
  else
    match s.launches.find? fun l => l.part == part && l.scope == scope && !l.done with
    | none => none
    | some l => s.allTeams.find? fun t => t.launch == l.id && t.index == index && t.resident && t.die == die

/-- The answer to a request (R342): RESULT, and the partition that an applied one makes. -/
def judge (s : State) (part die : Nat) : Nat × List (List Nat) :=
  let d := s.die die
  let v := d.xregreq.toNat
  let join := bitOf v 60
  let frozen (c : Nat) : Bool := d.frozenAt.any fun x => x.1 == d.consId c
  match namedTeam s part die (bitsOf v 47 40) (bitsOf v 39 24) with
  | none => (2, [])
  | some m =>
    let anchor := if join then namedTeam s part die (bitsOf v 23 16) (bitsOf v 15 0) else some m
    match anchor with
    | none => (2, [])
    | some a =>
      if !join && bitsOf v 23 0 != 0 then (2, [])
      else if (coreTeams s ⟨die, m.core⟩).any (fun t => 1 < t.gangSize) then (2, [])
      else if frozen m.core || (join && frozen a.core) then (2, [])
      else
        let same := d.consId m.core == d.consId a.core
        let members := (d.consOf a.core).filter (· != m.core)
        if (join && !same && 32 ≤ members.length) || (s.core ⟨die, m.core⟩).retired || (s.core ⟨die, a.core⟩).retired then (2, [])
        else if join then
          if same then (3, []) else (1, gather d.cons (m.core :: members))
        else if (d.consOf m.core).length == 1 then (3, []) else (1, gather d.cons [m.core])

/-- EVENT REGROUP_REQUEST_DECISION (R342): the request is judged after a demand that is pending, carried out, and answered in
XREGREQ and on the ring. The counters are halved, as after each decision (R330). -/
def execRegroupRequestDecision (die : Nat) (s : State) : Out := takeBack s <|
  if 8 ≤ die then .fault .noSuchUnit
  else if !bitOf (s.die die).xregreq.toNat 63 then .next s
  else
    match s.partOfDie die with
    | none => .next s
    | some p =>
      let s := applyDemand s die
      let r := judge s p.num die
      let s := if r.1 = 1 then reStitch s die r.2 else s
      let d := s.die die
      let s := s.setDie { d with xregreq := BitVec.ofNat 64 (r.1 * 2 ^ 61) ||| (d.xregreq &&& 0x1FFFFFFFFFFFFFFF) }
      let s := s.setDie (s.die die).halve
      .next (postEvent s p.num 7 (r.1 + d.gen % 128 * 256 + die * 65536) 0)

/-! Freezes (R182). -/

/-- The lowest-numbered live wave of a team. -/
def lowestWave (t : Team) : Option Nat :=
  (List.range 32).find? fun n => t.waves.any fun w => w.num == n && !w.ended

/-- EVENT FREEZE_EXPIRED (R182): the limit of the freeze has passed in Meridian time (R420): every freeze on the constellation of the
core is dropped, and each holder is told. -/
def execFreezeExpired (die core : Nat) (s : State) : Out :=
  if !coreOk ⟨die, core⟩ then .fault .noSuchUnit
  else
    let d := s.die die
    let cons := d.consId core
    let limit := d.xfrzmax.toNat % 2 ^ 32
    match (if limit = 0 then none else d.frozenAt.find? (·.1 == cons)) with
    | none => .next s
    | some x =>
      let s : State := { s with clock := max s.clock (x.2 + 3000 * limit) }
      let holders := s.allTeams.filter fun t => t.freezeOf die cons != 0
      let s := holders.foldl (fun s t =>
        let s := s.modTeam t.id fun t => t.setFreeze die cons 0
        match lowestWave t with
        | some n => s.modWave ⟨t.id, n⟩ fun w =>
            w.report { cause := 50, detail := 0, pc := w.issuePc, lanes := w.cur.mask }
        | none => s) s
      .next (noteFreeze s die cons)

end Sys2Proof.Machine
end

