-- ==== Sys2Proof/Machine/Reliability.lean ====
section
/-! DEFINITION. Events of errors and self-tests (R369, R383 to R390), refresh and scrubbing (R385, R386, R422). -/

namespace Sys2Proof.Machine

/-! What an uncorrectable error does to the data (R383). -/

def blockCode : Block → Nat
  | .registerFile => 0 | .operandFile => 1 | .scratchpad => 2 | .accumulator => 3 | .bStore => 4 | .shadowBank => 5
  | .overlay => 6 | .l1 => 7 | .constCache => 8 | .dieCache => 9 | .homeCache => 10 | .hbm => 11 | .array => 12
  | .control => 13 | .engine => 14 | .link => 15

/-- Storage whose row can be taken out of use without loss of the core (R388). -/
def blockIsCache : Block → Bool
  | .l1 | .constCache | .dieCache | .homeCache => true
  | _ => false

/-- The team in a slot of a core, resident or in the shadow bank. -/
def teamAt (s : State) (a : ErrorAt) (bank : Bool) : Option Team :=
  s.allTeams.find? fun t => t.die == a.core.die && t.core == a.core.core && t.slot == a.slot &&
    (if bank then t.shadow else t.resident)

def killTeam (s : State) (t : Option Team) : State :=
  match t with
  | some t => s.addDue (.teamKill t.id)
  | none => s

/-- Poison in a 64-bit word of a wave's registers (R383): the two registers of a lane that share it, a lane's latch, or an S register. -/
def Wave.poisonReg (w : Wave) (lane reg : Nat) : Wave :=
  if 32 ≤ lane then { w with spoison := insertNat (reg % 64) w.spoison }
  else w.onLanes (BitVec.ofNat 32 (2 ^ lane)) fun l =>
    if reg < 104 then { l with poison := insertNat (reg / 2 * 2) (insertNat (reg / 2 * 2 + 1) l.poison) } else { l with latchPoison := true }

/-- The registers of a wave, or of its umbra where the number is that of an umbra, 16 above its leader's (R377). -/
def poisonWave (s : State) (id : WaveId) (lane reg : Nat) : State :=
  if id.wave < 16 then s.modWave id fun w => w.poisonReg lane reg
  else s.modWave ⟨id.team, id.wave - 16⟩ fun w => { w with umbra := w.umbra.map fun u => u.become ((w.under u).poisonReg lane reg) }

/-- An uncorrectable error in a wave's registers. M registers, which carry no poison that an instruction could consume (R156, R384), count as
control state: the team is killed (DESIGN CHOICE, log 67). -/
def spoilRegs (s : State) (t : Option Team) (a : ErrorAt) : State :=
  match t with
  | some t => if 32 ≤ a.lane ∧ 64 ≤ a.pos then killTeam s (some t) else poisonWave s ⟨t.id, a.wave⟩ a.lane a.pos
  | none => s

/-- The two elements of an accumulator word become the canonical NaN, and INV is set. -/
def Tile.spoil (x : Tile) (word : Nat) : Tile :=
  let two (r : List W32) : List W32 :=
    let j := word % 32
    match x.kind with
    | .fp32 => (r.set (2 * j) (BitVec.ofNat 32 (fmtF32.nanBits))).set (2 * j + 1) (BitVec.ofNat 32 (fmtF32.nanBits))
    | .fp64 => (r.set (2 * j) 0).set (2 * j + 1) (BitVec.ofNat 32 (fmtF64.nanBits / 2 ^ 32))
  { x with rows := x.rows.modify (word / 32) two, flags := x.flags ||| 1 }

/-- An error in L1: a clean line is dropped, a dirty one poisoned and written back. -/
def spoilL1 (s : State) (id : CoreId) (space : Nat) (p : W64) : State :=
  let k := s.core id
  match findLine k.l1 space (lineKey p) 0 with
  | none => s
  | some x =>
    let x := if x.isDirty then { x with poison := insertNat (p.toNat % 64 / 8) x.poison } else x
    dropLine (s.setCore { k with l1 := setLine k.l1 x }) id space (lineKey p)

def spoilCc (s : State) (id : CoreId) (space : Nat) (p : W64) : State :=
  let d := s.die id.die
  match findLine d.cc space (lineKey p) (d.consId id.core) with
  | none => s
  | some x =>
    let x := if x.isDirty then { x with poison := insertNat (p.toNat % 64 / 8) x.poison } else x
    let s := s.setDie { d with cc := setLine d.cc x }
    let s := if x.isDirty then toHome s id x else s
    let d := s.die id.die
    s.setDie { d with cc := d.cc.filter fun y => !(y.space == x.space && y.line == x.line && y.cons == x.cons) }

def poisonMem (s : State) (granules : List Nat) : State :=
  { s with memPoison := granules.foldl (fun l g => insertNat g l) s.memPoison }

/-- The effect of an uncorrectable error where it was found (R383) (DESIGN CHOICE, log 67). -/
def spoil (s : State) (a : ErrorAt) : State :=
  let id := a.core
  match a.block with
  | .registerFile | .operandFile => spoilRegs s (teamAt s a false) a
  | .scratchpad =>
    match teamAt s a false with
    | some t => s.modTeam t.id fun t => { t with scratchPoison := insertNat (a.pos / 8) t.scratchPoison }
    | none => s
  | .bStore =>
    match teamAt s a false with
    | some t => s.modTeam t.id fun t => { t with bstorePoison := insertNat (a.pos / 8) t.bstorePoison }
    | none => s
  | .accumulator =>
    match teamAt s a false with
    | some t => s.modTeam t.id fun t => { t with tiles := t.tiles.modify a.lane fun x => x.spoil a.pos }
    | none => s
  | .shadowBank =>
    match teamAt s a true with
    | some t => if a.lane < 32 then poisonWave s ⟨t.id, a.wave⟩ a.lane a.pos else killTeam s (some t)
    | none => s
  | .overlay =>
    match teamAt s a false with
    | some t => s.modTeam t.id fun t => { t with slots := t.slots.modify a.pos fun x =>
        if x.landed then { x with landed := false, fill := true, waiter := none, code := [] } else x }
    | none => s
  | .l1 => spoilL1 s id a.wave (BitVec.ofNat 64 a.pos)
  | .constCache => spoilCc s id a.wave (BitVec.ofNat 64 a.pos)
  | .dieCache => if a.lane = 1 then poisonMem s [a.pos / 8] else s
  | .homeCache => poisonMem s [a.pos / 8]
  | .hbm => poisonMem s ((List.range 4).map fun i => a.pos / 32 * 4 + i)
  | .control =>
    if a.lane = 0 then (s.setCore { s.core id with desc := [], pages := [], port := [] }).setDie { s.die id.die with xlat := [] } else killTeam s (teamAt s a false)
  | .engine =>
    let k := s.core id
    if a.lane = 1 then { s with cards := s.cards.modify a.pos fun c => { c with poison := true } }
    else s.setCore { k with copies := k.copies.modify a.pos fun c => { c with out := c.out.map fun x => { x with data := x.data.map fun b => (b.1, true) } } }
  -- the granule that the mesh, a bridge or a link carried arrives poisoned
  | .link => poisonMem s [a.pos / 8]
  | .array => s

/-! Self-tests (R387). -/

/-- A byte's place within the macros of its storage (DESIGN CHOICE, log 67): those of a slot's share, or of a cache. -/
def errorByte (a : ErrorAt) : Nat :=
  match a.block with
  | .registerFile | .operandFile | .shadowBank => a.slot * 2 ^ 20 + a.wave * 2 ^ 14 + a.lane % 32 * 512 + a.pos * 4
  | .scratchpad | .bStore => a.slot * 2 ^ 20 + a.pos
  | .accumulator => a.slot * 2 ^ 16 + a.lane * 2 ^ 14 + a.pos * 8
  | .overlay => a.slot * 2 ^ 15 + a.pos * 4096
  | .control => a.slot * 2 ^ 16 + a.pos
  | _ => a.pos % 2 ^ 20

/-- Macro and row of SRAM (R388, R389). -/
def errorMacro (a : ErrorAt) : Nat := errorByte a / 65536
def errorRow (a : ErrorAt) : Nat := errorByte a % 65536 / 32

/-- Bytes of an HBM row: eight columns of 256 bytes (R385) (DESIGN CHOICE, log 67). -/
def hbmRow : Nat := 2048

/-- The block that a test covers (R387): an SRAM row, an HBM row, an array. -/
def sameBlock (a b : ErrorAt) : Bool :=
  a.block == b.block && a.core == b.core &&
    match a.block with
    | .array | .engine | .link => true
    | .hbm => a.pos / hbmRow == b.pos / hbmRow
    | _ => errorByte a / 32 == errorByte b / 32

/-- A self-test of the error's block begins, or the error joins the one that runs. -/
def startTest (s : State) (a : ErrorAt) (kind : Nat) : State :=
  let fresh : Test := { at_ := a, kind, time := s.now }
  let join (t : Test) : Test := { t with joined := t.joined ++ [(kind, s.now)] }
  if a.block = .array then
    let k := s.core a.core
    s.setCore { k with test := some (match k.test with | some t => join t | none => fresh) }
  else if s.tests.any fun t => sameBlock t.at_ a then
    { s with tests := s.tests.map fun t => if sameBlock t.at_ a then join t else t }
  else { s with tests := s.tests ++ [fresh] }

/-- Whether the unit that an error names exists. -/
def errorUnitOk (a : ErrorAt) : Bool :=
  match a.block with
  | .link => a.core.core < 24
  | .hbm | .homeCache | .dieCache => a.core.die < 8 && a.core.core < 16
  | _ => coreOk a.core

/-- EVENT ERROR_DETECTED (R383, R387): an uncorrectable error has its effect, and a self-test of the block begins. -/
def execErrorDetected (a : ErrorAt) (corrected : Bool) (s : State) : Out := takeBack s <|
  if !errorUnitOk a then .fault .noSuchUnit
  else .next (startTest (if corrected then s else spoil s a) a (if corrected then 0 else 1))

/-- EVENT BACKGROUND_SCRUB (R386): what the scrubber finds and cannot correct is poisoned, and tested; otherwise it has no
effect. -/
def execBackgroundScrub (a : ErrorAt) (found : Bool) (s : State) : Out := takeBack s <|
  if !errorUnitOk a then .fault .noSuchUnit
  else
    let scrubbed : Bool := match a.block with | .dieCache | .homeCache | .bStore | .shadowBank => true | _ => false
    .next (if found && scrubbed then startTest (spoil s a) a 1 else s)

/-! The end of a self-test (R369, R388 to R390). -/

/-- Partition that an error is reported to (R390); 255 for none. -/
def ownerPart (s : State) (a : ErrorAt) : Nat :=
  if a.block = .link then 255 else ((s.partOfDie a.core.die).map (·.num)).getD 255

/-- Log location (R389): a physical address for HBM and the caches (what a core's caches hold is translated), an element of the array, a macro
and row of other SRAM. -/
def errorLoc (s : State) (a : ErrorAt) : Nat :=
  match a.block with
  | .array => a.pos / 32 % 32 * 256 + a.pos % 32
  | .l1 | .constCache => (homeAddr s a.wave (BitVec.ofNat 64 a.pos) a.core.die).getD 0
  | .hbm | .dieCache | .homeCache | .link => a.pos
  | _ => errorMacro a % 65536 * 2 ^ 32 + errorRow a

/-- A core leaves the dispatcher's lists: TYPE 6, and the partition's status bit (R388, R390). -/
def retireCore (s : State) (id : CoreId) : State :=
  let k := s.core id
  if k.retired then s
  else
    let s := s.setCore { k with retired := true }
    match s.partOfDie id.die with
    | some p => postEvent (s.modPart p.num fun p => { p with retired := true }) p.num 6 (id.die + id.core * 256) 0
    | none => s

/-- The repair of one lasting fault of the array (R369): the state after it, and its REPAIR code. An element of the array is its row
and column; row 32 is the checksum-row element of the column, column 32 the checksum-column element of the row. -/
def repairArray (s : State) (id : CoreId) (e : Nat × Nat) : State × Nat :=
  let k := s.core id
  let rowFirst := e.1 < 32
  if k.spareRow && k.spareCol then (retireCore s id, 7)
  else if (rowFirst && !k.spareRow) || (!rowFirst && k.spareCol) then (s.setCore { k with spareRow := true }, 5)
  else (s.setCore { k with spareCol := true }, 6)

/-- The lines of the array that a test runs over, as lists of elements in the order tested (R387): after SINGLE one processing
element with its two checksum elements, after MULTI whole rows and then whole columns, each with its checksum element. -/
def Test.elements (t : Test) : List (Nat × Nat) :=
  let p := t.at_.pos % 1024
  if t.rows.isEmpty && t.cols.isEmpty then [(p / 32, p % 32), (32, p % 32), (p / 32, 32)]
  else t.rows.flatMap (fun r => (List.range 33).map fun c => (r, c)) ++ t.cols.flatMap fun c => (List.range 33).map fun r => (r, c)

/-- The faulty elements that a test finds, in the order in which it finds them, each once (R387). -/
def Test.finds (t : Test) (faulty : List (Nat × Nat)) : List (Nat × Nat) :=
  (t.elements.filter faulty.contains).foldl (fun l e => if l.contains e then l else l ++ [e]) []

/-- A spare row of an SRAM macro, if one is left (R388). -/
def takeSpare (k : Core) (block macro_ : Nat) : Option Core :=
  let used := ((k.spares.find? fun x => x.1 == block && x.2.1 == macro_).map (·.2.2)).getD 0
  if used < 4 then some { k with spares := (block, macro_, used + 1) :: k.spares.filter fun x => !(x.1 == block && x.2.1 == macro_) } else none

/-- The repair of a lasting fault outside the array (R388). The fault service is told of an HBM row without a spare, and migrates its pages by
cards of its own (R312). -/
def repair (s : State) (a : ErrorAt) : State × Nat :=
  match a.block with
  | .hbm =>
    let row := a.pos / hbmRow
    if Config.hbmSpare a.core.core row && !s.hbmRows.contains row then ({ s with hbmRows := s.hbmRows ++ [row] }, 3)
    else ({ s with badRows := insertNat row s.badRows }, 4)
  | .array | .engine | .link => (s, 0)
  | b =>
    match takeSpare (s.core a.core) (blockCode b) (errorMacro a) with
    | some k => (s.setCore k, 1)
    | none => if blockIsCache b || (b == .control && a.lane == 0) then (s, 2) else (retireCore s a.core, 7)

/-- An entry, or one more of a transient kind merged into an entry of the last 1 ms (R389). -/
def logClassified (s : State) (e : LogEntry) : State :=
  let same (x : LogEntry) : Bool := x.block == e.block && x.kind == e.kind && x.die == e.die && x.unit_ == e.unit_ &&
    x.cls % 4 == 0 && e.time < x.time + 1000000
  if e.cls = 0 && s.log.any same then
    { s with log := s.log.map fun x => if same x then { x with merged := min (x.merged + 1 + e.merged) 4294967295 } else x }
  else logError s e

/-- The log entry of a test's outcome (R389). -/
def Test.entry (s : State) (t : Test) (lasting : Bool) (repair loc : Nat) : LogEntry :=
  { time := t.time, kind := t.kind, cls := b2n lasting, block := blockCode t.at_.block, die := t.at_.core.die
    unit_ := t.at_.core.core, repair, loc, part := ownerPart s t.at_ }

/-- The log entries of a test (R389, R390): its own, with the errors of its kind that joined it merged, and one for each that joined it of
another kind. -/
def logTest (s : State) (t : Test) (e : LogEntry) : State :=
  let same := t.joined.filter (·.1 == t.kind)
  let others := t.joined.filter (·.1 != t.kind)
  others.foldl (fun s x => logClassified s { e with kind := x.1, time := x.2, repair := 0 }) (logClassified s { e with merged := same.length })

/-- The outcome of a test outside the array: transient, or lasting with its repair (R387, R388). -/
def endTest (s : State) (t : Test) (lasting : Bool) : State :=
  let r := if lasting then repair s t.at_ else (s, 0)
  logTest r.1 t (t.entry s lasting r.2 (errorLoc s t.at_))

/-- The outcome of an array test (R369, R387): its lasting faults are repaired in the order found, each with an entry of its own
(DESIGN CHOICE, log 100); with none the error is transient. -/
def endArrayTest (s : State) (t : Test) (faulty : List (Nat × Nat)) : State :=
  let found := t.finds faulty
  if found.isEmpty then logTest s t (t.entry s false 0 (errorLoc s t.at_))
  else found.foldl (fun s e =>
    let r := repairArray s t.at_.core e
    logClassified r.1 (t.entry s true r.2 (e.1 * 256 + e.2))) s

/-- EVENT SELF_TEST_END (R387, R388): the array's test of the core ends, with the faulty elements of the array, else the oldest
other test of the unit, with whether it failed. -/
def execSelfTestEnd (core : CoreId) (found : TestFound) (s : State) : Out :=
  if !coreOk core && !(8 ≤ core.die && core.die ≤ 9 && core.core < 24) then .fault .noSuchUnit
  else
    let k := s.core core
    match k.test with
    | some t => .next (endArrayTest { s.setCore { k with test := none } with stalled := false } t found.faulty)
    | none =>
      match s.tests.findIdx? fun t => t.at_.core == core with
      | none => .next s
      | some i =>
        match s.tests[i]? with
        | none => .next s
        | some t => .next (endTest { s with tests := s.tests.eraseIdx i } t found.lasting)

/-! Refresh (R385, R422). -/

/-- Thirds of a nanosecond between bursts of a stack (R422). -/
def Stack.interval (x : Stack) : Nat := if x.hot then 1500 else 3000

/-- Where a stack's refresh stands (R385): the place in its row order, which a refresh window of 32,000 bursts goes round once, and the column
of 256 bytes that the scrub reads of each row opened, which a pass of eight windows goes through. -/
def Stack.place (x : Stack) : Nat := x.bursts % 32000
def Stack.column (x : Stack) : Nat := x.bursts / 32000 % 8

/-- An error that a scrub read of a stack can have found: an address of the stack, in the column that the burst reads. -/
def Stack.scrubs (x : Stack) (stack pa : Nat) : Bool :=
  bitsOf pa 51 44 == Config.packageNumber.toNat && bitsOf pa 43 40 == 0 && bitsOf pa 39 36 == stack && pa / 256 % 8 == x.column

/-- What a scrub read finds (R385, R387): corrected and written back, or written back poisoned; a test of its row begins. -/
def scrubFound (s : State) (stack : Nat) (x : Nat × Bool) : State :=
  let a : ErrorAt := { block := .hbm, core := ⟨stack / 2, stack⟩, slot := 0, wave := 0, lane := 0, pos := x.1 }
  startTest (if x.2 then s else spoil s a) a (if x.2 then 0 else 1)

/-- EVENT HBM_REFRESH_BURST (R385, R422): a burst, not before the interval since the last has gone by; for 40 ns the stack serves no access.
Which rows it opens is the controller's own order (DESIGN CHOICE, log 67). -/
def execHbmRefreshBurst (b : RefreshBurst) (s : State) : Out :=
  if 16 ≤ b.stack then .fault .noSuchUnit
  else
    let x := s.hbmStacks.getD b.stack {}
    if x.bursts ≠ 0 ∧ s.clock < x.lastBurst + x.interval then .next s
    else
      let s := { s with hbmStacks := s.hbmStacks.set b.stack { x with lastBurst := s.clock, bursts := x.bursts + 1 } }
      .next ((b.found.filter fun f => x.scrubs b.stack f.1).foldl (fun s f => scrubFound s b.stack f) s)

/-- EVENT SENSOR_SAMPLE (R422): above 85 degrees the short interval holds at once; it goes after 10 ms at 82 or below. -/
def execSensorSample (stack temp : Nat) (s : State) : Out :=
  if 16 ≤ stack then .fault .noSuchUnit
  else
    let x := s.hbmStacks.getD stack {}
    let cool : Option Nat := if temp ≤ 82 then some (x.coolSince.getD s.clock) else none
    let long : Bool := match cool with | some t => t + 30000000 ≤ s.clock | none => false
    .next { s with hbmStacks := s.hbmStacks.set stack { x with temp, coolSince := cool, hot := 85 < temp || (x.hot && !long) } }

end Sys2Proof.Machine
end

