-- ==== Sys2Proof/Machine/Power.lean ====
section
/-! DEFINITION. Events of clocks, power and Meridian time (R414 to R421). -/

namespace Sys2Proof.Machine

/-! Clocks (R414 to R416). -/

/-- A hop of 200 ns to a ratio begins (R415). -/
def Core.startHop (k : Core) (clock ratio : Nat) : Core := { k with hop := some (clock + 600, ratio) }

/-- EVENT CLKSEL_WRITE (R414): a ratio of 3 is ignored; during a hop the latest write is held. -/
def execClkselWrite (core : CoreId) (v : W64) (s : State) : Out :=
  if !coreOk core then .fault .noSuchUnit
  else
    let k := s.core core
    let r := v.toNat % 4
    let writable : Bool := match s.partOfDie core.die with | some p => windowOpen s p.num | none => false
    if !writable || r == 3 then .next s
    else if k.hop.isSome then .next (s.setCore { k with clkHeld := some r })
    else .next (s.setCore (k.startHop s.clock r))

/-- EVENT RATIO_HOP_END (R414, R415): the new ratio holds, and a held write begins its own hop. -/
def execRatioHopEnd (core : CoreId) (s : State) : Out :=
  if !coreOk core then .fault .noSuchUnit
  else
    let k := s.core core
    match k.hop with
    | none => .next s
    | some (end_, r) =>
      let s := { s with clock := max s.clock end_ }
      let k := { k with ratio := r, hop := none }
      match k.clkHeld with
      | some h => .next (s.setCore (Core.startHop { k with clkHeld := none } s.clock h))
      | none => .next (s.setCore k)

/-- EVENT DROOP_STRETCH (R416): the current cycle of the core lasts a cycle longer, and what comes after it is put back by as much: its
opportunities, its array steps, or the end of a hop under way (DESIGN CHOICE, log 81). -/
def execDroopStretch (core : CoreId) (s : State) : Out :=
  if !coreOk core then .fault .noSuchUnit
  else
    let k := s.core core
    match k.hop with
    | some (end_, r) => .next (s.setCore { k with hop := some (end_ + 2, r) })
    | none => .next (s.setCore { k with phase := k.phase + 1, late := s.clock + 4 })

/-! Power (R417, R418, R421). -/

/-- EVENT DUTY_UPDATE (R421): XTALLOW.DUTY, from 10 to 100. -/
def execDutyUpdate (core : CoreId) (duty : Nat) (s : State) : Out :=
  if !coreOk core then .fault .noSuchUnit
  else .next (s.setCore { s.core core with duty := some (max 10 (min 100 duty)) })

/-- Duty windows of 100 us that have ended by a clock: what exceeded them counts in the next (R417, R421). -/
def Core.newWindow (k : Core) (clock : Nat) : Core :=
  let n := (clock - k.window) / 300000
  { k with dutyUsed := k.dutyUsed - n * k.dutyLimit, window := k.window + n * 300000 }

/-- EVENT DUTY_WINDOW (R420, R421): the core's window of 100 us ends in Meridian time; its energy goes to the partition's account (R418;
DESIGN CHOICE, log 18) (DESIGN CHOICE, log 81). -/
def execDutyWindow (core : CoreId) (s : State) : Out :=
  if !coreOk core then .fault .noSuchUnit
  else
    let s : State := { s with clock := max s.clock ((s.core core).window + 300000) }
    let s := s.setCore ((s.core core).newWindow s.clock)
    match s.partOfDie core.die with
    | none => .next s
    | some p => .next { s.modPart p.num fun p => { p with energy := (p.energy + (Config.energy s.free).toNat) % 2 ^ 32 } with free := s.free + 1 }

/-- The work of a die's arrays has fallen within the last 20 us (R417). -/
def fallen (s : State) (die : Nat) : Bool :=
  (if s.hand.isSome then s.c :: s.cores else s.cores).any fun k =>
    k.die == die && match k.fell with | some t => s.clock ≤ t + 60000 | none => false

/-- An instruction claims the cycles that a filler would take: the array's, or with no array step the vector slot's (R417). -/
def fillerClaimed (s : State) (core : CoreId) (steps : Nat) : Bool :=
  if steps = 0 then s.granted && s.coreInHand core else !(s.core core).array.isEmpty

/-- EVENT FILLER_INJECTION (R417, R418): fillers take array cycles, or vector slots where `steps` is 0, that no instruction claims; array steps
go beyond DUTY only after a fall, by no more than 20 us of them. Their energy is charged to the partition whose teams last ran here. -/
def execFillerInjection (core : CoreId) (steps mj : Nat) (s : State) : Out :=
  if !coreOk core then .fault .noSuchUnit
  else
    let k := s.core core
    let used := k.dutyUsed + 64 * steps
    let limit := k.dutyLimit + (if fallen s core.die then k.windowAclk / 5 else 0)
    if fillerClaimed s core steps || (steps != 0 && limit < used) then .next s
    else
      let s := if steps = 0 then s else s.setCore (k.spend s.clock (64 * steps))
      match k.lastPart with
      | none => .next s
      | some p => .next (s.modPart p fun p => { p with filler := min (p.filler + mj) 4294967295 })

/-! Meridian time (R419). -/

/-- Nanoseconds by which a correction may put time on at a measurement: 100 ppm of the time since the last (R419). -/
def State.slewRoom (s : State) : Nat := (s.clock - s.measured) / 30000

/-- EVENT MERIDIAN_MEASUREMENT (R419): the offset from the reference. Until it has first been locked, before any team, an offset above 1 ms is
stepped; otherwise time is slewed by at most 100 ppm: put on where it is behind, and slowed from now on where it is ahead, so that it never
decreases (DESIGN CHOICE, log 80). -/
def execMeridianMeasurement (offset : Int) (s : State) : Out :=
  let stepped := !s.everLocked && s.nextTeam == 1 && 1000000 < offset
  let by_ : Nat := if stepped then offset.toNat else min offset.toNat s.slewRoom
  let left := offset - by_
  let shown : Int := max (-2147483648) (min 2147483647 offset)
  let locked : Bool := left.natAbs ≤ 40
  .next { s with clock := s.clock + 3 * by_, measured := s.clock + 3 * by_, offset := shown, locked, everLocked := s.everLocked || locked
                 slow := 3 * (-offset).toNat, slowAt := s.clock + 20000 }

end Sys2Proof.Machine
end

