-- ==== Sys2Proof/Machine/CardEngine.lean ====
section
/-! DEFINITION. Events of chains and cards: taking a card (R238, R240, R374), bulk copy and fill (R375), the fault service's
migration and replication (R307, R312), and completion (R239, R376). -/

namespace Sys2Proof.Machine

/-! Fields of a card (R239). -/

def cardOp (c : List Byte) : Nat := bitsOf (cardWord c 0) 7 0
def cardFence (c : List Byte) : Bool := bitOf (cardWord c 0) 12
def cardEvent (c : List Byte) : Bool := bitOf (cardWord c 0) 13
def cardSrc (c : List Byte) : W64 := BitVec.ofNat 64 (cardWord c 1)
def cardDst (c : List Byte) : W64 := BitVec.ofNat 64 (cardWord c 2)
def cardLen (c : List Byte) : Nat := cardWord c 3

/-- A card that is ILLEGAL by its header or its reserved bytes (R239). -/
def cardIllegal (c : List Byte) : Bool :=
  (cardScope c).isNone || cardWord c 0 / 2 ^ 14 != 0 || (List.range 8).any fun i => cardWord c (24 + i) != 0

/-- How far a card's read regions (0 to 3), or its write regions (4 to 7), cover from an address on (R240). -/
def coveredTo (c : List Byte) (write : Bool) (obj : Nat) : (fuel : Nat) → (a : Nat) → Nat
  | 0, a => a
  | k + 1, a =>
    let ends := (List.range 8).filterMap fun i =>
      let r := footRegion c 8 i
      if write == decide (4 ≤ i) && pObj r.ptr == obj && pAddr r.ptr ≤ a && a < pAddr r.ptr + r.len then some (pAddr r.ptr + r.len) else none
    match ends with
    | [] => a
    | _ => coveredTo c write obj k (ends.foldl max a)

/-- A range that a card's regions of its kind cover, one or several together: the source by read regions and the destination by
write regions (R240) (DEDUCED, log 71). -/
def covered (c : List Byte) (write : Bool) (p : W64) (n : Nat) : Bool :=
  decide (n = 0) || decide (pAddr p + n ≤ coveredTo c write (pObj p) 8 (pAddr p))

/-- The compute die whose pool serves a chain (R374). -/
def cardDie (s : State) (c : Card) : Nat :=
  (ownerDie c.key).getD (((s.part c.part).map fun p => p.dies.foldl min 7).getD 0)

/-- Engine field of a chain (R238). -/
def chainEngine (s : State) (c : Card) : Nat := bitsOf (chainWord s c.space (cardDie s c) c.chain 1) 17 16

def State.modCard (s : State) (i : Nat) (f : Card → Card) : State := { s with cards := s.cards.modify i f }

/-! Taking (R240, R374). -/

def takenCards (s : State) (key : Nat) : Nat := (s.cards.filter fun c => c.key == key && c.taken && !c.finished).length

/-- A card's record when it is taken: the one that JOB made, or a fresh one. -/
def takeRecord (s : State) (key : Nat) (c : Card) : State :=
  if s.cards.any fun x => x.key == key && x.num == c.num && !x.taken then
    { s with cards := s.cards.map fun x =>
        if x.key = key ∧ x.num = c.num ∧ ¬ x.taken then { x with taken := true, data := c.data, kth := c.kth } else x }
  else { s with cards := s.cards ++ [c] }

/-- A page that an engine needs of a chain before it goes on: the control block, which it writes, and slot `num`, which it writes on
completion. A replicated page collapses first (R311, R313) (DESIGN CHOICE, log 126). -/
def chainFault (s : State) (space : Nat) (p : W64) (num : Nat) (write : Bool) : Option PageWait :=
  (firstFault s space [(p, 64)] true).or (firstFault s space [(chainSlot s space 0 p num, 256)] write)

/-- When the pool last took a card of a chain (R374). -/
def State.chainTurn (s : State) (key : Nat) : Nat := ((s.cardTurns.find? (·.1 == key)).map (·.2)).getD 0

/-- A card that a pool could take now. -/
def takeable (s : State) (pool : Nat) (c : Card) : Bool :=
  !c.taken && chainEngine s c == 0 && cardDie s c == pool && takenCards s c.key < 4 && (chainFault s c.space c.chain c.num false).isNone

/-- A pool takes from its chains in rotation: a chain has its turn when no other that is ready has waited longer (R374). -/
def hasTurn (s : State) (c : Card) : Bool :=
  chainEngine s c != 0 || s.cards.all fun x => x.key == c.key || !takeable s (cardDie s c) x || s.chainTurn c.key ≤ s.chainTurn x.key

/-- The group that a collective card's handle names (R410). -/
def cardGroup (c : List Byte) : Option Nat :=
  let h := cardWord c 5
  if h / 2 ^ 60 = 7 ∧ bitsOf h 59 8 = 0 then some (h % 256) else none

/-- A collective card takes its place among its group's cards at this member, in the order in which the engine takes them (R411)
(DESIGN CHOICE, log 23). -/
def numberCard (s : State) (c : Card) : State × Card :=
  match (if chainEngine s c = 1 then cardGroup c.data else none) with
  | none => (s, c)
  | some g =>
    let n := ((s.collectives.find? (·.1 == (c.part, g))).map (·.2)).getD 0
    ({ s with collectives := ((c.part, g), n + 1) :: s.collectives.filter (·.1 != (c.part, g)) }, { c with kth := n })

/-- EVENT CARD_TAKE (R240, R374): the next card of a chain, in its turn, while fewer than four are taken and not completed. -/
def execCardTake (space : Nat) (chain : W64) (s : State) : Out :=
  match s.space space, homeAddr s space chain 0 with
  | some sp, some key =>
    let word (i : Nat) : Nat := chainWord s space 0 chain i
    let num := word 3
    let c : Card := { key, chain, space, part := sp.part, num, taken := true }
    if !chainLegal (word 1) || word 2 ≤ num || 4 ≤ takenCards s key then .next s
    else match chainFault s space chain num false with
      | some f => .next (addFault s f)
      | none =>
        if !hasTurn s c then .next s
        else
          let s := waitRange (waitRange s space chain 64 0) space (chainSlot s space 0 chain num) 256 0
          let data := bytesOf (dieRead s space (chainSlot s space 0 chain num) 256 0)
          match numberCard (setChainWord s space 0 chain 3 (num + 1)) { c with data } with
          | (s, c) =>
            .next (takeRecord { s with cardTurns := (key, s.order + 1) :: s.cardTurns.filter (·.1 != key), order := s.order + 1 } key c)
  | _, _ => .next s

/-- Every earlier card of the chain has completed, or lets this one start (R240). -/
def mayStart (s : State) (c : Card) : Bool :=
  c.taken && !c.finished && c.status.isNone &&
    s.cards.all fun a => !(a.key == c.key && a.num < c.num && a.taken && !a.finished) ||
      (!footConflict a.data c.data 8 && !cardFence c.data)

/-! Bulk copy (R375). -/

/-- The checks of R152 on a card's range (DEDUCED, log 53). -/
def cardCheck (s : State) (space : Nat) (p : W64) (n : Nat) (write : Bool) : Bool :=
  (checkEntry (tableEntry s space (pObj p)) p n
    { rights := [if write then 1 else 0], kinds := if write then [0] else [0, 3], write }).isNone

/-- A range that lies in a package to which there has been no route for 10 ms (R409). -/
def cardLost (s : State) (space : Nat) (p : W64) (die : Nat) : Bool :=
  match homeAddr s space p die with
  | some pa => isLost s pa
  | none => false

/-- What keeps a card from starting its work: a status, by the tests of R239, R240 and R375 in order (DEDUCED, log 71). -/
def bulkRefusal (c : List Byte) (copying : Bool) : Option Nat :=
  let n := cardLen c
  let s := cardSrc c
  let d := cardDst c
  if cardIllegal c then some 3
  else if n = 0 then some 0
  else if copying && pObj s == pObj d && pAddr s < pAddr d + n && pAddr d < pAddr s + n then some 3
  else if (copying && !covered c false s n) || !covered c true d n then some 2
  else none

/-- Whether a card waits on a page, and what an answer brings: none to go on. -/
def cardPage (s : State) (i : Nat) (c : Card) : Option State :=
  match c.fault.map (·.answer) with
  | some none => some s
  | some (some false) => some (s.modCard i fun c => { c with status := some 1, fault := none })
  | _ => none

/-- Units of a bulk card performed one by one (R375): up to the end, a failure, or a page that must be served. -/
def runUnits (s : State) (i : Nat) (copying : Bool) : (fuel : Nat) → State
  | 0 => s
  | k + 1 =>
    match s.cards[i]? with
    | none => s
    | some c =>
      let len := cardLen c.data
      let die := cardDie s c
      if len ≤ c.progress then s.modCard i fun c => { c with status := some (b2n c.poison) }
      else
        let d := cardDst c.data + BitVec.ofNat 64 c.progress
        let p := cardSrc c.data + BitVec.ofNat 64 c.progress
        let n := min (len - c.progress) (64 - d.toNat % 64)
        let s := waitEntry (if copying then waitEntry s c.space (pObj p) else s) c.space (pObj d)
        if (copying && !cardCheck s c.space p n false) || !cardCheck s c.space d n true then
          s.modCard i fun c => { c with status := some 1 }
        else
          match (if copying then firstFault s c.space [(p, n)] false else none).or (firstFault s c.space [(d, n)] true) with
          | some f => (addFault s f).modCard i fun c => { c with fault := some f }
          | none =>
            if (copying && cardLost s c.space p die) || cardLost s c.space d die then s.modCard i fun c => { c with status := some 1 } else
            let s := if copying then waitRange s c.space p n die else s
            let data : List PByte := if copying then dieRead s c.space p n die
              else (List.range n).map fun b => (BitVec.ofNat 8 (cardWord c.data 4 / 2 ^ (8 * ((c.progress + b) % 8))), false)
            let s := dieWrite s c.space d data false (.card die) die
            runUnits (s.modCard i fun c => { c with progress := c.progress + n, poison := c.poison || anyPoison data, fault := none }) i copying k

/-- COPY or FILL on a bulk-copy chain. -/
def bulkCard (s : State) (i op : Nat) : State :=
  match s.cards[i]? with
  | none => s
  | some c =>
    if cardOp c.data ≠ op ∨ chainEngine s c ≠ 0 ∨ ¬ mayStart s c then s
    else match cardPage s i c with
      | some s => s
      | none =>
        match bulkRefusal c.data (op == 1) with
        | some st => s.modCard i fun c => { c with status := some st }
        | none => runUnits (s.modCard i fun c => { c with started := true }) i (op == 1) (cardLen c.data / 64 + 3)

/-- EVENT COPY (R375). -/
def execCopy (i : Nat) (s : State) : Out := .next (bulkCard s i 1)
/-- EVENT FILL (R375). -/
def execFill (i : Nat) (s : State) : Out := .next (bulkCard s i 2)

/-! The fault service's cards (R307, R310, R312). -/

/-- A frame copied to another, poison and all. -/
def copyFrame (s : State) (old new len : Nat) : State :=
  let s := zeroFrame s new len
  let here := s.mem.filter fun x => old ≤ x.1 && x.1 < old + len
  let bad := s.memPoison.filter fun g => old / 8 ≤ g && g < (old + len) / 8
  { s with mem := here.foldl (fun m x => writeByte m (new + (x.1 - old)) x.2) s.mem
           memPoison := bad.foldl (fun l g => insertNat (new / 8 + (g - old / 8)) l) s.memPoison }

def failCard (s : State) (i status : Nat) : State := s.modCard i fun c => { c with status := some status }

/-- Physical addresses that name things inside a frame follow it when its page moves (R312): chains, mailboxes, reserved
slots and waits for messages. -/
def rekey (s : State) (old new len : Nat) : State :=
  let f (pa : Nat) : Nat := if old ≤ pa ∧ pa < old + len then new + (pa - old) else pa
  let lane (l : Lane) : Lane := { l with reserved := l.reserved.map f }
  let entry (e : Entry) : Entry :=
    { e with blocked := e.blocked.map fun b => { b with
        key := b.key.map (fun k => if k.1 = 1 then (1, f k.2) else k), mails := b.mails.map f } }
  let wave (w : Wave) : Wave :=
    { w with lanes := w.lanes.map lane, paths := w.paths.map entry
             frame := w.frame.map fun x => { x with paths := x.paths.map entry } }
  { s.mapWaves wave with
    cards := s.cards.map fun c => { c with key := f c.key }
    cardTurns := s.cardTurns.map fun x => (f x.1, x.2)
    senders := s.senders.map fun x => (f x.1, x.2)
    capsules := s.capsules.map fun x => (f x.1, x.2)
    serviceChains := s.serviceChains.map f }

/-- What keeps a MIGRATE or REPLICATE card from its work (R239, R240, R375): ILLEGAL, no length, a range not covered (DEDUCED,
DESIGN CHOICE, log 72). -/
def serviceRefusal (s : State) (c : Card) : Option Nat :=
  if !s.serviceChains.contains c.key || cardIllegal c.data then some 3
  else if cardLen c.data = 0 then some 0
  else if !covered c.data false (cardSrc c.data) (cardLen c.data) || !covered c.data true (cardDst c.data) (cardLen c.data) then some 2
  else none

/-- A card that the fault service's own chain carries and that may start. -/
def serviceCard (s : State) (i op : Nat) : Option Card :=
  match s.cards[i]? with
  | none => none
  | some c => if cardOp c.data = op ∧ chainEngine s c = 0 ∧ mayStart s c then some c else none

/-- The leaf that maps a card's source, with the address of its entry. -/
def cardLeaf (s : State) (c : Card) : Option (Nat × Nat × Nat) :=
  match walkStop s.mem (pAddr (cardSrc c.data)) [0, 1, 2, 3] (s.root c.space) with
  | (_, a, .leaf l e) => some (l, a, e)
  | _ => none

/-- EVENT MIGRATE (R312): first the leaf turns MIGRATING, then the page is copied and the leaf maps the new frame, each with
its shootdown (DESIGN CHOICE, log 72). -/
def execMigrate (i : Nat) (s : State) : Out :=
  match serviceCard s i 3 with
  | none => .next s
  | some c =>
    match (if c.started then none else serviceRefusal s c) with
    | some st => .next (failCard s i st)
    | none => match cardLeaf s c with
      | none => .next (failCard s i 1)
      | some (l, a, e) =>
        let size := 2 ^ pageBits l
        let va := pAddr (cardSrc c.data) / size * size
        let new := (cardDst c.data).toNat
        let fits := decide (new % size = 0) && frameOk new size
        if c.started then
          if bitsOf e 63 62 != 2 then .next (failCard s i 1)
          else
            let s := copyFrame s (pteAddr e) new size
            let s := shootXlat (serviceWord s a (normalLeaf new)) c.space va size
            .next ((rekey s (pteAddr e) new size).modCard i fun c => { c with status := some 0 })
        else if bitsOf e 63 62 != 0 || !fits || withoutM s c.space va size then .next (failCard s i 1)
        else
          let s := shootXlat (serviceWord s a (e % 2 ^ 62 + 2 * 2 ^ 62)) c.space va size
          .next (s.modCard i fun c => { c with started := true })

/-- EVENT REPLICATE (R307, R310): the page goes to every frame of the record that the operation word names, and the leaf points
at the record. -/
def execReplicate (i : Nat) (s : State) : Out :=
  match serviceCard s i 4 with
  | none => .next s
  | some c =>
    match (if c.started then none else serviceRefusal s c) with
    | some st => .next (failCard s i st)
    | none => match cardLeaf s c with
      | none => .next (failCard s i 1)
      | some (l, a, e) =>
        let size := 2 ^ pageBits l
        let va := pAddr (cardSrc c.data) / size * size
        let rec_ := cardWord c.data 4
        if bitsOf e 63 62 != 0 || rec_ % 64 != 0 || !recordOk s.mem rec_ size || ownerFrame s.mem rec_ va (pageBits l) != pteAddr e ||
            withoutM s c.space va size then .next (failCard s i 1)
        else
          let s := flushRange s c.space va size
          let count := bitsOf (leNat (readBytes s.mem rec_ 8)) 6 4
          let span := 2 ^ pageBits (3 - leNat (readBytes s.mem rec_ 8) % 4)
          let s := (List.range count).foldl (fun s j =>
            copyFrame s (pteAddr e) (leNat (readBytes s.mem (rec_ + 16 + 8 * j) 8) + va % span) size) s
          let s := shootXlat (serviceWord s a (2 ^ 62 + 2 ^ 52 + rec_ + 1)) c.space va size
          .next (s.modCard i fun c => { c with status := some 0 })

/-! Completion (R376). -/

/-- Whether an engine serves an operation (R239). -/
def served (engine op : Nat) : Bool := if engine = 0 then 1 ≤ op && op ≤ 4 else 16 ≤ op && op ≤ 19

/-- Cards of a chain from a number on that have completed without a gap: where the sequence word goes. -/
def seqFrom (cards : List Card) (n : Nat) : (fuel : Nat) → Nat
  | 0 => n
  | k + 1 => if cards.any fun c => c.num == n && c.finished then seqFrom cards (n + 1) k else n

/-- A card with its status completes (R376): its status in its slot, its finish scope, its event, the sequence word. -/
def completeCard (s : State) (i : Nat) (c : Card) (status : Nat) : State :=
  let die := cardDie s c
  let slot := chainSlot s c.space die c.chain c.num
  let word := status + c.flags * 256
  let s := dieWrite s c.space (slot + 56) (clean (leBytes 8 word)) false (.card die) die
  let s := if status = 0 then s else setChainWord s c.space die c.chain 5 (c.num % 2 ^ 56 * 256 + status)
  let s := s.modCard i fun c => { c with finished := true, status := some status }
  let s := match c.counted with
    | some n => (s.scopeErr c.part n (if status = 0 then 0 else 3)).scopeDown c.part n
    | none => s
  let s := if cardEvent c.data then postEvent s c.part 2 status c.chain.toNat else s
  let mine := s.cards.filter fun x => x.key == c.key
  let next := seqFrom mine (chainWord s c.space die c.chain 4) (mine.length + 1)
  let s := setChainWord s c.space die c.chain 4 next
  { s with cards := s.cards.filter fun x => !(x.key == c.key && x.finished && x.num < next) }

/-- EVENT CARD_COMPLETION (R239, R376): a taken card whose work is done; one that its engine does not serve gets status 3
when it may start. The pages that its steps write come first (R311, R313). -/
def execCardCompletion (i : Nat) (s : State) : Out :=
  match s.cards[i]? with
  | none => .next s
  | some c =>
    if !c.taken || c.finished then .next s
    else
      let complete (st : Nat) : Out :=
        match chainFault s c.space c.chain c.num true with
        | some f => .next (addFault s f)
        | none => .next (completeCard s i c st)
      match c.status with
      | some st => complete st
      | none => if served (chainEngine s c) (cardOp c.data) || !mayStart s c then .next s else complete 3

end Sys2Proof.Machine
end

