-- ==== Sys2Proof/Machine/Collective.lean ====
section
/-! DEFINITION. Collective cards (R410 to R413): the group and operation words, the order of combination by ring and tree, and
one meaning per operation and for an arriving chunk. -/

namespace Sys2Proof.Machine

/-! Words (R410). -/

def opRed (c : List Byte) : Nat := bitsOf (cardWord c 4) 7 0
def opType (c : List Byte) : Nat := bitsOf (cardWord c 4) 15 8
def opAlg (c : List Byte) : Nat := bitsOf (cardWord c 4) 23 16
def opRoot (c : List Byte) : Nat := bitsOf (cardWord c 4) 31 24

/-- The element type, of the eight that a collective takes. -/
def opTy (c : List Byte) : Option Ty :=
  match tyOf (opType c) with
  | .ok t => if [2, 3, 6, 7, 8, 9, 10, 11].contains (opType c) then some t else none
  | _ => none

/-- The members of a card's group, package and partition, by rank. -/
def groupOf (c : List Byte) : Option (List (Nat × Nat)) := (cardGroup c).map Config.groupMembers

/-- The rank of a partition of this package in a group (R410). -/
def ownRank (g : List (Nat × Nat)) (part : Nat) : Option Nat := g.findIdx? (· == (Config.packageNumber.toNat, part))

/-- Whether a collective card is malformed for a group of `p` (R410). -/
def collectiveBad (op p : Nat) (c : List Byte) : Bool :=
  match opTy c with
  | none => true
  | some t =>
    let red := opRed c
    let need := 16 ≤ op && op ≤ 17
    cardWord c 4 / 2 ^ 32 != 0 || 2 < opAlg c || (if op = 19 then p ≤ opRoot c else opRoot c != 0) ||
      (if need then 2 < red else red != 3) || cardLen c % (Ty.bits t / 8) != 0 || (op == 17 && cardLen c % (64 * p) != 0)

/-! Combination (R412). -/

def wrapTo (t : Ty) (x : Nat) : Nat := x % 2 ^ Ty.bits t

def intOf (t : Ty) (x : Nat) : Int :=
  let b := x % 2 ^ Ty.bits t
  if Ty.signed t && 2 ^ (Ty.bits t - 1) ≤ b then (b : Int) - 2 ^ Ty.bits t else b

/-- One combination: integers wrap; floating types round once, RNE. -/
def combine (red : Nat) (t : Ty) (x y : Nat) : Nat × Exc :=
  let float (f : Fmt) : Nat × Exc := if red = 0 then fAdd f .rne (f.dec x) (f.dec y) else fMinMax f (red == 2) x y
  match t with
  | .f16 => float fmtF16
  | .bf16 => float fmtBF16
  | .f32 => float fmtF32
  | .f64 => float fmtF64
  | _ =>
    if red = 0 then (wrapTo t (x + y), {})
    else if (red == 2) == (intOf t x < intOf t y) then (wrapTo t y, {}) else (wrapTo t x, {})

/-- Block `b` by ring: the ranks from `b` on in turn; the exceptions are those of the combination made at rank `me`. -/
def ringValue (red : Nat) (t : Ty) (xs : List Nat) (b me : Nat) : Nat × Exc :=
  let p := xs.length
  let at_ (k : Nat) : Nat := xs.getD ((b + k) % max 1 p) 0
  (List.range (p - 1)).foldl (fun (acc : Nat × Exc) k =>
    let r := combine red t acc.1 (at_ (k + 1))
    (r.1, if (b + k + 1) % max 1 p = me then acc.2.or r.2 else acc.2)) (at_ 0, {})

/-- A node of the tree: (own + left) + right. -/
def treeNode (red : Nat) (t : Ty) (xs : List Nat) : (fuel r : Nat) → Nat
  | 0, r => xs.getD r 0
  | k + 1, r =>
    let own := xs.getD r 0
    let a := if 2 * r + 1 < xs.length then (combine red t own (treeNode red t xs k (2 * r + 1))).1 else own
    if 2 * r + 2 < xs.length then (combine red t a (treeNode red t xs k (2 * r + 2))).1 else a

/-- The tree's value at the root, with the exceptions of the combinations at rank `me`. -/
def treeValue (red : Nat) (t : Ty) (xs : List Nat) (me : Nat) : Nat × Exc :=
  let n := xs.length
  let own := xs.getD me 0
  let a := if 2 * me + 1 < n then combine red t own (treeNode red t xs n (2 * me + 1)) else (own, {})
  let b := if 2 * me + 2 < n then combine red t a.1 (treeNode red t xs n (2 * me + 2)) else (a.1, {})
  (treeNode red t xs n 0, a.2.or b.2)

/-- Length of a ring's blocks in bytes: L / P where that is whole in elements. -/
def ringLength (len p width : Nat) : Nat :=
  if len % (p * width) = 0 then len / max 1 p else max width (Config.ringBlock len p / width * width)

/-- Whether a card's reduction goes by ring (R410, R412). -/
def byRing (c : List Byte) : Bool := opAlg c == 1 || (opAlg c == 0 && 16384 < cardLen c)

/-- The elementwise reduction over all ranks, with the exceptions at rank `me` (R411, R412). -/
def reduceAll (c : List Byte) (t : Ty) (ranks : List (List Byte)) (me : Nat) : List Byte × Exc :=
  let width := Ty.bits t / 8
  let len := cardLen c
  let p := ranks.length
  (List.range (len / width)).foldl (fun acc i =>
    let xs := ranks.map fun r => leNat ((r.drop (i * width)).take width)
    let b := min (p - 1) (i * width / ringLength len p width)
    let v := if byRing c then ringValue (opRed c) t xs b me else treeValue (opRed c) t xs me
    (acc.1 ++ leBytes width v.1, acc.2.or v.2)) ([], {})

/-- Poison travels with the data (R384): an element of the reduction is poisoned where one of its inputs is. -/
def reducePoison (t : Ty) (ranks : List (List PByte)) (bs : List Byte) : List PByte :=
  let width := Ty.bits t / 8
  bs.zipIdx.map fun x => (x.1, ranks.any fun r => anyPoison ((r.drop (x.2 / width * width)).take width))

/-! Cards (R411). -/

/-- Bytes of a card's destination. -/
def destBytes (op p len : Nat) : Nat := if op = 17 then len / max 1 p else if op = 18 then len * p else len

/-- A peer's bytes with the chunks that have arrived put over them (R413). -/
def withChunks (got : List (Nat × Nat × List PByte)) (rank : Nat) (bs : List PByte) : List PByte :=
  (got.filter fun x => x.1 == rank).foldl (fun bs x => bs.take x.2.1 ++ x.2.2 ++ bs.drop (x.2.1 + x.2.2.length)) bs

/-- What a member writes at its destination: the bytes with their poison, and the exceptions. -/
def collectiveData (op : Nat) (c : Card) (t : Ty) (ranks : List (List PByte)) (me : Nat) : List PByte × Exc :=
  match op with
  | 18 => (ranks.flatten, {})
  | 19 => (ranks.getD (opRoot c.data) [], {})
  | _ =>
    let r := reduceAll c.data t (ranks.map bytesOf) me
    let all := reducePoison t ranks r.1
    let n := destBytes op ranks.length (cardLen c.data)
    (if op = 17 then (all.drop (me * n)).take n else all, r.2)

def excCode (e : Exc) : Nat := b2n e.inv + 2 * b2n e.dz + 4 * b2n e.ovf + 8 * b2n e.unf + 16 * b2n e.nx

/-- Ranks that a member exchanges data with (R412). -/
def edgeRanks (ring : Bool) (p me : Nat) : List Nat :=
  if ring then [(me + 1) % max 1 p, (me + p - 1) % max 1 p]
  else ((if me = 0 then [] else [(me - 1) / 2]) ++ [2 * me + 1, 2 * me + 2]).filter (· < p)

/-- The ranks of a group whose package is lost (R409). -/
def lostRank (s : State) (g : List (Nat × Nat)) (r : Nat) : Bool := match g[r]? with | some k => s.lost.contains k.1 | none => false

/-- An edge of the member has had no route for 10 ms (R413). -/
def edgeLost (s : State) (c : List Byte) (g : List (Nat × Nat)) (me : Nat) : Bool :=
  (edgeRanks (byRing c) g.length me).any (lostRank s g)

/-- The matched cards agree with this one in OP, length, operation word and handle (R411). -/
def agree (c : Card) (inputs : List Matched) : Bool :=
  inputs.all fun x => x.op == cardOp c.data && x.len == cardLen c.data && x.word == cardWord c.data 4 && x.handle == cardWord c.data 5

/-- The work of a member's card once its peers' data are there: checks, pages, the result, the status (R410 to R413) (DEDUCED, log 70). -/
def collectiveRun (s : State) (i op : Nat) (c : Card) (g : List (Nat × Nat)) (me : Nat) (inputs : List Matched) : State :=
  let len := cardLen c.data
  let p := g.length
  let src := cardSrc c.data
  let dst := cardDst c.data
  let n := destBytes op p len
  let reads := op != 19 || opRoot c.data == me
  let die := cardDie s c
  let fail (s : State) (st : Nat) : State := s.modCard i fun c => { c with status := some st }
  match opTy c.data with
  | none => fail s 3
  | some t =>
    if edgeLost s c.data g me then fail s 1
    else if inputs.isEmpty then fail s 5
    else if inputs.length ≠ p ∨ !agree c (inputs.eraseIdx me) then fail s 3
    else if len = 0 then fail s 0
    else if (reads && !covered c.data false src len) || !covered c.data true dst n then fail s 2
    else
      let s := waitEntry (if reads then waitEntry s c.space (pObj src) else s) c.space (pObj dst)
      if (reads && !cardCheck s c.space src len false) || !cardCheck s c.space dst n true then fail s 1
      else
        match (if reads then firstFault s c.space [(src, len)] false else none).or (firstFault s c.space [(dst, n)] true) with
        | some f => (addFault s f).modCard i fun c => { c with fault := some f, started := true }
        | none =>
          if (reads && cardLost s c.space src die) || cardLost s c.space dst die then fail s 1
          else
            let s := if reads then waitRange s c.space src len die else s
            let own := if reads then dieRead s c.space src len die else clean (List.replicate len 0)
            let ranks := inputs.zipIdx.map fun x => if x.2 = me then own else withChunks c.got x.2 x.1.data
            let r := collectiveData op c t ranks me
            let s := dieWrite s c.space dst r.1 false (.card die) die
            s.modCard i fun c => { c with started := true, status := some (b2n (anyPoison own || anyPoison r.1)), flags := excCode r.2, fault := none }

/-- Collective cards that have started and not completed: the engine executes up to 16 at once (R374). -/
def collectivesRunning (s : State) : Nat :=
  (s.cards.filter fun c => c.started && !c.finished && c.status.isNone && chainEngine s c == 1).length

/-- A collective card of one operation on a collective chain; data of cards other than those of its own place in the group are not its
peers' (R411). -/
def collectiveCard (s : State) (i op : Nat) (inputs : List Matched) : State :=
  match s.cards[i]? with
  | none => s
  | some c =>
    if cardOp c.data ≠ op ∨ chainEngine s c ≠ 1 ∨ ¬ mayStart s c ∨ (16 ≤ collectivesRunning s ∧ ¬ c.started) then s
    else match cardPage s i c with
      | some s => s
      | none =>
        let bad (st : Nat) : State := s.modCard i fun c => { c with status := some st }
        match groupOf c.data with
        | none => bad 3
        | some g =>
          match ownRank g c.part with
          | none => bad 3
          | some me =>
            if cardIllegal c.data || collectiveBad op g.length c.data then bad 3
            else if inputs.any fun x => x.kth != c.kth then s
            else collectiveRun s i op c g me inputs

/-- EVENT ALLREDUCE (R411, R412): `inputs` are the matched cards in rank order, empty where one of them was cancelled or its partition
reset; the own entry's data are read from memory. -/
def execAllreduce (i : Nat) (inputs : List Matched) (s : State) : Out := .next (collectiveCard s i 16 inputs)
/-- EVENT REDUCESCATTER (R411, R412). -/
def execReducescatter (i : Nat) (inputs : List Matched) (s : State) : Out := .next (collectiveCard s i 17 inputs)
/-- EVENT ALLGATHER (R411). -/
def execAllgather (i : Nat) (inputs : List Matched) (s : State) : Out := .next (collectiveCard s i 18 inputs)
/-- EVENT BROADCAST (R411). -/
def execBroadcast (i : Nat) (inputs : List Matched) (s : State) : Out := .next (collectiveCard s i 19 inputs)

/-- The length of the chunk at an offset of a card's source (R413): 4 KiB, or less at the end of a block, counted from the block's start. -/
def chunkLen (c : List Byte) (p off : Nat) : Option Nat :=
  match opTy c with
  | none => none
  | some t =>
    let block := if byRing c && (cardOp c == 16 || cardOp c == 17) then ringLength (cardLen c) p (Ty.bits t / 8) else cardLen c
    let start := off / max 1 block * block
    if cardLen c ≤ off ∨ (off - start) % 4096 ≠ 0 then none else some (min 4096 (min (start + block) (cardLen c) - off))

/-- EVENT COLLECTIVE_CHUNK (R413): a chunk of a peer is kept once; one that was resent is discarded, so that none is combined twice. -/
def execCollectiveChunk (k : Chunk) (s : State) : Out :=
  .next (s.modCard k.card fun x =>
    let fits : Bool := match groupOf x.data with | some g => chunkLen x.data g.length k.off == some k.data.length | none => false
    if x.taken && !x.finished && fits && !(x.got.any fun g => g.1 == k.rank && g.2.1 == k.off) then { x with got := x.got ++ [(k.rank, k.off, k.data)] } else x)

end Sys2Proof.Machine
end

