-- ==== Sys2Proof/Machine/Omsen.lean ====
section
/-! DEFINITION. Events of the fabric: bridges (R402), Omsen links (R403 to R406), routes and end-to-end sequences (R407 to
R409). -/

namespace Sys2Proof.Machine

/-! Links (R404, R405). -/

/-- A link that enters a state now. -/
def Link.enter (l : Link) (st : LinkState) (clock : Nat) : Link := { l with st, since := clock }

/-- A link that is DOWN shows no partner. -/
def Link.down (l : Link) (clock : Nat) : Link :=
  { l with st := .down, since := clock, width := 0, version := 0, peerPkg := 0, peerPort := 0, naks := 0, nakOut := false
           replay := [], queue := [] }

/-- A link changes its state, and with it which packages have a route (R409). -/
def changeLink (s : State) (port : Nat) (l : Link) : State := noteRoutes (s.setLink port l)

/-- A link that fails is recorded with KIND 5 and BLOCK 15 (R404). -/
def failLink (s : State) (port : Nat) : State :=
  let s := changeLink s port { (s.link port).down s.clock with failed := true }
  logError s { time := s.now, kind := 5, cls := 2, block := 15, die := 8 + port / 12, unit_ := port }

/-- A retrain that failed: the third within 1 s takes the link down, whatever succeeded between (R404). -/
def retrainFailed (s : State) (port : Nat) : State :=
  let l := s.link port
  let recent := s.clock :: l.retries.filter fun t => s.clock ≤ t + 3000000000
  if 3 ≤ recent.length then failLink (s.setLink port { l with retries := [] }) port
  else s.setLink port { l with st := .retrain, since := s.clock, retries := recent }

/-- The version that two sides run (R405): none for MISMATCH. -/
def commonVersion (low high : Nat) : Option Nat :=
  let v := min 0x11 high
  if max 0x10 low ≤ v then some v else none

/-- A link runs (R404): after a retrain it sends its replay buffer again, else what is not acknowledged on the triples bound to it (R408,
R409). -/
def linkUp (s : State) (port : Nat) (kept : Bool) : State :=
  let s := noteRoutes s
  if kept then s.setLink port (s.link port).resend else resendOn s port

/-- NEGOTIATE with the partner's answer (R404, R405). -/
def negotiate (s : State) (port low high pkg peer : Nat) : State :=
  let l := s.link port
  match commonVersion low high with
  | none => changeLink s port { l.enter .mismatch s.clock with version := 0, replay := [], queue := [] }
  | some v =>
    if l.width = 4 ∧ v < 0x11 then failLink s port
    else
      linkUp (s.setLink port { l.enter .active s.clock with version := v, peerPkg := pkg % 256, peerPort := peer % 32, naks := 0 }) port
        (l.st == .retrain)

/-- EVENT LINK_EQUALISE_COMPLETE (R404, R405): `lanes` are those that pass, as a mask; a partner that has not answered yet shows
no version, and the link stays in NEGOTIATE. -/
def execLinkEqualiseComplete (port lanes lowVer highVer peerPkg peerPort : Nat) (s : State) : Out :=
  if 24 ≤ port then .fault .noSuchUnit
  else
    let l := s.link port
    let width := if lanes % 256 = 255 then 8 else if lanes % 16 = 15 then 4 else 0
    let answer (s : State) : State := if highVer = 0 then s else negotiate s port lowVer highVer peerPkg peerPort
    match l.st with
    | .negotiate => .next (answer s)
    | .equalise =>
      if width = 0 then .next (changeLink s port (l.down s.clock))
      else .next (answer (s.setLink port { l.enter .negotiate s.clock with width }))
    | .retrain =>
      if width = 0 then .next (retrainFailed s port)
      else .next (answer (s.setLink port { l with width }))
    | _ => .next s

/-- EVENT LINK_ENABLE (R404). -/
def execLinkEnable (port : Nat) (s : State) : Out :=
  if 24 ≤ port then .fault .noSuchUnit
  else
    let l := s.link port
    if l.st = .down then .next (s.setLink port { l.enter .detect s.clock with failed := false, rx := 0, acked := 0, tx := 0 }) else .next s

/-- EVENT LINK_DISABLE (R404). -/
def execLinkDisable (port : Nat) (s : State) : Out :=
  if 24 ≤ port then .fault .noSuchUnit
  else .next (changeLink s port ((s.link port).down s.clock))

/-- EVENT LINK_DETECT_COMPLETE (R404). -/
def execLinkDetectComplete (port : Nat) (s : State) : Out :=
  if 24 ≤ port then .fault .noSuchUnit
  else
    let l := s.link port
    if l.st = .detect then .next (s.setLink port (l.enter .equalise s.clock)) else .next s

/-- The limit of a training state, in thirds of a nanosecond (R404). -/
def stateLimit : LinkState → Option Nat
  | .detect => some 3000000
  | .equalise => some 60000000
  | .negotiate => some 30000
  | .retrain => some 75000000
  | _ => none

/-- EVENT LINK_STATE_TIMEOUT (R404) (DESIGN CHOICE, log 68). -/
def execLinkStateTimeout (port : Nat) (s : State) : Out :=
  if 24 ≤ port then .fault .noSuchUnit
  else
    let l := s.link port
    match stateLimit l.st with
    | none => .next s
    | some n =>
      let s := { s with clock := max s.clock (l.since + n) }
      if l.st = .retrain then .next (retrainFailed s port) else .next (changeLink s port (l.down s.clock))

/-! Flits (R403, R404). -/

/-- A NAK from the partner: the flits of the replay buffer are sent again in order; after eight in a row the link retrains, its buffer kept
and its VERSION 0 until it is ACTIVE again (R404, R406). -/
def takeNak (s : State) (port : Nat) : State :=
  let l := s.link port
  if l.st = .active then
    if 8 ≤ l.naks + 1 then changeLink s port { l.enter .retrain s.clock with naks := 0, version := 0 }
    else s.setLink port { l.resend with naks := l.naks + 1 }
  else s

/-- EVENT OMSEN_NAK (R404). -/
def execOmsenNak (port : Nat) (s : State) : Out :=
  if 24 ≤ port then .fault .noSuchUnit else .next (takeNak s port)

/-- EVENT OMSEN_FLIT_RECEIVE (R403, R404): a flit in sequence is taken; a CRC error, a reserved TYPE or a gap sends a NAK; an
acknowledgement that moves ends a run of NAKs. -/
def execOmsenFlitReceive (port seq ack type : Nat) (crcOk : Bool) (s : State) : Out :=
  if 24 ≤ port then .fault .noSuchUnit
  else
    let l := s.link port
    if l.st ≠ .active then .next s
    else if !crcOk || 4 ≤ type then .next (s.setLink port { l with nakOut := true })
    else
      let l := if ack % 4096 = l.acked then l else { l.acknowledged (ack % 4096) with acked := ack % 4096, naks := 0 }
      let ahead := (seq + 4096 - l.rx) % 4096
      let l := if ahead = 1 then { l with rx := seq % 4096, nakOut := false } else if 1 < ahead && ahead ≤ 2048 then { l with nakOut := true } else l
      let s := s.setLink port l
      .next (if type = 2 then takeNak s port else s)

/-! Routes and end-to-end sequences (R407 to R409). -/

/-- A message's request performed at the home slice (R407): a write, an atomic with its answer, a load's answer. -/
def performRemote (s : State) (m : RemoteMsg) : State :=
  match m.req with
  | .write data => (dieWrite.chunks m.addr data).foldl (fun s x => homeWrite s x.1 x.2 false .remote) s
  | .load n => sendRemote s 8 (m.src * 2 ^ 44 + m.addr % 2 ^ 44) (.answer (homeRead s m.addr n))
  | .atomic op w val cmp redg =>
    let n := IW.bytes w
    let bs := homeRead s m.addr n
    let r := atomResult op w (BitVec.ofNat 64 (leNat (bytesOf bs))) val cmp
    let s := if anyPoison bs then s else homeWrite s m.addr (clean (leBytes n r.1.toNat)) true .remote
    if redg then s else sendRemote s 8 (m.src * 2 ^ 44 + m.addr % 2 ^ 44) (.answer bs)
  | .answer _ | .ack _ => s

def nextSeq (s : State) (src lane : Nat) : Nat := ((s.expected.find? (·.1 == (src, lane))).map (·.2)).getD 0

/-- A request for memory of a partition that is being reset waits until after it (R433). -/
def heldByReset (s : State) (m : RemoteMsg) : Bool :=
  s.parts.any (·.resetting) && match (stackDie m.addr).bind s.partOfDie with | some p => p.resetting | none => false

/-- Perform a message in sequence, then those that came early and follow it. -/
def performInOrder (s : State) (m : RemoteMsg) : (fuel : Nat) → State
  | 0 => s
  | k + 1 =>
    let s := sendAck (performRemote s m) m
    let next := (m.seq + 1) % 2 ^ 32
    let s := { s with expected := ((m.src, m.lane), next) :: s.expected.filter (·.1 != (m.src, m.lane)) }
    let mine (x : RemoteMsg) : Bool := x.src == m.src && x.lane == m.lane && x.seq == next
    match s.early.find? mine with
    | some x => if heldByReset s x then s else performInOrder { s with early := s.early.filter fun y => !mine y } x k
    | none => s

/-- EVENT REMOTE_MESSAGE_ARRIVAL (R408): performed in sequence order, once, and acknowledged; a message performed before is discarded
and acknowledged again. Its hash lane is the one that R400 gives its address, so that the writes of one line come in order (R277)
(DESIGN CHOICE, log 88). -/
def execRemoteMessageArrival (m : RemoteMsg) (s : State) : Out :=
  let ahead := (m.seq + 2 ^ 32 - nextSeq s m.src m.lane) % 2 ^ 32
  if m.dst ≠ Config.packageNumber.toNat ∨ bitsOf m.addr 51 44 ≠ Config.packageNumber.toNat ∨ 2 ^ 32 ≤ m.seq ∨
      m.lane ≠ hashLane m.addr then .next s
  else match m.req with
    | .ack seq => .next (takeAck s m seq)
    | _ =>
      if ahead = 0 ∧ ¬ heldByReset s m then .next (performInOrder s m (s.early.length + 1))
      else if 2 ^ 31 ≤ ahead then .next (sendAck s m)
      else if s.early.any fun x => x.src == m.src && x.lane == m.lane && x.seq == m.seq then .next s
      else .next { s with early := s.early ++ [m] }

/-- EVENT ROUTE_FAILOVER (R408): a triple whose link no longer stands is bound to another port of the route table whose link is ACTIVE, and
what is not acknowledged is sent there again, in order. -/
def execRouteFailover (dst lane port : Nat) (s : State) : Out :=
  if 24 ≤ port then .fault .noSuchUnit
  else
    let stands : Bool := match s.portOf dst lane with | some p => (s.link p).stands | none => false
    if !stands && (Config.routePorts dst).contains port && (s.link port).st == .active then
      let s := { s with routes := ((dst, lane), port) :: s.routes.filter (·.1 != (dst, lane)) }
      .next ((s.sent.filter fun x => x.2.dst == dst && x.2.lane == lane).foldl (fun s x => transmit s x.2) s)
    else .next s

/-- A message that no route can carry any more (R409): a write or REDG is discarded, with its event. -/
def loseMessage (s : State) (x : Nat × RemoteMsg) : State :=
  match x.2.req with
  | .write _ | .atomic _ _ _ _ true => lostEvent s x.2.addr x.1
  | _ => s

/-- EVENT ROUTE_LOSS_TIMEOUT (R409, R420): no link towards the package has been ACTIVE for 10 ms of Meridian time, and requests to it
complete without it. -/
def execRouteLossTimeout (dst : Nat) (s : State) : Out :=
  match s.cut.find? (·.1 == dst) with
  | none => .next s
  | some x =>
    let s : State := { s with clock := max s.clock (x.2 + 30000000), cut := s.cut.filter (·.1 != dst), lost := insertNat dst s.lost }
    let gone := s.sent.filter fun y => y.2.dst == dst
    .next (gone.foldl loseMessage { s with sent := s.sent.filter fun y => y.2.dst != dst })

/-! Bridges (R402). -/

/-- The package is reset (R434): host memory and the error log stand (DEDUCED, log 69). -/
def packageReset (s : State) : State :=
  { State.reset with rollback := s.rollback, mem := s.mem.filter fun x => bitsOf x.1 43 40 == 1, memPoison := s.memPoison.filter fun g => bitsOf (8 * g) 43 40 == 1
                     log := s.log, persist := s.persist }

/-- EVENT BRIDGE_CRC_ERROR (R402): the flit is sent again; its eighth failure in a row closes the channel, which the error log records, and
the package is reset. -/
def execBridgeCrcError (x : BridgeFlit) (s : State) : Out :=
  if 20 ≤ x.bridge then .fault .noSuchUnit
  else
    let b := s.bridges.getD x.bridge (0, 0)
    let n := if b.2 ≠ 0 ∧ b.1 = x.flit then b.2 + 1 else 1
    if 8 ≤ n then
      .next (packageReset (logError s { time := s.now, kind := 5, cls := 2, block := 15, die := 8, unit_ := x.bridge }))
    else .next { s with bridges := s.bridges.set x.bridge (x.flit, n) }

end Sys2Proof.Machine
end

