-- ==== Sys2Proof/Machine/Security.lean ====
section
/-! DEFINITION. The security functions of R1 that boot and attestation rest on (R434 to R436): SHA-384 and the verification of an ECDSA
signature on P-384. The manual names them; their definitions are those of the published standards (PRESUMED, log 127). -/

namespace Sys2Proof.Machine

/-! SHA-384. -/

/-- The round constants, in five parts of sixteen. -/
def shaK0 : List W64 := [
  0x428a2f98d728ae22, 0x7137449123ef65cd, 0xb5c0fbcfec4d3b2f, 0xe9b5dba58189dbbc,
  0x3956c25bf348b538, 0x59f111f1b605d019, 0x923f82a4af194f9b, 0xab1c5ed5da6d8118,
  0xd807aa98a3030242, 0x12835b0145706fbe, 0x243185be4ee4b28c, 0x550c7dc3d5ffb4e2,
  0x72be5d74f27b896f, 0x80deb1fe3b1696b1, 0x9bdc06a725c71235, 0xc19bf174cf692694]
def shaK1 : List W64 := [
  0xe49b69c19ef14ad2, 0xefbe4786384f25e3, 0x0fc19dc68b8cd5b5, 0x240ca1cc77ac9c65,
  0x2de92c6f592b0275, 0x4a7484aa6ea6e483, 0x5cb0a9dcbd41fbd4, 0x76f988da831153b5,
  0x983e5152ee66dfab, 0xa831c66d2db43210, 0xb00327c898fb213f, 0xbf597fc7beef0ee4,
  0xc6e00bf33da88fc2, 0xd5a79147930aa725, 0x06ca6351e003826f, 0x142929670a0e6e70]
def shaK2 : List W64 := [
  0x27b70a8546d22ffc, 0x2e1b21385c26c926, 0x4d2c6dfc5ac42aed, 0x53380d139d95b3df,
  0x650a73548baf63de, 0x766a0abb3c77b2a8, 0x81c2c92e47edaee6, 0x92722c851482353b,
  0xa2bfe8a14cf10364, 0xa81a664bbc423001, 0xc24b8b70d0f89791, 0xc76c51a30654be30,
  0xd192e819d6ef5218, 0xd69906245565a910, 0xf40e35855771202a, 0x106aa07032bbd1b8]
def shaK3 : List W64 := [
  0x19a4c116b8d2d0c8, 0x1e376c085141ab53, 0x2748774cdf8eeb99, 0x34b0bcb5e19b48a8,
  0x391c0cb3c5c95a63, 0x4ed8aa4ae3418acb, 0x5b9cca4f7763e373, 0x682e6ff3d6b2b8a3,
  0x748f82ee5defb2fc, 0x78a5636f43172f60, 0x84c87814a1f0ab72, 0x8cc702081a6439ec,
  0x90befffa23631e28, 0xa4506cebde82bde9, 0xbef9a3f7b2c67915, 0xc67178f2e372532b]
def shaK4 : List W64 := [
  0xca273eceea26619c, 0xd186b8c721c0c207, 0xeada7dd6cde0eb1e, 0xf57d4f7fee6ed178,
  0x06f067aa72176fba, 0x0a637dc5a2c898a6, 0x113f9804bef90dae, 0x1b710b35131c471b,
  0x28db77f523047d84, 0x32caab7b40c72493, 0x3c9ebe0a15c9bebc, 0x431d67c49c100d4c,
  0x4cc5d4becb3e42b6, 0x597f299cfc657e2a, 0x5fcb6fab3ad6faec, 0x6c44198c4a475817]
def shaK : List W64 := shaK0 ++ shaK1 ++ shaK2 ++ shaK3 ++ shaK4

/-- The hash value before the first block. -/
def shaStart : List W64 := [
  0xcbbb9d5dc1059ed8, 0x629a292a367cd507, 0x9159015a3070dd17, 0x152fecd8f70e5939,
  0x67332667ffc00b31, 0x8eb44a8768581511, 0xdb0c2e0d64f98fa7, 0x47b5481dbefa4fa4]

/-- A big-endian number of bytes. -/
def beNat (bs : List Byte) : Nat := bs.foldl (fun n b => 256 * n + b.toNat) 0

/-- The `n` bytes of a number, most significant first. -/
def beBytes (n v : Nat) : List Byte := (List.range n).map fun i => BitVec.ofNat 8 (v / 256 ^ (n - 1 - i))

def shaSum0 (x : W64) : W64 := x.rotateRight 28 ^^^ x.rotateRight 34 ^^^ x.rotateRight 39
def shaSum1 (x : W64) : W64 := x.rotateRight 14 ^^^ x.rotateRight 18 ^^^ x.rotateRight 41
def shaSig0 (x : W64) : W64 := x.rotateRight 1 ^^^ x.rotateRight 8 ^^^ x >>> 7
def shaSig1 (x : W64) : W64 := x.rotateRight 19 ^^^ x.rotateRight 61 ^^^ x >>> 6

/-- The message schedule: sixteen words of the block, then the words made of them. The list is kept newest first. -/
def shaSchedule (block : List Byte) : List W64 :=
  let first := (List.range 16).foldl (fun l i => BitVec.ofNat 64 (beNat ((block.drop (8 * i)).take 8)) :: l) []
  ((List.range 64).foldl (fun l _ =>
    (shaSig1 (l.getD 1 0) + l.getD 6 0 + shaSig0 (l.getD 14 0) + l.getD 15 0) :: l) first).reverse

/-- One round on the eight working words. -/
def shaRound (v : List W64) (kw : W64 × W64) : List W64 :=
  match v with
  | [a, b, c, d, e, f, g, h] =>
    let t := h + shaSum1 e + ((e &&& f) ^^^ (~~~ e &&& g)) + kw.1 + kw.2
    let u := shaSum0 a + ((a &&& b) ^^^ (a &&& c) ^^^ (b &&& c))
    [t + u, a, b, c, d + t, e, f, g]
  | _ => v

/-- The hash value after one block of 128 bytes. -/
def shaBlock (hash : List W64) (block : List Byte) : List W64 :=
  List.zipWith (· + ·) hash ((shaK.zip (shaSchedule block)).foldl shaRound hash)

/-- A message with its padding: a one bit, zeros, and its length in bits in 16 bytes. -/
def shaPad (m : List Byte) : List Byte :=
  m ++ [0x80] ++ List.replicate ((239 - m.length % 128) % 128) 0 ++ beBytes 16 (8 * m.length)

/-- SHA-384 of some bytes. -/
def sha384 (m : List Byte) : List Byte :=
  let p := shaPad m
  let h := (List.range (p.length / 128)).foldl (fun h i => shaBlock h ((p.drop (128 * i)).take 128)) shaStart
  (h.flatMap fun x => beBytes 8 x.toNat).take 48

/-! ECDSA on P-384. -/

/-- The prime of the field, the order of the group, and the coefficient b of the curve y² = x³ - 3x + b. -/
def ecP : Nat := 2 ^ 384 - 2 ^ 128 - 2 ^ 96 + 2 ^ 32 - 1
def ecN : Nat := 0xffffffffffffffffffffffffffffffffffffffffffffffffc7634d81f4372ddf581a0db248b0a77aecec196accc52973
def ecB : Nat := 0xb3312fa7e23ee7e4988e056be3f82d19181d9c6efe8141120314088f5013875ac656398d8a2ed19d2a85c8edd3ec2aef
/-- The generator. -/
def ecG : Nat × Nat := (
  0xaa87ca22be8b05378eb1c71ef320ad746e1d3b628ba79b9859f741e082542a385502f25dbf55296c3a545e3872760ab7,
  0x3617de4a96262c6f5d9e98bf9292dc29f8f41dbd289a147ce9da3113b5f0b8c00a60b1ce1d7e819d7a431d7c90ea0e5f)

/-- A power modulo `m`. -/
def powMod (m : Nat) : (fuel b e : Nat) → Nat
  | 0, _, _ => 1 % m
  | k + 1, b, e =>
    let h := powMod m k (b * b % m) (e / 2)
    if e % 2 = 1 then h * b % m else h

/-- The inverse modulo a prime below 2^384. -/
def invMod (m a : Nat) : Nat := powMod m 384 (a % m) (m - 2)

/-- A difference in the field. -/
def ecSub (a b : Nat) : Nat := (a + ecP - b % ecP) % ecP

/-- The sum of two points; none is the point at infinity. -/
def ecAdd : Option (Nat × Nat) → Option (Nat × Nat) → Option (Nat × Nat)
  | none, q => q
  | p, none => p
  | some (x, y), some (u, v) =>
    if x = u ∧ (y + v) % ecP = 0 then none
    else
      let l := if x = u then (3 * x * x + ecP - 3) * invMod ecP (2 * y) % ecP else ecSub v y * invMod ecP (ecSub u x) % ecP
      let x3 := ecSub (ecSub (l * l % ecP) x) u
      some (x3, ecSub (l * ecSub x x3 % ecP) y)

/-- A multiple of a point. -/
def ecMul : (fuel n : Nat) → Option (Nat × Nat) → Option (Nat × Nat)
  | 0, _, _ => none
  | k + 1, n, p =>
    let h := ecMul k (n / 2) (ecAdd p p)
    if n % 2 = 1 then ecAdd h p else h

/-- A public key that is a point of the curve. -/
def ecOn (x y : Nat) : Bool := x < ecP && y < ecP && y * y % ecP == (x * x % ecP * x + ecP * 3 - 3 * x + ecB) % ecP

/-- Whether (r, s) is a signature by the key (x, y) of a message with a hash of 48 bytes. -/
def ecdsaOk (key : Nat × Nat) (hash : List Byte) (r s : Nat) : Bool :=
  0 < r && r < ecN && 0 < s && s < ecN && ecOn key.1 key.2 &&
    let w := invMod ecN s
    let u1 := beNat hash * w % ecN
    let u2 := r * w % ecN
    match ecAdd (ecMul 384 u1 (some ecG)) (ecMul 384 u2 (some key)) with
    | some p => p.1 % ecN == r
    | none => false

/-! Signed images (R435). -/

/-- The parts of a header of 256 bytes, numbers in memory least significant byte first (R62), keys and signatures as the standards write
them, most significant first (PRESUMED, log 127). -/
def imageWord (image : List Byte) (off n : Nat) : Nat :=
  ((image.drop off).take n).foldr (fun b n => b.toNat + 256 * n) 0

/-- Whether the boot engine accepts an image of a kind (R435): its header, the hash of its key against the one in ROM, its signature over
bytes 0 to 119 and the image, and its security version against the rollback version. -/
def imageOk (rom : List Byte) (rollback kind : Nat) (image : List Byte) : Bool :=
  let key := (image.drop 24).take 96
  let number (off : Nat) : Nat := beNat ((image.drop off).take 48)
  256 ≤ image.length && imageWord image 0 4 == 0x41475451 && imageWord image 4 1 == kind && image.length == 256 + imageWord image 16 8 &&
    ((image.drop 216).take 40).all (· == 0) && rollback ≤ imageWord image 8 4 && sha384 key == rom &&
    ecdsaOk (number 24, number 72) (sha384 (image.take 120 ++ image.drop 256)) (number 120) (number 168)

end Sys2Proof.Machine
end

