-- ==== Sys2Proof/Machine/HostLink.lean ====
section
/-! DEFINITION. Events of the host and of partitions: the window's registers (R315, R323, R424 to R431), host accesses (R423),
partitions (R432, R433), boot (R434, R435) and quotes (R436). -/

namespace Sys2Proof.Machine

/-! The window (R424 to R431). -/

/-- PSTAT (R425). -/
def pstat (p : Part) : Nat :=
  p.dies.foldl (fun n d => n + 2 ^ (56 + d)) 0 + 0x10 * 2 ^ 48 + 0x11 * 2 ^ 40 + Config.firmwareAbi.toNat * 2 ^ 32 +
    b2n p.retired * 128 + b2n (!p.evbuf.isEmpty) * 64 + b2n p.debug * 32 + b2n p.resetting * 16 + b2n p.verok * 2 + b2n p.ready

/-- The status page takes writes while no reset is under way (R424). -/
def statusOpen (s : State) (part : Nat) : Bool := match s.part part with | some p => !p.resetting | none => false

/-- EVENT HOST_TAIL_WRITE (R315, R429): the tail is accepted, the same, or refused with a TYPE 3 event that names the first
reason. -/
def execHostTailWrite (part q : Nat) (v : W64) (s : State) : Out :=
  if !windowOpen s part || 64 ≤ q then .next s
  else
    let x := s.queue part q
    let t := v.toNat
    let refuse (code : Nat) : Out := .next (postEvent s part 3 (q + code * 256) t)
    if t = x.tail then .next s
    else if x.device || !x.enable then refuse 3
    else if t < x.tail then refuse 1
    else if x.cap < t - x.head then refuse 2
    else .next { s.modQueue part q fun x => { x with tail := t, marks := x.marks ++ [(t, s.order)] } with order := s.order + 1 }

/-- EVENT EVCONS_WRITE (R426): CONS rises up to PROD, and what waits is posted. -/
def execEvconsWrite (part : Nat) (v : W64) (s : State) : Out :=
  match s.part part with
  | none => .next s
  | some p =>
    if !windowOpen s part || v.toNat < p.evcons || p.evprod < v.toNat then .next s
    else .next (drainEvents (s.setPart { p with evcons := v.toNat }) part 1026)

/-- EVENT HOSTVER_WRITE (R431) (DEDUCED, log 76). -/
def execHostverWrite (part : Nat) (v : W64) (s : State) : Out :=
  if !statusOpen s part then .next s
  else
    let n := v.toNat % 256
    .next (s.modPart part fun p => { p with hostver := n, verok := 0x10 ≤ n && n ≤ 0x11 })

/-- EVENT QUOTE_REQUEST (R436). -/
def execQuoteRequest (part : Nat) (v : W64) (s : State) : Out :=
  match s.part part with
  | none => .next s
  | some p => if !statusOpen s part || v != 1 || p.quoteBusy then .next s else .next (s.setPart { p with quoteBusy := true })

/-- The bytes of a quote (R436): the nonce, the hashes of the descriptor and of the images, PSTAT, the rollback version and the time; the
signature is the device's own (DESIGN CHOICE, log 12). -/
def quoteBytes (s : State) (p : Part) : List Byte :=
  p.nonce ++ (List.range 4).flatMap (fun k => sha384 (Config.firmwareImage k)) ++ leBytes 8 (pstat p) ++ leBytes 8 s.rollback ++
    leBytes 8 s.now ++ (List.range 96).map fun i => Config.quoteByte p.quotes (264 + i)

/-- EVENT QUOTE_COMPLETE (R436). -/
def execQuoteComplete (part : Nat) (s : State) : Out :=
  match s.part part with
  | none => .next s
  | some p => if p.quoteBusy then .next (s.setPart { p with quoteBusy := false, quote := quoteBytes s p, quotes := p.quotes + 1 }) else .next s

/-! Finish-scope requests (R323). -/

/-- EVENT JOB_SCOPE_OPEN (R323). -/
def execJobScopeOpen (part : Nat) (s : State) : Out :=
  if windowOpen s part then .next (openScope s part none .job none none).1 else .next s

/-- EVENT GRAPH_SCOPE_OPEN (R323): under a JOB or GRAPH scope that is OPEN. -/
def execGraphScopeOpen (part parent : Nat) (s : State) : Out :=
  let f := s.scope part parent
  let fits : Bool := match f.kind with | .job | .graph => f.st == .open_ | _ => false
  if windowOpen s part && fits then .next (openScope s part (some parent) .graph none none).1 else .next s

/-- EVENT SCOPE_CANCEL_REQUEST (R258, R323). -/
def execScopeCancelRequest (part n : Nat) (s : State) : Out := takeBack s <|
  if windowOpen s part && (s.scope part n).st != .free then .next (cancelScope s part n) else .next s

/-- EVENT SCOPE_RELEASE (R323): a JOB or GRAPH scope that has completed goes back to FREE (DEDUCED, log 73). -/
def execScopeRelease (part n : Nat) (s : State) : Out :=
  let f := s.scope part n
  let host : Bool := match f.kind with | .job | .graph => true | _ => false
  if windowOpen s part && host && f.done then .next (s.modScope part n fun _ => {}) else .next s

/-! Plain registers (R330, R389, R392, R424 to R426). -/

/-- DEDUCED, log 74. -/
def writeNonce (xs : List Byte) (word : Nat) (v : W64) : List Byte :=
  if word < 6 then xs.take (8 * word) ++ leBytes 8 v.toNat ++ xs.drop (8 * word + 8) else xs

/-- EVENT REGISTER_WRITE (R424): reserved bits are ignored; the status page takes writes before a version is accepted. -/
def execRegisterWrite (part : Nat) (r : WinReg) (v : W64) (s : State) : Out :=
  match s.part part with
  | none => .next s
  | some p =>
    let die (n : Nat) (f : Die → Die) : Out :=
      if dieWindow s n && p.dies.contains n then .next (s.setDie (f (s.die n))) else .next s
    match r with
    | .pstat => if statusOpen s part && bitOf v.toNat 7 then .next (s.setPart { p with retired := false }) else .next s
    | .nonce word => if statusOpen s part && !p.quoteBusy then .next (s.setPart { p with nonce := writeNonce p.nonce word v }) else .next s
    | .evbase => if windowOpen s part && p.evprod ≤ p.evcons then .next (drainEvents (s.setPart { p with evbase := v &&& 0xFFFFFFFFFFFFF000 }) part 1026) else .next s
    | .evsize => if windowOpen s part && p.evprod ≤ p.evcons then .next (drainEvents (s.setPart { p with evsize := v.toNat % 2 ^ 17 }) part 1026) else .next s
    | .xregrp n => die n fun d => { d with xregrp := v &&& 0x8000FF00FFFFFFFF }
    | .xfrzmax n => die n fun d => { d with xfrzmax := v &&& 0xFFFFFFFF }
    | .hwatch n => if windowOpen s part && n < 8 then .next (s.setPart { p with hwatch := p.hwatch.set n (v &&& 0xFF0FFFFFFFFFFFC0) }) else .next s
    | .shootDesc space obj => if windowOpen s part then .next (shootDesc s space obj) else .next s
    | .shootXlat space lo len => if windowOpen s part then .next (shootXlat s space lo len) else .next s
    | .errPtr => if windowOpen s part then .next (s.setPart { p with errRead := v.toNat }) else .next s

/-! Host accesses (R268, R423). -/

/-- Where the host reaches memory of the package: host memory, and the HBM of a partition below its stack's capacity. -/
def hostReaches (s : State) (a : Nat) : Bool :=
  match bitsOf a 43 40 with
  | 0 => bitsOf a 51 44 == Config.packageNumber.toNat && frameOk a 1 && ((ownerDie a).bind s.partOfDie).isSome
  | 1 => true
  | _ => false

/-- EVENT HOST_MEMORY_ACCESS (R423): the host's write is performed at HOME, poison and all (R384); a read changes nothing. -/
def execHostMemoryAccess (addr : Nat) (data : List PByte) (s : State) : Out :=
  .next ((dieWrite.chunks addr data).foldl (fun s x => if hostReaches s x.1 then homeWrite s x.1 x.2 false .host else s) s)

/-! Partitions (R432, R433). -/

/-- The HBM of some dies of this package cleared to zero. -/
def clearHbm (s : State) (dies : List Nat) : State :=
  let mine (a : Nat) : Bool := bitsOf a 51 44 == Config.packageNumber.toNat && (match ownerDie a with | some d => dies.contains d | none => false)
  { s with mem := s.mem.filter fun x => !mine x.1, memPoison := s.memPoison.filter fun g => !mine (8 * g)
           senders := s.senders.filter fun x => !mine x.1, capsules := s.capsules.filter fun x => !mine x.1
           lastWriter := s.lastWriter.filter fun x => !mine (64 * x.1) }

/-- A queue as the partition manager sets it up, its counts kept (R314; DESIGN CHOICE, log 25). -/
def setupQueue (part q : Nat) (x : Queue) : Queue :=
  let c := Config.queueSetup part q
  { x with base := c.1 &&& 0xFFFFFFFFFFFFFF00, cap := 2 ^ (c.2.1 % 16), device := c.2.2.1, enable := c.2.2.2 }

def setupQueues (part : Nat) (qs : List Queue) : List Queue := qs.zipIdx.map fun x => setupQueue part x.2 x.1

/-- A partition made of whole dies that no partition holds: their HBM is cleared, then it is ready (R432). -/
def createPart (s : State) (part : Nat) (dies : List Nat) (debug : Bool) : State :=
  if 8 ≤ part || (s.part part).isSome || dies.isEmpty || dies.eraseDups.length != dies.length ||
      dies.any (fun d => (s.partOfDie d).isSome || 8 ≤ d) then s
  else
    let s := clearHbm s dies
    let p : Part := { num := part, dies := dies.foldl (fun l d => insertNat d l) [], debug, ready := true
                      queues := setupQueues part (List.replicate 64 {}) }
    { s with parts := s.parts ++ [p], serviceChains := insertNat (Config.serviceChain part) s.serviceChains }

/-- EVENT PARTITION_CREATE (R432). -/
def execPartitionCreate (part : Nat) (dies : List Nat) (debug : Bool) (s : State) : Out :=
  if dies.any (8 ≤ ·) then .fault .noSuchUnit else if !s.booted then .next s else .next (createPart s part dies debug)

/-- Every team, launch and card of a partition is gone, its records STALLED, its freezes dropped; the arrays, queues of copies
and caches of its dies are empty, dirty bytes home (R433). -/
def sweepPart (s : State) (p : Part) : State :=
  let s := if s.hand.isSome && s.t.part == p.num then { s.putBack with granted := false } else s
  let teams := s.teams.filter fun t => t.part == p.num
  let s := teams.foldl stallTeam s
  let s := { s with teams := s.teams.filter fun t => t.part != p.num, launches := s.launches.filter fun l => l.part != p.num
                    cards := s.cards.filter fun c => c.part != p.num
                    faults := s.faults.filter fun f => !(s.spaces.any fun x => x.num == f.space && x.part == p.num) }
  let s := teams.foldl (fun s t => t.freezes.foldl (fun s f => noteFreeze s f.die f.cons) s) s
  let mine := (s.cores.filter fun k => p.dies.contains k.die).map fun k => CoreId.mk k.die k.num
  let s := mine.foldl (fun s id =>
    let s := flushCore s id
    let k := s.core id
    s.setCore { k with copies := [], array := [], desc := [], pages := [], port := [], spillDue := false, exchange := [] }) s
  { s with dies := s.dies.map fun d => if p.dies.contains d.num then { d with cc := [], xlat := [], demand := [] } else d }

/-- EVENT PARTITION_DESTROY (R432): its HBM is cleared. -/
def execPartitionDestroy (part : Nat) (s : State) : Out := takeBack s <|
  match s.part part with
  | none => .next s
  | some p =>
    let s := clearHbm (sweepPart s p) p.dies
    let s := { s with cores := s.cores.map fun (k : Core) => if k.lastPart = some part then { k with lastPart := none } else k }
    .next { s with parts := s.parts.filter fun x => x.num != part }

/-- Messages that came during a reset are performed after it (R433). -/
def resumeEarly (s : State) : State :=
  s.early.foldl (fun s m =>
    if s.early.contains m && nextSeq s m.src m.lane == m.seq && !heldByReset s m then
      performInOrder { s with early := s.early.filter (· != m) } m (s.early.length + 1)
    else s) s

/-- Steps 2 to 6 of a reset (R433): teams end and save nothing; HBM, EVPROD, EVCONS and the queues' counts are kept; the finish table and
the event buffer go; RESET is 0 and the partition manager has set the queues up again. VEROK stays clear until the driver writes HOSTVER. -/
def finishReset (s : State) (p : Part) : State :=
  let s := sweepPart s p
  resumeEarly (s.modPart p.num fun p => { p with
    resetting := false, ready := true, evbuf := [], evlost := 0
    scopes := List.replicate 256 {}, queues := setupQueues p.num p.queues })

/-- EVENT PARTITION_RESET (R433): the request, which is step 1, and while RESET is 1 the steps after it (DESIGN CHOICE, log 75). -/
def execPartitionReset (part : Nat) (s : State) : Out := takeBack s <|
  match s.part part with
  | none => .next s
  | some p =>
    if p.resetting then .next (finishReset s p)
    else .next (s.setPart { p with resetting := true, ready := false, verok := false })

/-! Boot (R389, R434, R435). -/

/-- A repair of the persistent log applied (R389): a spare SRAM row or HBM row in use, a spare of an array, a core retired. -/
def applyRepair (s : State) (e : LogEntry) : State :=
  let id : CoreId := ⟨e.die, e.unit_⟩
  match e.repair with
  | 1 => if coreOk id then s.setCore ((takeSpare (s.core id) e.block (e.loc / 2 ^ 32)).getD (s.core id)) else s
  | 3 => { s with hbmRows := s.hbmRows ++ [e.loc / hbmRow] }
  | 5 => if coreOk id then s.setCore { s.core id with spareRow := true } else s
  | 6 => if coreOk id then s.setCore { s.core id with spareCol := true } else s
  | 7 => if coreOk id then s.setCore { s.core id with retired := true } else s
  | _ => s

/-- The rollback version once the descriptor has been verified: only a descriptor that raises it changes it (R435). -/
def raisedRollback (s : State) : Nat := max s.rollback Config.descriptorRollback.toNat

/-- The step at which an image that is not accepted stops the boot (R434, R435). -/
def badSignature (s : State) : Option Nat :=
  let ok (rollback kind : Nat) : Bool := imageOk Config.romKeyHash rollback kind (Config.firmwareImage kind)
  if !ok s.rollback 0 then some 2
  else if !ok (raisedRollback s) 1 || !ok (raisedRollback s) 2 || !ok (raisedRollback s) 3 then some 3 else none

/-- The other packages of the domain: those that the route table has ports towards (R407). -/
def domainPackages : List Nat := (List.range 256).filter fun d => d != Config.packageNumber.toNat && !(Config.routePorts d).isEmpty

/-- Steps 4 to 7 of a boot (R434): the repairs, the links, Meridian time locked, the partitions that the descriptor names. -/
def finishBoot (s : State) : State :=
  let s := s.persist.foldl applyRepair { s with rollback := raisedRollback s }
  let s := { s with booted := true, locked := true, everLocked := true, offset := 0, domain := domainPackages
                    links := s.links.map fun l => if l.st = .down then l.enter .detect s.clock else l }
  Config.descriptorParts.foldl (fun s x => createPart s x.1 x.2.1 x.2.2) (noteRoutes s)

/-- EVENT BOOT (R434): all steps, or the step that failed, where the package stays down (DESIGN CHOICE, log 77). -/
def execBoot (failed : Nat) (s : State) : Out :=
  if s.booted || s.bootFail.isSome then .next s
  else
    let own := if 1 ≤ failed ∧ failed ≤ 7 then some failed else none
    let step := match badSignature s, own with
      | some a, some b => some (min a b)
      | some a, none => some a
      | none, x => x
    match step with
    | some n => .next { s with bootFail := some n, rollback := if 2 < n then raisedRollback s else s.rollback }
    | none => .next (finishBoot s)

/-! What the host reads (R406, R414, R418, R419, R424 to R431, R436). -/

/-- A register of the window that the host reads, by name (DEDUCED, log 74). -/
inductive WinRead where
  | pstat | hostver | nonce (word : Nat) | quoteReady | quote (word : Nat) | tail (q : Nat)
  | evbase | evsize | evcons | evprod | xregrp (die : Nat) | xfrzmax (die : Nat) | xregreq (die : Nat)
  | sextant (die i j k : Nat) | clksel (core : CoreId) | pwracct | mtstat | ostat (port : Nat) | hwatch (n : Nat)
  | errPtr | errEntry (word : Nat) | unassigned
  deriving DecidableEq, Repr

/-- OSTAT's STATE codes (R406). -/
def LinkState.code : LinkState → Nat
  | .down => 0 | .detect => 1 | .equalise => 2 | .negotiate => 3 | .active => 4 | .retrain => 5 | .mismatch => 6

/-- OSTATn (R406). -/
def Link.ostat (l : Link) : Nat :=
  l.peerPkg * 2 ^ 56 + l.peerPort * 2 ^ 51 + l.version * 2 ^ 40 + l.replays * 2 ^ 16 + l.width * 16 + l.st.code

/-- The 32 bytes of an entry of the error log, in four words (R389). -/
def LogEntry.word (e : LogEntry) : Nat → Nat
  | 0 => e.time
  | 1 => e.kind * 2 ^ 56 + e.cls * 2 ^ 48 + e.block * 2 ^ 40 + e.die * 2 ^ 32 + e.unit_ * 2 ^ 16 + e.repair
  | 2 => e.loc
  | 3 => e.part * 2 ^ 56 + e.merged % 2 ^ 32
  | _ => 0

/-- The 64 bytes of a launch queue's control block, in eight words (R314). -/
def Queue.word (q : Queue) : Nat → Nat
  | 0 => q.base.toNat
  | 1 => q.cap + b2n q.device * 2 ^ 16 + b2n q.enable * 2 ^ 17
  | 2 => q.tail
  | 3 => q.head
  | 4 => q.finished
  | 5 => q.latest
  | _ => 0

/-- MTSTAT (R419). -/
def State.mtstat (s : State) : Nat := b2n s.locked * 2 ^ 63 + (s.offset % 2 ^ 32).toNat

/-- CLKSEL (R414). -/
def Core.clksel (k : Core) : Nat := b2n k.hop.isSome * 256 + k.ratio

/-- A word of some bytes. -/
def wordAt (bs : List Byte) (word : Nat) : Nat := leNat ((bs.drop (8 * word)).take 8)

/-- A register as the partition's window shows it. -/
def Part.reads (s : State) (p : Part) (r : WinRead) : Nat :=
  let own (n : Nat) (f : Die → Nat) : Nat := if p.dies.contains n && p.verok && p.hostver == 0x11 then f (s.die n) else 0
  match r with
  | .pstat => pstat p
  | .hostver => p.hostver
  | .nonce w => wordAt p.nonce w
  | .quoteReady => b2n (!p.quoteBusy && p.quotes != 0)
  | .quote w => wordAt p.quote w
  | .tail q => (s.queue p.num q).tail
  | .evbase => p.evbase.toNat
  | .evsize => p.evsize
  | .evcons => p.evcons
  | .evprod => p.evprod
  | .xregrp n => own n fun d => d.xregrp.toNat
  | .xfrzmax n => own n fun d => d.xfrzmax.toNat
  | .xregreq n => own n fun d => (xregreqWord d).toNat
  | .sextant n i j k => own n fun d => (((d.sextant.find? (·.1 == (i, j))).map (·.2)).getD []).getD k 0
  | .clksel id => if p.dies.contains id.die then (s.core id).clksel else 0
  | .pwracct => p.filler * 2 ^ 32 + p.energy % 2 ^ 32
  | .mtstat => s.mtstat
  | .ostat n => (s.link n).ostat
  | .hwatch n => (p.hwatch.getD n 0).toNat
  | .errPtr => p.errRead
  | .errEntry w => match s.log[p.errRead]? with | some e => e.word w | none => 0
  | .unassigned => 0

/-- A read of a partition's window (R424): 0 at an unassigned offset, and while the partition is resetting all but PSTAT; under version
1.0 the die registers read 0 (R431). A read changes nothing (DESIGN CHOICE, log 128). -/
def hostRead (s : State) (part : Nat) (r : WinRead) : W64 :=
  match s.part part with
  | none => 0
  | some p => if p.resetting && r != .pstat then 0 else BitVec.ofNat 64 (p.reads s r)

end Sys2Proof.Machine
end

