-- ==== Sys2Proof/Machine/Dispatch.lean ====
section
/-! DEFINITION. One arm for every constructor of `Instr`: a direct call of its meaning. -/

namespace Sys2Proof.Machine

def exec (i : Instr) (s : State) : Host.Outcome State Fault Refusal :=
  match i with
  | .clause e exec setb seta wait => Sys2Proof.Machine.execClause e exec setb seta wait s
  | .ext p => Sys2Proof.Machine.execExt p s
  | .add w d a b => Sys2Proof.Machine.execAdd w d a b s
  | .sub w d a b => Sys2Proof.Machine.execSub w d a b s
  | .mul w d a b => Sys2Proof.Machine.execMul w d a b s
  | .mulhI w d a b => Sys2Proof.Machine.execMulhI w d a b s
  | .mulhN w d a b => Sys2Proof.Machine.execMulhN w d a b s
  | .minI w d a b => Sys2Proof.Machine.execMinI w d a b s
  | .minN w d a b => Sys2Proof.Machine.execMinN w d a b s
  | .maxI w d a b => Sys2Proof.Machine.execMaxI w d a b s
  | .maxN w d a b => Sys2Proof.Machine.execMaxN w d a b s
  | .and w d a b => Sys2Proof.Machine.execAnd w d a b s
  | .or w d a b => Sys2Proof.Machine.execOr w d a b s
  | .xor w d a b => Sys2Proof.Machine.execXor w d a b s
  | .shl w d a b => Sys2Proof.Machine.execShl w d a b s
  | .shrN w d a b => Sys2Proof.Machine.execShrN w d a b s
  | .shrI w d a b => Sys2Proof.Machine.execShrI w d a b s
  | .rot w d a b => Sys2Proof.Machine.execRot w d a b s
  | .divI d a b => Sys2Proof.Machine.execDivI d a b s
  | .divIT64 d a b => Sys2Proof.Machine.execDivIT64 d a b s
  | .divII64 d a ix => Sys2Proof.Machine.execDivII64 d a ix s
  | .divN d a b => Sys2Proof.Machine.execDivN d a b s
  | .divNT64 d a b => Sys2Proof.Machine.execDivNT64 d a b s
  | .divNI64 d a ix => Sys2Proof.Machine.execDivNI64 d a ix s
  | .remI d a b => Sys2Proof.Machine.execRemI d a b s
  | .remIT64 d a b => Sys2Proof.Machine.execRemIT64 d a b s
  | .remII64 d a ix => Sys2Proof.Machine.execRemII64 d a ix s
  | .remN d a b => Sys2Proof.Machine.execRemN d a b s
  | .remNT64 d a b => Sys2Proof.Machine.execRemNT64 d a b s
  | .remNI64 d a ix => Sys2Proof.Machine.execRemNI64 d a ix s
  | .addcN d a b => Sys2Proof.Machine.execAddcN d a b s
  | .addcNT64 d a b => Sys2Proof.Machine.execAddcNT64 d a b s
  | .addcNI64 d a ix => Sys2Proof.Machine.execAddcNI64 d a ix s
  | .mad d a b => Sys2Proof.Machine.execMad d a b s
  | .madT64 d a b => Sys2Proof.Machine.execMadT64 d a b s
  | .madI64 d a ix => Sys2Proof.Machine.execMadI64 d a ix s
  | .neg d a => Sys2Proof.Machine.execNeg d a s
  | .neg64 d a => Sys2Proof.Machine.execNeg64 d a s
  | .abs d a => Sys2Proof.Machine.execAbs d a s
  | .abs64 d a => Sys2Proof.Machine.execAbs64 d a s
  | .not d a => Sys2Proof.Machine.execNot d a s
  | .not64 d a => Sys2Proof.Machine.execNot64 d a s
  | .popc d a => Sys2Proof.Machine.execPopc d a s
  | .popc64 d a => Sys2Proof.Machine.execPopc64 d a s
  | .clz d a => Sys2Proof.Machine.execClz d a s
  | .clz64 d a => Sys2Proof.Machine.execClz64 d a s
  | .brev d a => Sys2Proof.Machine.execBrev d a s
  | .brev64 d a => Sys2Proof.Machine.execBrev64 d a s
  | .bfxN d a b => Sys2Proof.Machine.execBfxN d a b s
  | .bfxNT64 d a b => Sys2Proof.Machine.execBfxNT64 d a b s
  | .bfxNI64 d a ix => Sys2Proof.Machine.execBfxNI64 d a ix s
  | .bfxI d a b => Sys2Proof.Machine.execBfxI d a b s
  | .bfxIT64 d a b => Sys2Proof.Machine.execBfxIT64 d a b s
  | .bfxII64 d a ix => Sys2Proof.Machine.execBfxII64 d a ix s
  | .bfi d a b => Sys2Proof.Machine.execBfi d a b s
  | .bfiT64 d a b => Sys2Proof.Machine.execBfiT64 d a b s
  | .bfiI64 d a ix => Sys2Proof.Machine.execBfiI64 d a ix s
  | .padd d a b => Sys2Proof.Machine.execPadd d a b s
  | .paddI d a ix => Sys2Proof.Machine.execPaddI d a ix s
  | .fadd t d a b => Sys2Proof.Machine.execFadd t d a b s
  | .faddI t d a ix => Sys2Proof.Machine.execFaddI t d a ix s
  | .fsub t d a b => Sys2Proof.Machine.execFsub t d a b s
  | .fsubI t d a ix => Sys2Proof.Machine.execFsubI t d a ix s
  | .fmul t d a b => Sys2Proof.Machine.execFmul t d a b s
  | .fmulI t d a ix => Sys2Proof.Machine.execFmulI t d a ix s
  | .fma t d a b => Sys2Proof.Machine.execFma t d a b s
  | .fmaI t d a ix => Sys2Proof.Machine.execFmaI t d a ix s
  | .fmin t d a b => Sys2Proof.Machine.execFmin t d a b s
  | .fminI t d a ix => Sys2Proof.Machine.execFminI t d a ix s
  | .fmax t d a b => Sys2Proof.Machine.execFmax t d a b s
  | .fmaxI t d a ix => Sys2Proof.Machine.execFmaxI t d a ix s
  | .fdiv t d a b => Sys2Proof.Machine.execFdiv t d a b s
  | .fdivI t d a ix => Sys2Proof.Machine.execFdivI t d a ix s
  | .fscale t d a b => Sys2Proof.Machine.execFscale t d a b s
  | .fscaleI t d a ix => Sys2Proof.Machine.execFscaleI t d a ix s
  | .fsqrt t d a => Sys2Proof.Machine.execFsqrt t d a s
  | .frcp t d a => Sys2Proof.Machine.execFrcp t d a s
  | .frsq t d a => Sys2Proof.Machine.execFrsq t d a s
  | .fclass t d a => Sys2Proof.Machine.execFclass t d a s
  | .fexp2 t d a => Sys2Proof.Machine.execFexp2 t d a s
  | .flog2 t d a => Sys2Proof.Machine.execFlog2 t d a s
  | .fsin t d a => Sys2Proof.Machine.execFsin t d a s
  | .fcos t d a => Sys2Proof.Machine.execFcos t d a s
  | .frnd m t d a => Sys2Proof.Machine.execFrnd m t d a s
  | .cmp t c m a b => Sys2Proof.Machine.execCmp t c m a b s
  | .fcmp t c m a b => Sys2Proof.Machine.execFcmp t c m a b s
  | .mov w d a => Sys2Proof.Machine.execMov w d a s
  | .movi w d ix => Sys2Proof.Machine.execMovi w d ix s
  | .sel x d a b => Sys2Proof.Machine.execSel x d a b s
  | .sel64 x d a b => Sys2Proof.Machine.execSel64 x d a b s
  | .cvt m dty sty d a => Sys2Proof.Machine.execCvt m dty sty d a s
  | .cvtRdn dty sty d a => Sys2Proof.Machine.execCvtRdn dty sty d a s
  | .npack f d a => Sys2Proof.Machine.execNpack f d a s
  | .nunpk f d a => Sys2Proof.Machine.execNunpk f d a s
  | .shflIdx d a b => Sys2Proof.Machine.execShflIdx d a b s
  | .shflUp d a b => Sys2Proof.Machine.execShflUp d a b s
  | .shflDown d a b => Sys2Proof.Machine.execShflDown d a b s
  | .shflXor d a b => Sys2Proof.Machine.execShflXor d a b s
  | .bcast d a b => Sys2Proof.Machine.execBcast d a b s
  | .voteAll m a => Sys2Proof.Machine.execVoteAll m a s
  | .voteAny m a => Sys2Proof.Machine.execVoteAny m a s
  | .voteEq m a => Sys2Proof.Machine.execVoteEq m a s
  | .wred o t d a => Sys2Proof.Machine.execWred o t d a s
  | .wscan o t d a => Sys2Proof.Machine.execWscan o t d a s
  | .movs s0 a b => Sys2Proof.Machine.execMovs s0 a b s
  | .mand d a b => Sys2Proof.Machine.execMand d a b s
  | .mor d a b => Sys2Proof.Machine.execMor d a b s
  | .mxor d a b => Sys2Proof.Machine.execMxor d a b s
  | .mnot d a => Sys2Proof.Machine.execMnot d a s
  | .mpop d a => Sys2Proof.Machine.execMpop d a s
  | .mfirst d a => Sys2Proof.Machine.execMfirst d a s
  | .sadd d a b => Sys2Proof.Machine.execSadd d a b s
  | .saddImm d ix => Sys2Proof.Machine.execSaddImm d ix s
  | .ssub d a b => Sys2Proof.Machine.execSsub d a b s
  | .ssubImm d ix => Sys2Proof.Machine.execSsubImm d ix s
  | .smul d a b => Sys2Proof.Machine.execSmul d a b s
  | .smulImm d ix => Sys2Proof.Machine.execSmulImm d ix s
  | .sand d a b => Sys2Proof.Machine.execSand d a b s
  | .sandImm d ix => Sys2Proof.Machine.execSandImm d ix s
  | .sor d a b => Sys2Proof.Machine.execSor d a b s
  | .sorImm d ix => Sys2Proof.Machine.execSorImm d ix s
  | .sxor d a b => Sys2Proof.Machine.execSxor d a b s
  | .sxorImm d ix => Sys2Proof.Machine.execSxorImm d ix s
  | .sshl d a b => Sys2Proof.Machine.execSshl d a b s
  | .sshlImm d ix => Sys2Proof.Machine.execSshlImm d ix s
  | .sshr arith d a b => Sys2Proof.Machine.execSshr arith d a b s
  | .sshrImm arith d ix => Sys2Proof.Machine.execSshrImm arith d ix s
  | .scmp c d a b => Sys2Proof.Machine.execScmp c d a b s
  | .scmpImm c d ix => Sys2Proof.Machine.execScmpImm c d ix s
  | .scmpU le d a b => Sys2Proof.Machine.execScmpU le d a b s
  | .scmpUImm le d ix => Sys2Proof.Machine.execScmpUImm le d ix s
  | .smov d a => Sys2Proof.Machine.execSmov d a s
  | .smovi d ix => Sys2Proof.Machine.execSmovi d ix s
  | .ldg z m d b => Sys2Proof.Machine.execLdg z m d b s
  | .stg z m d b => Sys2Proof.Machine.execStg z m d b s
  | .sldg w d a => Sys2Proof.Machine.execSldg w d a s
  | .prefg v o b => Sys2Proof.Machine.execPrefg v o b s
  | .lds z m d b => Sys2Proof.Machine.execLds z m d b s
  | .sts z m d b => Sys2Proof.Machine.execSts z m d b s
  | .ldp z m d b => Sys2Proof.Machine.execLdp z m d b s
  | .stp z m d b => Sys2Proof.Machine.execStp z m d b s
  | .ldl z o d b => Sys2Proof.Machine.execLdl z o d b s
  | .stl z o d b => Sys2Proof.Machine.execStl z o d b s
  | .ldk z o d b => Sys2Proof.Machine.execLdk z o d b s
  | .atomg o s0 w p d b => Sys2Proof.Machine.execAtomg o s0 w p d b s
  | .redg o s0 w p d b => Sys2Proof.Machine.execRedg o s0 w p d b s
  | .atoms o s0 w p d b => Sys2Proof.Machine.execAtoms o s0 w p d b s
  | .atomp o s0 w p d b => Sys2Proof.Machine.execAtomp o s0 w p d b s
  | .tlook d a => Sys2Proof.Machine.execTlook d a s
  | .tset d a b => Sys2Proof.Machine.execTset d a b s
  | .tevict d a => Sys2Proof.Machine.execTevict d a s
  | .bra ix => Sys2Proof.Machine.execBra ix s
  | .brd m ix => Sys2Proof.Machine.execBrd m ix s
  | .call s0 ix => Sys2Proof.Machine.execCall s0 ix s
  | .rjoinW m => Sys2Proof.Machine.execRjoinW m s
  | .yieldW => Sys2Proof.Machine.execYieldW s
  | .exit => Sys2Proof.Machine.execExit s
  | .nopW => Sys2Proof.Machine.execNopW s
  | .brk c => Sys2Proof.Machine.execBrk c s
  | .reform c => Sys2Proof.Machine.execReform c s
  | .jmpi s0 => Sys2Proof.Machine.execJmpi s0 s
  | .fjmp link s0 ix => Sys2Proof.Machine.execFjmp link s0 ix s
  | .ret s0 => Sys2Proof.Machine.execRet s0 s
  | .cfetch slot s0 => Sys2Proof.Machine.execCfetch slot s0 s
  | .movH d s0 => Sys2Proof.Machine.execMovH d s0 s
  | .addH d s0 => Sys2Proof.Machine.execAddH d s0 s
  | .subH d s0 => Sys2Proof.Machine.execSubH d s0 s
  | .mulH d s0 => Sys2Proof.Machine.execMulH d s0 s
  | .andH d s0 => Sys2Proof.Machine.execAndH d s0 s
  | .orH d s0 => Sys2Proof.Machine.execOrH d s0 s
  | .xorH d s0 => Sys2Proof.Machine.execXorH d s0 s
  | .shlH d s0 => Sys2Proof.Machine.execShlH d s0 s
  | .shrNH d s0 => Sys2Proof.Machine.execShrNH d s0 s
  | .faddH d s0 => Sys2Proof.Machine.execFaddH d s0 s
  | .fmulH d s0 => Sys2Proof.Machine.execFmulH d s0 s
  | .fmaH d s0 => Sys2Proof.Machine.execFmaH d s0 s
  | .fmaxH d s0 => Sys2Proof.Machine.execFmaxH d s0 s
  | .fminH d s0 => Sys2Proof.Machine.execFminH d s0 s
  | .cvtF32I32H d s0 => Sys2Proof.Machine.execCvtF32I32H d s0 s
  | .nop => Sys2Proof.Machine.execNop s
  | .yield => Sys2Proof.Machine.execYield s
  | .rjoin m => Sys2Proof.Machine.execRjoin m s
  | .fence o s0 => Sys2Proof.Machine.execFence o s0 s
  | .scope k c => Sys2Proof.Machine.execScope k c s
  | .scopeq c a => Sys2Proof.Machine.execScopeq c a s
  | .scopefz c a => Sys2Proof.Machine.execScopefz c a s
  | .scopeth c a => Sys2Proof.Machine.execScopeth c a s
  | .bar n => Sys2Proof.Machine.execBar n s
  | .bara k c b a => Sys2Proof.Machine.execBara k c b a s
  | .barw k c b a => Sys2Proof.Machine.execBarw k c b a s
  | .waitf hi lo => Sys2Proof.Machine.execWaitf hi lo s
  | .sleept abs a => Sys2Proof.Machine.execSleept abs a s
  | .spinit gang b n => Sys2Proof.Machine.execSpinit gang b n s
  | .spush c b n => Sys2Proof.Machine.execSpush c b n s
  | .spop c b n => Sys2Proof.Machine.execSpop c b n s
  | .sptryPop c b n => Sys2Proof.Machine.execSptryPop c b n s
  | .sptryPush c b n => Sys2Proof.Machine.execSptryPush c b n s
  | .msend drop c a => Sys2Proof.Machine.execMsend drop c a s
  | .mrecv c b a => Sys2Proof.Machine.execMrecv c b a s
  | .mloopOpen a => Sys2Proof.Machine.execMloopOpen a s
  | .mloopClose => Sys2Proof.Machine.execMloopClose s
  | .mma y c b a => Sys2Proof.Machine.execMma y c b a s
  | .mmag y c b a => Sys2Proof.Machine.execMmag y c b a s
  | .mzero fp64 strict a => Sys2Proof.Machine.execMzero fp64 strict a s
  | .mloadz src add c b a => Sys2Proof.Machine.execMloadz src add c b a s
  | .mdrain c b a => Sys2Proof.Machine.execMdrain c b a s
  | .mseam c mask => Sys2Proof.Machine.execMseam c mask s
  | .mseamloc c t => Sys2Proof.Machine.execMseamloc c t s
  | .mseamfix c t => Sys2Proof.Machine.execMseamfix c t s
  | .mflags clear c mask => Sys2Proof.Machine.execMflags clear c mask s
  | .merrq clear c => Sys2Proof.Machine.execMerrq clear c s
  | .tcopy v c b a => Sys2Proof.Machine.execTcopy v c b a s
  | .tgather c b a => Sys2Proof.Machine.execTgather c b a s
  | .tscat c b a => Sys2Proof.Machine.execTscat c b a s
  | .tstore aon c b a => Sys2Proof.Machine.execTstore aon c b a s
  | .tloadv b a => Sys2Proof.Machine.execTloadv b a s
  | .job b a => Sys2Proof.Machine.execJob b a s
  | .jseq s0 c a => Sys2Proof.Machine.execJseq s0 c a s
  | .enq c b q => Sys2Proof.Machine.execEnq c b q s
  | .fsopen c a => Sys2Proof.Machine.execFsopen c a s
  | .fsclose a => Sys2Proof.Machine.execFsclose a s
  | .fswait tmo c b a => Sys2Proof.Machine.execFswait tmo c b a s
  | .fscancel a => Sys2Proof.Machine.execFscancel a s
  | .fsq c a => Sys2Proof.Machine.execFsq c a s
  | .capb pkg m g => Sys2Proof.Machine.execCapb pkg m g s
  | .cstep => Sys2Proof.Machine.execCstep s
  | .cape => Sys2Proof.Machine.execCape s
  | .capadopt pkg m g => Sys2Proof.Machine.execCapadopt pkg m g s
  | .capq c a => Sys2Proof.Machine.execCapq c a s
  | .hemo a => Sys2Proof.Machine.execHemo a s
  | .hemc => Sys2Proof.Machine.execHemc s
  | .tretNext => Sys2Proof.Machine.execTretNext s
  | .tretSame => Sys2Proof.Machine.execTretSame s
  | .tretRegion => Sys2Proof.Machine.execTretRegion s
  | .movxR c x => Sys2Proof.Machine.execMovxR c x s
  | .movxW x a => Sys2Proof.Machine.execMovxW x a s
  | .movxDst g => Sys2Proof.Machine.execMovxDst g s
  | .rdtime c => Sys2Proof.Machine.execRdtime c s
  | .trapi h l => Sys2Proof.Machine.execTrapi h l s
  | .perfq c n => Sys2Proof.Machine.execPerfq c n s
  | .issueOpportunity core sched => Sys2Proof.Machine.execIssueOpportunity core sched s
  | .fairnessIntervalExpiry w => Sys2Proof.Machine.execFairnessIntervalExpiry w s
  | .hangSib w => Sys2Proof.Machine.execHangSib w s
  | .spoolDl team spool => Sys2Proof.Machine.execSpoolDl team spool s
  | .barrierDeadlock team bar => Sys2Proof.Machine.execBarrierDeadlock team bar s
  | .wavePromotion w => Sys2Proof.Machine.execWavePromotion w s
  | .binDraw team => Sys2Proof.Machine.execBinDraw team s
  | .loadCompletion w ix => Sys2Proof.Machine.execLoadCompletion w ix s
  | .storePerformed w ix => Sys2Proof.Machine.execStorePerformed w ix s
  | .atomicAtHome w ix => Sys2Proof.Machine.execAtomicAtHome w ix s
  | .blockedReevaluation w => Sys2Proof.Machine.execBlockedReevaluation w s
  | .sleeptWake w => Sys2Proof.Machine.execSleeptWake w s
  | .spopTimeout w => Sys2Proof.Machine.execSpopTimeout w s
  | .mrecvTimeout w => Sys2Proof.Machine.execMrecvTimeout w s
  | .fswaitTimeout w => Sys2Proof.Machine.execFswaitTimeout w s
  | .trapEntry w => Sys2Proof.Machine.execTrapEntry w s
  | .teamKill team => Sys2Proof.Machine.execTeamKill team s
  | .teamEnd team => Sys2Proof.Machine.execTeamEnd team s
  | .pageFaultService ix act => Sys2Proof.Machine.execPageFaultService ix act s
  | .parkedEntryRelease w entry => Sys2Proof.Machine.execParkedEntryRelease w entry s
  | .translationShootdown space lo change => Sys2Proof.Machine.execTranslationShootdown space lo change s
  | .descriptorShootdown space obj => Sys2Proof.Machine.execDescriptorShootdown space obj s
  | .serviceCommitRaise w => Sys2Proof.Machine.execServiceCommitRaise w s
  | .serviceDescriptorShootdown w => Sys2Proof.Machine.execServiceDescriptorShootdown w s
  | .cfetchFillComplete team slot poisoned => Sys2Proof.Machine.execCfetchFillComplete team slot poisoned s
  | .regroupInterval die proposal => Sys2Proof.Machine.execRegroupInterval die proposal s
  | .placementDemand die cores => Sys2Proof.Machine.execPlacementDemand die cores s
  | .regroupRequest die v => Sys2Proof.Machine.execRegroupRequest die v s
  | .regroupRequestDecision die => Sys2Proof.Machine.execRegroupRequestDecision die s
  | .freezeExpired die core => Sys2Proof.Machine.execFreezeExpired die core s
  | .hostCardTake part q => Sys2Proof.Machine.execHostCardTake part q s
  | .cardPlacement part q card cores => Sys2Proof.Machine.execCardPlacement part q card cores s
  | .placementEvictionTrigger part q card => Sys2Proof.Machine.execPlacementEvictionTrigger part q card s
  | .slotEviction team => Sys2Proof.Machine.execSlotEviction team s
  | .evictionDeferralExpiry team => Sys2Proof.Machine.execEvictionDeferralExpiry team s
  | .teamReload team core slot => Sys2Proof.Machine.execTeamReload team core slot s
  | .shadowSwap core => Sys2Proof.Machine.execShadowSwap core s
  | .spill core => Sys2Proof.Machine.execSpill core s
  | .umbraComparison w equal => Sys2Proof.Machine.execUmbraComparison w equal s
  | .tileCopyStart core ix => Sys2Proof.Machine.execTileCopyStart core ix s
  | .tileCopyRetire core ix => Sys2Proof.Machine.execTileCopyRetire core ix s
  | .multicastDelivery core ix rank => Sys2Proof.Machine.execMulticastDelivery core ix rank s
  | .deferredFault w => Sys2Proof.Machine.execDeferredFault w s
  | .arrayStep core => Sys2Proof.Machine.execArrayStep core s
  | .errorDetected at_ corrected => Sys2Proof.Machine.execErrorDetected at_ corrected s
  | .selfTestEnd core found => Sys2Proof.Machine.execSelfTestEnd core found s
  | .hbmRefreshBurst stack => Sys2Proof.Machine.execHbmRefreshBurst stack s
  | .backgroundScrub at_ found => Sys2Proof.Machine.execBackgroundScrub at_ found s
  | .sensorSample stack temp => Sys2Proof.Machine.execSensorSample stack temp s
  | .dutyUpdate core duty => Sys2Proof.Machine.execDutyUpdate core duty s
  | .dutyWindow core => Sys2Proof.Machine.execDutyWindow core s
  | .fillerInjection core steps mj => Sys2Proof.Machine.execFillerInjection core steps mj s
  | .droopStretch core => Sys2Proof.Machine.execDroopStretch core s
  | .clkselWrite core v => Sys2Proof.Machine.execClkselWrite core v s
  | .ratioHopEnd core => Sys2Proof.Machine.execRatioHopEnd core s
  | .meridianMeasurement offset => Sys2Proof.Machine.execMeridianMeasurement offset s
  | .cardTake space chain => Sys2Proof.Machine.execCardTake space chain s
  | .copy ix => Sys2Proof.Machine.execCopy ix s
  | .fill ix => Sys2Proof.Machine.execFill ix s
  | .migrate ix => Sys2Proof.Machine.execMigrate ix s
  | .replicate ix => Sys2Proof.Machine.execReplicate ix s
  | .allreduce ix inputs => Sys2Proof.Machine.execAllreduce ix inputs s
  | .reducescatter ix inputs => Sys2Proof.Machine.execReducescatter ix inputs s
  | .allgather ix inputs => Sys2Proof.Machine.execAllgather ix inputs s
  | .broadcast ix inputs => Sys2Proof.Machine.execBroadcast ix inputs s
  | .cardCompletion ix => Sys2Proof.Machine.execCardCompletion ix s
  | .collectiveChunk c => Sys2Proof.Machine.execCollectiveChunk c s
  | .remoteMessageArrival m => Sys2Proof.Machine.execRemoteMessageArrival m s
  | .routeFailover dst lane port => Sys2Proof.Machine.execRouteFailover dst lane port s
  | .routeLossTimeout dst => Sys2Proof.Machine.execRouteLossTimeout dst s
  | .omsenFlitReceive port seq ack type crcOk => Sys2Proof.Machine.execOmsenFlitReceive port seq ack type crcOk s
  | .omsenNak port => Sys2Proof.Machine.execOmsenNak port s
  | .linkEnable port => Sys2Proof.Machine.execLinkEnable port s
  | .linkStateTimeout port => Sys2Proof.Machine.execLinkStateTimeout port s
  | .linkEqualiseComplete port lanes lowVer highVer peerPkg peerPort => Sys2Proof.Machine.execLinkEqualiseComplete port lanes lowVer highVer peerPkg peerPort s
  | .bridgeCrcError bridge => Sys2Proof.Machine.execBridgeCrcError bridge s
  | .hostTailWrite part q v => Sys2Proof.Machine.execHostTailWrite part q v s
  | .evconsWrite part v => Sys2Proof.Machine.execEvconsWrite part v s
  | .hostverWrite part v => Sys2Proof.Machine.execHostverWrite part v s
  | .quoteRequest part v => Sys2Proof.Machine.execQuoteRequest part v s
  | .quoteComplete part => Sys2Proof.Machine.execQuoteComplete part s
  | .jobScopeOpen part => Sys2Proof.Machine.execJobScopeOpen part s
  | .graphScopeOpen part parent => Sys2Proof.Machine.execGraphScopeOpen part parent s
  | .scopeCancelRequest part n => Sys2Proof.Machine.execScopeCancelRequest part n s
  | .scopeRelease part n => Sys2Proof.Machine.execScopeRelease part n s
  | .registerWrite part r v => Sys2Proof.Machine.execRegisterWrite part r v s
  | .hostMemoryAccess addr data => Sys2Proof.Machine.execHostMemoryAccess addr data s
  | .partitionCreate part dies debug => Sys2Proof.Machine.execPartitionCreate part dies debug s
  | .partitionDestroy part => Sys2Proof.Machine.execPartitionDestroy part s
  | .partitionReset part => Sys2Proof.Machine.execPartitionReset part s
  | .boot failed => Sys2Proof.Machine.execBoot failed s
  | .linkDisable port => Sys2Proof.Machine.execLinkDisable port s
  | .linkDetectComplete port => Sys2Proof.Machine.execLinkDetectComplete port s
  | .shadowBankPrefill core team => Sys2Proof.Machine.execShadowBankPrefill core team s

end Sys2Proof.Machine
end

