-- ==== Sys2Proof/Machine/Sched.lean ====
section
/-! DEFINITION. What the machine does by itself between instructions (DESIGN CHOICE, log 3): the happenings that are due or possible in a
state, the order in which they are taken, and the event that each of them is. Everything else that comes from outside (the
host, the fabric, errors, the fault service, the regrouping engine's proposals) is an event of `Instr` only. -/

namespace Sys2Proof.Machine

/-- The matched cards of a group of one: the card itself (R411). -/
def alone (s : State) (i : Nat) : List Matched :=
  match s.cards[i]? with
  | some c => [{ kth := c.kth, op := cardOp c.data, word := cardWord c.data 4, handle := cardWord c.data 5, len := cardLen c.data, data := [] }]
  | none => []

/-- The event that a happening is (DESIGN CHOICE, log 78). -/
def runHappening (h : Happening) (s : State) : Out :=
  match h with
  | .issue core n => execIssueOpportunity core n s
  | .fairness w => execFairnessIntervalExpiry w s
  | .hang w => execHangSib w s
  | .promote w => execWavePromotion w s
  | .trapEntry w => execTrapEntry w s
  | .spoolDl t n => execSpoolDl t n s
  | .barDl t n => execBarrierDeadlock t n s
  | .teamKill t => execTeamKill t s
  | .teamEnd t => execTeamEnd t s
  | .binDraw t => execBinDraw t s
  | .load w i => execLoadCompletion w i s
  | .store w i => execStorePerformed w i s
  | .atomic w i => execAtomicAtHome w i s
  | .blocked w => execBlockedReevaluation w s
  | .umbra w => execUmbraComparison w true s
  | .parked w i => execParkedEntryRelease w i s
  | .fill t n => execCfetchFillComplete t n false s
  | .copyStart c i => execTileCopyStart c i s
  | .copyRetire c i => execTileCopyRetire c i s
  | .multicast c i r => execMulticastDelivery c i r s
  | .arrayStep c => execArrayStep c s
  | .selfTest c => execSelfTestEnd c ⟨false, []⟩ s
  | .burst n => execHbmRefreshBurst ⟨n, []⟩ s
  | .hopEnd c => execRatioHopEnd c s
  | .duty c => execDutyWindow c s
  | .spill c => execSpill c s
  | .cardTake sp p => execCardTake sp p s
  | .copy i => execCopy i s
  | .zero i => execFill i s
  | .migrate i => execMigrate i s
  | .replicate i => execReplicate i s
  | .collective op i =>
    match op with
    | 16 => execAllreduce i (alone s i) s
    | 17 => execReducescatter i (alone s i) s
    | 18 => execAllgather i (alone s i) s
    | _ => execBroadcast i (alone s i) s
  | .cardDone i => execCardCompletion i s
  | .hostTake p q => execHostCardTake p q s
  | .place p q c xs => execCardPlacement p q c xs s
  | .makeRoom p q c => execPlacementEvictionTrigger p q c s
  | .demand d cs => execPlacementDemand d cs s
  | .evict t => execSlotEviction t s
  | .deferral t => execEvictionDeferralExpiry t s
  | .reload t c n => execTeamReload t c n s
  | .regroup d => execRegroupInterval d (s.die d).cons s
  | .decide d => execRegroupRequestDecision d s
  | .thaw d c => execFreezeExpired d c s
  | .quote p => execQuoteComplete p s
  | .resetPart p => execPartitionReset p s
  | .boot => execBoot 0 s

/-! What can happen. -/

def waveIds (s : State) (p : Team → Wave → Bool) : List WaveId :=
  s.allTeams.flatMap fun t => (t.waves.filter (p t)).map fun w => ⟨t.id, w.num⟩

/-- The refresh bursts that are due (R422): one interval after the last. -/
def bursts (s : State) : List Happening :=
  ((List.range 16).filter fun n => let x := s.hbmStacks.getD n {}; x.lastBurst + x.interval ≤ s.clock).map Happening.burst

/-- Refresh bursts, reports to take, ends, draws and deadlocks: what comes before any grant. -/
def urgent (s : State) : List Happening :=
  let traps := (waveIds s fun t w => t.resident && t.ending.isNone && !w.ended && !w.inHandler && w.takeable.isSome && !w.midway && !w.lagging).map Happening.trapEntry
  let ends := (s.allTeams.filter fun t => endable s t).map fun t => Happening.teamEnd t.id
  let draws := (s.allTeams.filter fun t => t.resident && t.ending.isNone && t.freeWave.isSome && (drawable t).isSome).map fun t => Happening.binDraw t.id
  let spools := s.allTeams.flatMap fun t => ((List.range 16).filter fun n => spoolDeadlock s t n != t.reported.contains (false, n)).map (Happening.spoolDl t.id)
  let bars := s.allTeams.flatMap fun t => ((List.range 16).filter fun n => barDeadlock t n != t.reported.contains (true, n)).map (Happening.barDl t.id)
  bursts s ++ traps ++ ends ++ draws ++ spools ++ bars

/-- The oldest access of a wave in flight that no comparison holds. -/
def completion (t : Team) (w : Wave) : List Happening :=
  match w.pend.zipIdx.find? fun x => !x.1.held with
  | none => []
  | some (p, i) =>
    let id : WaveId := ⟨t.id, w.num⟩
    [if !p.atoms.isEmpty then .atomic id i else if p.load then .load id i else .store id i]

/-- What a wave waits for that may have come. -/
def waveWork (t : Team) (w : Wave) : List Happening :=
  let id : WaveId := ⟨t.id, w.num⟩
  completion t w ++
    (if t.resident && w.paths.any (fun e => e.st == .run && e.blocked.isSome) then [.blocked id] else []) ++
    ((List.range w.paths.length).filter fun i => parkReady w (w.paths.getD i {})).map (Happening.parked id)

def fillWork (t : Team) : List Happening :=
  ((List.range 8).filter fun n => let x := t.slots.getD n {}; x.fill && (match x.fault with | some f => f.answer.isSome | none => true)).map (Happening.fill t.id)

/-- Work of a core's engines (R214, R371, R415, R421). -/
def coreWork (s : State) (k : Core) : List Happening :=
  let id : CoreId := ⟨k.die, k.num⟩
  let start := match startable s id with | some i => [Happening.copyStart id i] | none => []
  let copies := (List.range k.copies.length).flatMap fun i =>
    match k.copies[i]? with
    | some c =>
      if c.st = .writing then
        match c.undecided (((s.team c.team).map (·.gangSize)).getD 0) with
        | [] => [Happening.copyRetire id i]
        | r :: _ => [Happening.multicast id i r]
      else if c.readsOn then [Happening.copyStart id i]
      else []
    | none => []
  start ++ copies ++
    (if !k.array.isEmpty && !k.arrayHeld s.clock 0 then [.arrayStep id] else []) ++
    (if k.test.isSome || s.tests.any (fun t => t.at_.core == id) then [.selfTest id] else []) ++
    (match k.hop with | some h => if h.1 ≤ s.clock then [.hopEnd id] else [] | none => []) ++
    (if k.dutyUsed != 0 && k.window + 300000 ≤ s.clock then [.duty id] else []) ++ (if k.spillDue then [.spill id] else [])

/-- A collective card that needs no data of a peer: refused by its own fields, or of a group of one (R410, R411). -/
def needsNoPeer (c : Card) : Bool :=
  match groupOf c.data with
  | none => true
  | some g => (ownRank g c.part).isNone || cardIllegal c.data || collectiveBad (cardOp c.data) g.length c.data || g.length == 1

/-- Cards and chains (R374). -/
def cardWork (s : State) (c : Card) (i : Nat) : List Happening :=
  if !c.taken then [.cardTake c.space c.chain]
  else if c.finished then []
  else if c.status.isSome || !served (chainEngine s c) (cardOp c.data) then [.cardDone i]
  else
    match cardOp c.data with
    | 1 => [.copy i]
    | 2 => [.zero i]
    | 3 => [.migrate i]
    | 4 => [.replicate i]
    | op => if needsNoPeer c then [.collective op i] else []

/-- A free slot of each core (DEDUCED, log 86). -/
def slotsFor (s : State) (cores : List CoreId) : List (CoreId × Nat) :=
  cores.map fun c => (c, ((List.range 4).find? (slotFree s c)).getD 0)

/-- The dispatcher's work on a card (R318, R320, R322). -/
def launchWork (s : State) (l : Launch) : List Happening :=
  if !mayPlace s l then []
  else match placementOf s l with
    | some cores => [.place l.part l.queue l.num (slotsFor s cores)]
    | none =>
      (match demandFor s l with
        | some x => if (s.die x.1).demand.isEmpty then [.demand x.1 x.2] else []
        | none => []) ++
      (if l.since + 100000 ≤ s.now then [.makeRoom l.part l.queue l.num] else [])

/-- A core and slot where a team may be reloaded (R339). -/
def reloadSpot (s : State) (t : Team) : Option (CoreId × Nat) :=
  let dies := ((s.part t.part).map (·.dies)).getD []
  (dies.flatMap fun d => (List.range 48).map (CoreId.mk d)).findSome? fun c =>
    if coreOpen s c && mayReload s t c then ((List.range 4).find? (slotFree s c)).map fun n => (c, n) else none

def teamWork (s : State) (t : Team) : List Happening :=
  (if t.resident then
    match t.evict with
    | some d => if partlyArrived t then (if d ≤ s.now then [.deferral t.id] else []) else [.evict t.id]
    | none => []
  else if waitsReload t then
    match reloadSpot s t with
    | some x => [.reload t.id x.1 x.2]
    | none => []
  else []) ++ fillWork t ++ t.waves.flatMap (waveWork t)

def partWork (s : State) (p : Part) : List Happening :=
  ((List.range 64).filter fun q => let x := s.queue p.num q; p.ready && p.verok && !x.device && x.enable && x.head < x.tail && windowCards s p.num q < 32).map (Happening.hostTake p.num) ++
    (if p.quoteBusy then [.quote p.num] else []) ++ (if p.resetting then [.resetPart p.num] else [])

def dieWork (s : State) (d : Die) : List Happening :=
  let limit := d.xfrzmax.toNat % 2 ^ 32
  (if d.demand.isEmpty || s.clock < d.nextRegroup then [] else [.regroup d.num]) ++ (if bitOf d.xregreq.toNat 63 then [.decide d.num] else []) ++
    (d.frozenAt.filter fun x => limit != 0 && x.2 + 3000 * limit ≤ s.clock).map fun x => .thaw d.num x.1

/-- Put an element into a list that rises by `key`. -/
def insertRising {α : Type} (key : α → Nat) (x : α) : List α → List α
  | [] => [x]
  | y :: r => if key x ≤ key y then x :: y :: r else y :: insertRising key x r

/-- The teams and the cores in ascending order of number (DESIGN CHOICE, log 85). -/
def teamsInOrder (s : State) : List Team := s.allTeams.foldr (insertRising (·.id)) []
def coresInOrder (s : State) : List Core := s.cores.foldr (insertRising fun k => 64 * k.die + k.num) []

/-- Everything that engines, completions and the dispatcher may do now. -/
def work (s : State) : List Happening :=
  (teamsInOrder s).flatMap (teamWork s) ++ (coresInOrder s).flatMap (coreWork s) ++
    s.cards.zipIdx.flatMap (fun x => cardWork s x.1 x.2) ++ s.launches.flatMap (launchWork s) ++
    s.parts.flatMap (partWork s) ++ s.dies.flatMap (dieWork s)

/-- The cores that hold teams, in ascending order. -/
def busyCores (s : State) : List CoreId :=
  s.allTeams.foldl (fun l t =>
    let id : CoreId := ⟨t.die, t.core⟩
    if t.resident && !l.contains id then insertRising (fun c : CoreId => 64 * c.die + c.core) id l else l) []

/-- Schedulers that have an opportunity and a wave eligible for it (R324). -/
def issues (s : State) : List Happening :=
  (busyCores s).flatMap fun id =>
    if (s.core id).hop.isSome then [] else ((List.range 4).filter fun n => !(cands s id n).isEmpty).map (Happening.issue id)

/-- Turn about among what is possible. -/
def turnAbout (turn : Nat) (hs : List Happening) : Option Happening := hs[turn % max 1 hs.length]?

/-- What comes next when nothing urgent does: engines and completions where the last grant could not issue and at every fourth
FCLK, else a grant. -/
def nextHappening (s : State) : Option Happening :=
  let w := work s
  if s.stalled || s.clock / 2 % 4 == 3 then (turnAbout s.workTurn w).or (turnAbout s.turn (issues s))
  else (turnAbout s.turn (issues s)).or (turnAbout s.workTurn w)

/-- Whether a happening is a grant. -/
def Happening.isIssue : Happening → Bool | .issue .. => true | _ => false

/-- A completion lets every wave that was found held be tried again. -/
def wakeHeld (s : State) : State := { s.mapWaves (fun w => { w with held := false }) with stalled := false }

/-- A happening chosen, and its kind's turn gone over; one that meets a page under migration changes nothing else (R312). -/
def choose (h : Happening) (s : State) : Out :=
  if h.isIssue then runHappening h { s with turn := s.turn + 1 }
  else takeBack { s with workTurn := s.workTurn + 1 } (runHappening h (wakeHeld { s with workTurn := s.workTurn + 1 }))

/-- With nothing urgent. -/
def plainEvent (s : State) : Out :=
  match nextHappening s with
  | none => .next { s with turn := s.turn + 1 }
  | some h => choose h s

/-- What the machine does when no wave holds a grant (DESIGN CHOICE, log 3). An urgent happening that meets a page under
migration lets the others go on (R312). -/
def autoEvent (s : State) : Out :=
  if !s.booted then
    (if s.bootFail.isNone then runHappening .boot s else .next s)
  else
    let s := s.putBack
    match urgent s with
    | [] => plainEvent s
    | h :: _ =>
      match runHappening h (wakeHeld { s with workTurn := s.workTurn + 1 }) with
      | .next t => if t.waits then plainEvent s else .next t
      | o => o

/-! A placed instruction (DESIGN CHOICE, log 27). -/

/-- The segment that a placed instruction stands in. -/
def placeBase : W64 := 0x0010000000000000

/-- A header that begins a region: EXEC = M0, no flag, E = 1 (R64). -/
def plainHeader : Nat := 0x87F8007F

/-- The code around a placed word: a header alone at the segment's start, or a header, the word, and a header after it. -/
def placeCode (w : Nat) : List (Nat × Half) :=
  let lo : Half := BitVec.ofNat 16 w
  let hi : Half := BitVec.ofNat 16 (w / 65536)
  let hdr (i : Nat) : List (Nat × Half) := [(i, BitVec.ofNat 16 plainHeader), (i + 1, BitVec.ofNat 16 (plainHeader / 65536))]
  if w % 128 = 127 then [(0, lo), (1, hi)]
  else if w % 2 = 0 then hdr 0 ++ (2, lo) :: hdr 3
  else hdr 0 ++ (2, lo) :: (3, hi) :: hdr 4

/-- The one entry of the wave: at the header, or past it and past an instruction that wrote L. -/
def placeEntry (w : Nat) : Entry :=
  if w % 128 = 127 then { st := .run, pc := placeBase, mask := 0xFFFFFFFF, region := placeBase }
  else { st := .run, pc := placeBase + 4, mask := 0xFFFFFFFF, region := placeBase
         clause := some { hdr := plainHeader, addr := placeBase, exec := 0xFFFFFFFF, lw := true } }

def placeLane (i : Nat) : Lane :=
  { id := i, g := List.replicate 96 0, k := List.replicate 8 0, tid := BitVec.ofNat 32 i }

def placeWave (s : State) (w : Nat) : Wave :=
  { al1 := s.clock, acc := s.clock, lanes := (List.range 32).map placeLane, s := List.replicate 64 0
    m := 0xFFFFFFFF :: List.replicate 15 0, paths := placeEntry w :: List.replicate 7 {} }

def placedTeam (s : State) (w : Nat) : Team :=
  { id := s.nextTeam, resident := true, started := true, n := 96, window := 65536, share := 262144
    tiles := (List.range 4).map (freshTile s.free)
    slots := { tag := placeBase, landed := true, code := placeCode w } :: List.replicate 7 {} }

/-- A team with one wave on core 0 of die 0 that holds the grant at the word. -/
def placeWord (s : State) (nbits w : Nat) : State :=
  let w := w % 2 ^ nbits
  let s := s.putBack
  { s with hand := some ⟨s.nextTeam, 0⟩, granted := true, stalled := false, booted := true, due := []
           w := placeWave s w, t := placedTeam s w, c := s.core ⟨0, 0⟩, nextTeam := s.nextTeam + 1
           cores := s.cores.filter fun k => !(k.die == 0 && k.num == 0) }

end Sys2Proof.Machine
end

