-- ==== Sys2Proof/Machine/Grant.lean ====
section
/-! DEFINITION. What one step is made of: the clock, a grant spent by a leader or by its umbra, and a happening that is due. -/

namespace Sys2Proof.Machine

/-- Time stands for this FCLK, as one in 10,000 does while a correction slows it by 100 ppm (R419). -/
def State.stands (s : State) : Bool := 2 ≤ s.slow && s.slowAt ≤ s.clock

/-- Time goes on by one FCLK (two thirds of a nanosecond) (DESIGN CHOICE, log 39). -/
def State.tick (s : State) : State :=
  { s with clock := if s.stands then s.clock else s.clock + 2
           slow := if s.stands then s.slow - 2 else s.slow
           slowAt := if s.stands then s.clock + 20000 else s.slowAt }

def tickOut : Out → Out
  | .next s => .next s.tick
  | o => o

/-- The happening comes back to the head of what is due. -/
def keepDue (h : Happening) : Out → Out
  | .next s => .next { s with due := h :: s.due }
  | o => o

/-- The wave in hand spends its grant: fetch, decode and checks, then the instruction. -/
def spendGrant (s : State) : Out :=
  match preIssue s with
  | .done o => o
  | .run i t => leadOut i t (exec i t)

/-- A step of the wave in hand from `s` to `t` takes a trap, or ends the team where it cannot be taken (R344, R346). -/
def trapping (s t : State) : Bool := (t.w.inHandler && !s.w.inHandler) || (s.t.ending.isNone && t.t.ending.getD 0 != 0)

/-- Whether the leader's step from `s` to `t` and what its umbra `u` makes of the same grant are the same trap: cause, lanes and instruction, and what
the instruction does outside the wave (R378, R382). -/
def sameTrap (s t v : State) (u : Umbra) : Bool :=
  v.w.inHandler == t.w.inHandler && v.t.ending == t.t.ending && v.w.xtcause == t.w.xtcause && v.w.xtlanes == t.w.xtlanes &&
    v.w.xtpc == t.w.xtpc &&
    match s.t.fetch s.w.cur.pc with
    | some (.ok i) => Instr.ownRegs i || Instr.fields i s.w == Instr.fields i (s.w.under u)
    | _ => true

/-- A trap that a leader and its umbra, in the same place in `v`, take together: what the instruction does outside the wave is performed as issued
(R380), the umbra's registers are as its own instruction leaves them, and what other lanes have loaded comes through the result queue, with the
trap's entry (R378). -/
def trapTogether (s t v : State) : State :=
  let mine (p : Pend) : Bool := p.load && p.tag == s.w.issued + 1
  let tag := 2 ^ 64 + v.order
  let w := { t.w with pend := v.w.pend.map (fun p => if mine p then { p with tag } else p), umbra := t.w.umbra.map (·.become v.w) }
  match s.t.fetch s.w.cur.pc with
  | some (.ok i) =>
    if v.w.pend.any mine then
      let x : Follow := { i, pc := w.cur.pc, tag, queued := true, held := false, todo := false, fields := [], path := 0, region := w.cur.region
                          writes := [], after := w.course }
      { v with w := { w with umbra := w.umbra.map fun u => { u with trail := u.trail ++ [.op x] } }, order := v.order + 1 }
    else { v with w := s.w.noteFrom w }
  | _ => { v with w := s.w.noteFrom w }

/-- A leader's step from `s` to `t` that is no instruction's completion: a trap is entered once the umbra has come to the same instruction
and raises the same cause in the same lanes, and a difference is a mismatch; the entry goes into the result queue (R378, R382). -/
def leadTrap (s t : State) : State :=
  match s.w.umbra with
  | none => t
  | some u =>
    if t.hand == s.hand && trapping s t then
      if s.w.lagging then s.heldBack
      else match spendGrant { s with w := s.w.under u } with
        | .next v => if sameTrap s t v u then trapTogether s t v else umbraMismatch s (s.w.runIdx.getD 0) s.w.cur.region
        | _ => umbraMismatch s (s.w.runIdx.getD 0) s.w.cur.region
    else t

/-- A grant spent. A leader's trap waits for its umbra (R382), and what meets a page under migration waits and issues again
(R312). -/
def issueStep (s : State) : Out :=
  takeBack s.heldBack (match spendGrant s with
    | .next t => .next (leadTrap s t)
    | o => o)

/-- The umbra executes an instruction on its own registers (R378); at a header it begins the clause that its leader has begun. -/
def ownRegs (i : Instr) (s : State) (u : Umbra) : Out :=
  let v := { s with w := s.w.under u }
  match i with
  | .clause e exec setb seta wait => .next (beginClause v e exec (hdrWord e exec setb seta wait))
  | _ => exec i v

/-- An umbra at the region entry of a restart, or at the next region boundary, behind which a mismatch is a first one again (R381). -/
def Umbra.boundary (u : Umbra) (i : Instr) (w : Wave) : Umbra :=
  match i, u.miss with
  | .clause e .., some (region, fresh) =>
    if fresh && w.cur.pc == region then { u with miss := some (region, false) }
    else if e || w.cur.fresh then { u with miss := none } else u
  | _, _ => u

/-- The umbra follows its leader by one instruction on its own registers (R378): poison that it consumes is contained (R156); a PC or a trap that its
leader did not have is a mismatch (R381, R382). After a header it goes on with the clause's first instruction (R324). -/
def umbraOwn (i : Instr) (pc : W64) (s : State) (u : Umbra) : State :=
  let v := s.w.under u
  let off := umbraMismatch s (v.runIdx.getD 0) v.cur.region
  if v.cur.pc != pc then off
  else if consumers v i != 0 then contain { s with under := false } 36 (consumers v i) 0 pc
  else match ownRegs i s u with
    | .next t =>
      if t.w.inHandler && !v.inHandler then off
      else
        let s := { s with free := t.free, order := t.order, granted := Instr.prefix_ i, under := Instr.prefix_ i }
        s.setUmbra { (u.boundary i v).become t.w with trail := u.trail.tail }
    | _ => off

/-- The umbra of the wave in hand spends an opportunity (R378, R379): past the events that come next, it executes an instruction on its own
registers, takes one from its leader, or submits an operation for comparison. -/
def umbraStep (s : State) : State :=
  match s.w.umbra.map Umbra.settled with
  | none => { s with granted := false, under := false }
  | some u =>
    let s := s.setUmbra u
    let spent := { s with granted := false, under := false }
    if !s.w.umbraWork then spent
    else match u.trail with
      | .own i pc :: _ => umbraOwn i pc s u
      | .op o :: _ =>
        if o.todo then spent.addDue (.umbra spent.waveId)
        else if (s.w.under u).cur.pc != o.pc then umbraMismatch s o.path o.region
        else spent.setUmbra (u.taken s.w o)
      | _ => spent.addDue (.umbra spent.waveId)

/-- What a step does with nothing due. -/
def plainStep (s : State) : Out :=
  if s.granted then (if s.under then .next (umbraStep s) else issueStep s) else autoEvent s

/-- A happening that is due; where it meets a page under migration it stays due and the machine goes on (R312). -/
def dueStep (h : Happening) (s : State) : Out :=
  match runHappening h s with
  | .next t => if t.waits then keepDue h (plainStep s) else .next t
  | o => o

end Sys2Proof.Machine
end

