-- ==== Sys2Proof/Machine/Step.lean ====
section
/-! DEFINITION. One step of the machine: a happening that is due, else the instruction of the wave that holds the grant, else
what the machine does by itself; and the placing of an instruction where the next step fetches it. -/

namespace Sys2Proof.Machine

/-- One step. -/
def step (s : State) : Host.Outcome State Fault Refusal :=
  match s.due with
  | h :: rest => tickOut (dueStep h { s with due := rest })
  | [] => tickOut (plainStep s)

/-- The grant is held by wave 0 of a team whose overlay slot 0 holds the instruction, at the team's entry: at its header where
the instruction is a header, else inside a clause whose header comes before it (DESIGN CHOICE, log 27). -/
def State.withFetchWord (s : State) (nbits w : Nat) : State := placeWord s nbits w

end Sys2Proof.Machine
end

