-- ==== Sys2Proof/Safety.lean ====
section
/-! DEFINITION. The terms of the statements: an instruction that completes, what moving past it leaves unchanged, what a
lane instruction does to the lanes, and the invariants of the machine. -/

namespace Sys2Proof.Machine

/-! Completion. -/

/-- `i` completes in `s`: it answers a next state, of which `P` holds. -/
def Runs (i : Instr) (s : State) (P : State → Prop) : Prop := ∃ t, exec i s = .next t ∧ P t

/-- `i` completes in `s` with the state `t` and no other. -/
def RunsTo (i : Instr) (s t : State) : Prop := exec i s = .next t

/-! Moving past an instruction (R65). -/

/-- A path-table entry beside an instruction of `len` bytes: the running one stands `len` bytes further, with one
instruction more counted in its clause and no EXT pending; state, lanes and region are kept. -/
def EntryPast (len : Nat) (e e' : Entry) : Prop :=
  e'.st = e.st ∧ e'.mask = e.mask ∧ e'.region = e.region ∧ e'.wait = e.wait ∧ e'.parks = e.parks ∧
  if e.st = .run then
    e'.pc = e.pc + BitVec.ofNat 64 len ∧ e'.clause.map (·.hdr) = e.clause.map (·.hdr) ∧
      e'.clause.map (·.count) = e.clause.map (·.count + 1) ∧ e'.clause.bind (·.ext) = none
  else e'.pc = e.pc ∧ e'.clause = e.clause

/-- What an issued instruction leaves as it was: of `s`, only the path table changes, as `P` says, the wave's count of
issued instructions rises, the grant is spent, and what its accounting brings about may fall due (R28, R29). Every
register, flag, special register, accumulator and byte of memory is that of `s`. -/
def Moved (P : List Entry → List Entry → Prop) (s t : State) : Prop :=
  P s.w.paths t.w.paths ∧
  (∃ more, t.due = s.due ++ more ∧ ∀ h ∈ more, h = .fairness s.waveId ∨ h = .hang s.waveId) ∧
  t = { s with
    w := { s.w with paths := t.w.paths, issued := s.w.issued + 1, cmpOk := false }
    granted := false, stalled := false, due := t.due }

/-- The frame of an instruction of `len` bytes after which the path goes on behind it. -/
def Past (len : Nat) : State → State → Prop := Moved (List.Forall₂ (EntryPast len))

/-- A path-table entry beside a transfer of control: the running one begins no clause yet and stands at the target (R66). -/
def EntryTo (target : W64) (e e' : Entry) : Prop :=
  e'.st = e.st ∧ e'.mask = e.mask ∧ e'.region = e.region ∧ e'.wait = e.wait ∧ e'.parks = e.parks ∧
  if e.st = .run then e'.pc = target ∧ e'.clause = none else e'.pc = e.pc ∧ e'.clause = e.clause

/-- The frame of a transfer to `target`. -/
def Jumped (target : W64) : State → State → Prop := Moved (List.Forall₂ (EntryTo target))

/-- The instruction is held or blocked: only its grant is gone, and the counts of opportunities may have risen; it will be
issued again (R183, R328). -/
def Waits (s t : State) : Prop :=
  List.Forall₂ (fun e e' => e'.st = e.st ∧ e'.mask = e.mask ∧ e'.pc = e.pc ∧ e'.region = e.region ∧ e'.clause = e.clause)
    s.w.paths t.w.paths ∧
  (∃ more, t.due = s.due ++ more ∧ ∀ h ∈ more, h = .fairness s.waveId ∨ h = .hang s.waveId) ∧
  t = { s with w := { s.w with paths := t.w.paths, held := t.w.held }, granted := false, stalled := true, due := t.due }

/-- The next header that the running entry begins becomes its region entry: a non-repeatable operation has issued (R35). -/
def State.fresh (s : State) : State := s.onCur fun e => { e with fresh := true }

/-- The instruction is blocked in the order of those that wait for `key`, until the deadline if there is one (R183, R193, R197). -/
def WaitsFor (key : Nat × Nat) (deadline : Option Nat) (s t : State) : Prop :=
  Waits { s with order := s.order + 1 } t ∧ (s.w.runIdx.isSome = true →
    t.w.cur.blocked.bind (·.key) = some key ∧ t.w.cur.blocked.bind (·.deadline) = deadline)

/-! Lanes. -/

/-- A function of words of every width, at the width of `w`; 32-bit values lie in the low half. -/
def at1 (w : IW) (f : (n : Nat) → BitVec n → BitVec n) (x : W64) : W64 :=
  match w with | .w32 => (f 32 (x.setWidth 32)).setWidth 64 | .w64 => f 64 x
def at2 (w : IW) (f : (n : Nat) → BitVec n → BitVec n → BitVec n) (x y : W64) : W64 :=
  match w with | .w32 => (f 32 (x.setWidth 32) (y.setWidth 32)).setWidth 64 | .w64 => f 64 x y
def at3 (w : IW) (f : (n : Nat) → BitVec n → BitVec n → BitVec n → BitVec n) (x y z : W64) : W64 :=
  match w with
  | .w32 => (f 32 (x.setWidth 32) (y.setWidth 32) (z.setWidth 32)).setWidth 64
  | .w64 => f 64 x y z

/-- The codes of the registers that a destination of a width covers (R12, R69). -/
def Dst.covers (iw : IW) (d : Dst) : List Nat :=
  match d, iw with
  | .g n, .w32 => [n.val] | .g n, .w64 => [n.val, n.val + 1]
  | .k n, .w32 => [96 + n.val] | .k n, .w64 => [96 + n.val, 97 + n.val]
  | _, _ => []

/-- A lane after the value `v` has been written to a destination (R12, R97): the register, or the low and high half of the
pair; a write to ZERO or to L writes no register. The registers written lose their poison. Of the lane's other contents
only the latch may differ. -/
def DstWritten (iw : IW) (d : Dst) (v : W64) (l l' : Lane) : Prop :=
  l'.g = (match d, iw with
    | .g n, .w32 => l.g.set n.val (v.setWidth 32)
    | .g n, .w64 => (l.g.set n.val (v.setWidth 32)).set (n.val + 1) (v.extractLsb' 32 32)
    | _, _ => l.g) ∧
  l'.k = (match d, iw with
    | .k n, .w32 => l.k.set n.val (v.setWidth 32)
    | .k n, .w64 => (l.k.set n.val (v.setWidth 32)).set (n.val + 1) (v.extractLsb' 32 32)
    | _, _ => l.k) ∧
  l'.poison = l.poison.filter (fun c => !(Dst.covers iw d).contains c) ∧
  l' = { l with g := l'.g, k := l'.k, poison := l'.poison, latch := l'.latch, latchPoison := l'.latchPoison }

/-- A group of `n` registers from a destination on holds `v` (R70); no other register changes. -/
def GroupWritten (n : Nat) (d : Dst) (v : Nat → W32) (l l' : Lane) : Prop :=
  (∀ q, l'.g[q]? = l.g[q]?.map fun x => match d with
    | .g r => if r.val ≤ q ∧ q < r.val + n then v (q - r.val) else x | _ => x) ∧
  (∀ q, l'.k[q]? = l.k[q]?.map fun x => match d with
    | .k r => if r.val ≤ q ∧ q < r.val + n then v (q - r.val) else x | _ => x) ∧
  l' = { l with g := l'.g, k := l'.k, poison := l'.poison, latch := l'.latch, latchPoison := l'.latchPoison }

/-- The latch after a result (R13): its 64 bits, or its low 32; it loses its poison. -/
def LatchTaken (iw : IW) (v : W64) (l' : Lane) : Prop :=
  l'.latchPoison = false ∧ match iw with | .w32 => l'.latch.setWidth 32 = v.setWidth 32 | .w64 => l'.latch = v

/-- Every lane of `act` has the result `v` in its destination and its latch; every other lane is as it was (R99). -/
def LanesTook (act : W32) (iw : IW) (d : Dst) (v : Lane → W64) (ls ls' : List Lane) : Prop :=
  List.Forall₂ (fun l l' =>
    if act.getLsbD l.id then DstWritten iw d (v l) l l' ∧ LatchTaken iw (v l) l' else l' = l) ls ls'

/-- A lane instruction without exceptions completes: results in the acting lanes, and nothing else but the frame. -/
def LaneRuns (i : Instr) (s : State) (len : Nat) (iw : IW) (d : Dst) (v : Lane → W64) : Prop :=
  Runs i s fun t => LanesTook s.w.acting iw d v s.w.lanes t.w.lanes ∧
    Past len { s with w := { s.w with lanes := t.w.lanes }, free := t.free } t

/-! Exceptions (R100). -/

/-- The exceptions of the lane at position `i`. -/
def excAt (ls : List Lane) (exc : Lane → Exc) (i : Nat) : Exc := match ls[i]? with | some l => exc l | none => {}

/-- No acting lane raises an exception whose enable is set there, or the wave is in its handler (R100, R345). -/
def NoTrap (w : Wave) (act : W32) (exc : Nat → Exc) : Prop :=
  w.inHandler = true ∨ ∀ i k, i < 32 → k < 5 → act.getLsbD i = true → (exc i).list.getD k false = true →
    (w.ten.getD k 0).getLsbD i = false

/-- FLG after an instruction: in the acting lanes the exceptions raised are added, everywhere else it is kept (R100). -/
def FlagsTook (act : W32) (exc : Nat → Exc) (f f' : List W32) : Prop :=
  f'.length = 5 ∧ ∀ i k, i < 32 → k < 5 →
    (f'.getD k 0).getLsbD i = ((f.getD k 0).getLsbD i || (act.getLsbD i && (exc i).list.getD k false))

/-- A lane instruction with exceptions completes where none of them traps: results, sticky flags, and the frame. -/
def FpRuns (i : Instr) (s : State) (len : Nat) (iw : IW) (d : Dst) (f : Lane → Nat × Exc) : Prop :=
  let exc := excAt s.w.lanes fun l => (f l).2
  NoTrap s.w s.w.acting exc →
  Runs i s fun t => LanesTook s.w.acting iw d (fun l => BitVec.ofNat 64 (f l).1) s.w.lanes t.w.lanes ∧
    FlagsTook s.w.acting exc s.w.flg t.w.flg ∧
    Past len { s with w := { s.w with lanes := t.w.lanes, flg := t.w.flg }, free := t.free } t

/-- A mask destination after a compare or a vote (R120, R138): in the acting lanes the bit, elsewhere as it was; the latch
of an acting lane reads 1 or 0. M0 and M15 are written by nothing (R12). -/
def MaskTook (act : W32) (m : MReg) (c : Lane → Bool) (w w' : Wave) : Prop :=
  w'.m.length = w.m.length ∧ (∀ n, n ≠ m.val ∨ m.val = 0 ∨ m.val = 15 → w'.m[n]? = w.m[n]?) ∧
  (m.val ≠ 0 → m.val ≠ 15 → m.val < w.m.length → ∀ i, i < 32 →
    (w'.m.getD m.val 0).getLsbD i = if act.getLsbD i then c (w.lane i) else (w.m.getD m.val 0).getLsbD i) ∧
  List.Forall₂ (fun l l' => if act.getLsbD l.id then
      l'.latch.setWidth 32 = BitVec.ofNat 32 (b2n (c l)) ∧ l' = { l with latch := l'.latch, latchPoison := false } else l' = l) w.lanes w'.lanes

/-- A compare or vote without traps completes. -/
def MaskRuns (i : Instr) (s : State) (m : MReg) (c : Lane → Bool) : Prop :=
  Runs i s fun t => MaskTook s.w.acting m c s.w t.w ∧
    Past 4 { s with w := { s.w with lanes := t.w.lanes, m := t.w.m }, free := t.free } t

/-- A scalar result (R16): the register takes it and loses its poison. -/
def ScalarRuns (i : Instr) (s : State) (d : SReg) (v : W64) : Prop :=
  Runs i s fun t =>
    Past 4 { s with w := { s.w with s := s.w.s.set d.val v, spoison := s.w.spoison.filter (· != d.val) } } t

/-! Traps (R344). -/

/-- The trap vector names landed code, and the wave is not in its handler: an exception can be taken. -/
def CanTrap (s : State) : Prop := s.w.inHandler = false ∧ s.t.xtvec ≠ 0 ∧ (s.t.slotOf s.t.xtvec).isSome = true

/-- The exception of the running entry has been taken (R344): the XT registers hold what the trap reports, the frame holds
the path table and the latches, and the wave runs its handler at XTVEC in all its live lanes. `s` is the state from which
it is taken; nothing else of it changes. -/
def TrapTaken (cause detail : Nat) (lanes : W32) (addr pc : W64) (s t : State) : Prop :=
  ∃ f : Frame, f.paths = s.w.paths ∧ f.latches = s.w.lanes.map (·.latch) ∧ f.trapped = s.w.runIdx.getD 0 ∧
  t = { s with
    w := { s.w with
      xtpc := pc, xtreg := (s.w.paths.getD f.trapped {}).region, xtcause := BitVec.ofNat 64 (cause + detail * 2 ^ 16)
      xtlanes := lanes, xtmask := (s.w.paths.getD f.trapped {}).mask, xtaddr := addr
      xtcls := BitVec.ofNat 64 ((s.w.cur.clause.map (·.hdr)).getD 0)
      frame := some f, xtdst := none, inHandler := true
      paths := ({ st := .run, pc := s.t.xtvec, mask := s.w.live, region := s.t.xtvec } : Entry) :: List.replicate 7 {} }
    granted := false, stalled := false }

/-! Mailboxes (R195). -/

/-- The checks of an MSEND or MRECV on the header of the mailbox at `p` pass, and find the header `b`; `u` is the state after them,
with what the checks read kept in the core's caches. -/
def BoxOpen (send : Bool) (p : W64) (s u : State) (b : Box) : Prop := ∀ k, boxAccess s p send k = k u b

/-- The checks of the slot of a message pass too. -/
def SlotOpen (send : Bool) (p : W64) (s u : State) : Prop := ∀ k, slotAccess s p send k = k u

/-- Every check of an access of the running entry at `p` passes (R152); `u` is the state after them. -/
def AccessOpen (p : W64) (n : Nat) (q : Want) (s u : State) : Prop := ∀ k, scalarAccess s p n q k = k u

/-! Invariants. -/

/-- An L1 holds at most the twelve ways of each of its sets (R291). -/
def Core.WaysKept (k : Core) : Prop := ∀ n, (k.l1.filter fun x => x.line % 256 == n).length ≤ 12

/-- Every L1 of the machine keeps to its ways. -/
def State.WaysKept (s : State) : Prop := ∀ k ∈ s.c :: s.cores, k.WaysKept

/-- Every memory of the machine is in its canonical form: the package's, and the window and B-store share of every team. -/
def State.MemCanonical (s : State) : Prop :=
  Memory.wf s.mem = true ∧ ∀ t ∈ s.t :: s.teams, Memory.wf t.scratch = true ∧ Memory.wf t.bstore = true

/-! Accesses (R146 to R157). -/

/-- A byte that a cache holds as written and not yet written back. -/
def DirtyByte (s : State) (b : Byte) : Prop :=
  ∃ x : Line, (x ∈ s.c.l1 ∨ (∃ k ∈ s.cores, x ∈ k.l1) ∨ ∃ d ∈ s.dies, x ∈ d.cc) ∧
    ∃ i, x.dirty.getD i false = true ∧ x.data.getD i 0 = b

/-- Every byte of memory is as before, or has taken a byte that a cache had yet to write back or that is `new`; where no package
is lost and no watch is armed. With no byte to write back and nothing new, memory is as before. -/
def MemoryFrom (s t : State) (new : Byte → Prop) : Prop :=
  s.MemCanonical → s.lost = [] → (∀ p ∈ s.parts, ∀ h ∈ p.hwatch, h.msb = false) →
    ∀ a, readByte t.mem a = readByte s.mem a ∨ DirtyByte s (readByte t.mem a) ∨ new (readByte t.mem a)

/-- `t` is `s` but for what accesses through the caches leave: lines, descriptors, translations and the counts of PERFQ and of the
Sextants; and for what a line evicted to make room leaves at the die level (R294): memory, its watches, a page found under migration
or malformed, and what is on its way to another package (R408). -/
def CachesChange (s t : State) (new : Byte → Prop) : Prop :=
  MemoryFrom s t new ∧
  t = { s with c := t.c, cores := t.cores, dies := t.dies, parts := t.parts, mem := t.mem, memPoison := t.memPoison
               lastWriter := t.lastWriter, faults := t.faults, waits := t.waits, t := { s.t with perf := t.t.perf }
               sent := t.sent, nextOut := t.nextOut, links := t.links }

/-- The same where the accesses store nothing. -/
def CachesOnly (s t : State) : Prop := CachesChange s t fun _ => False

/-- The checks of the lanes `ls`, done in ascending order by `f` from the state `s`, all pass: `u` is the state after them
and `xs` are the accesses. -/
def AllPass (f : State → Nat → State × Acc) (ls : List Nat) (s u : State) (xs : List Acc) : Prop :=
  eachLane s ls f = (u, xs) ∧ ∀ a ∈ xs, a.bad = none

/-- The byte that the L1 of a core holds at a pointer, with its written and held marks; none without a line there. -/
def l1Byte (s : State) (id : CoreId) (space : Nat) (p : W64) : Option (Byte × Bool × Bool) :=
  (findLine (s.core id).l1 space (lineKey p) 0).map fun x =>
    (x.data.getD (p.toNat % 64) 0, x.held.getD (p.toNat % 64) false, x.dirty.getD (p.toNat % 64) false)

/-- The byte at offset `o` after the stores of `n` bytes by the accesses `xs` in order, the later ones over the earlier. -/
def lastStored (xs : List Acc) (n : Nat) (data : Nat → List PByte) (o : Nat) (old : Byte) : Byte :=
  xs.foldl (fun b a => if a.addr.toNat ≤ o ∧ o < a.addr.toNat + n then ((data a.lane).getD (o - a.addr.toNat) (0, false)).1 else b) old

/-- What the lanes of the accesses `xs` bind through the caches, one after the other from `v` on (R149, R151): the state of the caches after
them, and the register writes. In a capsule body a lane sees its own held stores (R247). -/
def cacheReads (z : MSize) (m : MMode) (d : Dst) (v : State) (xs : List Acc) : State × List RegWrite :=
  xs.foldl (fun r a =>
    let k := acquireLine r.1 m v.t.space a.addr
    let y := loadBytes k k.coreId v.t.space a.addr v.w.al1 v.w.acc z.bytes
    (y.1, r.2 ++ loadWrites a.lane z d (overHeld (v.w.lane a.lane) a.addr y.2))) (v, [])

/-- A load has been issued from `v` and has left the caches as in `r.1`: no register is written yet; the A flag counts, and the access in
flight holds the register writes `r.2`. -/
def LoadIssued (v : State) (r : State × List RegWrite) (t : State) : Prop :=
  CachesOnly v r.1 ∧ ∃ q, Past 4 (r.1.launchPend q) t ∧ q.load = true ∧ q.flag = v.w.mark false ∧ q.atoms = [] ∧ q.writes = r.2

/-- The whole running entry takes a region-precise trap (R153): it parks at its region entry, and the XT registers report. -/
def RegionTrapTaken (cause detail : Nat) (lanes : W32) (addr pc : W64) (t : State) : Prop :=
  t.w.inHandler = true ∧ t.w.xtcause = BitVec.ofNat 64 (cause + detail * 2 ^ 16) ∧ t.w.xtlanes = lanes ∧ t.w.xtaddr = addr ∧
  t.w.xtpc = pc ∧ t.granted = false ∧ t.w.cur.pc = t.t.xtvec ∧
  ∃ f, t.w.frame = some f ∧ ∃ e, f.paths[f.trapped]? = some e ∧ e.st = .parked ∧ e.pc = t.w.xtreg ∧ lanes &&& ~~~e.mask = 0

/-- The ranges that the peer accesses `xs` of `n` bytes touch (R162). -/
def peerRanges (xs : List Acc) (n : Nat) : List Range :=
  xs.filterMap fun a => match a.place, a.bad with
    | .window t, none => some { team := t, lo := a.addr.toNat, hi := a.addr.toNat + n }
    | _, _ => none

end Sys2Proof.Machine
end

