-- ==== Sys2Proof/Certificates/Slice0/Obligations.lean ====
section
/-! DEFINITION. The statements for the provers. Each docstring names the rules of the manual it rests on. -/

open Sys2Proof Sys2Proof.Machine

/-- R115, R116: ADD, SUB, MUL, MULH (signed and unsigned), MIN, MAX (signed and unsigned), AND, OR and XOR, at 32 and 64
bits, in register and immediate forms, with their frame. -/
def Sys2Proof.Claims.IntegerArithmetic : Prop :=
  ∀ (s : State) (w : IW) (d : Dst) (a : Opd) (b : Src),
    let x := fun l => opd s.w l w a
    let y := fun l => srcW s.w l w b
    let r := fun (i : Instr) (f : (n : Nat) → BitVec n → BitVec n → BitVec n) =>
      LaneRuns i s 4 w d fun l => at2 w f (x l) (y l)
    r (.add w d a b) (fun _ x y => x + y) ∧
    r (.sub w d a b) (fun _ x y => x - y) ∧
    r (.mul w d a b) (fun _ x y => x * y) ∧
    r (.mulhI w d a b) (fun n x y => (x.signExtend (2 * n) * y.signExtend (2 * n)).extractLsb' n n) ∧
    r (.mulhN w d a b) (fun n x y => (x.zeroExtend (2 * n) * y.zeroExtend (2 * n)).extractLsb' n n) ∧
    r (.minI w d a b) (fun _ x y => if x.slt y then x else y) ∧
    r (.minN w d a b) (fun _ x y => if x.ult y then x else y) ∧
    r (.maxI w d a b) (fun _ x y => if x.slt y then y else x) ∧
    r (.maxN w d a b) (fun _ x y => if x.ult y then y else x) ∧
    r (.and w d a b) (fun _ x y => x &&& y) ∧
    r (.or w d a b) (fun _ x y => x ||| y) ∧
    r (.xor w d a b) (fun _ x y => x ^^^ y)

/-- R115, R116: shifts and rotation, whose amount is 32 bits wide; a shift by the width or more gives zeros, or copies of
the sign bit. -/
def Sys2Proof.Claims.Shifts : Prop :=
  ∀ (s : State) (w : IW) (d : Dst) (a : Opd) (b : Src),
    let r := fun (i : Instr) (f : (n : Nat) → BitVec n → Nat → BitVec n) =>
      LaneRuns i s 4 w d fun l => at1 w (fun n x => f n x (src32 s.w l b).toNat) (opd s.w l w a)
    r (.shl w d a b) (fun _ x k => x <<< k) ∧
    r (.shrN w d a b) (fun _ x k => x >>> k) ∧
    r (.shrI w d a b) (fun _ x k => x.sshiftRight k) ∧
    r (.rot w d a b) (fun _ x k => x.rotateLeft k)

/-- The results of R117: division by zero gives all ones and leaves the dividend as remainder. -/
def Sys2Proof.divI (n : Nat) (x y : BitVec n) : BitVec n := if y = 0 then BitVec.allOnes n else x.sdiv y
def Sys2Proof.divN (n : Nat) (x y : BitVec n) : BitVec n := if y = 0 then BitVec.allOnes n else x.udiv y
def Sys2Proof.remI (n : Nat) (x y : BitVec n) : BitVec n := if y = 0 then x else x.srem y
def Sys2Proof.remN (n : Nat) (x y : BitVec n) : BitVec n := if y = 0 then x else x.umod y
def Sys2Proof.carryOut (n : Nat) (x y : BitVec n) : BitVec n := BitVec.ofNat n ((x.toNat + y.toNat) / 2 ^ n)

/-- R117: DIV and REM (signed and unsigned), ADDC and MAD in all their forms. -/
def Sys2Proof.Claims.Division : Prop :=
  ∀ (s : State) (d : Dst) (a : Opd) (b : Src) (c : Opd) (i : BitVec 7),
    let r := fun (w : IW) (b : Src) (j : Instr) (f : (n : Nat) → BitVec n → BitVec n → BitVec n) =>
      LaneRuns j s 4 w d fun l => at2 w f (opd s.w l w a) (srcW s.w l w b)
    let m := fun (w : IW) (b : Src) (j : Instr) => LaneRuns j s 4 w d fun l =>
      at3 w (fun _ z x y => z + x * y) (opd s.w l w d.toOpd) (opd s.w l w a) (srcW s.w l w b)
    (r .w32 b (.divI d a b) divI ∧ r .w64 (.r c) (.divIT64 d a c) divI ∧ r .w64 (.i i) (.divII64 d a i) divI) ∧
    (r .w32 b (.divN d a b) divN ∧ r .w64 (.r c) (.divNT64 d a c) divN ∧ r .w64 (.i i) (.divNI64 d a i) divN) ∧
    (r .w32 b (.remI d a b) remI ∧ r .w64 (.r c) (.remIT64 d a c) remI ∧ r .w64 (.i i) (.remII64 d a i) remI) ∧
    (r .w32 b (.remN d a b) remN ∧ r .w64 (.r c) (.remNT64 d a c) remN ∧ r .w64 (.i i) (.remNI64 d a i) remN) ∧
    (r .w32 b (.addcN d a b) carryOut ∧ r .w64 (.r c) (.addcNT64 d a c) carryOut ∧
      r .w64 (.i i) (.addcNI64 d a i) carryOut) ∧
    (m .w32 b (.mad d a b) ∧ m .w64 (.r c) (.madT64 d a c) ∧ m .w64 (.i i) (.madI64 d a i))

/-- The field of R118: its length reduced to what lies in the word, as a mask at bit 0. -/
def Sys2Proof.fieldMask (n : Nat) (b : W32) : BitVec n :=
  BitVec.allOnes n >>> (n - min (b.extractLsb' 8 8).toNat (n - (b.extractLsb' 0 8).toNat))
def Sys2Proof.fieldAt (b : W32) : Nat := (b.extractLsb' 0 8).toNat
/-- The sign of a field of length `k` spread over the word. -/
def Sys2Proof.fieldSigned (n : Nat) (b : W32) (x : BitVec n) : BitVec n :=
  let k := min (b.extractLsb' 8 8).toNat (n - fieldAt b)
  ((x >>> fieldAt b) <<< (n - k)).sshiftRight (n - k)

/-- R117, R118: the one-operand integer instructions and the bit fields, at both widths. -/
def Sys2Proof.Claims.BitOperations : Prop :=
  ∀ (s : State) (d : Dst) (a : Opd) (b : Src) (c : Opd) (i : BitVec 7),
    let u := fun (i32 i64 : Instr) (f : (n : Nat) → BitVec n → BitVec n) =>
      LaneRuns i32 s 4 .w32 d (fun l => at1 .w32 f (opd s.w l .w32 a)) ∧
      LaneRuns i64 s 4 .w64 d (fun l => at1 .w64 f (opd s.w l .w64 a))
    let x := fun (w : IW) (b : Src) (j : Instr) (f : (n : Nat) → W32 → BitVec n → BitVec n) =>
      LaneRuns j s 4 w d fun l => at1 w (fun n x => f n (src32 s.w l b) x) (opd s.w l w a)
    let z := fun (w : IW) (b : Src) (j : Instr) => LaneRuns j s 4 w d fun l =>
      at2 w (fun n z x => (z &&& ~~~(fieldMask n (src32 s.w l b) <<< fieldAt (src32 s.w l b))) |||
        ((x &&& fieldMask n (src32 s.w l b)) <<< fieldAt (src32 s.w l b))) (opd s.w l w d.toOpd) (opd s.w l w a)
    u (.neg d a) (.neg64 d a) (fun _ x => -x) ∧
    u (.abs d a) (.abs64 d a) (fun _ x => if x.msb then -x else x) ∧
    u (.not d a) (.not64 d a) (fun _ x => ~~~x) ∧
    u (.popc d a) (.popc64 d a) (fun _ x => x.cpop) ∧
    u (.clz d a) (.clz64 d a) (fun _ x => x.clz) ∧
    u (.brev d a) (.brev64 d a) (fun _ x => x.reverse) ∧
    (x .w32 b (.bfxN d a b) (fun n b x => (x >>> fieldAt b) &&& fieldMask n b) ∧
      x .w64 (.r c) (.bfxNT64 d a c) (fun n b x => (x >>> fieldAt b) &&& fieldMask n b) ∧
      x .w64 (.i i) (.bfxNI64 d a i) (fun n b x => (x >>> fieldAt b) &&& fieldMask n b)) ∧
    (x .w32 b (.bfxI d a b) fieldSigned ∧ x .w64 (.r c) (.bfxIT64 d a c) fieldSigned ∧
      x .w64 (.i i) (.bfxII64 d a i) fieldSigned) ∧
    (z .w32 b (.bfi d a b) ∧ z .w64 (.r c) (.bfiT64 d a c) ∧ z .w64 (.i i) (.bfiI64 d a i))

/-- Division, remainder and the instructions on bits. -/
def Obligations.DivisionAndBits : Prop := Claims.Division ∧ Claims.BitOperations

/-- R119: PADD changes only the address field of a pointer; an address outside the field gives the null object. -/
def Sys2Proof.Claims.PointerAdd : Prop :=
  ∀ (s : State) (d : Dst) (a b : Opd) (i : BitVec 7),
    let p := fun (x y : W64) =>
      let sum := (x.extractLsb' 0 52).zeroExtend 66 + y.signExtend 66
      (if sum.extractLsb' 52 14 = 0 then x.extractLsb' 52 12 else 0) ++ sum.extractLsb' 0 52
    LaneRuns (.padd d a b) s 4 .w64 d (fun l => p (opd64 s.w l a) (opd64 s.w l b)) ∧
    LaneRuns (.paddI d a i) s 4 .w64 d (fun l => p (opd64 s.w l a) (immW s.w .w64 i))

/-- R71: the integer operations of the H format: 16 bits long, 32-bit, and the destination is the first source. -/
def Sys2Proof.Claims.ShortInteger : Prop :=
  ∀ (s : State) (d : HReg) (c : HSrc),
    let r := fun (i : Instr) (f : W32 → W32 → W32) =>
      LaneRuns i s 2 .w32 (HReg.dst d) fun l => (f (opd32 s.w l (HReg.opd d)) (hsrc s.w l c)).setWidth 64
    r (.movH d c) (fun _ y => y) ∧ r (.addH d c) (fun x y => x + y) ∧ r (.subH d c) (fun x y => x - y) ∧
    r (.mulH d c) (fun x y => x * y) ∧ r (.andH d c) (fun x y => x &&& y) ∧ r (.orH d c) (fun x y => x ||| y) ∧
    r (.xorH d c) (fun x y => x ^^^ y) ∧ r (.shlH d c) (fun x y => x <<< y.toNat) ∧
    r (.shrNH d c) (fun x y => x >>> y.toNat)

/-- Integer instructions of every form. -/
def Obligations.IntegerOperations : Prop := Claims.IntegerArithmetic ∧ Claims.Shifts ∧ Claims.PointerAdd ∧ Claims.ShortInteger

/-- R100, R124 to R128, R130, R131: the floating-point instructions with register and immediate forms, where no exception
traps: the one rounding of the exact result in the acting lanes, the sticky flags, the frame. -/
def Sys2Proof.Claims.FloatArithmetic : Prop :=
  ∀ (s : State) (t : FT) (d : Dst) (a b : Opd) (i : BitVec 7),
    let f := FT.fmt t
    let v := fun o l => (opd s.w l t.iw o).toNat
    let k := fimm s.w t i
    let two := fun (jr ji : Instr) (g : Nat → Nat → Nat × Exc) =>
      FpRuns jr s 4 t.iw d (fun l => g (v a l) (v b l)) ∧ FpRuns ji s 4 t.iw d (fun l => g (v a l) k)
    let one := fun (j : Instr) (g : Nat → Nat × Exc) => FpRuns j s 4 t.iw d (fun l => g (v a l))
    two (.fadd t d a b) (.faddI t d a i) (fun x y => fAdd f s.w.rm (f.dec x) (f.dec y)) ∧
    two (.fsub t d a b) (.fsubI t d a i) (fun x y => fAdd f s.w.rm (f.dec x) (f.dec y).negate) ∧
    two (.fmul t d a b) (.fmulI t d a i) (fun x y => fMul f s.w.rm (f.dec x) (f.dec y)) ∧
    two (.fdiv t d a b) (.fdivI t d a i) (fun x y => fDiv f s.w.rm (f.dec x) (f.dec y)) ∧
    two (.fmin t d a b) (.fminI t d a i) (fMinMax f false) ∧
    two (.fmax t d a b) (.fmaxI t d a i) (fMinMax f true) ∧
    (FpRuns (.fma t d a b) s 4 t.iw d
        (fun l => fFma f s.w.rm (f.dec (v d.toOpd l)) (f.dec (v a l)) (f.dec (v b l))) ∧
      FpRuns (.fmaI t d a i) s 4 t.iw d (fun l => fFma f s.w.rm (f.dec (v d.toOpd l)) (f.dec (v a l)) (f.dec k))) ∧
    (FpRuns (.fscale t d a b) s 4 t.iw d (fun l => fScale f s.w.rm (f.dec (v a l)) (opd32 s.w l b).toInt) ∧
      FpRuns (.fscaleI t d a i) s 4 t.iw d (fun l => fScale f s.w.rm (f.dec (v a l)) (imm32 s.w i).toInt)) ∧
    one (.fsqrt t d a) (fun x => fSqrt f s.w.rm (f.dec x)) ∧
    one (.frcp t d a) (fun x => fRcp f s.w.rm (f.dec x)) ∧
    (∀ m, one (.frnd m t d a) (fun x => fRnd f m (f.dec x))) ∧
    LaneRuns (.fclass t d a) s 4 .w32 d (fun l => BitVec.ofNat 64 (fClass f (v a l)))

/-- R71, R129, R132 to R134: the functions, the H forms, the conversions and packing, where no exception traps. -/
def Sys2Proof.Claims.FloatFunctions : Prop :=
  ∀ (s : State) (t : FT) (d : Dst) (a : Opd) (h : HReg) (c : HSrc) (m : CvtMode) (dty sty : Ty) (p : PackFmt),
    let f := FT.fmt t
    let one := fun (j : Instr) (g : Fn) =>
      FpRuns j s 4 t.iw d (fun l => fFn f (FT.wide t) s.w.rm g (opd s.w l t.iw a).toNat)
    let hx := fun l => (opd32 s.w l (HReg.opd h)).toNat
    let hf := fun (j : Instr) (g : Lane → Nat → Nat → Nat × Exc) =>
      FpRuns j s 2 .w32 (HReg.dst h) (fun l => g l (hx l) (hval s.w l c))
    one (.frsq t d a) .rsq ∧ one (.fexp2 t d a) .exp2 ∧ one (.flog2 t d a) .log2 ∧ one (.fsin t d a) .sin ∧
    one (.fcos t d a) .cos ∧
    hf (.faddH h c) (fun _ x y => fAdd fmtF32 s.w.rm (fmtF32.dec x) (fmtF32.dec y)) ∧
    hf (.fmulH h c) (fun _ x y => fMul fmtF32 s.w.rm (fmtF32.dec x) (fmtF32.dec y)) ∧
    hf (.fmaH h c) (fun l x y => fFma fmtF32 s.w.rm (fmtF32.dec x) (fmtF32.dec y) (fmtF32.dec (l.latch.setWidth 32).toNat)) ∧
    hf (.fmaxH h c) (fun _ => fMinMax fmtF32 true) ∧ hf (.fminH h c) (fun _ => fMinMax fmtF32 false) ∧
    FpRuns (.cvtF32I32H h c) s 2 .w32 (HReg.dst h) (fun l => convTo .f32 s.w.rm (Ty.value .i32 (hsrc s.w l c).toNat)) ∧
    FpRuns (.cvt m dty sty d a) s 4 dty.iw d
      (fun l => convTo dty (CvtMode.rm s.w m) (Ty.value sty (opd s.w l sty.iw a).toNat)) ∧
    FpRuns (.cvtRdn dty sty d a) s 4 dty.iw d (fun l => convTo dty .rdn (Ty.value sty (opd s.w l sty.iw a).toNat)) ∧
    FpRuns (.npack p d a) s 4 .w32 d (fun l => packLane p l a) ∧
    (Instr.wf (.nunpk p d a) = true → Runs (.nunpk p d a) s fun u =>
      List.Forall₂ (fun l l' => if s.w.acting.getLsbD l.id then
          GroupWritten p.group d (unpackElem p (opd32 s.w l a)) l l' ∧ l'.latch.setWidth 32 = unpackElem p (opd32 s.w l a) 0
        else l' = l) s.w.lanes u.w.lanes ∧
      Past 4 { s with w := { s.w with lanes := u.w.lanes }, free := u.free } u)

/-- Floating-point instructions. -/
def Obligations.FloatingPoint : Prop := Claims.FloatArithmetic ∧ Claims.FloatFunctions

/-- The conditions of CMP on two operands of its type (R83, R120). -/
def Sys2Proof.cmpHolds (t : CT) (c : Cond) (x y : W64) : Bool :=
  let r := match t with
    | .i32 => ((x.setWidth 32).slt (y.setWidth 32), (x.setWidth 32 : W32) == y.setWidth 32)
    | .n32 => ((x.setWidth 32).ult (y.setWidth 32), (x.setWidth 32 : W32) == y.setWidth 32)
    | .i64 => (x.slt y, x == y)
    | .n64 => (x.ult y, x == y)
  match c with
  | .eq => r.2 | .ne => !r.2 | .lt => r.1 | .le => r.1 || r.2 | .gt => !(r.1 || r.2) | .ge => !r.1 | .un | .ord => false

/-- R120, R121, R138: compares and votes write the mask bit and the latch of the acting lanes and of no others. -/
def Sys2Proof.Claims.ComparesAndVotes : Prop :=
  ∀ (s : State) (t : CT) (u : FT) (c : Cond) (m : MReg) (a : Opd) (b : Src),
    MaskRuns (.cmp t c m a b) s m (fun l => cmpHolds t c (opd s.w l t.iw a) (srcW s.w l t.iw b)) ∧
    (NoTrap s.w s.w.acting (fun i => (fcmpLane u c a b s.w (s.w.lane i)).2) →
      Runs (.fcmp u c m a b) s fun r =>
        MaskTook s.w.acting m (fun l => (fcmpLane u c a b s.w l).1) s.w r.w ∧
        FlagsTook s.w.acting (fun i => (fcmpLane u c a b s.w (s.w.lane i)).2) s.w.flg r.w.flg ∧
        Past 4 { s with w := { s.w with lanes := r.w.lanes, m := r.w.m, flg := r.w.flg }, free := r.free } r) ∧
    (let v := fun i => opd32 s.w (s.w.lane i) a
     let acts := (List.range 32).filter s.w.acting.getLsbD
     MaskRuns (.voteAll m a) s m (fun _ => acts.all fun i => v i != 0) ∧
     MaskRuns (.voteAny m a) s m (fun _ => acts.any fun i => v i != 0) ∧
     MaskRuns (.voteEq m a) s m (fun _ => acts.all fun i => acts.all fun j => v i == v j))

/-- R122, R123, R136, R137: moves, selections and shuffles. A shuffle reads lane `j` of the acting set as it was before the
instruction; a lane whose `j` is outside keeps its own value. -/
def Sys2Proof.Claims.MovesAndShuffles : Prop :=
  ∀ (s : State) (w : IW) (d : Dst) (a b : Opd) (i : BitVec 7) (x : MReg),
    let from_ := fun (o : Opd) (l : Lane) (j : Int) =>
      if 0 ≤ j ∧ j < 32 ∧ s.w.acting.getLsbD j.toNat = true then (opd32 s.w (s.w.lane j.toNat) o).setWidth 64
      else (opd32 s.w l o).setWidth 64
    let y := fun l => opd32 s.w l b
    LaneRuns (.mov w d a) s 4 w d (fun l => opd s.w l w a) ∧
    LaneRuns (.movi w d i) s 4 w d (fun _ => immW s.w w i) ∧
    LaneRuns (.sel x d a b) s 4 .w32 d
      (fun l => if (s.w.mask x).getLsbD l.id then opd s.w l .w32 a else opd s.w l .w32 b) ∧
    LaneRuns (.sel64 x d a b) s 4 .w64 d
      (fun l => if (s.w.mask x).getLsbD l.id then opd64 s.w l a else opd64 s.w l b) ∧
    LaneRuns (.shflIdx d a b) s 4 .w32 d (fun l => from_ a l ((y l).extractLsb' 0 5).toNat) ∧
    LaneRuns (.shflUp d a b) s 4 .w32 d (fun l => from_ a l (l.id - (y l).toInt)) ∧
    LaneRuns (.shflDown d a b) s 4 .w32 d (fun l => from_ a l (l.id + (y l).toInt)) ∧
    LaneRuns (.shflXor d a b) s 4 .w32 d (fun l => from_ a l (l.id ^^^ ((y l).extractLsb' 0 5).toNat : Nat)) ∧
    LaneRuns (.bcast d a b) s 4 .w32 d (fun _ =>
      let f := (lowest s.w.acting).getD 0
      let j := ((opd32 s.w (s.w.lane f) b).extractLsb' 0 5).toNat
      (opd32 s.w (s.w.lane (if s.w.acting.getLsbD j then j else f)) a).setWidth 64)

/-- Compares, votes, moves and shuffles. -/
def Obligations.LaneMoves : Prop := Claims.ComparesAndVotes ∧ Claims.MovesAndShuffles

/-- R139, R140: reductions and scans complete where nothing traps; every acting lane takes the one result of WRED, and its
own prefix of WSCAN. -/
def Sys2Proof.Claims.Reductions : Prop :=
  ∀ (s : State) (o : RedOp) (t : RedTy) (d : Dst) (a : Opd),
    FpRuns (.wscan o t d a) s 4 t.iw d (fun l => let r := scanTo s.w o t a l.id; (r.1.toNat, r.2)) ∧
    (∀ r, wredResult s.w o t a = some r → FpRuns (.wred o t d a) s 4 t.iw d (fun _ => (r.1.toNat, r.2))) ∧
    (wredResult s.w o t a = none → s.w.acting = 0 ∧ FpRuns (.wred o t d a) s 4 t.iw d (fun _ => (0, {})))

/-- R139, R140: for the integer types the balanced tree of WRED and the last prefix of WSCAN are the same number, and raise
nothing. -/
def Sys2Proof.Claims.IntegerReductionIsScan : Prop :=
  ∀ (w : Wave) (o : RedOp) (t : RedTy) (a : Opd) (top : Nat),
    RedTy.isFloat t = false → w.acting.getLsbD top = true → (∀ i, i < 32 → w.acting.getLsbD i = true → i ≤ top) →
    wredResult w o t a = some (scanTo w o t a top) ∧ (scanTo w o t a top).2 = {}

/-- Reductions and scans, and that an integer reduction is the last of its scan. -/
def Obligations.LaneReductions : Prop := Claims.Reductions ∧ Claims.IntegerReductionIsScan

/-- R12, R16, R141, R142: the mask instructions, and the moves from masks and lanes to scalar registers. M0 and M15 are
written by nothing; MOVS with no acting lane writes nothing. -/
def Sys2Proof.Claims.MaskInstructions : Prop :=
  ∀ (s : State) (d a b : MReg) (sd : SReg) (x y : Opd),
    let r := fun (i : Instr) (v : W32) => Runs i s fun t =>
      Past 4 { s with w := { s.w with m := if d.val = 0 ∨ d.val = 15 then s.w.m else s.w.m.set d.val v } } t
    r (.mand d a b) (s.w.mask a &&& s.w.mask b) ∧ r (.mor d a b) (s.w.mask a ||| s.w.mask b) ∧
    r (.mxor d a b) (s.w.mask a ^^^ s.w.mask b) ∧ r (.mnot d a) (~~~s.w.mask a) ∧
    ScalarRuns (.mpop sd a) s sd ((s.w.mask a).cpop.setWidth 64) ∧
    (∀ n : Fin 32, (s.w.mask a).getLsbD n = true → (∀ k : Fin 32, k < n → (s.w.mask a).getLsbD k = false) →
      ScalarRuns (.mfirst sd a) s sd (BitVec.ofNat 64 n)) ∧
    (s.w.mask a = 0 → ScalarRuns (.mfirst sd a) s sd 32) ∧
    (∀ n : Fin 32, s.w.acting.getLsbD n = true → (∀ k : Fin 32, k < n → s.w.acting.getLsbD k = false) →
      ScalarRuns (.movs sd x y) s sd (opd32 s.w (s.w.lane n) y ++ opd32 s.w (s.w.lane n) x)) ∧
    (s.w.acting = 0 → Runs (.movs sd x y) s fun t => Past 4 s t)

/-- R143, R144: the scalar instructions, in register form and with an immediate, whose first source is the destination. -/
def Sys2Proof.Claims.ScalarInstructions : Prop :=
  ∀ (s : State) (d a b : SReg) (i : BitVec 12) (u : Bool) (c : SCond),
    let r := fun (jr ji : Instr) (f : W64 → W64 → W64) =>
      ScalarRuns jr s d (f (s.w.sreg a) (s.w.sreg b)) ∧ ScalarRuns ji s d (f (s.w.sreg d) (imm12w s.w i))
    r (.sadd d a b) (.saddImm d i) (fun x y => x + y) ∧ r (.ssub d a b) (.ssubImm d i) (fun x y => x - y) ∧
    r (.smul d a b) (.smulImm d i) (fun x y => x * y) ∧ r (.sand d a b) (.sandImm d i) (fun x y => x &&& y) ∧
    r (.sor d a b) (.sorImm d i) (fun x y => x ||| y) ∧ r (.sxor d a b) (.sxorImm d i) (fun x y => x ^^^ y) ∧
    r (.sshl d a b) (.sshlImm d i) (fun x y => x <<< y.toNat) ∧
    r (.sshr u d a b) (.sshrImm u d i) (fun x y => if u then x.sshiftRight y.toNat else x >>> y.toNat) ∧
    r (.scmp c d a b) (.scmpImm c d i) (fun x y =>
      if (match c with | .eq => x == y | .ne => x != y | .lt => decide (x.toInt < y.toInt) | .le => decide (x.toInt ≤ y.toInt))
      then 1 else 0) ∧
    r (.scmpU u d a b) (.scmpUImm u d i) (fun x y => if (if u then x.toNat ≤ y.toNat else x.toNat < y.toNat) then 1 else 0) ∧
    ScalarRuns (.smov d a) s d (s.w.sreg a) ∧ ScalarRuns (.smovi d i) s d (imm12w s.w i)

/-- Mask and scalar instructions. -/
def Obligations.MasksAndScalars : Prop := Claims.MaskInstructions ∧ Claims.ScalarInstructions

/-- R13, R18, R35, R64, R73, R98, R237: a clause header whose flags all read 0 begins its clause: EXEC is sampled, the latches of
the entry's lanes take free values, with E (or after a non-repeatable operation) a region begins, pending writes of XPROG,
XHANG and XBINAGE take effect, and the grant stays. A header that waits on a flag, or, with E or where WAIT names the flag of a
copy that could fault, on a copy that still reads, gives the grant up. EXT only leaves its payload for the next instruction. -/
def Sys2Proof.Claims.ClauseWords : Prop :=
  ∀ (s : State) (e : Bool) (x : MReg) (setb seta : Fin 16) (wait : BitVec 12) (p : BitVec 25),
    let cur := s.w.cur
    let clear := ∀ n, n < 12 → wait.getLsbD n = true → s.w.f.getD n 0 = 0
    let asks := e = true ∨ ∃ n ∈ s.w.copyFlags, wait.getLsbD n = true
    (clear → (asks → s.copiesReading = false) → s.w.deferred = [] →
      Runs (.clause e x setb seta wait) s fun t =>
        List.Forall₂ (fun a a' => if a.st = .run then
            a'.st = .run ∧ a'.mask = a.mask ∧ a'.pc = a.pc + 4 ∧ a'.region = (if e || cur.fresh then a.pc else a.region) ∧
            a'.fresh = false ∧ ∃ c : Clause, a'.clause = some c ∧ c.addr = a.pc ∧ c.count = 0 ∧ c.exec = s.w.mask x ∧
              c.ext = none ∧ c.lw = false ∧ c.hdr = hdrWord e x setb seta wait
          else a' = a) s.w.paths t.w.paths ∧
        List.Forall₂ (fun l l' => if cur.mask.getLsbD l.id then 
            l' = { l with latch := Config.freeLatch s.free l.id, latchPoison := false } else l' = l)
          s.w.lanes t.w.lanes ∧
        t = { s with
          w := { s.w with paths := t.w.paths, lanes := t.w.lanes
                          copyFlags := if e || cur.fresh then [] else s.w.copyFlags
                          xprog := s.w.xprogNew.getD s.w.xprog, xhang := s.w.xhangNew.getD s.w.xhang
                          xprogNew := none, xhangNew := none, xbinageNew := none }
          t := { s.t with xbinage := s.w.xbinageNew.getD s.t.xbinage }, free := s.free + 1 }) ∧
    ((∃ n, n < 12 ∧ wait.getLsbD n = true ∧ s.w.f.getD n 0 ≠ 0) → Runs (.clause e x setb seta wait) s (Waits s)) ∧
    (clear → asks → s.copiesReading = true → Runs (.clause e x setb seta wait) s (Waits s)) ∧
    Runs (.ext p) s fun t =>
      List.Forall₂ (fun a a' => if a.st = .run then
          a'.st = a.st ∧ a'.mask = a.mask ∧ a'.region = a.region ∧ a'.pc = a.pc + 4 ∧
          a'.clause = a.clause.map fun c => { c with ext := some p, extPc := a.pc } else a' = a) s.w.paths t.w.paths ∧
      t = { s with w := { s.w with paths := t.w.paths } }

/-- The address `off` halfwords from the running instruction, in the object of its pointer (R103). -/
def Sys2Proof.nearTarget (pc : W64) (off : BitVec 52) : W64 := pc.extractLsb' 52 12 ++ (pc.extractLsb' 0 52 + off <<< 1)

/-- R103 to R107, R109, R111: NOP, BRA, CALL, JMPI, RET and FJMP to a clause header: the running entry alone moves, and CALL
and FJMP write their link. -/
def Sys2Proof.Claims.Transfers : Prop :=
  ∀ (s : State) (i : BitVec 12) (x : SReg) (link : Bool),
    let pc := s.w.cur.pc
    let near := nearTarget pc (i.signExtend 52)
    let stays := 0 ≤ (pc.toNat % 4096 : Int) + 2 * i.toInt ∧ (pc.toNat % 4096 : Int) + 2 * i.toInt < 4096
    let far := s.w.sreg x
    let lands := far.getLsbD 0 = false ∧ s.t.isHeader far = true
    Runs .nop s (Past 2 s) ∧ Runs .nopW s (Past 4 s) ∧
    (stays → s.t.isHeader near = true → Runs (.bra i) s (Jumped near s) ∧
      Runs (.call x i) s (Jumped near { s with w := { s.w with s := s.w.s.set x.val (pc + 4), spoison := s.w.spoison.filter (· != x.val) } })) ∧
    (lands → Runs (.jmpi x) s (Jumped far s) ∧ Runs (.ret x) s (Jumped far s)) ∧
    (∀ (u : State) (d : Desc), descOf s s.coreId s.t.space (pObj pc) = (u, some d) →
      let off := (imm12w s.w i).setWidth 52
      let target := nearTarget pc off
      let a := (pAddr pc : Int) + 2 * (imm12w s.w i).toInt
      (d.base : Int) ≤ a → a < d.base + d.reslim → target.getLsbD 0 = false → s.t.isHeader target = true →
      Runs (.fjmp link x i) s (Jumped target (if link then
        { u with w := { u.w with s := u.w.s.set x.val (pc + 4), spoison := u.w.spoison.filter (· != x.val) } } else u)))

/-- Clause words and transfers of control.
Where the manual leaves it open this is the model's reading or choice: logs 44 and 45. -/
def Obligations.ClausesAndTransfers : Prop := Claims.ClauseWords ∧ Claims.Transfers

/-- R24, R104: BRD takes its branch in the acting lanes with the mask bit set: none, all, or some of the entry's lanes; then
the entry splits, or with seven entries in use reports a full path table. -/
def Sys2Proof.Claims.Divergence : Prop :=
  ∀ (s : State) (m : MReg) (i : BitVec 12),
    let target := relTarget s.w i.toInt
    let taken := s.w.acting &&& s.w.mask m
    let rest := s.w.cur.mask &&& ~~~taken
    inSegment s.w i.toInt = true →
    (taken = 0 → Runs (.brd m i) s (Past 4 s)) ∧
    (taken ≠ 0 → rest = 0 → s.t.isHeader target = true → Runs (.brd m i) s (Jumped target s)) ∧
    (∀ k, taken ≠ 0 → rest ≠ 0 → s.w.used < 7 → s.t.isHeader target = true → s.w.paths.findIdx? (·.st == .free) = some k →
      Runs (.brd m i) s fun t => Moved (fun ps qs => qs.length = ps.length ∧
          (∃ q, qs[k]? = some q ∧ q.st = .run ∧ q.mask = taken ∧ q.pc = target ∧ q.clause = none ∧ q.region = s.w.cur.region) ∧
          ∀ n p, n ≠ k → ps[n]? = some p → ∃ q, qs[n]? = some q ∧ q.region = p.region ∧
            if p.st = .run then q.st = .ready ∧ q.mask = p.mask &&& ~~~taken ∧ q.pc = p.pc + 4
            else q.st = p.st ∧ q.mask = p.mask ∧ q.pc = p.pc) { s with order := s.order + 1 } t) ∧
    (taken ≠ 0 → rest ≠ 0 → 7 ≤ s.w.used → Runs (.brd m i) s fun t =>
      (∃ r ∈ t.w.reports, r.cause = 48 ∧ r.detail = 1 ∧ r.lanes = s.w.cur.mask) ∧ t.granted = false ∧
      t.w.lanes = s.w.lanes ∧ t.w.live = s.w.live ∧ t.w.s = s.w.s ∧ t.w.m = s.w.m ∧ t.mem = s.mem)

/-- What changes outside the path table when entries join, wait or leave: nothing but the order count. -/
def Sys2Proof.Regrouped (s t : State) : Prop := Moved (fun _ _ => True) { s with order := t.order } t

/-- R25, R28, R108, R109: RJOIN keeps every live lane; lanes of Mx wait at it while a live lane of Mx is neither there nor in
the running entry, and go on together, behind it, when none is. Lanes outside Mx go on. YIELD leaves the running entry
behind the instruction and READY, and the oldest other READY entry runs; with none it is a NOP, and leaves the fairness counts. -/
def Sys2Proof.Claims.JoinsAndYields : Prop :=
  ∀ (s : State) (m : MReg) (len : Nat) (j y : Instr),
    (j = .rjoinW m ∧ y = .yieldW ∧ len = 4 ∨ j = .rjoin m ∧ y = .yield ∧ len = 2) →
    let pc := s.w.cur.pc
    let v := s.w.mask m
    let inside := s.w.cur.mask &&& v
    let here := fun (e : Entry) => e.st = .waitJoin ∧ e.wait = .join ∧ e.pc = pc
    let missing := fun k => v.getLsbD k = true ∧ s.w.live.getLsbD k = true ∧ s.w.cur.mask.getLsbD k = false ∧
      ∀ e ∈ s.w.paths, here e → e.mask.getLsbD k = false
    s.w.runIdx.isSome = true →
    ((inside = 0 ∨ s.w.cur.mask &&& ~~~v = 0 ∨ (s.w.used < 7 ∧ ∃ e ∈ s.w.paths, e.st = .free)) →
      Runs j s fun t => Regrouped s t ∧ t.w.live = s.w.live ∧
        (inside ≠ 0 → (∃ k, k < 32 ∧ missing k) → ∃ e ∈ t.w.paths, here e ∧ inside &&& ~~~e.mask = 0 ∧ e.joinMask = v) ∧
        (inside ≠ 0 → (∀ k, k < 32 → ¬ missing k) → (∀ e ∈ t.w.paths, ¬ here e) ∧
          ∃ e ∈ t.w.paths, (e.st = .run ∨ e.st = .ready) ∧ e.pc = pc + BitVec.ofNat 64 (joinLen s.t pc) ∧ inside &&& ~~~e.mask = 0)) ∧
    (inside ≠ 0 → s.w.cur.mask &&& ~~~v ≠ 0 → 7 ≤ s.w.used → Runs j s fun t =>
      (∃ r ∈ t.w.reports, r.cause = 48 ∧ r.detail = 1 ∧ r.lanes = s.w.cur.mask) ∧ t.w.live = s.w.live ∧ t.w.lanes = s.w.lanes) ∧
    Runs y s fun t => Regrouped s t ∧ t.w.live = s.w.live ∧
      ((∀ e ∈ s.w.paths, e.st ≠ .ready) → Past len s t ∧ t.w.paths.map (·.fair) = s.w.paths.map (·.fair)) ∧
      ∀ i a k b, s.w.runIdx = some i → s.w.paths[i]? = some a → s.w.oldestReady = some k → s.w.paths[k]? = some b →
        b.st = .ready ∧ (∀ e ∈ s.w.paths, e.st = .ready → b.age ≤ e.age) ∧
        (∃ q, t.w.paths[i]? = some q ∧ q.st = .ready ∧ q.pc = a.pc + BitVec.ofNat 64 len ∧ q.mask = a.mask) ∧
        ∃ q, t.w.paths[k]? = some q ∧ q.st = .run ∧ q.pc = b.pc ∧ q.mask = b.mask

/-- Divergence, joins and yields. -/
def Obligations.PathsDivergeAndJoin : Prop := Claims.Divergence ∧ Claims.JoinsAndYields

/-- R26, R65, R110: EXIT takes the acting lanes out of the wave; with none left the wave ends, and its open loop and its
handler with it. Registers, masks, scalars and memory are kept (what R26 leaves undefined in the lanes that exit among them: DESIGN CHOICE, log 129), pending
loads of the lanes are discarded, pending stores stay. At the last word of a segment, lanes of the entry that stay raise ILLOP. -/
def Sys2Proof.Claims.LanesExit : Prop :=
  ∀ (s : State), s.copiesReading = false → s.w.deferred = [] →
    let rest := s.w.cur.mask &&& ~~~s.w.acting
    (s.w.cur.pc.toNat % 4096 ≠ 4092 ∨ rest = 0 →
    Runs .exit s fun t =>
      t.w.live = s.w.live &&& ~~~s.w.acting ∧
      (t.w.live = 0 → t.w.ended = true ∧ .teamEnd s.t.id ∈ t.due ∧ t.w.mloop = none ∧ t.w.frame = none ∧ t.w.inHandler = false) ∧
      (t.w.live ≠ 0 → t.w.ended = s.w.ended ∧ t.w.mloop = s.w.mloop ∧ t.w.inHandler = s.w.inHandler ∧
        (s.w.frame = none → t.w.frame = none)) ∧
      List.Forall₂ (fun p p' => p'.flag = p.flag ∧ p'.load = p.load ∧
        p'.writes = p.writes.filter (fun x => x.scalar || !s.w.acting.getLsbD x.lane) ∧ p'.atoms.length = p.atoms.length)
        s.w.pend t.w.pend ∧
      t = { s with
        w := { s.w with paths := t.w.paths, pend := t.w.pend, ended := t.w.ended, mloop := t.w.mloop, frame := t.w.frame
                        inHandler := t.w.inHandler, arrivals := t.w.arrivals, umbra := t.w.umbra, issued := s.w.issued + 1
                        cmpOk := false }
        t := { s.t with waves := t.t.waves }, granted := false, stalled := false, due := t.due, order := t.order }) ∧
    (s.w.cur.pc.toNat % 4096 = 4092 → rest ≠ 0 → CanTrap s → Runs .exit s fun t =>
      t.w.inHandler = true ∧ t.w.xtcause = 1 + 5 * 2 ^ 16 ∧ t.w.xtlanes = rest ∧ t.w.xtpc = s.w.issuePc ∧
      t.w.live = s.w.live &&& ~~~s.w.acting ∧ t.w.cur.pc = s.t.xtvec ∧ t.w.lanes = s.w.lanes ∧ t.mem = s.mem)

/-- R31, R114: REFORM files every acting lane with its thread index and the registers it carries under the address that G0
names in the segment, and the wave ends; a lane that finds no bin stalls it, with the lanes before it filed. -/
def Sys2Proof.Claims.ReformFiles : Prop :=
  ∀ (s : State) (carry : BitVec 12) (bins : List Bin) (m : W32),
    s.copiesReading = false → s.w.deferred = [] → s.w.used ≤ 1 → (∀ l ∈ s.w.lanes, l.holding = false) → s.w.hems = [] →
    s.t.twin = false → (∀ n ∈ s.w.f, n = 0) → s.w.cur.blocked = none →
    (∀ i, s.w.acting.getLsbD i = true → ((s.w.lane i).reg 0).toNat % 2 = 0 ∧ ((s.w.lane i).reg 0).toNat < 4096) →
    fileLanes s.w (BitVec.ofNat 64 (s.w.cur.pc.toNat / 4096 * 4096)) carry.toNat s.t.opps (lanesOf s.w.acting) s.t.bins
      = (bins, m) →
    (m = s.w.acting → Runs (.reform carry) s fun t => t.t.bins = bins ∧ t.w.live = 0 ∧ t.w.ended = true ∧ .teamEnd s.t.id ∈ t.due ∧
      (bins.map fun b => b.threads.length).sum = (s.t.bins.map fun b => b.threads.length).sum + (lanesOf s.w.acting).length ∧
      (∀ i, s.w.acting.getLsbD i = true → i < 32 → ∃ b ∈ bins, ∃ x ∈ b.threads,
        b.key = BitVec.ofNat 64 (s.w.cur.pc.toNat / 4096 * 4096 + ((s.w.lane i).reg 0).toNat) ∧ x.1 = (s.w.lane i).tid ∧
        x.2.1 = (List.range carry.toNat).map (s.w.lane i).reg) ∧
      t.w.lanes = s.w.lanes ∧ t.mem = s.mem) ∧
    (m ≠ s.w.acting → Runs (.reform carry) s fun t => t.t.bins = bins ∧ t.w.live = s.w.live ∧ t.w.ended = s.w.ended ∧
      t.granted = false ∧ (s.w.runIdx.isSome = true → t.w.cur.blocked.map (·.mask) = some m) ∧
      t.w.lanes = s.w.lanes ∧ t.mem = s.mem)

/-- The end of lanes, and REFORM.
Where the manual leaves it open this is the model's reading or choice: DEDUCED, log 58; DESIGN CHOICE,
DESIGN CHOICE, log 129 (the registers of lanes that exit are kept). -/
def Obligations.ExitAndReform : Prop := Claims.LanesExit ∧ Claims.ReformFiles

/-- R40, R113: CFETCH of a readable code segment into a slot that no entry runs in: the slot is being filled with that
segment, its old code is gone, and the B flag counts the fill.
Where the manual leaves it open this is the model's reading or choice: DEDUCED, log 46. -/
def Obligations.OverlayFill : Prop :=
  ∀ (s u : State) (slot : Fin 8) (x : SReg) (d : Option Desc),
    let p := s.w.sreg x
    (∀ w ∈ s.w :: s.t.waves, ∀ e ∈ w.paths, e.st ≠ .free → s.t.slotIdx e.pc ≠ some slot.val) →
    (s.t.xtvec ≠ 0 → s.t.slotIdx s.t.xtvec ≠ some slot.val) → p.toNat % 4096 = 0 →
    descOf s s.coreId s.t.space (pObj p) = (u, d) → checkEntry d p 4096 { rights := [3], kinds := [3] } = none →
    (s.t.slots.getD slot.val {}).fill = false →
    Runs (.cfetch slot x) s (Past 4 { u with
      t := { s.t with slots := s.t.slots.set slot.val { tag := p, fill := true, waiter := some (s.w.num, s.w.mark true) } }
      w := s.w.flagUp (s.w.mark true) })

/-- R112, R264, R266, R344: BRK and a TRAPI below 3840 take their trap: XTPC at the instruction, the code in XTCAUSE, and the
wave in its handler. -/
def Sys2Proof.Claims.SoftwareTraps : Prop :=
  ∀ (s : State) (c : BitVec 12) (h l : BitVec 6), CanTrap s →
    Runs (.brk c) s (TrapTaken 18 c.toNat s.w.cur.mask 0 s.w.issuePc s) ∧
    (s.w.acting ≠ 0 → (h ++ l).toNat < 3840 →
      Runs (.trapi h l) s (TrapTaken 19 (h ++ l).toNat s.w.acting 0 s.w.issuePc
        { s with w := { s.w with paths := s.w.paths.map fun e => if e.st = .run then { e with fresh := true } else e } }))

/-- R40, R346: an exception in the handler, without a trap vector, or with one whose code has not landed, ends the team. -/
def Sys2Proof.Claims.TrapInHandlerEndsTeam : Prop :=
  ∀ (s : State) (c : BitVec 12), s.hand.isSome = true → s.t.ending = none →
    let ends := fun (err : Nat) => Runs (.brk c) s fun t =>
      t.w.ended = true ∧ t.t.ending = some err ∧ .teamEnd s.t.id ∈ t.due ∧ t.w.live = 0
    (s.w.inHandler = true ∨ s.t.xtvec = 0 → ends 5) ∧
    (s.w.inHandler = false → s.t.xtvec ≠ 0 → s.t.lacks s.t.xtvec = true → ends 2)

/-- Software traps, and a trap (by BRK) that no handler can take. -/
def Obligations.TrapsTaken : Prop := Claims.SoftwareTraps ∧ Claims.TrapInHandlerEndsTeam

/-- The entry that trapped as it goes on in lanes `m` (R261): behind the instruction (NEXT), at it (SAME), or at its region entry
(REGION). `go` is the state in which it goes on. -/
def Sys2Proof.Resumed (s : State) (f : Frame) (mode : TretMode) (go : PState) (m : W32) (r : Entry) : Prop :=
  r.mask = m ∧ match mode with
  | .next => r.st = go ∧ (f.atHeader = false → r.pc = f.next ∧ r.clause.map (·.count) = f.clause.map (·.count + 1)) ∧
      (f.atHeader = true → r.pc = s.w.xtpc ∧ r.clause = none)
  | .same => r.st = go ∧ r.pc = s.w.xtpc ∧ (f.atHeader = false → r.clause.map (·.count) = f.clause.map (·.count)) ∧
      (f.atHeader = true → r.clause = none)
  | .region => r.st = .ready ∧ r.pc = s.w.xtreg ∧ r.clause = none

/-- R261, R345, R348, R349: in the handler with one path, TRET brings the frame's paths and latches back in the lanes that live,
with NEXT the values of XTDST in the destination; the entry that trapped goes on. Of an entry that parked, the trapped lanes go
on in an entry of their own and the others stay (with no entry free, all restart the region); a wave that trapped while it waited
goes on waiting with SAME. Last, joins and barriers that lanes' exits have completed let go. Outside the handler TRET is ILLOP,
and with paths to join the trap ends the team. With REGION the latches of the lanes that resume are free values, for R13 and R261 leave them
undefined (DESIGN CHOICE, log 4). The return to an open loop's point (R223) and one with no lane left are not stated here.
Where the manual leaves it open this is the model's reading or choice: DEDUCED, log 42, and DESIGN CHOICE, logs 4 and 89. -/
def Obligations.TrapReturn : Prop :=
  ∀ (s : State) (i : Instr) (m : TretMode),
    (i = .tretNext ∧ m = .next ∨ i = .tretSame ∧ m = .same ∨ i = .tretRegion ∧ m = .region) →
    (∀ f : Frame, s.w.inHandler = true → s.w.used ≤ 1 → s.w.frame = some f →
      let mode := effectiveMode s.w m
      let e := f.paths.getD f.trapped {}
      let mask := e.mask &&& s.w.live
      let parts := e.st = .parked ∧ (mode ≠ .region ∨ ∃ x ∈ e.parks, x.answer = none) ∧ mask &&& ~~~s.w.xtlanes ≠ 0
      let room := f.paths.findIdx? (·.st == .free)
      let fin := if parts ∧ room = none then .region else mode
      let go := if e.st = .run then PState.run else .ready
      (mode = .region → ∀ l, s.w.mloop = some l → l.point ≠ s.w.xtreg) → f.trapped < f.paths.length → mask ≠ 0 → s.w.arrivals = [] →
      Runs i s fun t => ∃ r : State, t = tryBars (tryJoins r) ∧
        ((∀ p ∈ f.paths, p.st ≠ .waitJoin) → e.st ≠ .free → s.w.ended = false → t = r) ∧
        (∀ (n : Nat) (l : Lane), s.w.lanes[n]? = some l →
          let l : Lane := { l with latch := f.latches.getD n 0, latchPoison := f.badLatches.getLsbD n }
          let l : Lane := match mode, s.w.xtdst with
            | .next, some (_, vals) => if s.w.xtlanes.getLsbD l.id then applyDst l f (vals.getD l.id []) else l
            | _, _ => l
          r.w.lanes[n]? = some (if fin = .region ∧ mask.getLsbD l.id = true then
            { l with held := if e.body.isSome then [] else l.held, latch := Config.freeLatch s.free l.id, latchPoison := false } else l)) ∧
        ((∀ x, f.dst ≠ .mask x) ∨ mode ≠ .next ∨ s.w.xtdst = none → r.w.m = s.w.m) ∧
        (∀ (x : MReg) (k : Nat) (vals : List (List W32)), f.dst = .mask x → mode = .next → s.w.xtdst = some (k, vals) →
          x.val ≠ 0 → x.val ≠ 15 → x.val < s.w.m.length → ∀ j, j < 32 → (r.w.m.getD x.val 0).getLsbD j =
            if s.w.xtlanes.getLsbD j then ((vals.getD j []).getD 0 0).getLsbD 0 else (s.w.m.getD x.val 0).getLsbD j) ∧
        r.w.paths.length = f.paths.length ∧
        (∀ (n : Nat) (p : Entry), n ≠ f.trapped → (parts → room ≠ some n) → f.paths[n]? = some p →
          r.w.paths[n]? = some (if p.mask &&& s.w.live = 0 then ({} : Entry) else { p with mask := p.mask &&& s.w.live })) ∧
        (f.waiting = false ∨ mode = .region → ¬ parts ∨ room = none →
          ∃ x, r.w.paths[f.trapped]? = some x ∧ Resumed s f fin go mask x) ∧
        (f.waiting = false → parts → ∀ k, room = some k → mask &&& s.w.xtlanes ≠ 0 →
          (∃ x, r.w.paths[k]? = some x ∧ Resumed s f mode .ready (mask &&& s.w.xtlanes) x) ∧
          ∃ x, r.w.paths[f.trapped]? = some x ∧ x.mask = mask &&& ~~~s.w.xtlanes ∧ x.pc = e.pc ∧ x.parks = e.parks ∧
            x.st = if e.parks.isEmpty then .ready else .parked) ∧
        (f.waiting = true → e.st = .waitJoin → mode ≠ .region → ∃ x, r.w.paths[f.trapped]? = some x ∧ x.mask = mask ∧
          (mode = .same → x = { e with mask := mask }) ∧ (mode = .next → x.st = .ready ∧ x.pc = f.next ∧ x.wait = .none)) ∧
        r = { s with
          w := { s.w with paths := r.w.paths, lanes := r.w.lanes, m := r.w.m, frame := none, inHandler := false, xtdst := none
                          issued := s.w.issued + 1, cmpOk := false }
          order := s.order + 1, free := s.free + 1, granted := false, stalled := false }) ∧
    (CanTrap s → Runs i s (TrapTaken 1 7 s.w.cur.mask 0 s.w.issuePc s)) ∧
    (s.w.inHandler = true → 1 < s.w.used → s.hand.isSome = true → s.t.ending = none →
      Runs i s fun t => t.w.ended = true ∧ t.t.ending = some 5 ∧ .teamEnd s.t.id ∈ t.due)

/-- R259: HEMO pushes a handler that is landed code at a clause header, while fewer than four are held and one path runs;
HEMC pops the innermost. -/
def Obligations.Hems : Prop :=
  ∀ (s : State) (a : SReg), s.w.used ≤ 1 →
    let h := s.w.sreg a
    (s.w.hems.length < 4 → h.getLsbD 0 = false → s.t.isHeader h = true →
      Runs (.hemo a) s (Past 4 { s with w := { s.w with hems := h :: s.w.hems } })) ∧
    (s.w.hems ≠ [] → Runs .hemc s (Past 4 { s with w := { s.w with hems := s.w.hems.tail } }))

/-- R177, R354: FENCE performs what the wave has in flight, writes back what its release must have performed, stamps what its
acquire must have discarded, and goes on. -/
def Sys2Proof.Claims.Fences : Prop :=
  ∀ (s : State) (sc : Scope),
    let u := settleAtoms s
    Runs (.fence .acq sc) s (Past 4 (u.acquire sc)) ∧
    Runs (.fence .rel sc) s (Past 4 ((u.release sc).escapeAt sc)) ∧
    Runs (.fence .ar sc) s (Past 4 (((u.release sc).escapeAt sc).acquire sc))

/-- R294, R295: after a release at CONST or wider, no line of the space in the core's L1 holds written bytes; at TEAM and WAVE a
release writes nothing back. After an acquire at GANG or wider, a line of the space that the L1 held before is missed by a load but for
what the core has written, and after one at DIE or wider also a line of the constellation's cache. -/
def Sys2Proof.Claims.ReleaseCleansL1 : Prop :=
  ∀ (s : State) (id : CoreId) (space : Nat) (sc : Scope),
    (2 ≤ Scope.rank sc → ∀ x ∈ ((releaseCaches s id space sc).core id).l1, x.space = space → x.isDirty = false) ∧
    (Scope.rank sc < 2 → releaseCaches s id space sc = s) ∧
    (let t := s.acquire sc
     (2 ≤ Scope.rank sc → t.w.al1 = s.clock ∧ ∀ x ∈ (t.core s.coreId).l1, x.space = s.t.space → x.held = x.dirty) ∧
     (4 ≤ Scope.rank sc → t.w.acc = s.clock ∧ ∀ x ∈ (t.die s.t.die).cc, x.space = s.t.space →
       x.cons = (s.die s.t.die).consId s.t.core → x.held = x.dirty) ∧
     (Scope.rank sc < 2 → t = s) ∧ t.mem = s.mem ∧ t.w.lanes = s.w.lanes)

/-- Fences, what a release writes back from the L1, and what an acquire gives up in the L1 and in the constellation's cache. That a release
at DIE or wider takes the constellation's written bytes home in turn (R294) is not stated here.
Where the manual leaves it open this is the model's reading or choice: DEDUCED, log 43, and DESIGN CHOICE, log 93. -/
def Obligations.FencesAndReleases : Prop := Claims.Fences ∧ Claims.ReleaseCleansL1

/-- The state of a scope handle as a 64-bit word (R180): FROZEN as given, the die's count of re-stitches, for CONST the freezes held on
the constellation, and the members: of the constellation, of the gang's teams on the die, all cores of the die, or none. -/
def Sys2Proof.ScopeWord (s : State) (h : W64) (frozen : Bool) (v : W64) : Prop :=
  let d := s.die (handleDie h)
  v.msb = frozen ∧ (v.extractLsb' 56 7).toNat = d.gen % 128 ∧
  (v.extractLsb' 48 8).toNat = (if handleKind h = 3 then min 255 (freezeCount s d.num (d.consId (handleCore h))) else 0) ∧
  ∀ i, i < 48 → v.getLsbD i = match handleKind h with
    | 2 => s.allTeams.any fun t => t.launch == s.t.launch && t.gang == h.toNat % 2 ^ 32 && t.die == handleDie h && t.resident &&
        !t.ended && t.core == i
    | 3 => (d.consOf (handleCore h)).contains i
    | 4 => true
    | _ => false

/-- R178 to R182: SCOPE makes a handle of the wave's own place; SCOPEQ reads a handle's state; SCOPEFZ raises the team's count of a
constellation by one, or is refused, with FROZEN 0; SCOPETH lowers it. Both answer the handle's state too, with FROZEN for the team's own
freeze; of another kind of handle they change nothing. A handle that is none raises BOUND.
Where the manual leaves it open this is the model's reading or choice: DESIGN CHOICE, log 121. -/
def Obligations.ScopeHandles : Prop :=
  ∀ (s : State) (k : HKind) (c a : SReg),
    let h := s.w.sreg a
    let die := handleDie h
    let cons := (s.die die).consId (handleCore h)
    let n := s.t.freezeOf die cons
    let held := decide (freezeCount s die cons ≠ 0)
    let answers := fun (frozen : Bool) (t : State) => c.val < s.w.s.length → ScopeWord t h frozen (t.w.sreg c)
    ScalarRuns (.scope k c) s c (BitVec.ofNat 64 ((Machine.HKind.code k) * 2 ^ 60 + Config.packageNumber.toNat * 2 ^ 52 +
      s.t.die * 2 ^ 48 + s.t.core * 2 ^ 40 + (if k = .gang then s.t.gang % 2 ^ 32 else 0))) ∧
    (handleBad s h = false →
      (∃ v, ScalarRuns (.scopeq c a) s c v ∧ ScopeWord s h (decide (handleKind h ≠ 3) || held) v) ∧
      (handleKind h = 3 → n < 255 → (n = 0 → s.t.freezes.length < 4) → Runs (.scopefz c a) s fun t =>
        t.t.freezeOf die cons = n + 1 ∧ answers true t ∧ t.teams = s.teams ∧ t.w.lanes = s.w.lanes ∧ t.mem = s.mem) ∧
      (handleKind h = 3 → (n = 255 ∨ n = 0 ∧ 4 ≤ s.t.freezes.length) → Runs (.scopefz c a) s fun t =>
        t.t.freezes = s.t.freezes ∧ answers false t ∧ t.mem = s.mem) ∧
      (handleKind h = 3 → n ≠ 0 → Runs (.scopeth c a) s fun t =>
        t.t.freezeOf die cons = n - 1 ∧ answers (decide (n ≠ 1)) t ∧ t.teams = s.teams ∧ t.w.lanes = s.w.lanes ∧ t.mem = s.mem) ∧
      (∀ j ∈ ([.scopefz c a, .scopeth c a] : List Instr), handleKind h ≠ 3 ∨ j = .scopeth c a ∧ n = 0 → Runs j s fun t =>
        t.t.freezes = s.t.freezes ∧ answers (decide (handleKind h ≠ 3)) t ∧ t.teams = s.teams ∧
        t.dies = s.dies ∧ t.w.lanes = s.w.lanes ∧ t.mem = s.mem)) ∧
    (handleBad s h = true → CanTrap s → s.w.runIdx.isSome = true → s.w.cur.body = none →
      ∀ j ∈ ([.scopeq c a, .scopefz c a, .scopeth c a] : List Instr), Runs j s (RegionTrapTaken 33 5 s.w.cur.mask 0 s.w.issuePc))

/-- R34, R184: at BAR the running entry waits while a live wave of its team has lanes elsewhere; once every live wave has
arrived, every entry that waits there goes on. A wave that arrived before its handler began, or before a hem unwound it, stays arrived (R30, R358). -/
def Sys2Proof.Claims.TeamBarrier : Prop :=
  ∀ (s : State) (n : Fin 64), n.val < 16 → s.w.runIdx.isSome = true →
    let u := settleAtoms s
    let here := fun (e : Entry) => e.st = .waitJoin ∧ e.wait = .bar n.val
    let mine := fun (e : Entry) => e.st = .free ∨ e.st = .run ∨ here e
    let own := (∀ e ∈ u.w.paths, mine e) ∨ u.w.behind.allAtBar n.val = true ∨ n.val ∈ u.w.arrivals
    let all := own ∧ u.w.ended = false ∧ ∀ w ∈ u.t.waves, w.ended = true ∨ w.arrived n.val = true
    Runs (.bar n) s fun t => t.w.live = u.w.live ∧ t.w.lanes = u.w.lanes ∧ t.w.s = u.w.s ∧ t.w.m = u.w.m ∧ t.w.pend = u.w.pend ∧
      t.mem = u.mem ∧ t.w.al1 = u.w.al1 ∧ t.w.acc = u.w.acc ∧
      (¬ all → u.w.ended = false → ∃ e ∈ t.w.paths, here e ∧ e.pc = u.w.cur.pc ∧ e.mask = u.w.cur.mask) ∧
      (all → (∀ e ∈ t.w.paths, ¬ here e) ∧ ∀ w ∈ t.t.waves, w.ended = false → ∀ e ∈ w.paths, ¬ here e)

/-- R185 to R187: BARA counts an arrival at the object's home and answers the phase, and the last arrival starts the next
phase with no arrivals; an arrival at a phase at which the wave has arrived blocks, and EXPECTED outside its range is BOUND.
BARW passes once the phase has gone beyond the one it waits for, and blocks until then. -/
def Sys2Proof.Claims.ObjectBarriers : Prop :=
  ∀ (s u : State) (k : HKind) (c b a : SReg),
    let p := s.w.sreg a
    let v := flushLine u p
    let expected := homeWord v p 0
    let phase := homeWord v p 1
    let r := (v.release (HKind.scope k)).escape
    let n := homeWord r p 2 + 1
    let repeats := ∃ x ∈ v.w.bara, x.1 = p ∧ phase ≤ x.2
    (AccessOpen p 64 (wantObject true) (settleAtoms s) u → (k ≠ .const ∨ constCheck (settleAtoms s) (s.w.sreg b) = none) →
      (0 < expected → expected < 2 ^ 32 → ¬ repeats →
        let m := if n = expected then setHomeWord (setHomeWord r p 1 (phase + 1)) p 2 0 else setHomeWord r p 2 n
        Runs (.bara k c b a) s (Past 4 { m with w := { m.w with
          s := m.w.s.set c.val (BitVec.ofNat 64 phase), spoison := m.w.spoison.filter (· != c.val)
          bara := (p, phase) :: m.w.bara.filter (·.1 != p)
          paths := m.w.paths.map fun e => if e.st = .run then { e with fresh := true } else e } })) ∧
      (0 < expected → expected < 2 ^ 32 → repeats → Runs (.bara k c b a) s (Waits v)) ∧
      (expected = 0 ∨ 2 ^ 32 ≤ expected → CanTrap v → v.w.runIdx.isSome = true → v.w.cur.body = none →
        Runs (.bara k c b a) s (RegionTrapTaken 33 6 v.w.cur.mask p v.w.issuePc))) ∧
    (AccessOpen p 64 (wantObject false) (settleAtoms s) u → (k ≠ .const ∨ constCheck (settleAtoms s) (s.w.sreg c) = none) →
      (homeWord v p 1 ≤ (v.w.sreg b).toNat → Runs (.barw k c b a) s (Waits v)) ∧
      ((v.w.sreg b).toNat < homeWord v p 1 → Runs (.barw k c b a) s fun t =>
        let r := v.acquire (HKind.scope k)
        Past 4 { r with w := { r.w with paths := r.w.paths.map fun e => if e.st = .run then { e with fresh := true } else e } } t))

/-- Barriers of teams and barrier objects.
Where the manual leaves it open this is the model's reading or choice: DEDUCED, log 49. -/
def Obligations.Barriers : Prop := Claims.TeamBarrier ∧ Claims.ObjectBarriers

/-- R183, R188, R189, R420: WAITF passes when every flag it names reads 0, SLEEPT when Meridian time has reached its deadline;
until then they block, and SLEEPT keeps the deadline that it began with. -/
def Obligations.Waiting : Prop :=
  ∀ (s : State) (hi lo : BitVec 6) (abs : Bool) (a : SReg),
    let named := fun n => (hi ++ lo).getLsbD n
    let d := (s.w.cur.blocked.bind (·.deadline)).getD (if abs then (s.w.sreg a).toNat else s.now + (s.w.sreg a).toNat)
    ((∀ n, n < 12 → named n = true → s.w.f.getD n 0 = 0) → Runs (.waitf hi lo) s (Past 4 s)) ∧
    ((∃ n, n < 12 ∧ named n = true ∧ s.w.f.getD n 0 ≠ 0) → Runs (.waitf hi lo) s (Waits s)) ∧
    (d ≤ s.now → Runs (.sleept abs a) s (Past 4 s)) ∧
    (s.now < d → s.w.runIdx.isSome = true → Runs (.sleept abs a) s fun t =>
      Waits s t ∧ t.w.cur.blocked.bind (·.deadline) = some d)

/-- A wave's counted access stands last among those in flight. -/
def Sys2Proof.lastPend (t : State) : Option Pend := t.w.pend.getLast?

/-- R190 to R194: SPINIT defines a spool in the window; SPUSH and SPTRY push append at the tail, SPOP and SPTRY pop take the
head into a scalar register on the A mark, in the order of pushing, and waves that wait at one spool in the order of waiting. A
full spool or an absent peer makes SPUSH block, and SPTRY answer 2 or 4; an empty one makes SPOP block, or answer 3 past its
deadline, and SPTRY answer 1; an entry that an engine is moving holds them. What the control word may not name is BOUND. -/
def Sys2Proof.Claims.Spools : Prop :=
  ∀ (s : State) (gang : Bool) (c b : SReg) (n : Fin 64) (id : Nat), s.MemCanonical →
    let v := (s.w.sreg b).toNat
    let u := settleAtoms s
    let p := spoolOf u id n.val
    let own := u.t.spools.getD n.val {}
    let st := fun (r : Nat) (t : State) => ∃ q, lastPend t = some q ∧ q.load = true ∧ q.flag = u.w.mark false ∧
      ∃ x ∈ q.writes, x.scalar = true ∧ x.reg = b.val ∧ x.val.extractLsb' 56 8 = BitVec.ofNat 8 r ∧
        x.val.extractLsb' 0 56 = (u.w.sreg b).extractLsb' 0 56
    let pushed := fun (t : State) => (spoolOf t id n.val).tail = p.tail + 1 ∧ (spoolOf t id n.val).head = p.head ∧
      ((t.team id).map fun x => readBytes x.scratch (p.base + 8 * (p.tail % p.cap)) 8) = some (leBytes 8 (u.w.sreg c).toNat)
    let popped := fun (t : State) => (t.t.spools.getD n.val {}).head = own.head + 1 ∧ (t.t.spools.getD n.val {}).tail = own.tail ∧
      t.t.scratch = u.t.scratch ∧ ∃ q, lastPend t = some q ∧ q.flag = u.w.mark false ∧ ∃ x ∈ q.writes, x.scalar = true ∧
        x.reg = c.val ∧ x.val = BitVec.ofNat 64 (leNat (readBytes u.t.scratch (own.base + 8 * (own.head % own.cap)) 8))
    let push := pushKey id n.val
    let pop := popKey u.t.id n.val
    let turn := fun (k : Nat × Nat) => waitsBefore u k (placeOf u k)
    let tmo := ctlTmo (u.w.sreg b)
    let until_ := deadlineOf u (u.now + 1000 * tmo)
    let traps := fun (i : Instr) (w : State) (d : Nat) => CanTrap w → w.w.runIdx.isSome = true → w.w.cur.body = none →
      Runs i s (RegionTrapTaken 33 d w.w.cur.mask 0 w.w.issuePc)
    let fits := v < 2 ^ 27 ∧ 0 < bitsOf v 26 20 ∧ bitsOf v 26 20 ≤ 64 ∧ bitsOf v 19 0 % 8 = 0 ∧
      bitsOf v 19 0 + 8 * bitsOf v 26 20 ≤ s.t.window
    (fits → let fresh : Spool := { defined := true, gang, cap := bitsOf v 26 20, base := bitsOf v 19 0 }
      Runs (.spinit gang b n) s (Past 4 { s with t := { s.t with spools := s.t.spools.set n.val fresh } })) ∧
    (¬ fits → traps (.spinit gang b n) s 7) ∧
    (pushTo u (u.w.sreg b) n.val = .team id →
      let room := p.tail - p.head < p.cap
      let held := scoreboardHolds u (p.range id p.tail) true
      (room → turn push = false → held = false → Runs (.spush c b n) s pushed) ∧
      (room → waitsBefore u push u.order = false → held = false → Runs (.sptryPush c b n) s fun t => pushed t ∧ st 0 t) ∧
      (room → turn push = false → held = true → Runs (.spush c b n) s (Waits u)) ∧
      (¬ room ∨ turn push = true → Runs (.spush c b n) s (WaitsFor push none u)) ∧
      (¬ room ∨ waitsBefore u push u.order = true → Runs (.sptryPush c b n) s (st 2))) ∧
    (pushTo u (u.w.sreg b) n.val = .absent id → Runs (.spush c b n) s (WaitsFor push none u) ∧ Runs (.sptryPush c b n) s (st 4)) ∧
    (∀ d, pushTo u (u.w.sreg b) n.val = .bound d → traps (.spush c b n) u d ∧ traps (.sptryPush c b n) u d) ∧
    (popBad u (u.w.sreg b) n.val = true → traps (.spop c b n) u 7 ∧ traps (.sptryPop c b n) u 7) ∧
    (popBad u (u.w.sreg b) n.val = false →
      let held := scoreboardHolds u (own.range u.t.id own.head) false
      (own.head < own.tail → turn pop = false → n.val < u.t.spools.length → held = false →
        Runs (.spop c b n) s (fun t => popped t ∧ st 0 t)) ∧
      (own.head < own.tail → waitsBefore u pop u.order = false → n.val < u.t.spools.length → held = false →
        Runs (.sptryPop c b n) s (fun t => popped t ∧ st 0 t)) ∧
      (own.head < own.tail → turn pop = false → held = true → Runs (.spop c b n) s (Waits u)) ∧
      (own.tail ≤ own.head ∨ waitsBefore u pop u.order = true → Runs (.sptryPop c b n) s (st 1)) ∧
      (own.tail ≤ own.head ∨ turn pop = true →
        (tmo = 0 → Runs (.spop c b n) s (WaitsFor pop none u)) ∧
        (tmo ≠ 0 → until_ ≤ u.now → Runs (.spop c b n) s (st 3)) ∧
        (tmo ≠ 0 → u.now < until_ → Runs (.spop c b n) s (WaitsFor pop (some until_) u))))

/-- R195 to R197: MSEND stores its message in the slot at SENT and counts it, while the messages held and the slots reserved
leave room; else it blocks, or with DROP counts a dropped message. MRECV takes the oldest message into a scalar pair on
the A mark and counts it, in the order of waiting; with none it blocks, or past its deadline answers 3. A header that is none is
BOUND. -/
def Sys2Proof.Claims.Mailboxes : Prop :=
  ∀ (s u x : State) (b : Box) (drop : Bool) (c d a : SReg),
    let p := s.w.sreg a
    let key := (1, boxKey u p)
    let turn := waitsBefore u key (placeOf u key)
    let tmo := ctlTmo (u.w.sreg d)
    let until_ := deadlineOf u (u.now + 1000 * tmo)
    let st := fun (k : State) (r : Nat) (w : RegWrite) => w.scalar = true ∧ w.reg = d.val ∧ w.poison = false ∧
      w.val.extractLsb' 56 8 = BitVec.ofNat 8 r ∧ w.val.extractLsb' 0 56 = (k.w.sreg d).extractLsb' 0 56
    let issued := fun (k : State) (load : Bool) (w : List RegWrite) (t : State) => ∃ q : Pend, q.flag = k.w.mark (!load) ∧
      q.load = load ∧ q.writes = w ∧ q.atoms = [] ∧ q.held = false ∧ (load = false → q.scope = b.scope) ∧ Past 4 (k.launchPend q).fresh t
    let room := b.held + reservedSlots u (boxKey u p) < b.cap
    (BoxOpen true p (settleAtoms s) u b →
      (room → SlotOpen true (slotPtr p b b.sent) u x →
        let v := (x.release b.scope).escape
        let pair := leBytes 8 (x.w.sreg c).toNat ++ leBytes 8 (x.w.sreg (SReg.succ c)).toNat
        Runs (.msend drop c a) s (issued (putMessage v p b (clean pair) v.coreId) false [])) ∧
      (¬ room → drop = false → Runs (.msend drop c a) s (Waits u)) ∧
      (¬ room → drop = true →
        Runs (.msend drop c a) s (issued (setHomeWord u.escape p 3 ((b.dropped + 1) % 2 ^ 64)) false []))) ∧
    (BoxOpen false p (settleAtoms s) u b →
      (0 < b.held → turn = false → SlotOpen false (slotPtr p b b.received) u x →
        let r := takeMessage x p b
        let word := fun (i : Nat) => BitVec.ofNat 64 (leNat (bytesOf ((dieRead x x.t.space (slotPtr p b b.received) 16 x.t.die).drop (8 * i) |>.take 8)))
        Runs (.mrecv c d a) s fun t => ∃ y z w : RegWrite, issued (r.1.acquire b.scope) true [y, z, w] t ∧
          y.scalar = true ∧ y.reg = c.val ∧ y.val = word 0 ∧ z.scalar = true ∧ z.reg = (SReg.succ c).val ∧ z.val = word 1 ∧ st x 0 w) ∧
      (b.held = 0 ∨ turn = true →
        (tmo = 0 → Runs (.mrecv c d a) s (WaitsFor key none u)) ∧
        (tmo ≠ 0 → until_ ≤ u.now → Runs (.mrecv c d a) s fun t => ∃ w, issued u true [w] t ∧ st u 3 w) ∧
        (tmo ≠ 0 → u.now < until_ → Runs (.mrecv c d a) s (WaitsFor key (some until_) u)))) ∧
    (∀ send, AccessOpen p 64 (wantBox send) (settleAtoms s) u →
      let v := flushLine u p
      readBox v p = none → CanTrap v → v.w.runIdx.isSome = true → v.w.cur.body = none →
      Runs (if send then .msend drop c a else .mrecv c d a) s (RegionTrapTaken 33 8 v.w.cur.mask p v.w.issuePc))

/-- Spools and mailboxes.
Where the manual leaves it open this is the model's reading or choice: DESIGN CHOICE, log 21. -/
def Obligations.SpoolsAndMailboxes : Prop := Claims.Spools ∧ Claims.Mailboxes

/-- R146, R149, R157, R159 to R161, R163 to R165: the loads. Where every check of every acting lane passes, the instruction
issues: no register is written before its completion, the A flag counts, and the values that the lanes bind are those of
the caches (global and private; lane after lane, each lane's line filled before the next lane reads), the window (scratch and peer) or the parameter block. An access that an engine's copy overlaps is
held, and so is one to an absent peer. PREFG does nothing. -/
def Sys2Proof.Claims.LoadsIssue : Prop :=
  ∀ (s v : State) (z : MSize) (m : MMode) (o : BitVec 7) (d : Dst) (b : Opd) (xs : List Acc) (pv : PfLevel),
    let u := beforeLoad s m
    let al := if MMode.isOrdered m then z.bytes else 1
    let cached := fun (m : MMode) => cacheReads z m d v xs
    let window := xs.flatMap fun a => loadWrites a.lane z d (match a.place with | .window t => windowRead v t a.addr.toNat z.bytes | _ => [])
    (copyConflict s (lanePtrs s.w m b) z.bytes false = false →
      AllPass (fun k i => globalAcc k i (padd (opd64 k.w (k.w.lane i) b) (MMode.offset k.w m)) z.bytes { wantLoad with align := al })
        (lanesOf u.w.acting) u v xs →
      Runs (.ldg z m d b) s (LoadIssued v (cached m))) ∧
    (scoreboardHolds u (windowRanges u.t.id z.bytes ((lanesOf u.w.acting).map fun i => (addr32 u.w m b i).toNat)) false = false →
      AllPass (fun k i => scratchAcc k i (addr32 u.w m b i) z.bytes al false) (lanesOf u.w.acting) u v xs →
      Runs (.lds z m d b) s (LoadIssued v (v, window))) ∧
    (peerAbsent u ((lanesOf u.w.acting).map fun i => addr32 u.w m b i) = false →
      scoreboardHolds u (peerRanges xs z.bytes) false = false →
      AllPass (fun k i => peerAcc k i (addr32 u.w m b i) z.bytes al false) (lanesOf u.w.acting) u v xs →
      Runs (.ldp z m d b) s (LoadIssued v (peerCount v xs (accMask xs fun a => a.bad.isNone), window))) ∧
    (AllPass (fun k i => privAcc k i (k.w.lane i).tid (addr32 k.w (.plain o) b i) z.bytes false)
        (lanesOf (settleAtoms s).w.acting) (settleAtoms s) v xs →
      Runs (.ldl z o d b) s (LoadIssued v (cached (.plain o)))) ∧
    ((∀ i, s.w.acting.getLsbD i = true → (addr32 s.w (.plain o) b i).toNat + z.bytes ≤ s.t.params.length) →
      Runs (.ldk z o d b) s fun t => ∃ q, Past 4 (s.launchPend q) t ∧ q.load = true ∧ q.flag = s.w.mark false ∧ q.atoms = [] ∧
        q.writes = (lanesOf s.w.acting).flatMap fun i =>
          loadWrites i z d (clean ((s.t.params.drop (addr32 s.w (.plain o) b i).toNat).take z.bytes))) ∧
    Runs (.prefg pv o b) s (Past 4 s) ∧
    (copyConflict s (lanePtrs s.w m b) z.bytes false = true → Runs (.ldg z m d b) s (Waits s)) ∧
    (scoreboardHolds u (windowRanges u.t.id z.bytes ((lanesOf u.w.acting).map fun i => (addr32 u.w m b i).toNat)) false = true →
      Runs (.lds z m d b) s (Waits u)) ∧
    (peerAbsent u ((lanesOf u.w.acting).map fun i => addr32 u.w m b i) = true → Runs (.ldp z m d b) s (Waits u))

/-- R159: SLDG loads 4 or 8 bytes for the running entry (which has lanes) into a scalar register, on the A mark. -/
def Sys2Proof.Claims.ScalarLoad : Prop :=
  ∀ (s v : State) (w : IW) (d a : SReg) (x : Acc),
    let u := settleAtoms s
    let p := u.w.sreg a
    let r := loadBytes v v.coreId v.t.space p v.w.al1 v.w.acc (IW.bytes w)
    copyConflict u [p] (IW.bytes w) false = false →
    globalAcc u 0 p (IW.bytes w) { wantLoad with align := IW.bytes w } = (v, x) → x.bad = none → v.w.cur.mask ≠ 0 →
    Runs (.sldg w d a) s (LoadIssued v (r.1, [{ scalar := true, reg := d.val, val := BitVec.ofNat 64 (leNat (bytesOf r.2)), poison := anyPoison r.2 }]))

/-- Loads of lanes and of scalar registers.
Where the manual leaves it open this is the model's reading or choice: DESIGN CHOICE, log 37. -/
def Obligations.LoadInstructions : Prop := Claims.LoadsIssue ∧ Claims.ScalarLoad

/-- R151, R157, R161, R163, R164, R354, R380: the stores. Where every check of every acting lane passes, each lane's bytes go to the
address that its access formed, in ascending lane order, and to no other: into the L1 of the core (global and private), or
into the window (scratch and peer), where every other byte reads as before. The B flag counts until the store is
performed; a release above TEAM sets the escaped bit. In a capsule body the bytes of STG are held (R247), and under TWIN those of a
plain store wait in the comparison buffer.
Where the manual leaves it open this is the model's reading or choice: DESIGN CHOICE, logs 30 and 37. -/
def Obligations.StoresIssue : Prop :=
  ∀ (s v : State) (z : MSize) (m : MMode) (o : BitVec 7) (d b : Opd) (xs : List Acc),
    let u := beforeStore s m
    let al := if MMode.isOrdered m then z.bytes else 1
    let data := fun (k : State) (i : Nat) => storeData k.w (k.w.lane i) z d
    let bytes := fun (x : Byte) => ∃ a ∈ xs, ∃ y ∈ data v a.lane, y.1 = x
    let into := fun (k : State) => xs.foldl (fun r a => storeL1 r r.coreId r.t.space a.addr (data k a.lane)) k
    let wins := fun (k : State) => xs.foldl (fun r a => match a.place with
      | .window t => windowWrite r t a.addr.toNat (data k a.lane) | _ => r) k
    let esc := fun (sc : Scope) (k : State) => if MMode.isOrdered m = true ∧ xs ≠ [] then k.escapeAt (MMode.scopeOr m sc) else k
    let sent := fun (held : List StoreReq) (k t : State) => ∃ q : Pend, Past 4 (k.launchPend q) t ∧ q.load = false ∧
      q.flag = v.w.mark true ∧ q.writes = [] ∧ q.atoms = [] ∧ q.stores = held ∧ q.held = !held.isEmpty
    let at_ := MMode.isOrdered m = true ∨ v.w.umbra = none ∨ xs = []
    let kept := MMode.isOrdered m = false ∧ v.w.umbra.isSome = true ∧ xs ≠ []
    let reqs := storeReqs v.w z d xs
    (copyConflict s (lanePtrs s.w m b) z.bytes true = false →
      AllPass (fun k i => globalAcc k i (padd (opd64 k.w (k.w.lane i) b) (MMode.offset k.w m)) z.bytes { wantStore with align := al })
        (lanesOf u.w.acting) u v xs →
      (u.w.cur.body = none → at_ → Runs (.stg z m d b) s fun t => ∃ k, k = into (esc .team v) ∧ CachesChange (esc .team v) k bytes ∧
        sent [] k t) ∧
      (u.w.cur.body = none → kept → Runs (.stg z m d b) s (sent reqs v)) ∧
      (u.w.cur.body.isSome = true → Runs (.stg z m d b) s fun t => t.mem = v.mem ∧ t.dies = v.dies ∧ t.c = v.c ∧
        List.Forall₂ (fun l l' => l' = { l with held := l.held ++ heldOf v.w z d xs (accMask xs fun a => a.bad.isNone) l }) v.w.lanes t.w.lanes)) ∧
    (copyConflict s (lanePtrs s.w m b) z.bytes true = true → Runs (.stg z m d b) s (Waits s)) ∧
    (let holds := scoreboardHolds u (windowRanges u.t.id z.bytes ((lanesOf u.w.acting).map fun i => (addr32 u.w m b i).toNat)) true
     (holds = true → Runs (.sts z m d b) s (Waits u)) ∧
     (holds = false →
      AllPass (fun k i => scratchAcc k i (addr32 u.w m b i) z.bytes al true) (lanesOf u.w.acting) u v xs →
      (at_ → Runs (.sts z m d b) s fun t => sent [] (wins (esc .team v)) t ∧ t.mem = v.mem ∧
        (u.hand.isSome = true → s.MemCanonical → ∀ p, readByte t.t.scratch p = lastStored xs z.bytes (data v) p (readByte u.t.scratch p))) ∧
      (kept → Runs (.sts z m d b) s (sent reqs v)))) ∧
    (let absent := peerAbsent u ((lanesOf u.w.acting).map fun i => addr32 u.w m b i)
     (absent = true → Runs (.stp z m d b) s (Waits u)) ∧
     (absent = false → scoreboardHolds u (peerRanges xs z.bytes) true = false →
      AllPass (fun k i => peerAcc k i (addr32 u.w m b i) z.bytes al true) (lanesOf u.w.acting) u v xs →
      (at_ → Runs (.stp z m d b) s fun t => ∃ k, CachesOnly v k ∧ sent [] (wins (esc .gang k)) t ∧ t.mem = v.mem) ∧
      (kept → Runs (.stp z m d b) s fun t => ∃ k, CachesOnly v k ∧ sent reqs k t ∧ t.mem = v.mem))) ∧
    (AllPass (fun k i => privAcc k i (k.w.lane i).tid (addr32 k.w (.plain o) b i) z.bytes true)
        (lanesOf (settleAtoms s).w.acting) (settleAtoms s) v xs →
      (v.w.umbra = none ∨ xs = [] → Runs (.stl z o d b) s fun t => ∃ k, k = into v ∧ CachesChange v k bytes ∧ sent [] k t) ∧
      (v.w.umbra.isSome = true → xs ≠ [] → Runs (.stl z o d b) s (sent reqs v)))

/-- R149, R291, R293, R295: a load by a core of bytes that it has just stored returns them, whatever its stamps; a store changes no
other byte of the L1 (a line that it allocates holds no other byte, and a line that it evicts to keep to the ways of its set is
gone) and no other core's. That an L1 keeps to its ways is `Obligations.StepKeepsWays`. -/
def Sys2Proof.Claims.LoadSeesStore : Prop :=
  ∀ (s : State) (id : CoreId) (space al1 acc : Nat) (p : W64) (d : List PByte), d.length ≤ 16 → (s.core id).WaysKept →
    let t := storeL1 s id space p d
    bytesOf (loadBytes t id space p al1 acc d.length).2 = bytesOf d ∧
    (∀ (sp : Nat) (q : W64), (sp = space → ∀ i, i < d.length → q ≠ p + BitVec.ofNat 64 i) →
      l1Byte t id sp q = l1Byte s id sp q ∨ l1Byte t id sp q = none ∨
        l1Byte s id sp q = none ∧ l1Byte t id sp q = some (0, false, false)) ∧
    CachesChange s t (fun x => x ∈ bytesOf d) ∧ ∀ k : CoreId, k ≠ id → (t.core k).l1 = (s.core k).l1

/-- R62, R271, R392, R408: a write at home changes the bytes of its range and no others, where no watch of a partition is armed; only one to
another package of the domain sends a message. -/
def Sys2Proof.Claims.HomeWriteFrame : Prop :=
  ∀ (s : State) (pa : Nat) (d : List PByte) (atomic : Bool) (who : Writer), s.MemCanonical →
    isLost s pa = false → (∀ p ∈ s.parts, ∀ h ∈ p.hwatch, h.msb = false) →
    let t := homeWrite s pa d atomic who
    (∀ a, readByte t.mem a = if pa ≤ a ∧ a < pa + d.length then ((d.getD (a - pa) (0, false)).1) else readByte s.mem a) ∧
    t = { s with mem := t.mem, memPoison := t.memPoison, lastWriter := t.lastWriter, sent := t.sent, nextOut := t.nextOut, links := t.links } ∧
    (s.domain.contains (pa / 2 ^ 44 % 256) = false → t.sent = s.sent ∧ t.nextOut = s.nextOut ∧ t.links = s.links)

/-- R294: a line of a constellation's cache that goes home puts its written bytes where the core's translation of its address says, and changes
no other byte of memory. -/
def Sys2Proof.Claims.LineGoesHome : Prop :=
  ∀ (s : State) (id : CoreId) (y : Line) (pa : Nat), s.MemCanonical → isLost s pa = false →
    (∀ p ∈ s.parts, ∀ h ∈ p.hwatch, h.msb = false) →
    (portServe s id y.space (lineVa y.line)).2 = .at_ pa ∨ (portServe s id y.space (lineVa y.line)).2 = .dup pa →
    ∀ a, readByte (toHome s id y).mem a =
      if pa ≤ a ∧ a < pa + 64 ∧ y.dirty.getD (a - pa) false = true then y.data.getD (a - pa) 0 else readByte s.mem a

/-- A load sees the store before it, a write at home changes its bytes alone, and a line that goes home goes to its address. -/
def Obligations.StoresSeenAndHome : Prop := Claims.LoadSeesStore ∧ Claims.HomeWriteFrame ∧ Claims.LineGoesHome

/-- R168: the new values of the atomics on integers, at both widths, from the old value and the operands. -/
def Sys2Proof.Claims.AtomicValues : Prop :=
  ∀ (w : IW) (old v cmp : W64), (w = .w32 → old.toNat < 2 ^ 32 ∧ v.toNat < 2 ^ 32 ∧ cmp.toNat < 2 ^ 32) →
    let r := fun (p : AtomOp) (f : (n : Nat) → BitVec n → BitVec n → BitVec n) => atomResult p w old v cmp = (at2 w f old v, {})
    r .add (fun _ x y => x + y) ∧ r .and (fun _ x y => x &&& y) ∧ r .or (fun _ x y => x ||| y) ∧ r .xor (fun _ x y => x ^^^ y) ∧
    r .xchg (fun _ _ y => y) ∧ r .minI (fun _ x y => if x.slt y then x else y) ∧ r .maxI (fun _ x y => if x.slt y then y else x) ∧
    r .minN (fun _ x y => if x.ult y then x else y) ∧ r .maxN (fun _ x y => if x.ult y then y else x) ∧
    atomResult .cas w old v cmp = (if old = cmp then v else old, {})

/-- R166, R167, R169, R171, R354: the atomics. Where every check of every acting lane passes and no enabled exception can rise, the
requests of the lanes are sent, in ascending order, after what a release must have performed and with the core's own copies of
their lines dropped; a returning form counts on A and a REDG on B. A returning form of a floating-point atomic in whose lanes an
exception is enabled is performed at once: its old values are written, and the lanes whose enabled exceptions rise take
FP_ATOMIC. A copy that an engine is making, or an absent peer, holds them. -/
def Sys2Proof.Claims.AtomicsIssue : Prop :=
  ∀ (s v : State) (o : Order) (sc : Scope) (w : IW) (p : AtomOp) (d b : Opd) (xs : List Acc),
    let n := IW.bytes w
    let u := settleAtoms s
    let reqs := fun (ret : Bool) => xs.map (atomReq v.w w p d ret)
    let some_ := fun (k : State → State) => if xs = [] then v else k v
    let sent := fun (ret : Bool) (e : State → State) (t : State) => ∃ q : Pend, q.load = ret ∧ q.order = o ∧ q.scope = sc ∧ q.writes = [] ∧
      q.atoms = reqs ret ∧ q.flag = v.w.mark (!ret) ∧ q.held = false ∧ Past 4 ((beforeAtomic (some_ e) o sc xs).launchPend q).fresh t
    let quiet := AtomOp.isFloat p = false ∨ anyEnabled v.w (accMask xs fun a => a.bad.isNone) = false
    let now := fun (i : Instr) (e : State → State) => ∀ (k : State) (trap : W32) (detail : Nat),
      fpAtoms (beforeAtomic (e v) o sc xs) { load := true, atoms := reqs true, scope := sc, order := o } = (k, trap, detail) →
      (trap = 0 → Runs i s (Past 4 k.fresh)) ∧
      (trap ≠ 0 → CanTrap k → k.w.runIdx.isSome = true → k.w.cur.body = none →
        Runs i s (RegionTrapTaken 39 detail trap 0 k.w.issuePc))
    let does := fun (i : Instr) (e : State → State) => (quiet → Runs i s (sent true e)) ∧ (¬ quiet → now i e)
    let rel := fun (k : State) => if o = .rel ∨ o = .ar then k.escapeAt sc else k
    let at_ := fun i => opd32 u.w (u.w.lane i) b
    (copyConflict s (lanePtrs s.w (.ordered .team) b) n true = false →
      AllPass (fun k i => globalAcc k i (opd64 k.w (k.w.lane i) b) n { wantAtomic with align := n }) (lanesOf u.w.acting) u v xs →
      does (.atomg o sc w p d b) State.escape ∧ Runs (.redg o sc w p d b) s (sent false State.escape)) ∧
    (copyConflict s (lanePtrs s.w (.ordered .team) b) n true = true →
      Runs (.atomg o sc w p d b) s (Waits s) ∧ Runs (.redg o sc w p d b) s (Waits s)) ∧
    (let holds := scoreboardHolds u (windowRanges u.t.id n ((lanesOf u.w.acting).map fun i => (at_ i).toNat)) true
     (holds = true → Runs (.atoms o sc w p d b) s (Waits u)) ∧
     (holds = false → AllPass (fun k i => scratchAcc k i (at_ i) n n true) (lanesOf u.w.acting) u v xs →
      does (.atoms o sc w p d b) rel)) ∧
    (let absent := peerAbsent u ((lanesOf u.w.acting).map at_)
     (absent = true → Runs (.atomp o sc w p d b) s (Waits u)) ∧
     (absent = false → scoreboardHolds u (peerRanges xs n) true = false →
      AllPass (fun k i => peerAcc k i (at_ i) n n true) (lanesOf u.w.acting) u v xs →
      does (.atomp o sc w p d b) fun k => (peerCount k xs (accMask xs fun a => a.bad.isNone)).escape))

/-- Atomics: their values and how they issue. -/
def Obligations.Atomics : Prop := Claims.AtomicValues ∧ Claims.AtomicsIssue

/-- R172 to R175: with a tag table, TLOOK, TSET and TEVICT work through it lane by lane, ascending; TLOOK answers on the A
mark, TSET and TEVICT at once. Without a table they are ILLOP. -/
def Obligations.TagTableInstructions : Prop :=
  ∀ (s : State) (d : Dst) (a b : Opd),
    (s.t.tags = none → CanTrap s → ∀ i ∈ ([.tlook d a, .tset d a b, .tevict d a] : List Instr),
      Runs i s (TrapTaken 1 0 s.w.cur.mask 0 s.w.issuePc s)) ∧
    ∀ (tb : TagTable), s.t.tags = some tb →
    let look := tagLanes s.w tb fun t l => tlook t (opd64 s.w l a)
    let set_ := tagLanes s.w tb fun t l => tset t (opd64 s.w l a) (opd32 s.w l b)
    let out := tagLanes s.w tb fun t l => tevict t (opd64 s.w l a)
    let table := fun (t : TagTable) (k : State) => { k with t := { k.t with tags := some t } }
    let wrote := fun (iw : IW) (r : List (Nat × Nat)) (ls ls' : List Lane) => List.Forall₂ (fun l l' =>
      if s.w.acting.getLsbD l.id then
        DstWritten iw d (BitVec.ofNat 64 (((r.find? (·.1 == l.id)).map (·.2)).getD 0)) l l' ∧ l'.latch = l.latch
      else l' = l) ls ls'
    (Runs (.tlook d a) s fun t => ∃ q, Past 4 ((table look.1 s).launchPend q) t ∧ q.load = true ∧ q.flag = s.w.mark false ∧
      q.writes = look.2.flatMap fun x => loadWrites x.1 .n32 d (clean (leBytes 4 x.2))) ∧
    (Runs (.tset d a b) s fun t => wrote .w64 set_.2 s.w.lanes t.w.lanes ∧
      Past 4 { table set_.1 s with w := { s.w with lanes := t.w.lanes } } t) ∧
    (Runs (.tevict d a) s fun t => wrote .w32 out.2 s.w.lanes t.w.lanes ∧
      Past 4 { table out.1 s with w := { s.w with lanes := t.w.lanes } } t)

/-- R149, R156, R170: completions. A load that has its values writes them, lowers its flag and is in flight no longer; a store
that is performed lowers its flag, but not while it waits to be compared; atomics at their home are performed in the order sent, and their old values are then on
their way.
Where the manual leaves it open this is the model's reading or choice: DESIGN CHOICE, log 37. -/
def Obligations.Completions : Prop :=
  ∀ (s : State) (w : WaveId) (i : Nat) (v : Wave) (p : Pend), s.wave w = some v → v.pend[i]? = some p →
    let v' := { (p.writes.foldl applyWrite v).flagDown p.flag with pend := v.pend.eraseIdx i, held := false }
    (p.load = true → p.atoms = [] → Runs (.loadCompletion w i) s fun t => t.wave w = some v' ∧ t.mem = s.mem ∧
      t.dies = s.dies ∧ t.clock = s.clock) ∧
    (p.load = false → p.atoms = [] → p.held = false → Runs (.storePerformed w i) s fun t => t.wave w = some v') ∧
    (p.held = true → p.load = false → Runs (.storePerformed w i) s fun t => t = s) ∧
    (s.hand = some w → s.w = v → p.atoms ≠ [] → Runs (.atomicAtHome w i) s fun t =>
      t.w.pend[i]? = some (performAtoms s p).2 ∧ t.mem = (performAtoms s p).1.mem ∧ (performAtoms s p).2.atoms = [])

/-- R152, R153, R264: when the pointer of every acting lane names object 0, LDG, STG and the atomics perform nothing and take
BOUND with the null detail: region-precise, XTLANES the acting lanes and XTADDR the lowest one's address. -/
def Obligations.NullPointerTrap : Prop :=
  ∀ (s : State) (z : MSize) (o : BitVec 7) (d : Dst) (c b : Opd) (low : Nat) (ord : Order) (sc : Scope) (w : IW) (p : AtomOp) (e : Opd),
    let at_ := fun (off : Int) i => padd (opd64 s.w (s.w.lane i) b) off
    let off := (imm32 s.w o).toInt
    CanTrap s → s.w.pend = [] → s.w.runIdx.isSome = true → s.w.cur.body = none → s.c.copies = [] →
    (∀ e ∈ s.w.paths, e.st ≠ .parked) → lowest s.w.acting = some low → s.w.acting = s.w.cur.mask →
    let taken := fun (x : Int) (t : State) => RegionTrapTaken 33 1 s.w.acting (at_ x low) s.w.issuePc t ∧
      t.w.lanes = s.w.lanes ∧ t.w.pend = [] ∧ t.w.f = s.w.f
    let trap := fun (x : Int) (t : State) => taken x t ∧ t.mem = s.mem
    ((∀ i, s.w.acting.getLsbD i = true → pObj (at_ off i) = 0) →
      Runs (.ldg z (.plain o) d b) s (trap off) ∧ Runs (.stg z (.plain o) c b) s (trap off)) ∧
    ((∀ i, s.w.acting.getLsbD i = true → pObj (at_ 0 i) = 0) →
      Runs (.ldg z (.ordered sc) d b) s (trap 0) ∧ Runs (.stg z (.ordered sc) c b) s (taken 0) ∧
      Runs (.atomg ord sc w p e b) s (trap 0) ∧ Runs (.redg ord sc w p e b) s (trap 0))

/-- R18 to R21, R45, R225, R262, R263: MOVX reads every register by its number, and writes the writable ones with their reserved
bits ignored; a 1 written to FLG clears its bit; XPROG, XHANG and XBINAGE wait for the wave's next header. XSINJ outside
debug mode is ILLOP. -/
def Sys2Proof.Claims.SystemRegisters : Prop :=
  ∀ (s : State) (c a : SReg),
    let v := s.w.sreg a
    let lanes := fun (m : W32) => (m.setWidth 64 : W64)
    let reads : List (Fin 64 × W64) :=
      [(0, s.t.xtvec), (1, s.w.xtpc), (2, s.w.xtreg), (3, s.w.xtcause), (4, lanes s.w.xtlanes), (5, lanes s.w.xtmask),
       (6, s.w.xtaddr), (8, s.w.xtcls), (9, s.w.xfprm), (20, s.w.xprog), (21, s.w.xhang), (22, s.t.xbinage), (23, s.t.xcapdly),
       (24, s.w.xcapret)]
    let wave := fun (x : Fin 64) (w : Wave) => Runs (.movxW x a) s (Past 4 { s with w := w })
    let team := fun (x : Fin 64) (t : Team) => Runs (.movxW x a) s (Past 4 { s with t := t })
    let dbg := ∃ p, s.part s.t.part = some p ∧ p.debug = true
    (∀ r ∈ reads, ScalarRuns (.movxR c r.1) s c r.2) ∧
    (∀ n : Fin 5, ScalarRuns (.movxR c ⟨10 + n, by omega⟩) s c (lanes (s.w.ten.getD n 0)) ∧
      ScalarRuns (.movxR c ⟨15 + n, by omega⟩) s c (lanes (s.w.flg.getD n 0))) ∧
    (∀ n : Fin 4, ScalarRuns (.movxR c ⟨25 + n, by omega⟩) s c (s.t.xmtol.getD n 0) ∧
      ScalarRuns (.movxR c ⟨31 + n, by omega⟩) s c (s.t.xwatch.getD n 0)) ∧
    (s.w.mloop = none → ∃ x, ScalarRuns (.movxR c 29) s c x ∧ x.extractLsb' 32 32 = s.t.xseamst.extractLsb' 32 32 ∧
      x.extractLsb' 0 17 = s.t.xseamst.extractLsb' 0 17 ∧ x.extractLsb' 17 15 = 0) ∧
    (∃ x, ScalarRuns (.movxR c 35) s c x ∧ 10 ≤ x.toNat ∧ x.toNat ≤ 100) ∧
    (∀ l, s.launch = some l → ∃ x, ScalarRuns (.movxR c 36) s c x ∧
      x.extractLsb' 32 32 = BitVec.ofNat 32 (cardWord l.card 8) ∧ x.extractLsb' 0 32 = BitVec.ofNat 32 l.used) ∧
    (dbg → ScalarRuns (.movxR c 30) s c s.t.xsinj ∧ team 30 { s.t with xsinj := v &&& 0x800FFFC0FFFFFFFF }) ∧
    (¬ dbg → CanTrap s → Runs (.movxR c 30) s (TrapTaken 1 0 s.w.cur.mask 0 s.w.issuePc s) ∧
      Runs (.movxW 30 a) s (TrapTaken 1 0 s.w.cur.mask 0 s.w.issuePc s)) ∧
    team 0 { s.t with xtvec := v } ∧ team 23 { s.t with xcapdly := v &&& 0xFFFFFFFF } ∧ wave 24 { s.w with xcapret := v } ∧
    wave 9 { s.w with xfprm := v &&& 3 } ∧ wave 20 { s.w with xprogNew := some (v &&& 0xFFF1) } ∧
    wave 21 { s.w with xhangNew := some (v &&& 0xFFFFFFFF) } ∧ wave 22 { s.w with xbinageNew := some (v &&& 0xFFFFFF) } ∧
    (∀ n : Fin 5, wave ⟨10 + n, by omega⟩ { s.w with ten := s.w.ten.set n (v.setWidth 32) } ∧
      wave ⟨15 + n, by omega⟩ { s.w with flg := s.w.flg.modify n (· &&& ~~~(v.setWidth 32)) }) ∧
    (∀ n : Fin 4, team ⟨25 + n, by omega⟩ { s.t with xmtol := s.t.xmtol.set n v } ∧
      team ⟨31 + n, by omega⟩ { s.t with xwatch := s.t.xwatch.set n (v &&& 0xFFFFFFFFFFFFFFF3) })

/-- R262, R264, R265 to R267, R349, R351: RDTIME answers Meridian time in ns, PERFQ a counter; MOVX.DST records register values
by lane in a handler and is ILLOP outside one; a service call answers all ones where there is no such service, and blocks
until the services answer otherwise; TRAPI without an acting lane does nothing. -/
def Sys2Proof.Claims.TimeCountersServices : Prop :=
  ∀ (s : State) (c : SReg) (h l : BitVec 6) (g : Fin 64) (b : Blocked),
    let code := (h ++ l).toNat
    ScalarRuns (.rdtime c) s c (BitVec.ofNat 64 (s.clock / 3)) ∧
    ScalarRuns (.perfq c 0) s c (BitVec.ofNat 64 s.w.issued) ∧ ScalarRuns (.perfq c 1) s c (BitVec.ofNat 64 s.w.granted) ∧
    (∀ n ∈ ([2, 3, 4, 5, 6, 7, 8, 9, 11] : List (Fin 64)), ScalarRuns (.perfq c n) s c (BitVec.ofNat 64 (s.t.perf.getD n 0))) ∧
    (s.t.resident = true → ScalarRuns (.perfq c 10) s c (BitVec.ofNat 64 (s.t.residentNs + (s.now - s.t.since)))) ∧
    (CanTrap s → Runs (.movxDst g) s (TrapTaken 1 7 s.w.cur.mask 0 s.w.issuePc s)) ∧
    (∀ (f : Frame) (n : Nat), s.w.inHandler = true → s.w.frame = some f →
      (f.dst = .none ∧ n = 0 ∨ (∃ d, f.dst = .regs d n) ∨ (∃ m, f.dst = .mask m) ∧ n = 1) →
      (n ≠ 0 → g.val % n = 0) → g.val + n ≤ s.t.n →
      Runs (.movxDst g) s (Past 4 { s with
        w := { s.w with xtdst := some (n, (List.range 32).map fun i => (List.range n).map fun k => (s.w.lane i).reg (g.val + k)) } })) ∧
    (s.w.acting = 0 → Runs (.trapi h l) s (Past 4 s)) ∧
    (s.w.acting ≠ 0 →
      (3842 ≤ code → ScalarRuns (.trapi h l) s 63 (BitVec.allOnes 64)) ∧
      (3840 ≤ code → code < 3842 →
        (s.w.cur.blocked = none → s.w.runIdx.isSome = true → Runs (.trapi h l) s fun t =>
          Waits s t ∧ t.w.cur.blocked.bind (·.key) = some (3, code)) ∧
        (s.w.cur.blocked = some b → b.done = false → Runs (.trapi h l) s (Waits s)) ∧
        (s.w.cur.blocked = some b → b.done = true → ScalarRuns (.trapi h l) s 63 (BitVec.ofNat 64 b.num))))

/-- Special registers, time, counters and services.
Where the manual leaves it open this is the model's reading or choice: logs 50, 51 and 62. -/
def Obligations.SystemInstructions : Prop := Claims.SystemRegisters ∧ Claims.TimeCountersServices

/-- R222, R223: MLOOP.OPEN on tiles that no other loop holds records the loop at its clause header, with POLICY 1 after writing
each tile's snapshot into the window; executed again after a restart it only goes on; CLOSE ends the loop. While a matrix
instruction of the set runs, or other work touches the snapshot area, OPEN waits; a word of the wrong form is ILLOP.
Where the manual leaves it open this is the model's reading or choice: DEDUCED, log 47. -/
def Sys2Proof.Claims.MatrixLoops : Prop :=
  ∀ (s : State) (a : SReg) (c : Clause),
    let v := (s.w.sreg a).toNat
    let tiles := (List.range 4).filter (v % 16).testBit
    let snap := bitsOf v 39 20
    let loop : MLoop := { point := c.addr, tiles := v % 16, policy := bitsOf v 4 4, limit := bitsOf v 7 5, snap
                          saved := tiles.map fun n => (n, (s.tile n).kind, (s.tile n).flags, (s.tile n).sel) }
    let opened := fun (u : State) => Past 4 { u with w := { u.w with mloop := some loop } }
    let area : Range := { team := s.t.id, lo := snap, hi := snap + tiles.length * snapBytes }
    let formed := v < 2 ^ 40 ∧ bitsOf v 19 8 = 0 ∧ v % 16 ≠ 0 ∧ snap % 256 = 0 ∧ (bitsOf v 4 4 = 1 ∨ snap = 0)
    let first := ∀ l, s.w.mloop = some l → l.redirect = false
    let open_ := (copiesFor s).any (fun k => anyMeets [area] k.ranges) = false ∧
      (opsFor s).any (fun o => anyMeets [area] o.ranges) = false ∧ atomsHold s [area] = false ∧ s.c.test = none
    s.w.used ≤ 1 →
    Runs .mloopClose s (Past 4 { s with w := { s.w with mloop := none } }) ∧
    (¬ formed → CanTrap s → Runs (.mloopOpen a) s (TrapTaken 1 3 s.w.cur.mask (BitVec.ofNat 64 a.val) s.w.issuePc s)) ∧
    (formed → matrixForbidden s tiles = false → s.w.cur.clause = some c →
      (first → teamBusy s tiles = false →
        (bitsOf v 4 4 = 0 → Runs (.mloopOpen a) s (opened s)) ∧
        (bitsOf v 4 4 = 1 → snap + tiles.length * snapBytes ≤ s.t.window →
          (open_ → Runs (.mloopOpen a) s (opened (tiles.zipIdx.foldl
            (fun u n => windowWrite u s.t.id (snap + snapBytes * n.2) (clean (s.tile n.1).snapshot)) s))) ∧
          (¬ open_ → Runs (.mloopOpen a) s (Waits s)))) ∧
      (first → teamBusy s tiles = true → (bitsOf v 4 4 = 0 ∨ snap + tiles.length * snapBytes ≤ s.t.window) →
        Runs (.mloopOpen a) s (Waits s)) ∧
      (∀ l, s.w.mloop = some l → l.redirect = true →
        Runs (.mloopOpen a) s (Past 4 { s with w := { s.w with mloop := some { l with redirect := false } } })))

/-- A tile-region statement's control word: its shape, its tiles with their places, and the rows its lanes own. -/
def Sys2Proof.regionOf (c : W64) : List (Nat × Nat × Nat) := regionTiles (c.toNat % 4) (bitsOf c.toNat 3 2)

/-- R200, R203, R208, R209, R212, R214: MMA and MMAG whose operands are well formed and in range enter the array as the youngest
instruction, with the acting lanes' rows; the B flag counts, and the tiles take the layout's tolerance selector. They wait for a
self-test, for what copies and atomics are yet to write of their operands, and for an absent peer. -/
def Sys2Proof.Claims.MatrixIssue : Prop :=
  ∀ (s : State) (y : Layout) (c b a : SReg) (p : Team),
    let ctl := s.w.sreg c
    let ad := s.w.sreg a
    let bd := s.w.sreg b
    let scaled := y == .ce16
    let bytes := ctlSteps ctl * Layout.k y * Layout.elemBytes y
    let rows := regionRows (ctlShape ctl)
    let cols := regionCols (ctlShape ctl) (y == .cf64)
    let rs := vecRanges p.id ad rows bytes scaled ++ colRanges s.t.id bd cols bytes scaled
    let sel := match y with | .ce16 => 0 | .cf32 => 1 | .cf64 => 2
    let formed := fun (peer : Bool) => ctlMalformed ctl true = false ∧ sdMalformed ad scaled peer = false ∧
      bdMalformed bd [1] scaled = false ∧ matrixForbidden s ((regionOf ctl).map (·.1)) = false
    let fine := fun (peer : Bool) => formed peer ∧
      firstOut p.window (vecSpans ad rows bytes scaled) = none ∧ firstOut (s.t.share / 32) (colSpans bd cols bytes scaled) = none ∧
      ∀ z ∈ regionOf ctl, (s.tile z.1).kind = Layout.kind y
    let free := s.c.test = none ∧ s.t.bwait = false ∧ (copiesFor s).any (fun k => anyMeets rs (k.dstRanges k.team)) = false ∧
      atomsHold s rs = false
    let issued := fun (t : State) => ∃ o : MatOp,
      o.team = s.t.id ∧ o.wave = s.w.num ∧ o.layout = y ∧ o.zt = ctlZt ctl ∧ o.shape = ctlShape ctl ∧ o.steps = ctlSteps ctl ∧
      o.done = 0 ∧ o.a = ad ∧ o.b = bd ∧ o.aTeam = p.id ∧ o.lanes = s.w.acting ∧ o.flag = s.w.mark true ∧
      (∀ n, (t.tile n).rows = (s.tile n).rows ∧ (t.tile n).flags = (s.tile n).flags) ∧
      (∀ z ∈ regionOf ctl, z.1 < s.t.tiles.length → (t.tile z.1).sel = if (s.tile z.1).sel = 3 then 3 else sel) ∧
      (∀ e ∈ t.w.paths, e.st = .run → e.mat = true) ∧
      Past 4 { s with w := s.w.flagUp o.flag, c := { s.c with array := s.c.array ++ [o] }
                      t := { s.t with tiles := t.t.tiles } } t
    (fine false → p = { s.t with waves := s.w :: s.t.waves } →
      (free → Runs (.mma y c b a) s issued) ∧ (¬ free → Runs (.mma y c b a) s (Waits s))) ∧
    (s.gangTeam (sdRank ad) = some p → sdRank ad < s.t.gangSize →
      (fine true → p.resident = true → p.started = true →
        (free → Runs (.mmag y c b a) s issued) ∧ (¬ free → Runs (.mmag y c b a) s (Waits s))) ∧
      (formed true → p.resident = false ∨ p.started = false → Runs (.mmag y c b a) s (Waits s)))

/-- Matrix loops, and matrix instructions that go to the array. -/
def Obligations.MatrixLoopsAndIssue : Prop := Claims.MatrixLoops ∧ Claims.MatrixIssue

/-- R59 to R61, R208, R210, R214: a step of the array takes the instruction whose turn it is one step on: every element of a row
that its lanes own takes the step's sum, every other element is kept, and after the last step the instruction leaves the array and
its flag falls. A self-test, a hop or a stretch of the clock (R415, R416), a duty window that is used up (R421) and an exchange of the B
store hold the array. R242: where the team that
supplies A has ended, the instruction leaves the array, its flag falls, and its wave has a deferred BOUND with the peer detail.
Where the manual leaves it open this is the model's reading or choice: DESIGN CHOICE, log 96. -/
def Obligations.ArraySteps : Prop :=
  ∀ (s : State) (id : CoreId) (o : MatOp) (rest : List MatOp) (t : Team),
    id.die < 8 → id.core < 48 → (s.core id).array = o :: rest → s.team o.team = some t →
    let held := Core.arrayHeld (s.core id) s.clock o.stepAclk = true ∨ t.bwait = true
    (held → RunsTo (.arrayStep id) s s) ∧
    (¬ held → s.hand.isSome = true → s.t.id = o.team → s.c.die = id.die → s.c.num = id.core → s.t.die = id.die → s.t.core = id.core →
      (peerGone (s.team o.aTeam) o.team = true → s.w.num = o.wave → s.w.ended = false → Runs (.arrayStep id) s fun u =>
        u = { s with
          c := { s.c with array := rest }
          w := { s.w.flagDown o.flag with
            deferred := s.w.deferred ++ [{ cause := 33, detail := 4, addr := 0, pc := o.pc, clause := o.clause, region := o.region, flag := o.flag }] } }) ∧
      (∀ at_ : Team, s.team o.aTeam = some at_ → peerGone (some at_) o.team = false → t.xsinj.msb = false → t.tiles.length = 4 →
        (∀ x ∈ t.tiles, x.rows.length = 64 ∧ ∀ r ∈ x.rows, r.length = 64) →
        (∀ x ∈ t.tiles, x.kind = Layout.kind o.layout) → zonesOk o.shape o.zt = true → o.shape < 4 → o.zt < 4 →
        let a := fun r => (readStrip o.layout o.done (sdDoff o.a + r * sdVp o.a) (sdSoff o.a + r * (sdVp o.a / 8)) (scratchBytes at_)).1
        let b := fun c => (readStrip o.layout o.done (bdDoff o.b + c / 32 * bdPitch o.b) (bdSoff o.b + c / 32 * (bdPitch o.b / 8))
          (bstoreBytes t (c % 32))).1
        let pat := fun (n : Nat) => n % (match Layout.kind o.layout with | .fp32 => 2 ^ 32 | .fp64 => 2 ^ 64)
        let last := o.steps ≤ o.done + 1
        Runs (.arrayStep id) s fun u =>
          (∀ z ∈ regionTiles o.shape o.zt, ∀ i j, i < 64 → j < (t.tiles.getD z.1 {}).kind.cols →
            ((u.t.tiles.getD z.1 {}).elem i j) =
              (if ownsRow o.shape o.lanes (64 * z.2.1 + i)
              then pat (stepElem o.layout ((t.tiles.getD z.1 {}).elem i j) (a (64 * z.2.1 + i))
                (b ((t.tiles.getD z.1 {}).kind.cols * z.2.2 + j))).1
              else (t.tiles.getD z.1 {}).elem i j)) ∧
          (∀ n, (∀ z ∈ regionTiles o.shape o.zt, z.1 ≠ n) → u.t.tiles[n]? = t.tiles[n]?) ∧
          u.c.array = turnArray o.team (if last then rest else { o with done := o.done + 1 } :: rest) ∧
          u.c.dutyUsed = s.c.dutyUsed + o.stepAclk ∧ u.mem = s.mem ∧ u.t.scratch = s.t.scratch ∧ u.t.bstore = s.t.bstore ∧
          (¬ last → u.w = s.w) ∧ (last → s.w.num = o.wave → u.w = s.w.flagDown o.flag)))

/-- R215, R219 to R221, R227, R228: a check passes exactly where no row and no column of the tile leaves its tolerance, and
changes no content; MSEAM checks the named tiles in ascending order and answers their outcomes; MSEAMLOC answers the place
and difference of a SINGLE; MSEAMFIX recomputes that element from its row's seam and checks again; MFLAGS answers and may
clear the tiles' flags; MERRQ answers the oldest entry, with what stays behind it. They wait while the array works on what they
read, and a check waits where the duty window has no room for it (R421). -/
def Obligations.SeamInstructions : Prop :=
  ∀ (s : State) (c : SReg) (m : Fin 64) (x : Tile) (tol : W64) (clear : Bool),
    let n := m.val % 4
    let tiles := (List.range 4).filter m.val.testBit
    let flags := (List.range 4).foldl (fun v k => v + (s.tile k).flags % 32 * 2 ^ (8 * k)) 0
    let row := fun i => lineFails tol (x.kind.fmt.dec ((x.seamCol.getD i 0).toNat)) ((List.range x.kind.cols).map (x.value i))
    let col := fun j => lineFails tol (x.kind.fmt.dec ((x.seamRow.getD j 0).toNat)) ((List.range 64).map (x.value · j))
    let fixed := fun (y : Tile) => ∃ v, y.rows = (s.tile n).rows.set (s.tile n).atRow
        (rowWords (s.tile n).kind (((s.tile n).rowElems (s.tile n).atRow).set (s.tile n).atCol v)) ∧
      v = toTile (s.tile n).kind (exactSum ((s.tile n).kind.fmt.dec (((s.tile n).seamCol.getD (s.tile n).atRow 0).toNat) ::
        ((List.range (s.tile n).kind.cols).filter (· != (s.tile n).atCol)).map fun j => ((s.tile n).value (s.tile n).atRow j).negate))
    (((x.check tol).outcome = 1 ↔ (∀ i, i < 64 → (row i).1 = false) ∧ ∀ j, j < x.kind.cols → (col j).1 = false) ∧
      (x.check tol).rows = x.rows ∧ (x.check tol).seamRow = x.seamRow ∧ (x.check tol).seamCol = x.seamCol ∧
      (∀ i j, (x.check tol).outcome = 2 → (x.check tol).atRow = i → (x.check tol).atCol = j → (row i).1 = true ∧ (col j).1 = true)) ∧
    (arrayBusy s tiles = false → checksFit s tiles.length = true → let u := tiles.foldl checkTile s
      Runs (.mseam c m) s fun t => (∀ k, (t.tile k).rows = (s.tile k).rows) ∧
        (∀ k ∈ tiles, k < s.t.tiles.length → t.tile k = (s.tile k).check (s.t.xmtol.getD (s.tile k).sel 0)) ∧
        Past 4 { u with w := u.w.setS c (BitVec.ofNat 64 (tiles.foldl (fun v k => v + (u.tile k).outcome * 2 ^ (3 * k)) 0)) } t) ∧
    (teamBusy s [n] = false →
      ((s.tile n).outcome = 2 → (s.tile n).atRow < 64 → (s.tile n).atCol < 64 → ∃ v, ScalarRuns (.mseamloc c m) s c v ∧
        v.extractLsb' 32 32 = (s.tile n).diff ∧ v.getLsbD 31 = true ∧ v.extractLsb' 14 17 = 0 ∧
        v.extractLsb' 8 6 = BitVec.ofNat 6 (s.tile n).atCol ∧ v.extractLsb' 6 2 = 0 ∧ v.extractLsb' 0 6 = BitVec.ofNat 6 (s.tile n).atRow) ∧
      ((s.tile n).outcome ≠ 2 → ScalarRuns (.mseamloc c m) s c 0)) ∧
    (arrayBusy s [n] = false → checksFit s 1 = true →
      ((s.tile n).outcome = 2 → n < s.t.tiles.length → Runs (.mseamfix c m) s fun t => fixed (t.tile n) ∧
        (c.val < s.w.s.length → t.w.sreg c = BitVec.ofNat 64 (t.tile n).outcome) ∧ t.mem = s.mem ∧
        (t.t.xseamst.extractLsb' 0 3 = BitVec.ofNat 3 (if (t.tile n).outcome = 1 then 4 else (t.tile n).outcome))) ∧
      ((s.tile n).outcome ≠ 2 → ScalarRuns (.mseamfix c m) s c (BitVec.ofNat 64 (s.tile n).outcome))) ∧
    (teamBusy s [0, 1, 2, 3] = false → Runs (.mflags clear c m) s fun t =>
      (∀ k, k < s.t.tiles.length → k < 4 → (t.tile k) =
        (if clear = true ∧ m.val.testBit k = true then { s.tile k with flags := 0 } else s.tile k)) ∧
      Past 4 { s with t := { s.t with tiles := t.t.tiles }, w := s.w.setS c (BitVec.ofNat 64 flags) } t) ∧
    (arrayBusy s tiles = true ∨ checksFit s tiles.length = false → Runs (.mseam c m) s (Waits s)) ∧
    (teamBusy s [n] = true → Runs (.mseamloc c m) s (Waits s)) ∧
    (arrayBusy s [n] = true ∨ checksFit s 1 = false → Runs (.mseamfix c m) s (Waits s)) ∧
    (teamBusy s [0, 1, 2, 3] = true → Runs (.mflags clear c m) s (Waits s)) ∧
    (s.t.merrq = [] → Runs (.merrq clear c) s fun t =>
      Past 4 { s with w := s.w.setS c 0, t := { s.t with merrqOvf := !clear && s.t.merrqOvf } } t) ∧
    (∀ e rest, s.t.merrq = e :: rest → rest.length < 4 → e.toNat < 2 ^ 59 + 2 ^ 63 → 2 ^ 63 ≤ e.toNat →
      ∃ v : W64, v.extractLsb' 0 59 = e.extractLsb' 0 59 ∧ v.msb = true ∧
        v.getLsbD 59 = s.t.merrqOvf ∧ v.extractLsb' 60 3 = BitVec.ofNat 3 rest.length ∧
        Runs (.merrq clear c) s (Past 4 { s with
          w := s.w.setS c v, t := { s.t with merrq := if clear then [] else rest, merrqOvf := !clear && s.t.merrqOvf } }))

/-- R207, R210, R211, R217: MZERO and MLOADZ write every owned row of their tiles and no other row; MDRAIN writes the epilogue
of every owned element into the window and no other byte of it, and keeps the tiles' contents. The tiles that keep elements
pass their checks first; R216, R223: where one fails, the loop that holds the tile is retried, a loop with snapshots once the self-test is over (R396), or SEAM is taken.
A check waits while the duty window has no room for it (R421). R228: what is
poisoned in the window reads as +0 and marks the tile that it feeds.
Where the manual leaves it open this is the model's reading or choice: DEDUCED, log 47. -/
def Obligations.MatrixData : Prop :=
  ∀ (s u : State) (fp64 strict add : Bool) (c b a : SReg), s.t.tiles.length = 4 → s.t.xsinj.msb = false →
    let region := fun (r : SReg) => regionOf (s.w.sreg r)
    let shape := fun (r : SReg) => ctlShape (s.w.sreg r)
    let free := fun (r : SReg) (more : List Nat) => matrixForbidden s ((region r).map (·.1)) = false ∧
      arrayBusy s ((region r).map (·.1) ++ more) = false
    let owns := fun (r : SReg) (z : Nat × Nat × Nat) i => ownsRow (shape r) s.w.acting (64 * z.2.1 + i)
    let partly := fun (r : SReg) => ((region r).filter fun z => !ownsAll (shape r) s.w.acting z.2.1).map (·.1)
    let kept := fun (r : SReg) (add : Bool) => ((region r).filter fun z => add || !ownsAll (shape r) s.w.acting z.2.1).map (·.1)
    let others := fun (r : SReg) (t : State) => ∀ n, n ∉ (region r).map (·.1) → t.t.tiles[n]? = u.t.tiles[n]?
    let filled := fun (r : SReg) (k : TileKind) (v : Nat × Nat × Nat → Nat → Nat → Nat) (t : State) =>
      others r t ∧ t.mem = s.mem ∧ t.t.scratch = u.t.scratch ∧ ∀ z ∈ region r, (t.tile z.1).kind = k ∧ ∀ i, i < 64 →
        (t.tile z.1).rows[i]? = if owns r z i then (u.tile z.1).rows[i]?.map (fun _ => rowWords k ((List.range k.cols).map (v z i)))
          else (u.tile z.1).rows[i]?
    let own := fun z => (regionTiles (shape c) ((s.w.sreg b).toNat % 4)).find? (fun y => y.2 == z)
    let sum := fun (k : TileKind) (x y : Nat) => if add then (fAdd k.fmt .rne (k.fmt.dec x) (k.fmt.dec y)).1 else y
    (ctlMalformed (s.w.sreg a) false = false → free a [] → checksFit s (partly a).length = true →
      checkTiles s (partly a) = (u, none) →
      let k : TileKind := if fp64 then .fp64 else .fp32
      Runs (.mzero fp64 strict a) s fun t => others a t ∧ t.mem = s.mem ∧ ∀ z ∈ region a,
        (t.tile z.1).kind = k ∧ (t.tile z.1).flags = 0 ∧ (t.tile z.1).sel = (if strict then 3 else if fp64 then 2 else 0) ∧
        ∀ i, i < 64 → (t.tile z.1).rows[i]? = if owns a z i then (u.tile z.1).rows[i]?.map (fun _ => List.replicate 64 0)
          else (u.tile z.1).rows[i]?) ∧
    (ctlMalformed (s.w.sreg c) false = false → ∀ (k : TileKind) (w : Nat), (k = .fp32 ∧ w = 4 ∨ k = .fp64 ∧ w = 8) →
      let ad := s.w.sreg a
      let bytes := k.cols * (if shape c = 1 ∨ shape c = 3 then 2 else 1) * w
      ((s.w.sreg b).toNat = (if k = .fp64 then 1 else 0) → sdMalformed ad false false = false → free c [] →
        firstOut s.t.window (vecSpans ad (regionRows (shape c)) bytes false) = none →
        (copiesFor s).any (fun x => anyMeets (vecRanges s.t.id ad (regionRows (shape c)) bytes false) (x.dstRanges x.team)) = false →
        atomsHold s (vecRanges s.t.id ad (regionRows (shape c)) bytes false) = false → checksFit s (kept c add).length = true →
        checkTiles s (kept c add) = (u, none) →
        let source := fun (z : Nat × Nat × Nat) i j =>
          scratchBytes s.t (sdDoff ad + (64 * z.2.1 + i) * sdVp ad + (k.cols * z.2.2 + j) * w) w
        Runs (.mloadz .scratch add c b a) s fun t =>
          filled c k (fun z i j => sum k ({ u.tile z.1 with kind := k }.elem i j)
            (if anyPoison (source z i j) then 0 else leNat (bytesOf (source z i j)))) t ∧
          ∀ z ∈ region c, (∃ i j, i < 64 ∧ j < k.cols ∧ owns c z i = true ∧ anyPoison (source z i j) = true) →
            (t.tile z.1).flags.testBit 4 = true) ∧
      (∀ p : Team, let bv := (s.w.sreg b).toNat
        let zs := regionTiles (shape c) (bv % 4)
        let srcs := zs.map (·.1)
        let taken := fun (ts : List Tile) => filled c k fun z i j => sum k ({ u.tile z.1 with kind := k }.elem i j)
          ((ts.getD (((own z.2).map (·.1)).getD 0) {}).elem i j)
        let mine := (∀ n ∈ srcs, n ∉ (region c).map (·.1)) ∧ matrixForbidden s srcs = false ∧ free c srcs
        zonesOk (shape c) (bv % 4) = true →
        (bv < 4 → p = s.t → mine → (∀ n ∈ srcs, (s.tile n).kind = k) → checksFit s (srcs.length + (kept c add).length) = true →
          checkMixed p s (byTile ((srcs ++ kept c add).map fun n => (n, false))) = (u, none) →
          Runs (.mloadz .own add c b a) s (taken s.t.tiles)) ∧
        (bv < 512 → bitsOf bv 3 2 = 0 → bitsOf bv 8 4 < s.t.gangSize → s.gangTeam (bitsOf bv 8 4) = some p →
          p.resident = true → p.started = true → (∀ n ∈ srcs, (p.tiles.getD n {}).kind = k) →
          checksFit s (srcs.length + (kept c add).length) = true →
          checkMixed p s (byTile (srcs.map (fun n => (n, p.id != s.t.id)) ++ (kept c add).map fun n => (n, false))) = (u, none) →
          (p.id = s.t.id → mine → Runs (.mloadz .peer add c b a) s (taken p.tiles)) ∧
          (p.id ≠ s.t.id → free c [] → Runs (.mloadz .peer add c b a) s (taken p.tiles))))) ∧
    (let dc := (s.w.sreg b).toNat
     let ep := (s.w.sreg c).toNat
     let ad := s.w.sreg a
     let ctl : W64 := BitVec.ofNat 64 (dc % 16)
     let zones := regionOf ctl
     let k := (s.tile ((zones.map (·.1)).headD 0)).kind
     let w := match outTy (bitsOf dc 10 8) with | some ty => Ty.bits ty / 8 | none => match k with | .fp32 => 4 | .fp64 => 8
     let bw := match k with | .fp32 => 4 | .fp64 => 8
     let bias := fun j => if bitOf dc 13 then (biasAt s.t k (ep % 2 ^ 20 + j * bw)).1 else .num false 0 0
     let cols := k.cols * (if ctlShape ctl = 1 ∨ ctlShape ctl = 3 then 2 else 1)
     let rs : List Range := [{ team := s.t.id, lo := sdDoff ad, hi := sdDoff ad + (regionRows (ctlShape ctl) - 1) * sdVp ad + cols * w }]
     let bs : List Range := if bitOf dc 13 then [{ team := s.t.id, lo := ep % 2 ^ 20, hi := ep % 2 ^ 20 + cols * bw }] else []
     let owned := fun (z : Nat × Nat × Nat) i => ownsRow (ctlShape ctl) s.w.acting (64 * z.2.1 + i)
     let place := fun (z : Nat × Nat × Nat) i j => sdDoff ad + (64 * z.2.1 + i) * sdVp ad + (k.cols * z.2.2 + j) * w
     dc < 2 ^ 15 → bitsOf dc 12 11 ≤ 1 → bitsOf dc 10 8 ≤ 5 → bitsOf dc 7 4 = 0 → zonesOk (ctlShape ctl) (ctlZt ctl) = true →
     bitsOf ep 31 20 = 0 → (bitOf dc 13 = true → ep % 16 = 0) → (bitOf dc 13 = false → bitOf dc 14 = false → ep = 0) →
     sdMalformed ad false false = false →
     matrixForbidden s (zones.map (·.1)) = false → arrayBusy s (zones.map (·.1)) = false → checksFit s zones.length = true →
     firstOut s.t.window (vecSpans ad (regionRows (ctlShape ctl)) (cols * w) false ++
       (if bitOf dc 13 then [(ep % 2 ^ 20, ep % 2 ^ 20 + cols * bw)] else [])) = none →
     (copiesFor s).any (fun x => anyMeets rs x.ranges || anyMeets bs (x.dstRanges x.team)) = false →
     (opsFor s).any (fun o => anyMeets rs o.ranges) = false → atomsHold s (rs ++ bs) = false →
     (∀ z ∈ zones, (s.tile z.1).kind = k) → s.hand.isSome = true → s.MemCanonical →
     (checkTiles s (zones.map (·.1)) = (u, none) →
      Runs (.mdrain c b a) s fun t => t.mem = s.mem ∧ (∀ n, (t.tile n).rows = (s.tile n).rows ∧ (t.tile n).seamRow = (s.tile n).seamRow) ∧
        (cols * w ≤ sdVp ad → ∀ z ∈ zones, ∀ i j, i < 64 → j < k.cols → owned z i = true →
          readBytes t.t.scratch (place z i j) w =
            leBytes w (epilogue k dc (fmtF32.dec (ep / 2 ^ 32)) (bias (k.cols * z.2.2 + j)) ((s.tile z.1).elem i j)).1) ∧
        (∀ p, (∀ z ∈ zones, ∀ i j, i < 64 → j < k.cols → owned z i = true → p < place z i j ∨ place z i j + w ≤ p) →
          readByte t.t.scratch p = readByte s.t.scratch p)) ∧
     (∀ n o, checkTiles s (zones.map (·.1)) = (u, some (n, o)) →
      (∀ l, s.w.mloop = some l → l.tiles.testBit n = true → l.retries < l.limit → s.w.runIdx.isSome = true →
        (l.policy = 0 → Runs (.mdrain c b a) s fun t =>
          t.w.cur.pc = l.point ∧ t.w.cur.clause = none ∧ t.mem = s.mem ∧
          t.w.mloop = some { l with redirect := true, retryDue := false, retries := l.retries + 1 }) ∧
        (l.policy = 1 → Runs (.mdrain c b a) s fun t =>
          t.w.mloop = some { l with retryDue := true } ∧ t.w.cur = s.w.cur ∧ t.granted = false ∧ t.mem = s.mem ∧
          t.c.test.isSome = true)) ∧
      ((∀ l, s.w.mloop = some l → l.tiles.testBit n = false ∨ l.limit ≤ l.retries) → CanTrap s → s.w.runIdx.isSome = true →
        s.w.cur.body = none → Runs (.mdrain c b a) s (RegionTrapTaken 38 (n + o * 4) s.w.cur.mask 0 s.w.issuePc))))

/-- R200, R229 to R236: a tile copy whose registers are well formed and whose ranges pass every check stands youngest in the
core's queue with its operands as issued, and the B flag counts until it retires; while the queue is full it waits. The core's
lines of what it touches are dropped first, and what they hold written goes home.
Where the manual leaves it open this is the model's reading or choice: logs 47 and 48. -/
def Obligations.TileCopyIssue : Prop :=
  ∀ (s u : State) (i : Instr) (op : CopyOp) (r : Option SReg) (c b : SReg) (a : Fin 16) (x : Bool),
    (i = .tcopy x c b a ∧ op = .tcopy x ∧ r = some c ∨ i = .tgather c b a ∧ op = .tgather ∧ r = some c ∨
      i = .tscat c b a ∧ op = .tscat ∧ r = some c ∨ i = .tstore x c b a ∧ op = .tstore x ∧ r = some c ∨
      i = .tloadv b a ∧ op = .tloadv ∧ r = none) →
    let g := (List.range 4).map fun n => s.w.s.getD (4 * a.val + n) 0
    let cv : W64 := match r with | some c => s.w.sreg c | none => 0
    let d := s.w.sreg b
    let multicast := (∃ v, op = .tcopy v) ∧ 2 ≤ sdDest d
    let shape := copyShape op cv g
    let spans := copySpans op cv g
    tensorBad g (4 * a.val) = none → (CopyOp.outward op = true → tStride g ≠ 0) →
    copyCtlBad op (decide multicast) s.t.gangSize cv = false →
    (match op with | .tcopy _ => sdDest d ≤ 3 | .tgather => sdDest d ≤ 1 | _ => sdDest d = 0) →
    (isB d = true → bdMalformed d [1, 3] shape.2 = false) →
    (isB d = false → sdMalformed (BitVec.ofNat 64 (d.toNat % 2 ^ 62)) shape.2 false = false) →
    (multicast → firstOut s.t.window [(ctlStat cv, ctlStat cv + 8)] = none) →
    (¬ multicast → isB d = true → firstOut (s.t.share / 32) (colSpans d (tR g) shape.1 shape.2) = none) →
    (¬ multicast → isB d = false → firstOut s.t.window (vecSpans d (tR g) shape.1 shape.2) = none) →
    (CopyOp.indexed op = true → firstOut s.t.window [(ctlIdx cv, ctlIdx cv + 4 * tR g)] = none) →
    checkSpans s spans = (u, none) →
    (16 ≤ u.c.copies.length → Runs i s (Waits u)) ∧
    (u.c.copies.length < 16 → Runs i s fun t => ∃ k : Copy,
      let v' := spans.foldl (fun v x => flushSpan v v.coreId v.t.space x.ptr x.bytes) u
      let v := if CopyOp.aon op then v'.escape else v'
      k.op = op ∧ k.st = .queued ∧ k.team = s.t.id ∧ k.wave = s.w.num ∧ k.flag = s.w.mark true ∧ k.ctl = cv ∧ k.desc = d ∧
      k.group = g ∧ k.pc = s.w.issuePc ∧ k.region = s.w.cur.region ∧ k.clause = s.w.cur.clause ∧
      k.own = (decide multicast && (ctlRanks cv).testBit s.t.rank) ∧
      k.out = [] ∧ k.fault = none ∧ k.attempts = 0 ∧ k.seqWord = none ∧ CachesOnly u v' ∧ v'.c.copies = u.c.copies ∧
      (∀ x ∈ spans, ∀ y ∈ v'.c.l1, y.space = s.t.space → ¬ (y.line * 64 < x.ptr.toNat + x.bytes ∧ x.ptr.toNat < y.line * 64 + 64)) ∧
      Past 4 { v with
        w := { v.w.flagUp k.flag with copyFlags := v.w.copyFlags ++ (if CopyOp.mayFault op then k.flag.toList else []) }
        c := { v.c with copies := v.c.copies ++ [k] } } t)

/-- R231 to R237, R370, R371: the copy that may begin is in READING until it has read its sources, and is then writing; a page that does not serve parks it,
and goes to the services; a validated read of an odd sequence word is tried again, and after sixteen attempts its destination takes
undefined bytes and TORN is deferred; an AON store waits for an even one; an index beyond the tensor defers a BOUND; a declined page ends
it with a deferred PAGE, an AON store that had not begun to write without any write. A
receiver of a multicast that lies resident takes the data when nothing holds its ranges, else refuses; a copy with all its writes
performed leaves the queue, its flag falls, and what it wrote is in the window or B store, byte for byte, with all other bytes kept;
a multicast writes its status word, an outward copy its global bytes and the exceptions. At its delivery point, a header with E = 1
or one that names the copy's flag, a deferred fault is taken.
Where the manual leaves it open this is the model's reading or choice: logs 7 and 31. -/
def Obligations.TileCopyEvents : Prop :=
  ∀ (s : State) (id : CoreId) (i : Nat) (k : Copy) (t : Team), id.die < 8 → id.core < 48 →
    (s.core id).copies[i]? = some k → s.team k.team = some t →
    let start := RunsTo (.tileCopyStart id i) s
    let reading := s.modCopy id i fun k => { k with st := .reading }
    (startable s id ≠ some i → k.readsOn = false → start s) ∧
    (startable s id = some i ∨ k.readsOn = true →
      (∀ f, k.fault = some f →
        (f.answer = some true → start (s.modCopy id i fun k => { k with fault := none })) ∧
        (f.answer = some false → CopyOp.outward k.op = false →
          start (spoilCopy (deferFault s k 32 (b2n f.write) f.addr) id i k)) ∧
        (f.answer = some false → CopyOp.aon k.op = true → k.seqWord = none →
          start (retireCopy (deferFault s k 32 (b2n f.write) f.addr) id i k))) ∧
      (k.fault = none → aonBegin reading id i k t = none → start reading) ∧
      (∀ r, k.fault = none → aonBegin reading id i k t = some r →
        let q := (copyReads t k).foldl (fun q x => waitRange q t.space x.1 x.2 id.die) r
        let odd := CopyOp.validated k.op = true ∧ seqWordOf q t k % 2 = 1
        let bad := fun (u : State) => if CopyOp.indexed k.op then
            match (copyIndices t k).find? (fun x => tR k.group ≤ x && x != 4294967295) with
            | some x => deferFault u k 33 11 (BitVec.ofNat 64 x)
            | none => u
          else u
        match (firstFault r t.space (copyReads t k) false).or (firstFault r t.space (copyWrites t k) true) with
        | some f => start ((addFault r f).modCopy id i fun k => { k with fault := some f })
        | none =>
          (odd → k.attempts + 1 < 16 → start (q.modCopy id i fun k => { k with attempts := k.attempts + 1 })) ∧
          (odd → 16 ≤ k.attempts + 1 → start (spoilCopy (deferFault q k 37 0 (k.group.getD 0 0)) id i k)) ∧
          (¬ odd → CopyOp.outward k.op = false → start (bad (q.modCopy id i fun x =>
            { x with st := .writing, out := inbound q t k }))) ∧
          (¬ odd → CopyOp.outward k.op = true → start (bad (q.modCopy id i fun x =>
            { x with st := .writing, out := (outbound q t k).1, exc := (outbound q t k).2.list }))))) ∧
    (k.st = .writing → ∀ rank, rank ∈ k.undecided t.gangSize →
      let deliver := RunsTo (.multicastDelivery id i rank) s
      let refused := s.modCopy id i fun k => { k with refused := rank :: k.refused }
      let shape := copyShape k.op k.ctl k.group
      (gangOf s t rank = none → deliver refused) ∧
      (∀ r, gangOf s t rank = some r →
        let rs := if isB k.desc then colRanges r.id k.desc (tR k.group) shape.1 shape.2
          else vecRanges r.id k.desc (tR k.group) shape.1 shape.2
        let fits := if isB k.desc then firstOut (r.share / 32) (colSpans k.desc (tR k.group) shape.1 shape.2) = none
          else firstOut r.window (vecSpans k.desc (tR k.group) shape.1 shape.2) = none
        let free := (isB k.desc = true → r.bwait = false) ∧ (opsFor s).any (fun o => anyMeets rs o.ranges) = false ∧
          (if r.id = k.team then (s.core id).copies.take i else copiesFor s).any (fun c => anyMeets rs c.srcRanges) = false ∧
          atomsHold s rs = false
        (r.resident = false ∨ ¬ fits → deliver refused) ∧
        (r.resident = true → fits → ¬ free → deliver s) ∧
        (r.resident = true → fits → free → deliver ((writeLocal s r.id (isB k.desc) k.out).modCopy id i
          fun k => { k with accepted := rank :: k.accepted })))) ∧
    (k.st = .writing → k.undecided t.gangSize = [] → s.hand = some ⟨k.team, k.wave⟩ → s.waveId = ⟨k.team, k.wave⟩ → s.coreId = id →
      s.c.die = id.die → s.c.num = id.core → s.MemCanonical →
      let retired := fun (v : Wave) (u : State) => u.c.copies = s.c.copies.eraseIdx i ∧
        u.w = v.flagDown k.flag ∧ u.teams = s.teams ∧ u.t.tiles = s.t.tiles ∧
        u.t.perf = s.t.perf.modify 5 (· + k.out.foldl (fun n x => n + x.data.length) 0)
      let laid := fun (place : CopyOut → Nat) (p : Nat) (old : Byte) => k.out.foldl (fun (b : Byte) x =>
        if place x ≤ p ∧ p < place x + x.data.length then (x.data.getD (p - place x) (0, false)).1 else b) old
      let slot := fun (x : CopyOut) => x.ptr.toNat / 2 ^ 20 * (s.t.share / 32) + x.ptr.toNat % 2 ^ 20
      (CopyOp.outward k.op = false → sdDest k.desc < 2 → Runs (.tileCopyRetire id i) s fun u => retired s.w u ∧ u.mem = s.mem ∧
        (isB k.desc = false → u.t.bstore = s.t.bstore ∧
          ∀ p, readByte u.t.scratch p = laid (fun x => x.ptr.toNat) p (readByte s.t.scratch p)) ∧
        (isB k.desc = true → u.t.scratch = s.t.scratch ∧ ∀ p, readByte u.t.bstore p = laid slot p (readByte s.t.bstore p))) ∧
      (CopyOp.outward k.op = false → 2 ≤ sdDest k.desc → Runs (.tileCopyRetire id i) s fun u => retired s.w u ∧ u.mem = s.mem ∧
        u.t.bstore = s.t.bstore ∧
        readBytes u.t.scratch (ctlStat k.ctl) 8 = leBytes 8 (k.refused.foldl (fun a r => a ||| 2 ^ r) 0) ∧
        ∀ p, p < ctlStat k.ctl ∨ ctlStat k.ctl + 8 ≤ p → readByte u.t.scratch p = readByte s.t.scratch p) ∧
      (CopyOp.outward k.op = true → Runs (.tileCopyRetire id i) s fun u => u.mem = (performOut s id i k t.space).mem ∧
        u.t.scratch = s.t.scratch ∧ u.t.bstore = s.t.bstore ∧
        retired { s.w with flg := (List.range 5).map fun n => s.w.flg.getD n 0 ||| (if k.exc.getD n false then 1 else 0) } u)) ∧
    (∀ (w : WaveId) (d : Deferred) (ends : Bool) (m : MReg) (setb seta : Fin 16) (wait : BitVec 12), s.hand = some w →
      s.w.cur.clause = none → s.w.runIdx.isSome = true → s.w.reports = [] → CanTrap s → s.w.cur.body = none →
      s.t.isHeader s.w.cur.pc = true → s.t.fetch s.w.cur.pc = some (.ok (.clause ends m setb seta wait)) → s.copiesReading = false →
      (∀ x ∈ s.w.deferred, ∀ n, x.flag = some n → n < 12) →
      let due := fun (x : Deferred) => ends || match x.flag with | some n => wait.getLsbD n && s.w.f.getD n 0 == 0 | none => false
      (s.w.deferred.find? due = none → RunsTo (.deferredFault w) s s) ∧
      (s.w.deferred.find? due = some d → Runs (.deferredFault w) s fun u =>
        RegionTrapTaken d.cause d.detail s.w.cur.mask d.addr d.pc u ∧
        u.w.deferred = s.w.deferred.filter (·.region != d.region) ∧ u.mem = s.mem))

/-- R254, R255, R315: ENQ releases at PKG and answers its card's fate: a scope number when the card is queued (the scope is open
and counts in its parent, the card is the queue's youngest), else the code of what stood against it. The device's read of the private object's entry waits for a page under migration (R270).
Where the manual leaves it open this is the model's reading or choice: DESIGN CHOICE, log 40. -/
def Obligations.Enqueue : Prop :=
  ∀ (s u : State) (c b : SReg) (q : Fin 64),
    let p := s.w.sreg b
    let k := (u.release .pkg).escape
    let part := k.t.part
    let x := k.queue part q.val
    let card := deviceBytes k p 256
    let own := match k.space k.t.space with | some sp => sp.table | none => 0
    let r := waitPrivate k part (cardTable (some own) card) card
    let answers := fun (k : State) (n : Nat) => Past 4 { k with w := k.w.setS c (BitVec.ofNat 64 (n * 2 ^ 56)) }
    AccessOpen p 256 { rights := [0], kinds := [0], align := 64 } (settleAtoms s) u →
    ((x.device = false ∨ x.enable = false) → Runs (.enq c b q) s (answers k 3)) ∧
    (x.device = true → x.enable = true → ∀ (code : Nat) (table : W64), examine r part (some own) card = (code, table) →
      (code ≠ 0 → Runs (.enq c b q) s (answers r code)) ∧
      (code = 0 →
        (x.cap ≤ x.tail - x.head → Runs (.enq c b q) s (answers r 2)) ∧
        (∀ parent, x.tail - x.head < x.cap →
          (if cardParent card = 65535 then r.launch.map (·.scope) else some (cardParent card)) = some parent →
          ((255 < parent ∨ (r.scope part parent).st ≠ .open_) → Runs (.enq c b q) s (answers r 4)) ∧
          (∀ n pt, parent ≤ 255 → (r.scope part parent).st = .open_ → r.part part = some pt →
            pt.scopes.findIdx? (·.st == .free) = some n → Runs (.enq c b q) s fun t =>
              (c.val < u.w.s.length → t.w.sreg c = BitVec.ofNat 64 n) ∧
              (t.scope part n).st = .open_ ∧ (t.scope part n).kind = .launch ∧ (t.scope part n).parent = some parent ∧
              (t.scope part parent).count = (r.scope part parent).count + 1 ∧ (t.queue part q.val).tail = x.tail + 1 ∧
              ∃ l ∈ t.launches, l.queue = q.val ∧ l.num = x.tail ∧ l.scope = n ∧ l.card = card ∧ l.host = false ∧ l.done = false))))

/-- R238, R239, R241: JOB on a chain with room appends its card as the next of the chain, counted in the finish scope it names
while that is open (a card that names another is answered 3), and counts on B; on a full chain it blocks. The page of the ring slot has to
serve the write (R311). JSEQ answers the
sequence word after an acquire at its scope.
Where the manual leaves it open this is the model's reading or choice: DEDUCED, log 36, and DESIGN CHOICE, logs 123, 124
and 126. -/
def Obligations.ChainInstructions : Prop :=
  ∀ (s u v : State) (sc : Scope) (c b a : SReg),
    let p := s.w.sreg a
    let q := s.w.sreg b
    let x := flushLine v p
    let z := (slotAcc x (chainSlot x x.t.space x.t.die p (homeWord x p 2))).1
    let served := (slotAcc x (chainSlot x x.t.space x.t.die p (homeWord x p 2))).2.bad = none
    let y := (loadBytes z z.coreId z.t.space q z.w.al1 z.w.acc 256).1
    let card := bytesOf (loadBytes z z.coreId z.t.space q z.w.al1 z.w.acc 256).2
    let r := (y.release ((cardScope card).getD .die)).escape
    let n := cardWord card 6
    let open_ := n ≤ 255 ∧ (r.scope r.t.part n).st = .open_
    (AccessOpen p 64 (wantObject true) (settleAtoms s) u → AccessOpen q 256 { rights := [0], kinds := [0], align := 256 } u v →
      chainLegal (homeWord x p 1) = true →
      (homeWord x p 2 - homeWord x p 3 < chainCap (homeWord x p 1) → served → Runs (.job b a) s fun t =>
        (∃ k, k.load = false ∧ k.flag = r.w.mark true ∧ Past 4 ((appendJob r p card).launchPend k) t) ∧
        ∃ k, t.cards = r.cards ++ [k] ∧ k.chain = p ∧ k.space = r.t.space ∧ k.num = chainWord r r.t.space r.t.die p 2 ∧ k.taken = false ∧
          (n = 65535 → k.counted = none ∧ k.status = none) ∧
          (n ≠ 65535 → open_ → k.counted = some n ∧ k.status = none) ∧ (n ≠ 65535 → ¬ open_ → k.counted = none ∧ k.status = some 3)) ∧
      (chainCap (homeWord x p 1) ≤ homeWord x p 2 - homeWord x p 3 → Runs (.job b a) s (Waits x))) ∧
    (AccessOpen p 64 { rights := [0], kinds := [0], align := 64 } (settleAtoms s) u → chainLegal (homeWord (flushLine u p) p 1) = true →
      let k := (flushLine u p).acquire sc
      Runs (.jseq sc c a) s (Past 4 { k with w := k.w.setS c (BitVec.ofNat 64 (homeWord k p 4)) }))

/-- R256 to R258, R323: the finish scopes of programs. FSOPEN opens the lowest free entry under an open scope, counted there;
FSCLOSE closes; a closed scope with nothing outstanding is complete; FSQ answers the result word; FSCANCEL cancels with error
4 where none stands; FSWAIT on a completed user scope answers its word after an acquire at DOMAIN and gives the entry back,
and blocks before its completion, or answers at its deadline.
Where the manual leaves it open this is the model's reading or choice: DESIGN CHOICE, log 52. -/
def Obligations.FinishScopes : Prop :=
  ∀ (s : State) (pt : Part) (n : Nat) (tmo : Bool) (c b a : SReg),
    let part := s.t.part
    let v := s.w.sreg a
    let f := s.scope part n
    let lives := ∃ o, f.owner = some o ∧ s.lives o = true
    s.part part = some pt → namedScope s v = some n →
    (f.st = .open_ → ∀ k, pt.scopes.findIdx? (·.st == .free) = some k → Runs (.fsopen c a) s fun t =>
      (c.val < s.w.s.length → t.w.sreg c = BitVec.ofNat 64 k) ∧ (t.scope part k).st = .open_ ∧ (t.scope part k).kind = .user ∧
      (t.scope part k).count = 0 ∧ (t.scope part k).parent = some n ∧ (t.scope part k).owner = some s.t.id ∧
      (t.scope part n).count = f.count + 1 ∧ t.t.escaped = true ∧ t.mem = s.mem) ∧
    ((f.st ≠ .open_ ∨ pt.scopes.all (·.st != .free) = true) →
      Runs (.fsopen c a) s (Past 4 { s.escape with w := s.w.setS c 65535 })) ∧
    (f.st = .open_ → f.count ≠ 0 → Runs (.fsclose a) s
      (Past 4 (s.escape.modScope part n fun f => { f with st := .closed }))) ∧
    (f.st = .open_ → f.count = 0 → f.done = false → f.kind = .user → lives → Runs (.fsclose a) s fun t =>
      (t.scope part n).st = .complete ∧ (t.scope part n).done = true ∧ t.t.escaped = true ∧ t.w.lanes = s.w.lanes ∧ t.w.s = s.w.s) ∧
    (f.st ≠ .open_ → f.st ≠ .free → Runs (.fsclose a) s (Past 4 s.escape)) ∧
    (∃ w, ScalarRuns (.fsq c a) s c w ∧ w.extractLsb' 0 32 = BitVec.ofNat 32 f.count ∧
      w.extractLsb' 48 8 = BitVec.ofNat 8 f.err ∧ w.extractLsb' 56 8 = (match f.st with
        | .free => 0 | .open_ => 1 | .closed => 2 | .complete => 3 | .cancelled => if f.count = 0 then 4 else 5)) ∧
    (f.st = .open_ → f.count ≠ 0 → f.parent = none → subtree s.escape.advanceNR part n = [n] →
      (∀ l ∈ s.launches, l.part = part → l.scope ≠ n) → Runs (.fscancel a) s fun t =>
        (t.scope part n).st = .cancelled ∧ (t.scope part n).err = (if f.err = 0 then 4 else f.err) ∧ (t.scope part n).count = f.count ∧
        t.cards = s.cards.map (fun k => if k.part = part ∧ k.counted = some n ∧ ¬ k.started ∧ k.status = none then { k with status := some 4 } else k) ∧
        t.mem = s.mem) ∧
    (s.w.cur.blocked = none → f.st ≠ .free → (∀ l, s.launch = some l → n ∉ ancestors s part l.scope 256) →
      (f.done = true → f.kind = .user → let r := (s.modScope part n fun _ => {}).acquire .domain
        Runs (.fswait tmo c b a) s (Past 4 { r with w := r.w.setS c f.word })) ∧
      (f.done = false → tmo = false → Runs (.fswait tmo c b a) s (Waits s)) ∧
      (f.done = false → tmo = true → s.w.sreg b = 0 → ScalarRuns (.fswait tmo c b a) s c f.word))

/-- R38, R245 to R252, R273, R274, R363: capsules. CAPB tries every acting lane's record in ascending order and enters the body;
CSTEP commits every holding lane's step; CAPE commits the last one and leaves the body, adopted lanes at XCAPRET, while lanes
displaced wait for their messages; CAPADOPT moves the lanes that adopt to the record's resume address; CAPQ answers the lock word.
CAPB and CAPADOPT are acquires whatever they find, and ILLOP in a lane that holds a record.
Where the manual leaves it open this is the model's reading or choice: DEDUCED, log 32. -/
def Obligations.CapsuleInstructions : Prop :=
  ∀ (s v : State) (pkg : Bool) (m g : Fin 64) (c a : SReg) (xs : List Acc),
    let u := settleAtoms s
    let lanes := lanesOf u.w.acting
    let home := fun (k : State) => xs.foldl (fun k x => flushLine (waitMoving k k.t.space (pAddr x.addr) k.t.die) x.addr) k
    let pc := s.w.cur.pc
    let bodyIs := fun (t : State) (b : Body → Body → Prop) => ∀ x, s.w.cur.body = some x → ∃ y, t.w.cur.body = some y ∧ b x y
    s.w.runIdx.isSome = true →
    (anyHolding s.w = true → CanTrap s → Runs (.capb pkg m g) s (TrapTaken 1 7 s.w.cur.mask 0 s.w.issuePc s) ∧
      Runs (.capadopt pkg m g) s (TrapTaken 1 7 s.w.cur.mask 0 s.w.issuePc s)) ∧
    (anyHolding s.w = false → AllPass (capAcc true g.val) lanes u v xs →
      let k := (lanes.foldl (acquireOne pkg m.val g.val) (home v)).acquire (capScope pkg)
      Runs (.capb pkg m g) s fun t => Past 4 (if anyHolding k.w then k.escape else k) t ∧
        ∃ b, t.w.cur.body = some b ∧ b.pkg = pkg ∧ b.resume = pc + 4 ∧ b.steps = 0 ∧ b.count = 0) ∧
    (let k := (committers u.w).foldl (commitOne false) u;
      Runs .cstep s fun t => Past 4 k t ∧ bodyIs t fun x y => y.steps = x.steps + 1 ∧ y.stgs = 0 ∧ y.resume = pc + 4 ∧
        y.count = x.count + 1 ∧ y.base = y.count) ∧
    (let k := (committers u.w).foldl (commitOne true) u;
      (∀ b, s.w.cur.blocked = some b → b.done = false) →
      ((∀ i, i < 32 → s.w.cur.mask.getLsbD i = true → (u.w.lane i).adopted = false) → leavers k.w = 0 →
        let r := (owed k.w).foldl receiveOne k
        (owed r.w = [] → Runs .cape s fun t => Past 4 r t ∧ t.w.cur.body = none) ∧
        (owed r.w ≠ [] → Runs .cape s fun t => Waits { r with order := r.order + 1 } t ∧
          t.w.cur.blocked.map (·.mails) = some ((owed r.w).map fun i => boxKey r (r.w.lane i).mail) ∧
          t.w.cur.blocked.map (·.done) = some true)) ∧
      (∀ k, reserveAll u (committers u.w) = .full k → Runs .cape s (Waits k)) ∧
      (∀ k, reserveAll u (committers u.w) = .all k → let e := (committers u.w).foldl (commitOne true) k;
        leavers e.w ≠ 0 → e.w.cur.mask &&& ~~~leavers e.w = 0 → e.w.xcapret.getLsbD 0 = false → e.t.lacks e.w.xcapret = false →
        e.t.isHeader e.w.xcapret = true →
        Runs .cape s fun t => Jumped e.w.xcapret { e with w := { e.w with
            lanes := e.w.lanes.map fun (l : Lane) => if (leavers e.w).getLsbD l.id then Lane.release l else l
            paths := e.w.paths.map fun (x : Entry) => if x.st = .run then { x with region := e.w.xcapret } else x } } t ∧
          t.w.cur.body = none)) ∧
    (anyHolding s.w = false → AllPass (capAcc false g.val) lanes u v xs →
      let r := xs.foldl (fun k x => flushLine k x.addr) v
      let at_ := fun (low : Nat) => (BitVec.ofNat 64 (homeWord r (groupPtr r.w low g.val 0) 1) : W64)
      ((∀ i ∈ lanes, adoptable r (groupPtr r.w i g.val 0) = false) →
        Runs (.capadopt pkg m g) s (Past 4 ((adoptNone m.val (home r) lanes).acquire (capScope pkg)))) ∧
      (∀ low, lanes.find? (fun i => adoptable r (groupPtr r.w i g.val 0)) = some low →
        let got := adopters r g.val (at_ low).toNat (64 - tableUse r r.coreId) lanes []
        let k := (got.foldl (adoptOne pkg m.val g.val) (home r)).acquire (capScope pkg)
        let e := adoptNone m.val (if got = [] then k else k.escape) (lanes.filter fun i => !got.contains i)
        (at_ low).getLsbD 0 = false → r.t.lacks (at_ low) = false → r.t.isHeader (at_ low) = true →
        (got = [] → Runs (.capadopt pkg m g) s (Past 4 e)) ∧
        (got ≠ [] → r.w.cur.mask &&& ~~~maskOf got.contains = 0 →
          Runs (.capadopt pkg m g) s fun t => Jumped (at_ low) { e with w := { e.w with
            paths := e.w.paths.map fun (x : Entry) => if x.st = .run then { x with region := at_ low } else x } } t ∧
          ∃ b, t.w.cur.body = some b ∧ b.pkg = pkg ∧ b.resume = at_ low ∧
            b.steps = lockStep (homeWord r (groupPtr r.w low g.val 0) 0) ∧ b.count = 0))) ∧
    (AccessOpen (s.w.sreg a) 64 (wantObject false) u v →
      let k := (flushLine v (s.w.sreg a)).acquire .die
      Runs (.capq c a) s (Past 4 { k with w := k.w.setS c (BitVec.ofNat 64 (homeWord k (s.w.sreg a) 0)) }))

/-- R38, R248 to R250: one lane's part of CAPB, of a commit and of an adoption. A lane that finds its record free, while the
core's table has room, holds it from then on; a lane whose record another owner has taken is displaced, and its held stores
are gone; a lane that commits counts a step; the masks say which lanes got their record.
Where the manual leaves it open this is the model's reading or choice: DEDUCED, log 32. -/
def Obligations.CapsuleLanes : Prop :=
  ∀ (s : State) (pkg cape : Bool) (m g i : Nat), i < 32 → s.w.lanes.length = 32 → (∀ (n : Nat) (x : Lane), s.w.lanes[n]? = some x → x.id = n) →
    let p := groupPtr s.w i g 0
    let v := homeWord s p 0
    let bits := fun (n k : Nat) (t : State) => ∀ j q, j < n → q = (m + j) % 16 → q ≠ 0 → q ≠ 15 → q < s.w.m.length →
      (t.w.m.getD q 0).getLsbD i = decide (j = k)
    let rest := fun (t : State) => ∀ n, n ≠ i → t.w.lane n = s.w.lane n
    let l := s.w.lane i
    let mine := homeWord (flushLine s l.capPtr) l.capPtr 0
    let b := acquireOne pkg m g s i
    let d := commitOne cape s i
    (lockState v = 0 → tableUse s s.coreId < 64 → bits 3 0 b ∧ rest b ∧ (b.w.lane i).holding = true ∧ (b.w.lane i).capPtr = p ∧
      (b.w.lane i).capStep = 0 ∧ (b.w.lane i).capPkg = pkg ∧ (b.w.lane i).displaced = false ∧ (b.w.lane i).adopted = false ∧
      (b.w.lane i).held = [] ∧ (b.w.lane i).mail = groupPtr s.w i g 1 ∧ (b.w.lane i).g = l.g ∧ (b.w.lane i).k = l.k) ∧
    (lockState v ≠ 0 ∨ 64 ≤ tableUse s s.coreId → bits 3 (if adoptable s p then 1 else 2) b ∧ b.w.lanes = s.w.lanes ∧ b.mem = s.mem) ∧
    (lockOwner mine ≠ capId s.t s.w.num i ∨ lockStep mine ≠ l.capStep % 256 → rest d ∧ (d.w.lane i).displaced = true ∧
      (d.w.lane i).held = [] ∧ (d.w.lane i).holding = l.holding ∧ (d.w.lane i).capStep = l.capStep) ∧
    (lockOwner mine = capId s.t s.w.num i → lockStep mine = l.capStep % 256 → rest d ∧ (d.w.lane i).held = [] ∧
      (d.w.lane i).capStep = l.capStep + 1 ∧ (d.w.lane i).g = l.g ∧ (d.w.lane i).k = l.k ∧
      (cape = true → l.adopted = false → (d.w.lane i).holding = false) ∧ (cape = false → (d.w.lane i).holding = l.holding)) ∧
    (let e := adoptOne pkg m g s i;
      bits 2 0 e ∧ rest e ∧ (e.w.lane i).holding = true ∧ (e.w.lane i).adopted = true ∧ (e.w.lane i).capPtr = p ∧
      (e.w.lane i).capFrom = (capOrigin s (boxKey s p) v).1 ∧ (e.w.lane i).capStep = lockStep v ∧
      (e.w.lane i).capBase = (capOrigin s (boxKey s p) v).2 ∧ (e.w.lane i).g = l.g)

/-- R324 to R327, R377, R379: at an opportunity the scheduler grants to an eligible wave or umbra that is able to issue, if there is
one; of these to the one promoted longest, and, where none is promoted, to one that no other ranks before. A wave is taken in hand
with its counts, and its oldest READY entry runs where none did; an umbra is granted with its leader in hand, whose path does not run. A wave passed
over counts, one that is not eligible begins anew, and after 4,096 it is promoted.
Where the manual leaves it open this is the model's reading or choice: logs 3, 30 and 56. -/
def Obligations.Scheduling : Prop :=
  ∀ (s : State) (id : CoreId) (sched : Nat), id.die < 8 → id.core < 48 → sched < 4 →
    let all := cands s id sched
    let turn := (s.core id).turn.getD sched 0
    let able := fun (y : Cand) => y ∈ all ∧ y.able = true
    (∀ g, grantee s id sched = some g → g ∈ all ∧ ((∃ y, able y) → g.able = true) ∧
      (g.able = true →
        ((∀ y, able y → y.promoted = none) → ∀ y, able y → ranksBefore turn y g = false) ∧
        ∀ y p, able y → y.promoted = some p → ∃ q, g.promoted = some q ∧ q ≤ p)) ∧
    (grantee s id sched = none ↔ all = []) ∧
    (s.granted = false → opportunity s id = false → RunsTo (.issueOpportunity id sched) s s) ∧
    (s.granted = false → opportunity s id = true →
      (all = [] → RunsTo (.issueOpportunity id sched) s (s.passOver (schedWaves s id sched) [])) ∧
      (∀ (g : Cand) (t : Team) (w : Wave) (x : Umbra), grantee s id sched = some g → g.umbra = true → s.hand = none → s.wave g.id = none →
        s.teams.find? (·.id == g.t.id) = some t → t.waves.find? (·.num == g.w.num) = some w → w.umbra = some x →
        Runs (.issueOpportunity id sched) s fun u => u.granted = true ∧ u.under = true ∧ u.hand = some ⟨g.t.id, g.w.num⟩ ∧
          u.w.umbra = some { x with ungranted := 0, promoted := none } ∧ u.w.num = g.w.num ∧ u.w.lanes = w.lanes ∧ u.w.s = w.s ∧
          u.w.m = w.m ∧ u.w.paths = w.paths ∧ u.t.id = g.t.id ∧ u.t.opps = t.opps ∧ u.mem = s.mem) ∧
      (∀ (g : Cand) (t : Team) (w : Wave), grantee s id sched = some g → g.umbra = false → s.hand = none →
        s.teams.find? (·.id == g.t.id) = some t → t.waves.find? (·.num == g.w.num) = some w →
        Runs (.issueOpportunity id sched) s fun u => u.granted = true ∧ u.hand = some g.id ∧ u.w.num = g.w.num ∧
          u.w.granted = w.granted + 1 ∧ u.w.ungranted = 0 ∧ u.w.promoted = none ∧ u.w.lanes = w.lanes ∧ u.w.s = w.s ∧ u.w.m = w.m ∧
          u.w.paths = w.pick.paths ∧ u.t.id = g.t.id ∧ u.t.opps = t.opps + 1 ∧ u.t.scratch = t.scratch ∧ u.c.lastPart = some t.part ∧
          u.mem = s.mem)) ∧
    (∀ w : WaveId, s.hand = some w → s.waveId = w →
      (∀ waiting : List WaveId, let u := s.passOver [w] waiting
        let n := if waiting.contains w then s.w.ungranted + 1 else 0
        u = { s with w := { s.w with ungranted := n }, due := if n = 4096 then s.due ++ [.promote w] else s.due }) ∧
      (4096 ≤ s.w.ungranted → s.w.promoted = none →
        RunsTo (.wavePromotion w) s { s with w := { s.w with promoted := some s.order }, order := s.order + 1 }))

/-- R28 to R30, R189, R193, R197, R257, R264, R290, R347, R420: fairness rotates the running entry; starvation, spool deadlocks and
barrier deadlocks become reports of the waves concerned; a pending report is taken as a trap; a blocked instruction whose
condition holds goes on; at its deadline a wait ends with its timeout answer.
Where the manual leaves it open this is the model's reading or choice: logs 54, 55 and 56. -/
def Obligations.ProgressEvents : Prop :=
  ∀ (s u : State) (w : WaveId), s.hand = some w → s.waveId = w →
    (s.w.fairDue = true → s.w.reports = [] → s.w.ext = none → Runs (.fairnessIntervalExpiry w) s fun t =>
      t = { s with w := { s.w with paths := t.w.paths, umbra := t.w.umbra }, order := s.order + 1 } ∧
      (s.w.umbra = none → t.w.umbra = none) ∧
      ∀ i a k b, s.w.runIdx = some i → s.w.paths[i]? = some a → s.w.oldestReady = some k → s.w.paths[k]? = some b →
        (∃ q, t.w.paths[i]? = some q ∧ q.st = .ready ∧ q.pc = a.pc ∧ q.mask = a.mask ∧ q.clause = a.clause) ∧
        (∃ q, t.w.paths[k]? = some q ∧ q.st = .run ∧ q.pc = b.pc ∧ q.mask = b.mask ∧ q.clause = b.clause) ∧
        ∀ n, n ≠ i → n ≠ k → t.w.paths[n]? = s.w.paths[n]?) ∧
    (∀ e, s.w.starved.getLast? = some e → Runs (.hangSib w) s fun t =>
      t = { s with w := { s.w with reports := t.w.reports, paths := t.w.paths, frame := t.w.frame } } ∧
      t.w.counted = s.w.counted.map (fun x => if x.starved (hangLimit s.w) then { x with starve := 0 } else x) ∧
      (s.w.frame.isSome = true → t.w.paths = s.w.paths) ∧
      ∃ r ∈ t.w.reports, r.cause = 48 ∧ r.detail = 0 ∧ r.lanes = e.mask ∧ r.pc = s.w.issuePc) ∧
    (s.w.starved = [] → RunsTo (.hangSib w) s s) ∧
    ((∀ v ∈ s.t.waves, v.num ≠ w.wave) → let t : Team := { s.t with waves := s.w :: s.t.waves }
      (∀ n, spoolDeadlock s t n = true → s.t.reported.contains (false, n) = false → (s.t.spools.getD n {}).gang = false →
        s.w.ended = false → Runs (.spoolDl w.team n) s fun v => v.t.reported = (false, n) :: s.t.reported ∧ v.mem = s.mem ∧
          v.w.lanes = s.w.lanes ∧ ∃ r ∈ v.w.reports, r.cause = 49 ∧
            (spoolRole s t n [t.id] t s.w = 1 → r.detail = n ∧ v.w.cur.blocked = none) ∧ (spoolRole s t n [t.id] t s.w ≠ 1 → r.detail = n + 16)) ∧
      (∀ n, barDeadlock t n = true → s.t.reported.contains (true, n) = false → barStuck n s.w = true → s.w.ended = false →
        Runs (.barrierDeadlock w.team n) s fun v => v.t.reported = (true, n) :: s.t.reported ∧ v.mem = s.mem ∧
          v.w.paths = s.w.paths ∧ ∃ r ∈ v.w.reports, r.cause = 48 ∧ r.detail = 2 ∧ r.lanes = missingLanes n s.w)) ∧
    (s.w.inHandler = true → s.w.umbra = none → RunsTo (.trapEntry w) s s) ∧
    (∀ r rest, s.w.reports = r :: rest → r.async = false → CanTrap s → s.w.midway = false → s.w.runIdx.isSome = true → s.w.umbra = none →
      Runs (.trapEntry w) s (TrapTaken r.cause r.detail r.lanes 0 r.pc { s with w := { s.w with reports := rest } })) ∧
    (s.t.resident = false → RunsTo (.blockedReevaluation w) s s) ∧
    (∀ b i, s.w.cur.blocked = some b → s.t.fetch b.pc = some (.ok i) → s.t.resident = true → s.w.umbra = none →
      (∀ hi lo, i = .waitf hi lo →
        ((∀ n, n < 12 → (hi ++ lo).getLsbD n = true → s.w.f.getD n 0 = 0) →
          Runs (.blockedReevaluation w) s fun t => t.granted = s.granted ∧ Past 4 s { t with granted := false }) ∧
        ((∃ n, n < 12 ∧ (hi ++ lo).getLsbD n = true ∧ s.w.f.getD n 0 ≠ 0) → RunsTo (.blockedReevaluation w) s s)) ∧
      ∀ d, b.deadline = some d → let late : State := { s with clock := max s.clock (3 * d) }
        (∀ abs a, i = .sleept abs a → Runs (.sleeptWake w) s fun t => t.granted = s.granted ∧ Past 4 late { t with granted := false }) ∧
        (∀ c a n p, i = .spop c a n → s.w.pend = [] → ctlTmo (s.w.sreg a) ≠ 0 → s.t.spools[n.val]? = some p → p.tail ≤ p.head →
          popBad s (s.w.sreg a) n.val = false →
          Runs (.spopTimeout w) s fun t => t.clock = late.clock ∧ t.t.spools = s.t.spools ∧ t.w.cur.blocked = none ∧
            ∃ q, lastPend t = some q ∧ q.flag = s.w.mark false ∧ ∃ x ∈ q.writes, x.scalar = true ∧ x.reg = a.val ∧
              x.val.extractLsb' 56 8 = 3) ∧
        (∀ c a p x, i = .mrecv c a p → s.w.pend = [] → ctlTmo (s.w.sreg a) ≠ 0 → BoxOpen false (s.w.sreg p) (settleAtoms late) u x →
          u.w = s.w → u.clock = late.clock → u.waits = s.waits → x.held = 0 → Runs (.mrecvTimeout w) s fun t => t.clock = u.clock ∧ t.mem = u.mem ∧
            ∃ q, lastPend t = some q ∧ q.flag = s.w.mark false ∧ ∃ y ∈ q.writes, y.scalar = true ∧ y.reg = a.val ∧
              y.val.extractLsb' 56 8 = 3) ∧
        (∀ tmo c a p n, i = .fswait tmo c a p → namedScope s (s.w.sreg p) = some n → b.key = some (scopeKey s.t.part n) →
          b.done = false → (s.scope s.t.part n).done = false → Runs (.fswaitTimeout w) s fun t => t.granted = s.granted ∧
            Past 4 { late with w := s.w.setS c (s.scope s.t.part n).word } { t with granted := false }))

/-- R26, R32, R256, R329, R353 to R355: a draw starts a fresh wave of the drawn threads, each with its index and its
carried registers, at the bin's address; a kill stops every wave of the team and counts; a team that has ended leaves its
slot, and its launch scope counts one team less. -/
def Sys2Proof.Claims.TeamLife : Prop :=
  ∀ (s : State) (t : Team) (l : Launch), s.launches.find? (·.id == t.launch) = some l →
    (∀ (w : WaveId) (num b : Nat) (bin : Bin), s.hand = some w → s.waveId = w → s.w.num ≠ num →
      t = { s.t with waves := s.w :: s.t.waves } → t.freeWave = some num → drawable t = some b → s.t.bins[b]? = some bin → t.ending = none →
      Runs (.binDraw w.team) s fun u => u.w = s.w ∧ u.mem = s.mem ∧
        u.t.bins = (if bin.threads.length ≤ 32 then s.t.bins.eraseIdx b else s.t.bins.set b { bin with threads := bin.threads.drop 32 }) ∧
        ∃ v ∈ u.t.waves, v.num = num ∧ v.pend = [] ∧ v.ended = false ∧ v.cur.pc = bin.key ∧ v.cur.region = bin.key ∧
          (∀ i, i < 32 → v.live.getLsbD i = decide (i < bin.threads.length)) ∧
          v.xprog = cardXprog l.card ∧ v.xfprm = cardXfprm l.card ∧ v.s.take 4 = [t.index, num, t.rank, t.w].map (BitVec.ofNat 64) ∧
          ∀ i (x : W32 × List W32 × Nat), i < 32 → bin.threads[i]? = some x → (v.lane i).tid = x.1 ∧
            ∀ r y, r < t.n → x.2.1[r]? = some y → (v.lane i).g[r]? = some y) ∧
    (∀ w : WaveId, s.hand = some w → s.waveId = w → t = { s.t with waves := s.w :: s.t.waves } →
      (s.allTeams.filter fun x => x.launch == t.launch && x.gang == t.gang) = [t] → t.ending = none →
      let before := ((l.kills.find? (·.1 == t.gang)).map (·.2)).getD 0
      let again := cardIdempotent l.card = true ∧ t.escaped = false ∧ before < 3
      Runs (.teamKill w.team) s fun u => u.w.ended = true ∧ u.w.live = 0 ∧ (∀ v ∈ u.t.waves, v.ended = true) ∧ u.t.bins = [] ∧
        (again → u.t.ending = some 256) ∧ (¬ again → u.t.ending = some 1) ∧ .teamEnd w.team ∈ u.due ∧
        (∃ x ∈ u.launches, x.id = l.id ∧ x.kills.head? = some (t.gang, before + 1) ∧ x.stopped.head? = some (t.gang, [t.rank])) ∧
        ∃ e, u.log.getLast? = some e ∧ e.die = t.die ∧ e.unit_ = t.core ∧ e.block = 13) ∧
    (s.hand = none → s.team t.id = some t → endable s t = true → (t.ending = none ∨ ∃ e, t.ending = some e ∧ e < 256) →
      2 ≤ (s.scope t.part l.scope).count → (s.scope t.part l.scope).done = false →
      Runs (.teamEnd t.id) s fun u => (∀ x ∈ u.teams, x.id ≠ t.id) ∧ u.hand = none ∧
        (u.scope t.part l.scope).count = (s.scope t.part l.scope).count - 1 ∧
        (u.scope t.part l.scope).st = (s.scope t.part l.scope).st ∧
        (u.scope t.part l.scope).err = (if (s.scope t.part l.scope).err = 0 then t.ending.getD 0 else (s.scope t.part l.scope).err))

/-- R213, R223, R353, R381: a first mismatch discards what is held and queued and restarts the leader, and with it the umbra, where the
operation's path was at its region entry, all registers of both kept; at the point of the open loop it restores the loop's tiles, once no
matrix instruction works on them. A second one before the next region boundary unwinds a hem with TWIN, or has the team killed. -/
def Sys2Proof.Claims.UmbraMismatch : Prop :=
  ∀ (s : State) (path : Nat) (region : W64) (e : Entry) (x : Umbra), s.w.umbra = some x → s.w.paths[path]? = some e → e.st ≠ .free →
    let back := fun (p : Entry → Prop) (t : State) => t.granted = false ∧ t.under = false ∧ t.mem = s.mem ∧ t.w.lanes = s.w.lanes ∧
      t.w.s = s.w.s ∧ t.w.m = s.w.m ∧ t.w.pend = s.w.pend.filter (fun y => !y.held) ∧ t.w.cmpWait = false ∧
      (∃ r, t.w.paths[path]? = some r ∧ p r) ∧ (∀ n, n ≠ path → t.w.paths[n]? = s.w.paths[n]?) ∧
      ∃ y, t.w.umbra = some y ∧ y.trail = [] ∧ y.miss = some (region, true) ∧ y.course.paths = t.w.paths ∧ y.s = x.s ∧ y.m = x.m
    let there := fun (r : Entry) => r.pc = region ∧ r.region = region ∧ r.clause = none ∧ r.blocked = none ∧ r.mask = e.mask ∧
      r.st = (if e.st = .waitJoin then .ready else e.st)
    let plain := ∀ l, s.w.mloop = some l → l.point ≠ region
    (plain → x.miss = none → back there (umbraMismatch s path region) ∧ (umbraMismatch s path region).due = s.due) ∧
    (∀ l, s.w.mloop = some l → l.point = region →
      (teamBusy s l.list = true → umbraMismatch s path region = { s with granted := false, under := false }) ∧
      (teamBusy s l.list = false → x.miss = none → back there (umbraMismatch s path region) ∧
        (umbraMismatch s path region).w.mloop = some { l with redirect := true } ∧
        (umbraMismatch s path region).t.tiles = (restoreLoop s l).t.tiles)) ∧
    (plain → x.miss ≠ none → s.w.hems = [] → back there (umbraMismatch s path region) ∧
      (umbraMismatch s path region).due = .teamKill s.t.id :: s.due ∧
      ∃ y, (umbraMismatch s path region).w.umbra = some y ∧ y.failed = true) ∧
    (∀ h rest, plain → x.miss ≠ none → s.w.hems = h :: rest → (s.t.slotOf h).isSome = true → let t := umbraMismatch s path region
      t.w.hems = rest ∧ t.w.cur.pc = h ∧ t.w.cur.mask = s.w.live ∧ t.w.inHandler = false ∧ t.w.xtcause = 40 ∧ t.w.xtlanes = e.mask ∧
      t.w.xtpc = region ∧ t.mem = s.mem)

/-- R378, R380, R381: the umbra submits what its own registers give of the operation that it has come to. Where the leader's recorded fields
are the same, what the buffer holds is performed and the umbra takes the leader's result; an operation that the leader waits with may
act; a difference, also one that the hardware alone finds, is a mismatch. -/
def Sys2Proof.Claims.UmbraComparison : Prop :=
  ∀ (s : State) (w : WaveId) (u : Umbra) (equal : Bool), s.hand = some w → s.waveId = w → s.w.umbra.map Umbra.settled = some u →
    let mine := fun (i : Instr) => Instr.fields i (s.w.under u)
    let comes := RunsTo (.umbraComparison w equal) s
    (∀ o rest, u.trail = .op o :: rest →
      (o.todo = false ∨ s.w.umbraWork = false → comes s) ∧
      (o.todo = true → s.w.umbraWork = true →
        (equal = true → mine o.i = o.fields → comes ((if o.held then performBuffered s else s).setUmbra (u.taken s.w o))) ∧
        (equal = false ∨ mine o.i ≠ o.fields → comes (umbraMismatch s o.path o.region)))) ∧
    (∀ i pc rest, u.trail = .own i pc :: rest → comes s) ∧
    (u.trail = [] → s.w.cmpWait = true → ∀ i, s.t.fetch s.w.cur.pc = some (.ok i) →
      (equal = true → mine i = Instr.fields i s.w → comes { s with
        w := { s.w with umbra := some u, cmpWait := false, cmpOk := true, held := false } }) ∧
      (equal = false ∨ mine i ≠ Instr.fields i s.w → comes (umbraMismatch s (s.w.runIdx.getD 0) s.w.cur.region)))

/-- The life of a team and its waves, and the comparison of leader and umbra.
Where the manual leaves it open this is the model's reading or choice: logs 30, 57, 58 and 101. -/
def Obligations.TeamEvents : Prop := Claims.TeamLife ∧ Claims.UmbraMismatch ∧ Claims.UmbraComparison

/-- R39, R113, R302, R303, R305, R306, R308, R310, R311, R312, R351, R352: shootdowns leave no copy of what they name; one that makes
pages not present flushes their lines first, or waits for a page under migration; the fault service maps an absent page to a zeroed
frame by one entry, or declines, and all that waited for the page learns the answer; the lanes of a parked entry whose faults are
all answered become READY, in an entry of their own while others still wait, or take PAGE; the services answer the wave that called; a fill lands with its code, or not at all.
Where the manual leaves it open this is the model's reading or choice: logs 46, 60, 61 and 116. -/
def Obligations.PageEvents : Prop :=
  ∀ (s : State) (w : WaveId), s.hand = some w → s.waveId = w → s.MemCanonical →
    let quiet := ∀ p ∈ s.parts, ∀ h ∈ p.hwatch, h.msb = false
    (∀ space lo len,
      let gone := fun (t : State) => (∀ k ∈ t.c :: t.cores, ∀ x ∈ k.pages ++ k.port, x.meets space lo len = false) ∧
        ∀ d ∈ t.dies, ∀ x ∈ d.xlat, x.meets space lo len = false
      Runs (.translationShootdown space lo ⟨len, false⟩) s (fun t => t.w = s.w ∧ t.t = s.t ∧ t.mem = s.mem ∧ gone t ∧
        t.c.desc = s.c.desc ∧ t.c.l1 = s.c.l1 ∧ ∀ x ∈ s.c.pages, x.meets space lo len = false → x ∈ t.c.pages) ∧
      (s.lost = [] → quiet → s.root space % 8 = 0 → ((s.c :: s.cores).map fun k => (k.die, k.num)).Nodup → (s.dies.map (·.num)).Nodup →
        let here := fun (x : Line) => x.space = space ∧ lo ≤ lineVa x.line ∧ lineVa x.line < lo + len
        let clean := (∀ k ∈ s.c :: s.cores, ∀ x ∈ k.l1, x.space = space → x.isDirty = false) ∧
          ∀ d ∈ s.dies, ∀ x ∈ d.cc, x.space = space → x.isDirty = false
        let unmapped := fun (t : State) => t.w = s.w ∧ gone t ∧ (∀ k ∈ t.c :: t.cores, ∀ x ∈ k.l1, ¬ here x) ∧
          (∀ d ∈ t.dies, ∀ x ∈ d.cc, ¬ here x) ∧ ∀ p l e, lo / 65536 ≤ p → p < (lo + len + 65535) / 65536 →
            walk t.mem (t.root space) (p * 65536) = .leaf l e → bitsOf e 63 62 = 2
        Runs (.translationShootdown space lo ⟨len, true⟩) s fun t => (t = s ∨ unmapped t) ∧ (clean → unmapped t))) ∧
    (∀ space obj, Runs (.descriptorShootdown space obj) s fun t => t.w = s.w ∧ t.t = s.t ∧ t.mem = s.mem ∧ t.dies = s.dies ∧
      (∀ k ∈ t.c :: t.cores, ∀ x ∈ k.desc, ¬ (x.space = space ∧ x.obj = obj)) ∧ t.c.pages = s.c.pages ∧ t.c.l1 = s.c.l1 ∧
      ∀ x ∈ s.c.desc, ¬ (x.space = space ∧ x.obj = obj) → x ∈ t.c.desc) ∧
    (∀ i f, s.faults[i]? = some f →
      let told := fun (ok : Bool) (t : State) => t.w.paths = s.w.paths.map (Entry.answered f ok) ∧ t.w.lanes = s.w.lanes ∧
        ∀ x ∈ t.faults, ¬ (x.space = f.space ∧ x.page = f.page)
      let stop := walkStop s.mem (f.page * 65536) [0, 1, 2, 3] (s.root f.space)
      Runs (.pageFaultService i .decline) s (fun t => told false t ∧ t.mem = s.mem) ∧
      (∀ frame ts,
        (stop.2.2 = .malformed → Runs (.pageFaultService i (.serve frame ts)) s (fun t => told false t ∧ t.mem = s.mem)) ∧
        (∀ l e, stop.2.2 = .leaf l e →
          (f.write = false ∨ bitsOf e 63 62 = 0 → Runs (.pageFaultService i (.serve frame ts)) s (fun t => told true t ∧ t.mem = s.mem)) ∧
          (f.write = true → bitsOf e 63 62 = 2 → RunsTo (.pageFaultService i (.serve frame ts)) s s))) ∧
      ∀ l a frame, stop = (l, a, .absent) → 1 ≤ l → l ≤ 3 →
        frame % 2 ^ pageBits l = 0 → frameOk frame (2 ^ pageBits l) = true → a + 8 ≤ frame ∨ frame + 2 ^ pageBits l ≤ a →
        isLost s a = false → quiet →
        Runs (.pageFaultService i (.serve frame [])) s fun t => told true t ∧
          ∀ p, readByte t.mem p = if a ≤ p ∧ p < a + 8 then (leBytes 8 (2 ^ 52 + frame + 1)).getD (p - a) 0
            else if frame ≤ p ∧ p < frame + 2 ^ pageBits l then 0 else readByte s.mem p) ∧
    (∀ i e, s.w.paths[i]? = some e → e.st = .parked → s.t.resident = true → s.w.midway = false → s.w.umbra = none →
      let moved := fun (t : State) => t = { s with w := { s.w with paths := t.w.paths }, order := s.order + 1 }
      (parkReady s.w e = false → RunsTo (.parkedEntryRelease w i) s s) ∧
      ((∀ x ∈ e.parks, x.answer = some true) → s.w.mloop = none → Runs (.parkedEntryRelease w i) s fun t =>
        moved t ∧ (∀ n, n ≠ i → t.w.paths[n]? = s.w.paths[n]?) ∧
        ∃ q, t.w.paths[i]? = some q ∧ q.st = .ready ∧ q.pc = e.pc ∧ q.mask = e.mask ∧ q.region = e.region ∧ q.parks = []) ∧
      (∀ j, (∃ x ∈ e.parks, x.answer = none) → firstDeclined e = none → partsTo s.w e = some j → Runs (.parkedEntryRelease w i) s fun t =>
        moved t ∧ (∀ n, n ≠ i → n ≠ j → t.w.paths[n]? = s.w.paths[n]?) ∧
        (∃ q, t.w.paths[j]? = some q ∧ q.st = .ready ∧ q.pc = e.pc ∧ q.mask = e.answeredLanes ∧ q.region = e.region ∧ q.parks = []) ∧
        ∃ q, t.w.paths[i]? = some q ∧ q.st = .parked ∧ q.pc = e.pc ∧ q.mask = e.mask &&& ~~~e.answeredLanes ∧
          ∀ x ∈ q.parks, x.lanes &&& e.answeredLanes = 0) ∧
      (∀ f, firstDeclined e = some f → CanTrap s → Runs (.parkedEntryRelease w i) s fun t =>
        t.w.inHandler = true ∧ t.w.xtcause = BitVec.ofNat 64 (32 + b2n f.write * 2 ^ 16) ∧ t.w.xtaddr = f.addr ∧ t.w.xtpc = f.pc ∧
        t.w.xtlanes &&& ~~~e.answeredLanes = 0 ∧
        t.w.xtmask = e.mask ∧ t.w.xtreg = e.region ∧ t.w.cur.pc = s.t.xtvec ∧ t.w.cur.mask = s.w.live ∧ t.w.lanes = s.w.lanes ∧
        t.mem = s.mem)) ∧
    (∀ e b, s.w.cur = e → e.blocked = some b → b.done = false →
      (b.key = some (serviceKey 3841) → Runs (.serviceDescriptorShootdown w) s fun t => t.mem = s.mem ∧
        t.w.cur.blocked = some { b with done := true, num := 0 } ∧ t.w.lanes = s.w.lanes ∧
        ∀ x ∈ t.c.desc, ¬ (x.space = s.t.space ∧ x.obj = (s.w.s.getD 60 0).toNat)) ∧
      (b.key = some (serviceKey 3840) → let obj := (s.w.s.getD 60 0).toNat
        let lim := (s.w.s.getD 61 0).toNat
        let answered := fun (n : Nat) (t : State) => t.w.cur.blocked = some { b with done := true, num := n } ∧ t.w.lanes = s.w.lanes ∧
          t.w.s = s.w.s
        ((obj = 0 ∨ 4096 ≤ obj) → Runs (.serviceCommitRaise w) s fun t => answered 2 t ∧ t.mem = s.mem) ∧
        (∀ x sp l, 0 < obj → obj < 4096 → tableEntry s s.t.space obj = some x → s.space s.t.space = some sp →
          s.launches.find? (·.id == s.t.launch) = some l →
          ((lim % 65536 ≠ 0 ∨ lim < x.comlim ∨ x.reslim < lim) → Runs (.serviceCommitRaise w) s fun t => answered 2 t ∧ t.mem = s.mem) ∧
          (lim % 65536 = 0 → x.comlim ≤ lim → lim ≤ x.reslim →
            (lim = x.comlim → Runs (.serviceCommitRaise w) s fun t => answered 0 t ∧ t.mem = s.mem) ∧
            (x.comlim < lim → cardWord l.card 8 % 2 ^ 32 < l.used + (lim - x.comlim) / 65536 →
              Runs (.serviceCommitRaise w) s fun t => answered 1 t ∧ t.mem = s.mem) ∧
            (x.comlim < lim → l.used + (lim - x.comlim) / 65536 ≤ cardWord l.card 8 % 2 ^ 32 →
              Runs (.serviceCommitRaise w) s fun t => answered 0 t ∧
                (∃ y ∈ t.launches, y.id = l.id ∧ y.used = l.used + (lim - x.comlim) / 65536) ∧
                ∀ d ∈ t.c.desc, ¬ (d.space = s.t.space ∧ d.obj = obj)))))) ∧
    (∀ n x bad, s.t.slots[n]? = some x → x.fill = true → s.t.resident = true → x.fault = none →
      firstFault s s.t.space [(x.tag, 4096)] false = none →
      let d := dieRead s s.t.space x.tag 4096 s.t.die
      let flag := match x.waiter with
        | some (k, f) => if k = w.wave then { s.w.flagDown f with held := false } else s.w
        | none => s.w
      (bad = false → anyPoison d = false → Runs (.cfetchFillComplete w.team n bad) s fun t => t.w = flag ∧ t.mem = s.mem ∧
        t.t.started = (s.t.started || n == 0) ∧
        t.t.slots = s.t.slots.set n { x with fill := false, waiter := none, landed := true, poisoned := false, code := codeCells (bytesOf d) }) ∧
      (bad = true → Runs (.cfetchFillComplete w.team n bad) s fun t => t.w = flag ∧ t.mem = s.mem ∧ t.t.started = s.t.started ∧
        t.t.slots = s.t.slots.set n { x with fill := false, waiter := none, landed := false, poisoned := true, code := [] }))

/-- R11, R315 to R323, R336 to R340, R356, R357: a host card is taken into the window with its scope, or refused with its code; a
gang is placed whole, its teams fresh in their slots; a demand waits with its die, unless a reload wants its slots; an eviction
chooses the gang of the lowest priority and takes effect once nothing of the team is in flight and no barrier is partly arrived at; a
reload, a swap, a spill and a prefill move contexts between slots, bank and records, with their registers; after a swap the shares
of the B store are exchanged slot by slot. A team keeps its acquire stamps (R295), and what its core holds of its space is given up; a
receiver of messages that was out waits behind those that blocked meanwhile (R197).
Where the manual leaves it open this is the model's reading or choice: logs 35, 39, 58, 64, 65, 93
and 103. -/
def Obligations.PlacementEvents : Prop :=
  ∀ (s : State) (part q : Nat) (p : Part) (l : Launch) (t : Team) (id : CoreId), s.hand = none → s.part part = some p →
    id.die < 8 → id.core < 48 →
    let x := s.queue part q
    let card := bytesOf (homeRead s (ringSlot x x.head) 256)
    let path := fun (w : Wave) => w.paths.map fun (e : Entry) => ({ e with blocked := e.blocked.map fun (b : Blocked) => { b with order := 0 } } : Entry)
    let same := fun (a b : Team) => b.id = a.id ∧ b.waves.map (·.lanes) = a.waves.map (·.lanes) ∧ b.waves.map (·.s) = a.waves.map (·.s) ∧
      b.waves.map path = a.waves.map path ∧ b.scratch = a.scratch ∧ b.bstore = a.bstore ∧ b.tiles = a.tiles ∧ b.xtvec = a.xtvec
    (p.ready = true → p.verok = true → x.device = false → x.enable = true → x.head < x.tail → windowCards s part q < 32 →
      ∀ code table, examine s part none card = (code, table) →
      (code ≠ 0 → Runs (.hostCardTake part q) s fun u => (u.queue part q).head = x.head + 1 ∧
        (u.queue part q).finished = x.finished + 1 ∧ (u.queue part q).latest = x.head % 2 ^ 56 * 256 + code ∧
        (u.queue part q).tail = x.tail ∧ u.launches = s.launches ∧ u.teams = s.teams) ∧
      (∀ n, code = 0 → cardParent card ≤ 255 → (s.scope part (cardParent card)).st = .open_ → p.scopes.findIdx? (·.st == .free) = some n →
        Runs (.hostCardTake part q) s fun u => (u.queue part q).head = x.head + 1 ∧ (u.queue part q).finished = x.finished ∧
          (u.scope part n).st = .open_ ∧ (u.scope part n).kind = .launch ∧ (u.scope part n).parent = some (cardParent card) ∧
          (u.scope part (cardParent card)).count = (s.scope part (cardParent card)).count + 1 ∧
          ∃ y, u.launches = s.launches ++ [y] ∧ y.queue = q ∧ y.num = x.head ∧ y.card = card ∧ y.scope = n ∧ y.host = true ∧ y.placed = 0 ∧
            ∀ m, x.marks.find? (fun m => x.head < m.1) = some m → y.order = m.2)) ∧
    (∀ (g num : Nat) (cores : List (CoreId × Nat)), s.launches.find? (fun l => l.part == part && l.queue == q && l.num == num && !l.done) = some l →
      l.nextGang = some g → l.again = [] → mayPlace s l = true →
      (∀ y ∈ s.launches, y.part = part → servedBefore y l = true → mayPlace s y = true → placementOf s y = none) →
      reloadFirst s part (cardPriority l.card) = false → placementOf s l = some (cores.map (·.1)) → cores ≠ [] →
      cores.all (fun y => slotFree s y.1 y.2) = true → ∀ r, spaceFor s l.part l.table = some r →
      Runs (.cardPlacement part q num cores) s fun u => (u.scope part l.scope).count = (s.scope part l.scope).count + cores.length ∧
        u.mem = r.1.mem ∧ ∃ ts : List Team, u.teams = s.teams ++ ts ∧ ts.length = cores.length ∧ ∀ (n : Nat) (y : CoreId × Nat) (v : Team),
          cores[n]? = some y → ts[n]? = some v → v.die = y.1.die ∧ v.core = y.1.core ∧ v.slot = y.2 ∧ v.resident = true ∧
            v.started = false ∧ v.space = r.2 ∧ v.rank = n ∧ v.gang = g ∧ v.launch = l.id ∧ v.gangSize = cores.length ∧ v.scratch = [] ∧ v.bstore = [] ∧
            v.window = cardWindow l.card ∧ v.n = cardN l.card ∧ v.waves.length = cardW l.card ∧ v.xtvec = BitVec.ofNat 64 (cardWord l.card 1) ∧
            (∃ y, v.slots[0]? = some y ∧ y.fill = true ∧ y.landed = false ∧ y.tag = BitVec.ofNat 64 (cardWord l.card 0 / 4096 * 4096)) ∧
            ∀ (k : Nat) (w : Wave), v.waves[k]? = some w → w.num = k ∧ w.pend = [] ∧ w.inHandler = false ∧
              w.s.take 4 = [g * cardGang l.card + n, k, n, cardW l.card].map (BitVec.ofNat 64) ∧
              (∀ i, i < 32 → w.live.getLsbD i = decide (k * 32 + i + 1024 * (g * cardGang l.card + n) < cardThreads l.card)) ∧
              (w.live ≠ 0 → w.cur.pc = BitVec.ofNat 64 (cardWord l.card 0)) ∧
              ∀ y ∈ w.lanes, y.g = List.replicate (cardN l.card) 0 ∧ y.k = List.replicate 8 0) ∧
    (∀ cores : List Nat, (∃ y ∈ s.launches, mayPlace s y = true ∧ placementOf s y = none ∧
        id.die ∈ ((s.part y.part).map (·.dies)).getD [] ∧ y.nextGang.map (launchGangSize y) = some cores.length) →
      cores.Nodup → cores.length ≤ 32 → (∀ c ∈ cores, c < 48 ∧ coreOpen s ⟨id.die, c⟩ = true ∧
        (∀ f ∈ (s.die id.die).frozenAt, f.1 ≠ (s.die id.die).consId c) ∧ ∀ y ∈ coreTeams s ⟨id.die, c⟩, y.gangSize ≤ 1) →
      (reloadWants s id.die cores = true → RunsTo (.placementDemand id.die cores) s s) ∧
      (reloadWants s id.die cores = false → RunsTo (.placementDemand id.die cores) s (s.setDie { s.die id.die with demand := cores }))) ∧
    (∀ (num : Nat) (v : Team), s.launches.find? (fun l => l.part == part && l.queue == q && l.num == num && !l.done) = some l →
      mayPlace s l = true → placementOf s l = none → l.since + 100000 ≤ s.now → (∀ y ∈ s.teams, y.part = part → y.evict = none) →
      (∀ y ∈ s.teams, ∀ z ∈ s.teams, y.id = z.id → y = z) → victim s part (cardPriority l.card) = some v →
      Runs (.placementEvictionTrigger part q num) s fun u => v ∈ s.teams ∧ v.part = part ∧ teamPriority s v + 2 ≤ cardPriority l.card ∧
        u.teams = s.teams.map (fun y => if y.launch = v.launch ∧ y.gang = v.gang ∧ y.resident = true then
          { y with evict := some (s.now + 50000) } else y) ∧ u.mem = s.mem) ∧
    (s.team t.id = some t →
      let saved := fun (v : Team) => v.recorded = true ∧ v.record.areas = t.record.areas ∧ v.record.bytes = recordBytes t.record.areas t
      let here := t.die = id.die ∧ t.core = id.core
      (t.resident = true → t.evict.isSome = true → partlyArrived t = true ∨ inFlight s t = true → RunsTo (.slotEviction t.id) s s) ∧
      (t.resident = true → t.ending = none → inFlight s t = false →
        (t.evict.isSome = true → partlyArrived t = false → Runs (.slotEviction t.id) s fun u =>
          ∃ v, u.team t.id = some v ∧ same t v ∧ v.resident = false ∧ saved v ∧ v.evict = none) ∧
        (∀ d, t.evict = some d → Runs (.evictionDeferralExpiry t.id) s fun u => u.clock = max s.clock (3 * d) ∧
          ∃ v, u.team t.id = some v ∧ same t v ∧ v.resident = false ∧ saved v ∧ v.evict = none)) ∧
      (∀ n, n < 4 → waitsReload t = true → slotFree s id n = true → mayReload s t id = true → Runs (.teamReload t.id id n) s fun u =>
        u.mem = s.mem ∧ ∃ v, u.team t.id = some v ∧ same t v ∧ v.resident = true ∧ v.recorded = false ∧ v.die = id.die ∧ v.core = id.core ∧
          v.slot = n ∧ v.slots = t.slots.map (fun y => if y.landed then { y with landed := false, fill := true, waiter := none, code := [] } else y) ∧
          (∀ y ∈ (u.core id).l1, y.space = t.space → y.held = y.dirty) ∧
          ∀ (n : Nat) (x y : Wave), t.waves[n]? = some x → v.waves[n]? = some y → y.al1 = x.al1 ∧ y.acc = x.acc ∧
            ∀ e ∈ y.paths, ∀ b k, e.blocked = some b → b.key = some (1, k) → s.order ≤ b.order) ∧
      ((s.teams.map (·.id)).Nodup → (s.core id).spillDue = false → here →
        let clean := (∀ k ∈ s.cores, ∀ x ∈ k.l1, x.isDirty = false) ∧ (∀ d ∈ s.dies, ∀ x ∈ d.cc, x.isDirty = false) ∧
          ∀ y ∈ s.teams, ∀ w ∈ y.waves, ∀ l ∈ w.lanes, l.holding = false
        let swapped := fun (u : State) => u.clock = s.clock + 3072 ∧
          (t.resident = true → t.shadow = false → ∃ v, u.team t.id = some v ∧ same t v ∧ v.resident = false ∧ v.shadow = true ∧
            (u.core id).spillDue = true) ∧
          (t.resident = false → t.shadow = true → ∃ v, u.team t.id = some v ∧ same t v ∧ v.resident = true ∧ v.shadow = false ∧
            v.slot = t.slot ∧ v.bwait = (t.share != 0) ∧ (t.share ≠ 0 → t.slot < 4 → t.slot ∈ (u.core id).exchange))
        Runs (.shadowSwap id) s fun u => (u = s ∨ swapped u) ∧ (clean → swapped u)) ∧
      ((s.teams.map (·.id)).Nodup → (s.core id).spillDue = true →
        (∀ n rest, (s.core id).exchange = n :: rest → Runs (.spill id) s fun u => (u.core id).exchange = rest ∧
          (u.core id).spillDue = true ∧ u.mem = s.mem ∧ ∃ v, u.team t.id = some v ∧ same t v ∧ v.shadow = t.shadow ∧
            v.bwait = (if t.resident = true ∧ here ∧ t.slot = n then false else t.bwait)) ∧
        ((s.core id).exchange = [] → t.shadow = true → here → Runs (.spill id) s fun u =>
          (u.core id).spillDue = false ∧ u.mem = s.mem ∧ ∃ v, u.team t.id = some v ∧ same t v ∧ v.shadow = false ∧ saved v)) ∧
      (∀ n, (List.range 4).find? (fun n => (s.teams.filter fun y => y.shadow && y.die == id.die && y.core == id.core).all (·.slot != n)) = some n →
        (s.core id).spillDue = false → waitsReload t = true → mayReload s t id = true → Runs (.shadowBankPrefill id t.id) s fun u =>
          u.mem = s.mem ∧ ∃ v, u.team t.id = some v ∧ same t v ∧ v.shadow = true ∧ v.resident = false ∧ v.recorded = false ∧ v.slot = n ∧
            v.die = id.die ∧ v.core = id.core))

/-- R182, R284, R298, R320, R330 to R334, R340 to R342, R414 to R421: an interval re-stitches a die to a proposal that keeps the
rules and gains enough, or to a pending demand that no reload comes before, drops the affected cores' lines, and halves the counters; a
request is written, judged and answered; a freeze at its limit is dropped by every holder, whose lowest wave is told; ratios hop in 200
ns; a droop puts back what comes next, or the end of a hop; duty windows, fillers and energy are counted, and array fillers go beyond DUTY
only within 20 us of a fall; Meridian time is stepped once, else slewed by at most 100 ppm, and never decreases.
Where the manual leaves it open this is the model's reading or choice: logs 66, 79, 80 and 81. -/
def Obligations.RegroupAndPowerEvents : Prop :=
  ∀ (s : State) (id : CoreId), s.hand = none → id.die < 8 → id.core < 48 →
    let d := s.die id.die
    let k := s.core id
    let clean := (∀ k ∈ s.cores, (∀ x ∈ k.l1, x.isDirty = false) ∧ k.copies = []) ∧ (∀ d ∈ s.dies, ∀ x ∈ d.cc, x.isDirty = false) ∧
      ∀ y ∈ s.teams, ∀ w ∈ y.waves, ∀ p ∈ w.pend, p.atoms = []
    let made := fun (new : List (List Nat)) (u : State) => (u.die id.die).cons = sortCons new ∧ (u.die id.die).gen = d.gen + 1 ∧
      ∀ n ∈ affected (sortCons d.cons) (sortCons new), (u.core ⟨id.die, n⟩).l1 = []
    let late : State := { s with clock := max s.clock d.nextRegroup }
    let base := late.setDie { d with lastRegroup := late.clock }
    (∀ proposal, d.demand = [] →
      let tests := proposalOk s id.die proposal = true ∧ sortCons proposal ≠ sortCons d.cons ∧
        (64 + d.hyst) * d.score d.cons ≤ 64 * d.score proposal ∧ d.score d.cons < d.score proposal
      (d.enabled = false → RunsTo (.regroupInterval id.die proposal) s base) ∧
      (d.enabled = true → ¬ tests → RunsTo (.regroupInterval id.die proposal) s (base.setDie (base.die id.die).halve)) ∧
      (d.enabled = true → tests → affected (sortCons d.cons) (sortCons proposal) ≠ [] →
        Runs (.regroupInterval id.die proposal) s fun u =>
          let done := made proposal u ∧ (u.die id.die).xregrp = d.xregrp ∧ u.clock = late.clock
          (u = s ∨ done) ∧ (clean → done))) ∧
    (∀ proposal, d.demand ≠ [] →
      (reloadWants s id.die d.demand = true →
        RunsTo (.regroupInterval id.die proposal) s (base.setDie (base.die id.die).halve)) ∧
      (reloadWants s id.die d.demand = false → let new := gather d.cons d.demand
        proposalOk s id.die new = true → affected (sortCons d.cons) (sortCons new) ≠ [] →
        Runs (.regroupInterval id.die proposal) s fun u =>
          let done := made new u ∧ (u.die id.die).demand = []
          (u = s ∨ done) ∧ (clean → done))) ∧
    (∀ v, dieWindow s id.die = true →
      (d.xregreq.msb = true → RunsTo (.regroupRequest id.die v) s s) ∧
      (d.xregreq.msb = false → Runs (.regroupRequest id.die v) s fun u => (u.die id.die).cons = d.cons ∧ u.mem = s.mem ∧
        let x := (u.die id.die).xregreq
        x.extractLsb' 0 48 = v.extractLsb' 0 48 ∧ x.getLsbD 60 = v.getLsbD 60 ∧ x.msb = v.msb ∧
        x.extractLsb' 61 2 = (if v.msb then 0 else d.xregreq.extractLsb' 61 2) ∧ x.extractLsb' 48 12 = 0)) ∧
    (d.xregreq.msb = false → RunsTo (.regroupRequestDecision id.die) s s) ∧
    (∀ p r new, d.xregreq.msb = true → d.demand = [] → s.partOfDie id.die = some p → judge s p.num id.die = (r, new) →
      (namedTeam s p.num id.die (bitsOf d.xregreq.toNat 47 40) (bitsOf d.xregreq.toNat 39 24) = none → r = 2) ∧
      Runs (.regroupRequestDecision id.die) s fun u =>
        let answered := let x := (u.die id.die).xregreq
          x.msb = false ∧ x.extractLsb' 61 2 = BitVec.ofNat 2 r ∧ x.extractLsb' 0 61 = d.xregreq.extractLsb' 0 61
        (r ≠ 1 → answered ∧ (u.die id.die).cons = d.cons ∧ (u.die id.die).gen = d.gen) ∧
        (r = 1 → affected (sortCons d.cons) (sortCons new) ≠ [] → (u = s ∨ (answered ∧ made new u)) ∧ (clean → answered ∧ made new u))) ∧
    ((s.teams.map (·.id)).Nodup → (∀ t ∈ s.teams, ∀ f ∈ t.freezes, f.count ≠ 0) →
      let limit := d.xfrzmax.toNat % 2 ^ 32
      ((limit = 0 ∨ ∀ f ∈ d.frozenAt, f.1 ≠ d.consId id.core) → RunsTo (.freezeExpired id.die id.core) s s) ∧
      (∀ x, limit ≠ 0 → d.frozenAt.find? (·.1 == d.consId id.core) = some x → Runs (.freezeExpired id.die id.core) s fun u =>
        u.mem = s.mem ∧ u.clock = max s.clock (x.2 + 3000 * limit) ∧
        (∀ t ∈ u.teams, t.freezeOf id.die (d.consId id.core) = 0) ∧
        (∀ f ∈ (u.die id.die).frozenAt, f.1 ≠ d.consId id.core) ∧
        ∀ t ∈ s.teams, ∀ n, t.freezeOf id.die (d.consId id.core) ≠ 0 → lowestWave t = some n →
          ∃ v ∈ u.teams, v.id = t.id ∧ ∃ w ∈ v.waves, w.num = n ∧ ∃ r ∈ w.reports, r.cause = 50)) ∧
    (∀ (p : Part) (v : W64), s.partOfDie id.die = some p → windowOpen s p.num = true → let r := v.toNat % 4
      (r = 3 → RunsTo (.clkselWrite id v) s s) ∧
      (r ≠ 3 → k.hop = none → RunsTo (.clkselWrite id v) s (s.setCore { k with hop := some (s.clock + 600, r) })) ∧
      (r ≠ 3 → k.hop.isSome = true → RunsTo (.clkselWrite id v) s (s.setCore { k with clkHeld := some r }))) ∧
    (∀ end_ r, k.hop = some (end_, r) → Runs (.ratioHopEnd id) s fun u => u.clock = max s.clock end_ ∧ (u.core id).ratio = r ∧
      (u.core id).clkHeld = none ∧ (u.core id).hop = k.clkHeld.map fun h => (max s.clock end_ + 600, h)) ∧
    (k.hop = none → RunsTo (.droopStretch id) s (s.setCore { k with phase := k.phase + 1, late := s.clock + 4 })) ∧
    (∀ end_ r, k.hop = some (end_, r) → RunsTo (.droopStretch id) s (s.setCore { k with hop := some (end_ + 2, r) })) ∧
    (∀ n, Runs (.dutyUpdate id n) s fun u => (u.core id).duty = some (max 10 (min 100 n)) ∧ (u.core id).l1 = k.l1 ∧ u.teams = s.teams) ∧
    (∀ p ∈ s.parts, s.partOfDie id.die = some p →
      (Runs (.dutyWindow id) s fun u => u.clock = max s.clock (k.window + 300000) ∧ u.teams = s.teams ∧ u.mem = s.mem ∧
        (let n := (u.clock - k.window) / 300000
         (u.core id).dutyUsed = k.dutyUsed - n * k.dutyLimit ∧ (u.core id).window = k.window + n * 300000) ∧
        ∃ x ∈ u.parts, x.num = p.num ∧ x.filler = p.filler ∧ ∃ e : W64, x.energy = (p.energy + e.toNat) % 2 ^ 32) ∧
      (∀ steps mj, let used := k.dutyUsed + 64 * steps
        let fell := ∃ x ∈ s.cores, x.die = id.die ∧ ∃ at_, x.fell = some at_ ∧ s.clock ≤ at_ + 60000
        let room := k.dutyLimit + k.windowAclk / 5
        let charged := fun (u : State) => u.teams = s.teams ∧ u.mem = s.mem ∧ (k.lastPart = none → u.parts = s.parts) ∧
          ∀ q x, k.lastPart = some q → s.part q = some x → ∃ y, u.part q = some y ∧ y.energy = x.energy ∧
            y.filler = min (x.filler + mj) 4294967295
        (steps ≠ 0 → (k.array ≠ [] ∨ room < used ∨ (k.dutyLimit < used ∧ ¬ fell)) → RunsTo (.fillerInjection id steps mj) s s) ∧
        (steps ≠ 0 → k.array = [] → (used ≤ k.dutyLimit ∨ (used ≤ room ∧ fell)) → Runs (.fillerInjection id steps mj) s fun u =>
          (u.core id).dutyUsed = used ∧ charged u) ∧
        (steps = 0 → s.granted = false → Runs (.fillerInjection id steps mj) s fun u => (u.core id).dutyUsed = k.dutyUsed ∧ charged u))) ∧
    (∀ offset : Int, Runs (.meridianMeasurement offset) s fun u => s.clock ≤ u.clock ∧ u.teams = s.teams ∧ u.mem = s.mem ∧
      u.offset = max (-2147483648) (min 2147483647 offset) ∧ u.measured = u.clock ∧
      (if s.everLocked = false ∧ s.nextTeam = 1 ∧ 1000000 < offset then (u.now : Int) = s.now + offset ∧ u.locked = true
        else u.clock ≤ s.clock + (s.clock - s.measured) / 10000 ∧ (0 ≤ offset → u.slow = 0) ∧
          (offset < 0 → u.clock = s.clock ∧ (u.slow : Int) = 3 * -offset))) ∧
    ((s.slow < 2 ∨ s.clock < s.slowAt → s.tick.clock = s.clock + 2) ∧
      (2 ≤ s.slow → s.slowAt ≤ s.clock → s.tick.clock = s.clock ∧ s.tick.slow = s.slow - 2 ∧ s.tick.slowAt = s.clock + 20000))

/-- R238 to R240, R307, R310, R312, R374 to R376, R384: an engine takes a chain's next card with its 256 bytes, the chains of a pool in rotation, once the pages it
writes serve; a bulk card that
may start is answered its refusal, or copies or fills and is answered 0, or 1 with poison; a card of the fault service is refused
where its chain, its fields or its coverage are wrong; MIGRATE marks the leaf, then moves the page to its new frame; REPLICATE
points the leaf at its record; a completed card is counted, and the sequence word passes it once every earlier card has completed.
Where the manual leaves it open this is the model's reading or choice: logs 53, 71, 72
and 126. -/
def Obligations.CardEvents : Prop :=
  ∀ (s : State) (i : Nat) (c : Card), s.MemCanonical →
    let quiet := ∀ p ∈ s.parts, ∀ h ∈ p.hwatch, h.msb = false
    let die := cardDie s c
    let len := cardLen c.data
    let status := fun (st : Nat) (u : State) => (u.cards[i]?).bind (·.status) = some st
    (∀ space chain sp key, s.space space = some sp → homeAddr s space chain 0 = some key →
      let word := chainWord s space 0 chain
      let next : Card := { key, chain, space, part := sp.part, num := word 3, taken := true }
      chainLegal (word 1) = true → word 3 < word 2 → takenCards s key < 4 →
      (∀ f, chainFault s space chain (word 3) false = some f → RunsTo (.cardTake space chain) s (addFault s f)) ∧
      (chainFault s space chain (word 3) false = none → hasTurn s next = false → RunsTo (.cardTake space chain) s s) ∧
      (chainFault s space chain (word 3) false = none → hasTurn s next = true → Runs (.cardTake space chain) s fun u =>
        u.mem = (setChainWord s space 0 chain 3 (word 3 + 1)).mem ∧ u.chainTurn key = s.order + 1 ∧ u.order = s.order + 1 ∧
        ∃ x ∈ u.cards, x.key = key ∧ x.num = word 3 ∧ x.taken = true ∧
          x.data = bytesOf (dieRead s space (chainSlot s space 0 chain (word 3)) 256 0))) ∧
    (s.cards[i]? = some c → mayStart s c = true →
      (chainEngine s c = 0 → c.fault = none → ∀ (b : Bool) (j : Instr), (b = true ∧ j = .copy i ∨ b = false ∧ j = .fill i) →
        cardOp c.data = (if b then 1 else 2) →
        (∀ st, bulkRefusal c.data b = some st → Runs j s fun u => status st u ∧ u.mem = s.mem) ∧
        (bulkRefusal c.data b = none → c.progress = 0 → c.poison = false → len ≤ 64 - (cardDst c.data).toNat % 64 →
          let data := if b then dieRead s c.space (cardSrc c.data) len die
            else (List.range len).map fun n => (BitVec.ofNat 8 (cardWord c.data 4 / 2 ^ (8 * (n % 8))), false)
          (b = true → cardCheck s c.space (cardSrc c.data) len false = true ∧ firstFault s c.space [(cardSrc c.data, len)] false = none ∧
            cardLost s c.space (cardSrc c.data) die = false) →
          cardCheck s c.space (cardDst c.data) len true = true → firstFault s c.space [(cardDst c.data, len)] true = none →
          cardLost s c.space (cardDst c.data) die = false → Runs j s fun u =>
            u.mem = (dieWrite s c.space (cardDst c.data) data false (.card die) die).mem ∧ status (b2n (anyPoison data)) u)) ∧
      (chainEngine s c = 0 → ∀ (op : Nat) (j : Instr), (op = 3 ∧ j = .migrate i ∨ op = 4 ∧ j = .replicate i) → cardOp c.data = op →
        (s.serviceChains.contains c.key = false ∨ cardIllegal c.data = true → serviceRefusal s c = some 3) ∧
        (s.serviceChains.contains c.key = true → cardIllegal c.data = false →
          (len = 0 → serviceRefusal s c = some 0) ∧
          (len ≠ 0 → covered c.data false (cardSrc c.data) len = false ∨ covered c.data true (cardDst c.data) len = false →
            serviceRefusal s c = some 2)) ∧
        (∀ st, c.started = false → serviceRefusal s c = some st → Runs j s fun u => status st u ∧ u.mem = s.mem) ∧
        (c.started = true ∨ serviceRefusal s c = none → cardLeaf s c = none → Runs j s fun u => status 1 u ∧ u.mem = s.mem) ∧
        (∀ l a e, c.started = true ∨ serviceRefusal s c = none → cardLeaf s c = some (l, a, e) → isLost s a = false →
          let size := 2 ^ pageBits l
          let va := pAddr (cardSrc c.data) / size * size
          let new := (cardDst c.data).toNat
          let old := pteAddr e
          quiet →
          (op = 3 → c.started = false → bitsOf e 63 62 = 0 → new % size = 0 → frameOk new size = true → withoutM s c.space va size = false →
            Runs j s fun u => (∀ p, readByte u.mem p = if a ≤ p ∧ p < a + 8 then (leBytes 8 (e % 2 ^ 62 + 2 ^ 63)).getD (p - a) 0 else readByte s.mem p) ∧
              (u.cards[i]?).map (·.started) = some true ∧ (u.cards[i]?).map (·.status) = some none) ∧
          (op = 3 → c.started = true → bitsOf e 63 62 = 2 → (new + size ≤ old ∨ old + size ≤ new) → (a + 8 ≤ new ∨ new + size ≤ a) →
            Runs j s fun u => status 0 u ∧ ∀ p, readByte u.mem p =
              if a ≤ p ∧ p < a + 8 then (leBytes 8 (2 ^ 52 + new + 1)).getD (p - a) 0
              else if new ≤ p ∧ p < new + size then readByte s.mem (old + (p - new)) else readByte s.mem p) ∧
          (op = 4 → let rec_ := cardWord c.data 4
            bitsOf e 63 62 = 0 → rec_ % 64 = 0 → recordOk s.mem rec_ size = true → ownerFrame s.mem rec_ va (pageBits l) = old →
            withoutM s c.space va size = false → Runs j s fun u => status 0 u ∧ readBytes u.mem a 8 = leBytes 8 (2 ^ 62 + 2 ^ 52 + rec_ + 1))))) ∧
    (∀ st, s.cards = [c] → i = 0 → c.taken = true → c.finished = false → c.status = some st → cardEvent c.data = false →
      (∀ f, chainFault s c.space c.chain c.num true = some f → RunsTo (.cardCompletion i) s (addFault s f)) ∧
      (chainFault s c.space c.chain c.num true = none →
      let slot := chainSlot s c.space die c.chain c.num
      let a := dieWrite s c.space (slot + 56) (clean (leBytes 8 (st + c.flags * 256))) false (.card die) die
      let b := if st = 0 then a else setChainWord a c.space die c.chain 5 (c.num % 2 ^ 56 * 256 + st)
      (c.counted = none → chainWord b c.space die c.chain 4 = c.num → Runs (.cardCompletion i) s fun u => u.cards = [] ∧
        u.mem = (setChainWord b c.space die c.chain 4 (c.num + 1)).mem ∧ u.teams = s.teams) ∧
      (∀ n, c.counted = some n → 2 ≤ (s.scope c.part n).count → (s.scope c.part n).done = false → Runs (.cardCompletion i) s fun u =>
        (u.scope c.part n).count = (s.scope c.part n).count - 1 ∧ (u.scope c.part n).st = (s.scope c.part n).st ∧
        (u.scope c.part n).err = (if (s.scope c.part n).err = 0 ∧ st ≠ 0 then 3 else (s.scope c.part n).err))))

/-- R374, R384, R409 to R413: a seventeenth collective waits; a collective card that may start is answered 3 where its group, its words or
the matched cards do not agree, 5 where a member was cancelled and 1 where an edge is lost; data of other cards of the group are not taken
for its own; else it writes its operation's result at its destination, poison with it; a chunk of a peer is kept once. Integer
combination wraps.
Where the manual leaves it open this is the model's reading or choice: logs 23 and 70. -/
def Obligations.Collectives : Prop :=
  ∀ (s : State) (i op : Nat) (c : Card) (inputs : List Matched) (j : Instr), s.cards[i]? = some c →
    (op = 16 ∧ j = .allreduce i inputs ∨ op = 17 ∧ j = .reducescatter i inputs ∨ op = 18 ∧ j = .allgather i inputs ∨
      op = 19 ∧ j = .broadcast i inputs) →
    let len := cardLen c.data
    let die := cardDie s c
    let status := fun (st : Nat) (u : State) => (u.cards[i]?).bind (·.status) = some st ∧ u.mem = s.mem
    (16 ≤ collectivesRunning s → c.started = false → RunsTo j s s) ∧
    (cardOp c.data = op → chainEngine s c = 1 → mayStart s c = true → c.fault = none → (collectivesRunning s < 16 ∨ c.started = true) →
      (groupOf c.data = none → Runs j s (status 3)) ∧
      (∀ g, groupOf c.data = some g → ownRank g c.part = none → Runs j s (status 3)) ∧
      (∀ g me, groupOf c.data = some g → ownRank g c.part = some me →
        (cardIllegal c.data = true ∨ collectiveBad op g.length c.data = true → Runs j s (status 3)) ∧
        (∀ t, cardIllegal c.data = false → collectiveBad op g.length c.data = false → opTy c.data = some t →
          ((∃ x ∈ inputs, x.kth ≠ c.kth) → RunsTo j s s) ∧
          ((∀ x ∈ inputs, x.kth = c.kth) →
            let agrees := ∀ n x, inputs[n]? = some x → n ≠ me → x.op = op ∧ x.len = len ∧ x.word = cardWord c.data 4 ∧ x.handle = cardWord c.data 5
            (edgeLost s c.data g me = true → Runs j s (status 1)) ∧
            (edgeLost s c.data g me = false → inputs = [] → Runs j s (status 5)) ∧
            (edgeLost s c.data g me = false → inputs ≠ [] → (inputs.length ≠ g.length ∨ ¬ agrees) → Runs j s (status 3)) ∧
            (edgeLost s c.data g me = false → inputs.length = g.length → agrees →
              (len = 0 → Runs j s (status 0)) ∧
              (let n := destBytes op g.length len
               let reads := op ≠ 19 ∨ opRoot c.data = me
               let own := if op ≠ 19 ∨ opRoot c.data = me then dieRead s c.space (cardSrc c.data) len die else clean (List.replicate len 0)
               let ranks := inputs.zipIdx.map fun x => if x.2 = me then own else withChunks c.got x.2 x.1.data
               let r := collectiveData op c t ranks me
               len ≠ 0 → (reads → covered c.data false (cardSrc c.data) len = true ∧ cardCheck s c.space (cardSrc c.data) len false = true ∧
                 firstFault s c.space [(cardSrc c.data, len)] false = none ∧ cardLost s c.space (cardSrc c.data) die = false) →
               covered c.data true (cardDst c.data) n = true → cardCheck s c.space (cardDst c.data) n true = true →
               firstFault s c.space [(cardDst c.data, n)] true = none → cardLost s c.space (cardDst c.data) die = false →
               Runs j s fun u => u.mem = (dieWrite s c.space (cardDst c.data) r.1 false (.card die) die).mem ∧
                 (u.cards[i]?).bind (·.status) = some (b2n (anyPoison own || anyPoison r.1)) ∧
                 (u.cards[i]?).map (·.flags) = some (excCode r.2))))))) ∧
    (∀ k : Chunk, k.card = i → c.taken = true → c.finished = false →
      ((∃ g ∈ c.got, g.1 = k.rank ∧ g.2.1 = k.off) → RunsTo (.collectiveChunk k) s s) ∧
      (∀ g, groupOf c.data = some g → (∀ g ∈ c.got, ¬ (g.1 = k.rank ∧ g.2.1 = k.off)) →
        (chunkLen c.data g.length k.off ≠ some k.data.length → RunsTo (.collectiveChunk k) s s) ∧
        (chunkLen c.data g.length k.off = some k.data.length → RunsTo (.collectiveChunk k) s
          { s with cards := s.cards.set i { c with got := c.got ++ [(k.rank, k.off, k.data)] } }))) ∧
    (∀ x y, combine 0 .i32 x y = ((x + y) % 2 ^ 32, {}) ∧ combine 0 .i8 x y = ((x + y) % 2 ^ 8, {}))

/-- R402 to R406: a link trains from DOWN to ACTIVE at the width and version both sides run, on eight lanes or on four; it goes DOWN at a
state's limit, and at the third retrain that fails within 1 s; a NAK sends the replay buffer again, and the eighth in a row retrains; a
flit in sequence is taken, one that comes early or does not check asks for a repeat, a duplicate asks for nothing; what the partner
acknowledges leaves the replay buffer; the eighth failure of one bridge flit is recorded and resets the package, which keeps host memory
and the error logs. -/
def Sys2Proof.Claims.LinksAndBridges : Prop :=
  ∀ (s : State) (port : Nat), port < 24 → s.links.length = 24 →
    let l := s.link port
    let others := fun (u : State) => (∀ n, n ≠ port → u.links[n]? = s.links[n]?) ∧ u.mem = s.mem ∧ u.teams = s.teams ∧ u.w = s.w
    let goes := fun (j : Instr) (P : Link → Prop) => Runs j s fun u => others u ∧ P (u.link port)
    (l.st = .down → goes (.linkEnable port) fun x => x.st = .detect ∧ x.since = s.clock ∧ x.failed = false) ∧
    (l.st ≠ .down → RunsTo (.linkEnable port) s s) ∧
    goes (.linkDisable port) (fun x => x.st = .down ∧ x.width = 0 ∧ x.version = 0 ∧ x.peerPkg = 0 ∧ x.peerPort = 0 ∧ x.replay = [] ∧
      x.queue = []) ∧
    (l.st = .detect → goes (.linkDetectComplete port) fun x => x.st = .equalise ∧ x.since = s.clock) ∧
    (l.st = .detect ∨ l.st = .equalise ∨ l.st = .negotiate → Runs (.linkStateTimeout port) s fun u => others u ∧ s.clock ≤ u.clock ∧
      (u.link port).st = .down ∧ (u.link port).width = 0) ∧
    (l.st = .retrain → let c := max s.clock (l.since + 75000000)
      let before := l.retries.filter fun t => c ≤ t + 3000000000
      Runs (.linkStateTimeout port) s fun u => others u ∧ u.clock = c ∧
        (2 ≤ before.length → (u.link port).st = .down ∧ (u.link port).failed = true) ∧
        (before.length < 2 → (u.link port).st = .retrain ∧ (u.link port).since = c ∧ (u.link port).retries = c :: before)) ∧
    (l.st = .down ∨ l.st = .active ∨ l.st = .mismatch → RunsTo (.linkStateTimeout port) s s) ∧
    (∀ lanes low high pkg peer w, l.st = .equalise → let j : Instr := .linkEqualiseComplete port lanes low high pkg peer
      (lanes % 256 ≠ 255 → lanes % 16 ≠ 15 → goes j fun x => x.st = .down) ∧
      ((lanes % 256 = 255 ∧ w = 8 ∨ lanes % 256 ≠ 255 ∧ lanes % 16 = 15 ∧ w = 4) →
        (high = 0 → goes j fun x => x.st = .negotiate ∧ x.width = w) ∧
        (0x10 ≤ high → low ≤ 0x11 → low ≤ high → w = 8 ∨ 0x11 ≤ high → goes j fun x =>
          x.st = .active ∧ x.width = w ∧ x.version = min 0x11 high ∧ x.peerPkg = pkg % 256 ∧ x.peerPort = peer % 32 ∧ x.naks = 0) ∧
        (high = 0x10 → low ≤ high → w = 4 → goes j fun x => x.st = .down ∧ x.failed = true) ∧
        (high ≠ 0 → (high < 0x10 ∨ 0x11 < low) → goes j fun x => x.st = .mismatch ∧ x.version = 0))) ∧
    (l.st = .active → goes (.omsenNak port) fun x => x.replay = l.replay ∧
      (l.naks < 7 → x.st = .active ∧ x.naks = l.naks + 1 ∧ x.replays = min (l.replays + l.replay.length) 65535) ∧
      (7 ≤ l.naks → x.st = .retrain ∧ x.since = s.clock ∧ x.version = 0)) ∧
    (∀ seq ack type ok, l.st = .active → type ≠ 2 → l.rx < 4096 →
      (ok = false ∨ 4 ≤ type → goes (.omsenFlitReceive port seq ack type ok) fun x => x = { l with nakOut := true }) ∧
      (ok = true → type < 4 → let ahead := (seq + 4096 - l.rx) % 4096
        goes (.omsenFlitReceive port seq ack type ok) fun x => x.st = .active ∧ x.acked = ack % 4096 ∧
          (ack % 4096 ≠ l.acked → x.naks = 0 ∧
            ∀ i, l.queue = [] → l.replay.findIdx? (·.1 == ack % 4096) = some i → x.replay = l.replay.drop (i + 1)) ∧
          (ahead = 1 → x.rx = seq % 4096 ∧ x.nakOut = false) ∧ (1 < ahead → ahead ≤ 2048 → x.rx = l.rx ∧ x.nakOut = true) ∧
          (ahead = 0 ∨ 2048 < ahead → x.rx = l.rx ∧ x.nakOut = l.nakOut))) ∧
    (∀ (b : BridgeFlit) f n, b.bridge < 20 → s.bridges[b.bridge]? = some (f, n) →
      (n = 0 ∨ f ≠ b.flit → RunsTo (.bridgeCrcError b) s { s with bridges := s.bridges.set b.bridge (b.flit, 1) }) ∧
      (n ≠ 0 → f = b.flit → n < 7 → RunsTo (.bridgeCrcError b) s { s with bridges := s.bridges.set b.bridge (b.flit, n + 1) }) ∧
      (7 ≤ n → f = b.flit → Runs (.bridgeCrcError b) s fun u => u.booted = false ∧ u.teams = [] ∧ u.parts = [] ∧ u.hand = none ∧
        u.mem = s.mem.filter (fun x => bitsOf x.1 43 40 == 1) ∧ u.persist = s.persist ∧ u.rollback = s.rollback ∧
        ∃ e, u.log.getLast? = some e ∧ e.kind = 5 ∧ e.block = 15 ∧ e.unit_ = b.bridge))

/-- R407 to R409, R433: a write to another package of the domain goes out with the next sequence of its triple and is kept until it is
acknowledged; a message that comes is performed in its order, once, and acknowledged, also when it comes again; one for a partition that
is being reset waits; a triple whose link no longer stands moves to another active port of its entry; a package without an active link
counts the 10 ms, and is lost when they have passed. -/
def Sys2Proof.Claims.RoutesAndMessages : Prop :=
  ∀ (s : State),
    (∀ die pa d, s.domain.contains (bitsOf pa 51 44) = true → let dst := bitsOf pa 51 44
      let n := ((s.nextOut.find? (·.1 == (dst, hashLane pa))).map (·.2)).getD 0
      let u := sendWrite s die pa d
      u.mem = s.mem ∧ ((u.nextOut.find? (·.1 == (dst, hashLane pa))).map (·.2)) = some ((n + 1) % 2 ^ 32) ∧
      ∃ m, u.sent = s.sent ++ [(die, m)] ∧ m.req = .write d ∧ m.addr = pa ∧ m.dst = dst ∧ m.lane = hashLane pa ∧ m.seq = n) ∧
    (∀ m : RemoteMsg, m.lane ≠ hashLane m.addr → RunsTo (.remoteMessageArrival m) s s) ∧
    (∀ m : RemoteMsg, m.dst = Config.packageNumber.toNat → bitsOf m.addr 51 44 = Config.packageNumber.toNat → m.seq < 2 ^ 32 →
      m.lane = hashLane m.addr →
      (∀ q, m.req = .ack q → RunsTo (.remoteMessageArrival m) s (takeAck s m q)) ∧
      ((∀ q, m.req ≠ .ack q) → nextSeq s m.src m.lane < 2 ^ 32 → s.early = [] →
        let ahead := (m.seq + 2 ^ 32 - nextSeq s m.src m.lane) % 2 ^ 32
        (ahead = 0 → heldByReset s m = false → Runs (.remoteMessageArrival m) s fun u => u.mem = (performRemote s m).mem ∧
          nextSeq u m.src m.lane = (m.seq + 1) % 2 ^ 32 ∧ u.early = []) ∧
        (2 ^ 31 ≤ ahead → RunsTo (.remoteMessageArrival m) s (sendAck s m)) ∧
        ((ahead ≠ 0 ∨ heldByReset s m = true) → ahead < 2 ^ 31 → RunsTo (.remoteMessageArrival m) s { s with early := [m] }))) ∧
    (∀ dst lane port, port < 24 → let stands := ∃ p, s.portOf dst lane = some p ∧ (s.link p).stands = true
      (stands ∨ port ∉ Config.routePorts dst ∨ (s.link port).st ≠ .active → RunsTo (.routeFailover dst lane port) s s) ∧
      (¬ stands → port ∈ Config.routePorts dst → (s.link port).st = .active → Runs (.routeFailover dst lane port) s fun u =>
        u.mem = s.mem ∧ u.sent = s.sent ∧ u.portOf dst lane = some port ∧ ∀ n, n ≠ port → u.links[n]? = s.links[n]?)) ∧
    (∀ dst ∈ s.domain, ∀ port, port < 24 → (∀ p ∈ Config.routePorts dst, p ≠ port → (s.link p).st ≠ .active) →
      Runs (.linkDisable port) s fun u => ∃ x ∈ u.cut, x.1 = dst ∧ ((∀ y ∈ s.cut, y.1 ≠ dst) → x.2 = s.clock)) ∧
    (∀ dst, (s.cut.find? (·.1 == dst) = none → RunsTo (.routeLossTimeout dst) s s) ∧
      ∀ x, s.cut.find? (·.1 == dst) = some x → Runs (.routeLossTimeout dst) s fun u => u.mem = s.mem ∧ u.links = s.links ∧
        u.clock = max s.clock (x.2 + 30000000) ∧ dst ∈ u.lost ∧ (∀ y ∈ u.cut, y.1 ≠ dst) ∧
        u.sent = s.sent.filter fun y => y.2.dst != dst)

/-- Links, bridges, routes and messages between packages.
Where the manual leaves it open this is the model's reading or choice: logs 24, 68, 69, 88 and 91. -/
def Obligations.FabricEvents : Prop := Claims.LinksAndBridges ∧ Claims.RoutesAndMessages

/-- R214, R369, R383 to R390, R422: an uncorrectable error has its effect where it was found and starts a self-test; a test of
the array repairs what it finds: a faulty element by the spare row, then the spare column, one of the checksum row by the column
first, then the core is retired, with its event; every outcome is logged. Refresh keeps its interval, which
halves above 85 degrees and comes back after 10 ms at 82 or below, and scrubs the column of its pass.
Where the manual leaves it open this is the model's reading or choice: DESIGN CHOICE, log 67. -/
def Obligations.ReliabilityEvents : Prop :=
  ∀ (s : State) (a : ErrorAt) (id : CoreId), s.hand = none → id.die < 8 → id.core < 48 → a.core = id →
    let k := s.core id
    (∀ t : Team, a.block = .scratchpad → teamAt s a false = some t → (s.teams.map (·.id)).Nodup → Runs (.errorDetected a false) s fun u =>
      u.mem = s.mem ∧ (∃ v, u.team t.id = some v ∧ a.pos / 8 ∈ v.scratchPoison ∧ v.scratch = t.scratch ∧ ∀ g ∈ t.scratchPoison, g ∈ v.scratchPoison) ∧
      ∃ x ∈ u.tests, x.at_.block = .scratchpad ∧ x.at_.core = id) ∧
    (a.block = .homeCache → id.core < 16 → Runs (.errorDetected a false) s fun u => u.mem = s.mem ∧ u.teams = s.teams ∧
      a.pos / 8 ∈ u.memPoison ∧ ∀ g ∈ s.memPoison, g ∈ u.memPoison) ∧
    (a.block = .array → Runs (.errorDetected a true) s fun u => u.mem = s.mem ∧ u.teams = s.teams ∧
      ∃ x, (u.core id).test = some x ∧ (x.joined = match k.test with | some y => y.joined ++ [(0, s.now)] | none => []) ∧ (u.core id).array = k.array) ∧
    (errorUnitOk a = true → RunsTo (.backgroundScrub a false) s s) ∧
    (a.block = .homeCache → id.core < 16 → Runs (.backgroundScrub a true) s fun u => u.mem = s.mem ∧ a.pos / 8 ∈ u.memPoison) ∧
    (∀ (x : Test) (lasting : Bool) (faulty : List (Nat × Nat)), k.test = some x → x.at_.core = id → x.at_.block = .array →
      (∀ e, e ∈ x.finds faulty ↔ e ∈ x.elements ∧ e ∈ faulty) ∧
      (x.finds faulty = [] → Runs (.selfTestEnd id ⟨lasting, faulty⟩) s fun u => (u.core id).test = none ∧ (u.core id).retired = k.retired ∧
        (u.core id).spareRow = k.spareRow ∧ (u.core id).spareCol = k.spareCol ∧ u.teams = s.teams) ∧
      (∀ e, x.finds faulty = [e] → Runs (.selfTestEnd id ⟨lasting, faulty⟩) s fun u => (u.core id).test = none ∧ u.teams = s.teams ∧ u.log ≠ [] ∧
        (let both := k.spareRow && k.spareCol
         let row := if e.1 < 32 then !k.spareRow else k.spareCol
         (u.core id).spareRow = (k.spareRow || (!both && row)) ∧ (u.core id).spareCol = (k.spareCol || (!both && !row)) ∧
          ((u.core id).retired = true ↔ k.retired = true ∨ both = true)))) ∧
    (∀ n x, n < 16 → s.hbmStacks[n]? = some x →
      ((x.bursts = 0 ∨ x.lastBurst + (if x.hot then 1500 else 3000) ≤ s.clock) → RunsTo (.hbmRefreshBurst ⟨n, []⟩) s
        { s with hbmStacks := s.hbmStacks.set n { x with lastBurst := s.clock, bursts := x.bursts + 1 } } ∧
        -- an uncorrectable error in the column of 256 bytes that the pass reads is written back poisoned, and tested; one elsewhere is not met
        ∀ pa, Runs (.hbmRefreshBurst ⟨n, [(pa, false)]⟩) s fun u => u.mem = s.mem ∧ u.teams = s.teams ∧ (∀ g ∈ s.memPoison, g ∈ u.memPoison) ∧
          (bitsOf pa 51 36 = Config.packageNumber.toNat * 256 + n → pa / 256 % 8 = x.bursts / 32000 % 8 →
            pa / 8 ∈ u.memPoison ∧ ∃ y ∈ u.tests, y.at_.block = .hbm ∧ y.at_.pos / 2048 = pa / 2048) ∧
          (pa / 256 % 8 ≠ x.bursts / 32000 % 8 → u.memPoison = s.memPoison ∧ u.tests = s.tests)) ∧
      (∀ found, x.bursts ≠ 0 → s.clock < x.lastBurst + (if x.hot then 1500 else 3000) → RunsTo (.hbmRefreshBurst ⟨n, found⟩) s s) ∧
      ∀ temp, Runs (.sensorSample n temp) s fun u => ∃ y, u.hbmStacks = s.hbmStacks.set n y ∧ u.mem = s.mem ∧ u.teams = s.teams ∧ y.temp = temp ∧
        y.bursts = x.bursts ∧ (85 < temp → y.hot = true) ∧ (82 < temp → y.coolSince = none ∧ (temp ≤ 85 → y.hot = x.hot)) ∧
        (temp ≤ 82 → y.coolSince = some (x.coolSince.getD s.clock) ∧ (x.coolSince.getD s.clock + 30000000 ≤ s.clock → y.hot = false) ∧
          (s.clock < x.coolSince.getD s.clock + 30000000 → y.hot = x.hot)))

/-- R426 to R428: an event for which the ring has room, with none held before it, is written at its slot in host memory as an
entry with the next sequence number, and EVPROD rises to it; without room it is held, up to 1,024; beyond that it is counted, and
only then. As soon as an entry can go out, the LOST entry with the count joins those that are held, behind them; where the host lets
one entry go, the oldest is written. The low twelve bits of EVBASE count as 0.
Where the manual leaves it open this is the model's reading or choice: DEDUCED, log 63; logs 125 and 130. -/
def Obligations.EventRing : Prop :=
  ∀ (s : State) (part type detail data : Nat) (p : Part), Memory.wf s.mem = true → s.part part = some p → (type = 7 → p.hostver ≠ 0x10) →
    let a := Config.packageNumber.toNat * 2 ^ 44 + 2 ^ 40 + (p.evbase.toNat + 32 * (p.evprod % p.evsize)) % 2 ^ 40
    let sizeOk := ∃ k, 6 ≤ k ∧ k ≤ 16 ∧ p.evsize = 2 ^ k
    let room := sizeOk ∧ p.evprod + 1 ≤ p.evcons + p.evsize
    let u := postEvent s part type detail data
    let lost : Event := { type := 8, detail := 0, data := p.evlost, time := s.now }
    (room → p.evbuf = [] → p.evlost = 0 →
      (u.part part).map (·.evprod) = some (p.evprod + 1) ∧ (u.part part).map (·.evbuf) = some [] ∧
      readBytes u.mem a 32 = leBytes 8 (p.evprod + 1) ++ leBytes 8 (type * 2 ^ 56 + p.num * 2 ^ 48 + detail % 2 ^ 48) ++
        leBytes 8 data ++ leBytes 8 s.now ∧
      ∀ b, (b < a ∨ a + 32 ≤ b) → readByte u.mem b = readByte s.mem b) ∧
    (¬ room → p.evbuf.length < 1024 → u = s.setPart { p with evbuf := p.evbuf ++ [{ type, detail, data, time := s.now }] }) ∧
    (1024 ≤ p.evbuf.length → u = s.setPart { p with evlost := p.evlost + 1 }) ∧
    -- a loss is counted only with 1,024 entries held
    ((p.evlost ≠ 0 → p.evbuf.length = 1024) → p.evbuf.length ≤ 1024 → ∀ x, u.part part = some x → (x.evlost ≠ 0 → x.evbuf.length = 1024) ∧ x.evbuf.length ≤ 1024) ∧
    (∀ v : W64, p.verok = true → p.resetting = false → p.evcons ≤ v.toNat → v.toNat ≤ p.evprod → sizeOk → ∀ e rest, p.evbuf = e :: rest →
      (p.evprod + 1 = v.toNat + p.evsize → e.free = none → Runs (.evconsWrite part v) s fun t => ∃ x, t.part part = some x ∧ x.evcons = v.toNat ∧
        x.evprod = p.evprod + 1 ∧ x.evlost = 0 ∧ x.evbuf = rest ++ (if p.evlost = 0 then [] else [lost]) ∧
        readBytes t.mem a 32 = eventBytes p.num (p.evprod + 1) e ∧ t.teams = s.teams) ∧
      (v.toNat + p.evsize ≤ p.evprod → RunsTo (.evconsWrite part v) s (s.setPart { p with evcons := v.toNat })))

/-- R268, R315, R323, R389, R392, R423 to R436: the window takes writes once a version is accepted and the partition is not
being reset, and shows 0 then in all but PSTAT; a tail is accepted or refused with its first reason; scopes open, are cancelled and are released; a partition is
created with its memory cleared, destroyed, or reset, in two steps, with its memory and event counts kept; the package boots where
every image is accepted, or stays down at the step that failed; a quote completes with the nonce, the hashes of the images, PSTAT, the
rollback version and the time.
Where the manual leaves it open this is the model's reading or choice: logs 11, 12, 74, 75, 76, 77, 127 and 128; that a write of EVBASE
clears its low twelve bits, DESIGN CHOICE, log 130. -/
def Obligations.HostEvents : Prop :=
  ∀ (s : State) (part : Nat) (p : Part), Memory.wf s.mem = true → s.hand = none → s.part part = some p → p.scopes.length = 256 → p.queues.length = 64 →
    let quiet := (∀ k ∈ s.cores, ∀ x ∈ k.l1, x.isDirty = false) ∧ (∀ d ∈ s.dies, ∀ x ∈ d.cc, x.isDirty = false) ∧
      ∀ t ∈ s.teams, ∀ w ∈ t.waves, ∀ l ∈ w.lanes, l.holding = false
    (p.verok = false ∨ p.resetting = true →
      (∀ q v, RunsTo (.hostTailWrite part q v) s s) ∧ (∀ v, RunsTo (.evconsWrite part v) s s) ∧ RunsTo (.jobScopeOpen part) s s ∧
      (∀ n, RunsTo (.graphScopeOpen part n) s s ∧ RunsTo (.scopeCancelRequest part n) s s ∧ RunsTo (.scopeRelease part n) s s) ∧
      (∀ v, RunsTo (.registerWrite part .evbase v) s s ∧ RunsTo (.registerWrite part .evsize v) s s ∧ ∀ n, RunsTo (.registerWrite part (.hwatch n) v) s s)) ∧
    (p.verok = true → p.resetting = false →
      (∀ q (v : W64), q < 64 →
        let x := s.queue part q
        let refuse := fun code => RunsTo (.hostTailWrite part q v) s (postEvent s part 3 (q + code * 256) v.toNat)
        (v.toNat = x.tail → RunsTo (.hostTailWrite part q v) s s) ∧
        (v.toNat ≠ x.tail → (x.device = true ∨ x.enable = false) → refuse 3) ∧
        (v.toNat < x.tail → x.device = false → x.enable = true → refuse 1) ∧
        (x.tail < v.toNat → x.device = false → x.enable = true → x.head + x.cap < v.toNat → refuse 2) ∧
        (x.tail < v.toNat → x.device = false → x.enable = true → v.toNat ≤ x.head + x.cap →
          RunsTo (.hostTailWrite part q v) s { s.modQueue part q (fun x => { x with tail := v.toNat, marks := x.marks ++ [(v.toNat, s.order)] }) with
            order := s.order + 1 })) ∧
      (∀ v : W64, (v.toNat < p.evcons ∨ p.evprod < v.toNat → RunsTo (.evconsWrite part v) s s) ∧
        (p.evcons ≤ v.toNat → v.toNat ≤ p.evprod → p.evbuf = [] → RunsTo (.evconsWrite part v) s (s.setPart { p with evcons := v.toNat }))) ∧
      (∀ n, p.scopes.findIdx? (·.st == .free) = some n →
        (Runs (.jobScopeOpen part) s fun u => (u.scope part n).st = .open_ ∧ (u.scope part n).kind = .job ∧ (u.scope part n).parent = none ∧
          (u.scope part n).count = 0 ∧ (u.scope part n).done = false ∧ (∀ m, m ≠ n → u.scope part m = s.scope part m) ∧ u.mem = s.mem ∧ u.teams = s.teams) ∧
        (∀ m, ((s.scope part m).kind = .job ∨ (s.scope part m).kind = .graph) → (s.scope part m).st = .open_ → Runs (.graphScopeOpen part m) s fun u =>
          (u.scope part n).st = .open_ ∧ (u.scope part n).kind = .graph ∧ (u.scope part n).parent = some m ∧
          (u.scope part m).count = (s.scope part m).count + 1 ∧ u.mem = s.mem ∧ u.teams = s.teams)) ∧
      (∀ m, ((s.scope part m).st ≠ .open_ ∨ (s.scope part m).kind = .launch ∨ (s.scope part m).kind = .user) → RunsTo (.graphScopeOpen part m) s s) ∧
      (∀ n, (s.scope part n).st ≠ .free → Runs (.scopeCancelRequest part n) s fun u => (u = s ∨ u = cancelScope s part n) ∧
        ((cancelScope s part n).waits = s.waits → u = cancelScope s part n)) ∧
      (∀ n, (s.scope part n).done = true → ((s.scope part n).kind = .job ∨ (s.scope part n).kind = .graph) → Runs (.scopeRelease part n) s fun u =>
        u.scope part n = {} ∧ (∀ m, m ≠ n → u.scope part m = s.scope part m) ∧ u.mem = s.mem ∧ u.teams = s.teams) ∧
      (∀ v : W64, p.evprod ≤ p.evcons → p.evbuf = [] →
        RunsTo (.registerWrite part .evbase v) s (s.setPart { p with evbase := v &&& 0xFFFFFFFFFFFFF000 }) ∧
        RunsTo (.registerWrite part .evsize v) s (s.setPart { p with evsize := v.toNat % 2 ^ 17 })) ∧
      (∀ v : W64, p.evcons < p.evprod → RunsTo (.registerWrite part .evbase v) s s ∧ RunsTo (.registerWrite part .evsize v) s s)) ∧
    (p.resetting = false →
      (∀ v : W64, RunsTo (.hostverWrite part v) s (s.modPart part fun p =>
        { p with hostver := v.toNat % 256, verok := decide (v.toNat % 256 = 0x10 ∨ v.toNat % 256 = 0x11) })) ∧
      (∀ v : W64, v.getLsbD 7 = true → RunsTo (.registerWrite part .pstat v) s (s.setPart { p with retired := false })) ∧
      (p.quoteBusy = false → RunsTo (.quoteRequest part 1) s (s.setPart { p with quoteBusy := true })) ∧
      (p.quoteBusy = true → p.nonce.length = 48 → RunsTo (.quoteRequest part 1) s s ∧ Runs (.quoteComplete part) s fun u => ∃ x,
        u.part part = some x ∧ x.quoteBusy = false ∧ x.quote.length = 360 ∧ x.quote.take 48 = p.nonce ∧
        (∀ k, k < 4 → (x.quote.drop (48 + 48 * k)).take 48 = sha384 (Config.firmwareImage k)) ∧ (x.quote.drop 240).take 8 = leBytes 8 (pstat p) ∧
        (x.quote.drop 248).take 8 = leBytes 8 s.rollback ∧ (x.quote.drop 256).take 8 = leBytes 8 s.now ∧
        hostRead u part .quoteReady = 1 ∧ u.mem = s.mem ∧ u.teams = s.teams)) ∧
    (∀ r, (p.resetting = true → r ≠ .pstat → hostRead s part r = 0) ∧ (p.verok = false ∨ p.hostver ≠ 0x11 →
      ∀ n, r = .xregrp n ∨ r = .xfrzmax n ∨ r = .xregreq n → hostRead s part r = 0)) ∧
    (hostRead s part .pstat = BitVec.ofNat 64 (pstat p) ∧ ∀ q, p.resetting = false → hostRead s part (.tail q) = BitVec.ofNat 64 (s.queue part q).tail) ∧
    (∀ (a : Nat) (b : Byte) (bad : Bool), a < 2 ^ 40 → let pa := Config.packageNumber.toNat * 2 ^ 44 + 2 ^ 40 + a
      isLost s pa = false → s.domain.contains Config.packageNumber.toNat = false →
      Runs (.hostMemoryAccess pa [(b, bad)]) s fun u => readByte u.mem pa = b ∧ (bad = true → pa / 8 ∈ u.memPoison)) ∧
    (∀ a, RunsTo (.hostMemoryAccess a []) s s) ∧
    (∀ num debug dies, s.booted = true → num < 8 → s.part num = none → dies ≠ [] → dies.Nodup → (∀ d ∈ dies, d < 8 ∧ s.partOfDie d = none) →
      Runs (.partitionCreate num dies debug) s fun u => (∃ x, u.part num = some x ∧ x.ready = true ∧ x.verok = false ∧ x.debug = debug ∧
        (∀ d, d ∈ x.dies ↔ d ∈ dies) ∧ x.evprod = 0) ∧
        ∀ a, bitsOf a 51 44 = Config.packageNumber.toNat → (∃ d ∈ dies, ownerDie a = some d) → readByte u.mem a = 0) ∧
    (∀ num debug dies, (∀ d ∈ dies, d < 8) → ((s.part num).isSome = true ∨ ∃ d ∈ dies, (s.partOfDie d).isSome = true) →
      RunsTo (.partitionCreate num dies debug) s s) ∧
    (Runs (.partitionDestroy part) s fun u =>
      let done := u.part part = none ∧ (∀ t ∈ u.teams, t.part ≠ part) ∧
        ∀ a, bitsOf a 51 44 = Config.packageNumber.toNat → (∃ d ∈ p.dies, ownerDie a = some d) → readByte u.mem a = 0
      (u = s ∨ done) ∧ (quiet → done)) ∧
    (p.resetting = false → RunsTo (.partitionReset part) s (s.setPart { p with resetting := true, ready := false, verok := false })) ∧
    (p.resetting = true → Runs (.partitionReset part) s fun u =>
      let done := (∀ t ∈ u.teams, t.part ≠ part) ∧ (∀ l ∈ u.launches, l.part ≠ part) ∧ (∀ c ∈ u.cards, c.part ≠ part) ∧
      ∃ x, u.part part = some x ∧ x.ready = true ∧ x.resetting = false ∧ x.verok = false ∧ x.scopes = List.replicate 256 {} ∧
        x.evbuf = [] ∧ ((∀ h ∈ p.hwatch, h.getLsbD 63 = false) → s.lost = [] → x.evprod = p.evprod) ∧ x.evcons = p.evcons ∧ x.dies = p.dies ∧
        ∀ (n : Nat) (a b : Queue), p.queues[n]? = some a → x.queues[n]? = some b → b.head = a.head ∧ b.tail = a.tail ∧ b.finished = a.finished ∧ b.latest = a.latest
      (u = s ∨ done) ∧ (quiet → done)) ∧
    (s.booted = false → s.bootFail = none →
      let image := fun k rollback => imageOk Config.romKeyHash rollback k (Config.firmwareImage k)
      let raised := max s.rollback Config.descriptorRollback.toNat
      let fails := fun (e : Instr) k => RunsTo e s { s with bootFail := some k, rollback := if 2 < k then raised else s.rollback }
      -- the first step that fails: the descriptor's at 2, another image at 3, else what the event names
      (image 0 s.rollback = false → fails (.boot 0) 2 ∧ ∀ n, 1 ≤ n → n ≤ 7 → fails (.boot n) (min 2 n)) ∧
      (image 0 s.rollback = true → (image 1 raised = false ∨ image 2 raised = false ∨ image 3 raised = false) →
        fails (.boot 0) 3 ∧ ∀ n, 1 ≤ n → n ≤ 7 → fails (.boot n) (min 3 n)) ∧
      (image 0 s.rollback = true → image 1 raised = true → image 2 raised = true → image 3 raised = true →
        (∀ n, 1 ≤ n → n ≤ 7 → fails (.boot n) n) ∧
        (Runs (.boot 0) s fun u => u.booted = true ∧ u.bootFail = none ∧ u.rollback = raised ∧ u.locked = true ∧
          (Config.descriptorParts = [] → u.mem = s.mem ∧ u.parts = s.parts) ∧
          ∀ n, ((s.link n).st = .down → n < s.links.length → (u.link n).st = .detect) ∧ ((s.link n).st ≠ .down → u.link n = s.link n)))) ∧
    (∀ n, s.booted = true ∨ s.bootFail.isSome = true → RunsTo (.boot n) s s)

/-- R12, R14, R69, R71, R73, R97 to R99: what each operand form reads at 32 and at 64 bits, what a destination takes and
leaves, the hard-wired masks, the immediates with and without EXT, and the acting set. -/
def Obligations.OperandForms : Prop :=
  ∀ (w : Wave) (l : Lane),
    (∀ n : Fin 96, opd32 w l (.g n) = l.g.getD n.val 0 ∧ opd64 w l (.g n) = l.g.getD (n.val + 1) 0 ++ l.g.getD n.val 0) ∧
    (∀ n : Fin 8, opd32 w l (.k n) = l.k.getD n.val 0 ∧ opd64 w l (.k n) = l.k.getD (n.val + 1) 0 ++ l.k.getD n.val 0) ∧
    (opd32 w l .l = l.latch.setWidth 32 ∧ opd64 w l .l = l.latch) ∧ (opd32 w l .zero = 0 ∧ opd64 w l .zero = 0) ∧
    (opd32 w l .lane = BitVec.ofNat 32 l.id ∧ opd64 w l .lane = BitVec.ofNat 64 l.id) ∧
    (opd32 w l .tid = l.tid ∧ opd64 w l .tid = l.tid.setWidth 64) ∧
    (∀ n : Fin 16, opd32 w l (.s n) = (w.s.getD n.val 0).setWidth 32 ∧ opd64 w l (.s n) = w.s.getD n.val 0) ∧
    (∀ (i : BitVec 7), (w.ext = none → imm32 w i = i.signExtend 32) ∧ (∀ p, w.ext = some p → imm32 w i = p ++ i) ∧
      immW w .w64 i = (imm32 w i).signExtend 64) ∧
    (∀ (iw : IW) (d : Dst) (v : W64),
      let x := l.write iw d v
      x.latch = l.latch ∧ x.tid = l.tid ∧ x.id = l.id ∧
      (∀ c, c ∉ Dst.covers iw d → x.reg c = l.reg c) ∧ (d = .zero → x = l) ∧
      (l.g.length = 96 → l.k.length = 8 → iw = .w32 → ∀ c ∈ Dst.covers iw d, x.reg c = v.setWidth 32) ∧
      (l.g.length = 96 → l.k.length = 8 → iw = .w64 → d.okW iw = true → ∀ o, Dst.covers iw d = [o, o + 1] →
        x.reg o = v.setWidth 32 ∧ x.reg (o + 1) = (v >>> 32).setWidth 32)) ∧
    (∀ m : MReg, (m = 0 → w.mask m = 0xFFFFFFFF) ∧ (m = 15 → w.mask m = w.cur.mask) ∧ (m ≠ 0 → m ≠ 15 → w.mask m = w.m.getD m.val 0) ∧
      ∀ v, (m = 0 ∨ m = 15 → w.setMask m v = w) ∧ (m ≠ 0 → m ≠ 15 → w.m.length = 16 → (w.setMask m v).mask m = v ∧
        ∀ n, n ≠ m → (w.setMask m v).mask n = w.mask n)) ∧
    (∀ i, w.acting.getLsbD i = true → w.cur.mask.getLsbD i = true) ∧
    (∀ c, w.cur.clause = some c → w.cur.only = none → w.cur.body = none → w.acting = w.cur.mask &&& c.exec)

/-- R62 to R88, R96, R97, R102, R141, R143, R147, R166, R175, R176, R199, R243: words that the manual's listings give stand for the instructions
beside them. -/
def Obligations.DecodeWords : Prop :=
  decodeTableWord 32 0x8780007F = some (.clause true 0 15 0 0) ∧
  decodeTableWord 32 0x0C142003 = some (.add .w32 (.g 4) (.g 5) (.r (.g 6))) ∧
  decodeTableWord 32 0xF618200F = some (.add .w64 (.g 4) (.g 6) (.i (BitVec.ofInt 7 (-5)))) ∧
  decodeTableWord 32 0x14244713 = some (.fma .f32 (.g 8) (.g 9) (.g 10)) ∧
  decodeTableWord 32 0xF820A121 = some (.cmp .i64 .ne 4 (.g 8) (.r (.s 12))) ∧
  decodeTableWord 32 0x0E0CA12F = some (.cvt .rtz .i32 .f32 (.g 3) (.g 7)) ∧
  decodeTableWord 32 0x14082435 = some (.wred .add .f32 (.g 4) (.g 2)) ∧
  decodeTableWord 32 0x30B28039 = some (.sadd 10 11 12) ∧
  decodeTableWord 32 0x00103241 = some (.ldg .n32 (.plain 0) (.g 6) (.g 4)) ∧
  decodeTableWord 32 0x98103643 = some (.stg .n32 (.ordered .const) (.g 6) (.g 4)) ∧
  decodeTableWord 32 0xE01040C5 = some (.atomg .ar .die .w32 .fadd (.g 8) (.g 4)) ∧
  decodeTableWord 32 0xD220605F = some (.tlook (.g 12) (.g 8)) ∧
  decodeTableWord 32 0xFFA018E1 = some (.brd 3 (BitVec.ofInt 12 (-6))) ∧
  decodeTableWord 16 0x089E = some (.rjoin 4) ∧
  decodeTableWord 32 0x1002A0E3 = some (.fjmp true 20 256) ∧
  decodeTableWord 16 0x8602 = some (.addH (.g 6) (.i 1)) ∧
  decodeTableWord 32 0x6000203B = some (.fence .ar .die) ∧
  decodeTableWord 32 0x0A2A18BF = some (.spush 20 21 3) ∧
  decodeTableWord 32 0x081A60E5 = some (.mma .ce16 16 13 12) ∧
  decodeTableWord 32 0x0A2692E5 = some (.mdrain 20 19 18) ∧
  decodeTableWord 32 0x26984069 = some (.tcopy true 13 12 2) ∧
  decodeTableWord 32 0x000E306B = some (.job 7 6) ∧
  decodeTableWord 32 0x261A516D = some (.fswait true 12 13 10) ∧
  decodeTableWord 32 0x020011EF = some (.capadopt false 4 2) ∧
  decodeTableWord 32 0x40000073 = some .tretRegion ∧
  decodeTableWord 32 0x028600F3 = some (.movxR 5 3) ∧
  decodeTableWord 16 0 = none ∧ decodeTableWord 32 0x00000001 = none ∧ decodeTableWord 32 0x0000007B = none

/-- R62 to R88: every well-formed instruction has a word of 16 or 32 bits, which decodes to it and to the rest of the bytes,
with every operand at every value that the encoding admits. -/
def Obligations.EncodedInstructionsDecode : Prop :=
  ∀ (i : Instr) (rest : List Byte), Instr.isEvent i = false → Instr.wf i = true →
    ((encode i).1 = 2 ∨ (encode i).1 = 4) ∧ (encode i).2 < 2 ^ (8 * (encode i).1) ∧
    decodeBytes (Instr.bytes i ++ rest) = .ok (i, rest) ∧ decodeTableWord (8 * (encode i).1) (encode i).2 = some i

/-- R62, R88: a word that decodes is well-formed, no event, and the only word of its instruction; bit 0 gives its length. -/
def Obligations.DecodedWordsAreEncodings : Prop :=
  ∀ (h u : Nat) (i : Instr), h < 65536 → u < 65536 → decodeHalves h (some u) = .ok i →
    Instr.wf i = true ∧ Instr.isEvent i = false ∧ encode i = if h % 2 = 0 then (2, h) else (4, h + u * 65536)

/-- A trap that a step enters, from `s` to `t`: a leader's waits until its umbra has come to the same instruction, and is entered
where the umbra raises the same cause in the same lanes there, and what its instruction does outside the wave agrees; a difference is a
mismatch (R378, R380, R382). -/
def Sys2Proof.Claims.TrapEnters (s t : State) : Prop :=
  (s.w.umbra = none → step s = .next t.tick) ∧
  ∀ v, s.w.umbra = some v →
    let same := fun (x : State) => spendGrant { s with w := s.w.under v } = .next x ∧ x.w.inHandler = t.w.inHandler ∧ x.t.ending = t.t.ending ∧
      x.w.xtcause = t.w.xtcause ∧ x.w.xtlanes = t.w.xtlanes ∧ x.w.xtpc = t.w.xtpc ∧
      ∀ i, s.t.fetch s.w.cur.pc = some (.ok i) → Instr.ownRegs i = true ∨ Instr.fields i s.w = Instr.fields i (s.w.under v)
    (v.trail ≠ [] → step s = .next s.heldBack.tick) ∧
    (v.trail = [] → (∀ x, same x → x.waits = s.waits → step s = .next (trapTogether s t x).tick ∧
        -- performed as issued; each wave's registers are its own
        (trapTogether s t x).mem = x.mem ∧ (trapTogether s t x).w.lanes = t.w.lanes ∧ (trapTogether s t x).w.s = t.w.s ∧
        ∀ y, t.w.umbra.isSome = true → (trapTogether s t x).w.umbra = some y → y.lanes = x.w.lanes ∧ y.s = x.w.s) ∧
      ((∀ x, ¬ same x) → (umbraMismatch s (s.w.runIdx.getD 0) s.w.cur.region).waits = s.waits →
        step s = .next (umbraMismatch s (s.w.runIdx.getD 0) s.w.cur.region).tick))

/-- The step at `s` is the instruction `i` at the state `u`, with what surrounds it: time goes on by one FCLK (R7); where it met a
page under migration the instruction is held and issues again (R312); a leader leaves what its umbra will follow (R378), and its
traps wait (R382). -/
def Sys2Proof.Claims.StepIs (s u : State) (i : Instr) : Prop :=
  (∀ f, exec i u = .fault f → step s = .fault f) ∧ (∀ r, exec i u = .refused r → step s = .refused r) ∧
  ∀ t, exec i u = .next t →
    let met := t.waits = true ∧ s.waits = false
    let led := { t with w := { t.w with umbra := t.w.umbra.map fun v => { v with trail := ((s.w.umbra.map (·.trail)).getD []) ++ u.w.trailOf t.w i } } }
    (s.w.umbra = none → (met → step s = .next s.heldBack.tick) ∧ (¬ met → step s = .next t.tick)) ∧
    (s.w.umbra.isSome = true → t.hand ≠ s.hand → (met → step s = .next s.heldBack.tick) ∧ (¬ met → step s = .next t.tick)) ∧
    (s.w.umbra.isSome = true → t.hand = s.hand →
      (trapping s t = false → (met → step s = .next s.heldBack.tick) ∧ (¬ met → step s = .next led.tick)) ∧
      (trapping s t = true → ¬ met → Claims.TrapEnters s led))

/-- R39, R40, R62, R65, R73, R347, R379, R380, R396: when nothing is due and the wave that holds the grant stands in a clause at bytes
that decode to an instruction which passes the checks of its place, the step is that instruction's meaning at that state, and time
goes on by one FCLK; at a clause boundary it is the header's. A leader whose queues are full, or whose operation is not yet
compared, is held instead, and so is a wave whose retry waits for a self-test.
Where the manual leaves it open this is the model's reading or choice: logs 30, 33, 39 and 91. -/
def Obligations.StepRunsDecoded : Prop :=
  ∀ (s : State) (i : Instr) (h : Nat), s.due = [] → s.granted = true → s.under = false →
    (∀ l, s.w.mloop = some l → l.retryDue = true → s.c.test.isSome = true → step s = .next s.heldBack.tick) ∧
    ((∀ l, s.w.mloop = some l → l.retryDue = false) → s.w.runIdx.isSome = true →
    (s.w.stallsLeader = true → step s = .next s.heldBack.tick) ∧
    (s.w.stallsLeader = false → (s.w.reports = [] ∨ s.w.inHandler = true ∨ s.w.ext.isSome = true) →
      let pc := s.w.cur.pc
      let alone := Instr.ownOnly i = true ∨ ∀ p ∈ s.w.pend, p.held = false
      s.t.half pc = some h → decodeHalves h (if pc.toNat % 4096 ≤ 4092 then s.t.half (pc + 2) else none) = .ok i →
      (∀ c, s.w.cur.clause = some c → atBoundary s = false → s.t.isHeader pc = false → c.count < 32 →
        ((∃ p, i = .ext p) → c.ext = none → pc.toNat % 4096 ≠ 4092 → Claims.StepIs s s i) ∧
        ((∀ p, i ≠ .ext p) → misplaced s i (if h % 2 = 0 then 2 else 4) = false → immBad i c.ext = false → (Instr.uses i).beyond s.t.n = false →
          wrongHere s i c = false → ((Instr.uses i).latch = true → c.lw = true) → capsuleIll s i = false → inert s i = false →
          (∀ n, (Instr.mark i).bind s.w.mark = some n → s.w.f.getD n 0 < 63) →
          let free := alone ∨ (Instr.plainStore i = true ∧ s.w.cur.body = none)
          (¬ free → step s = .next s.waitHeld.tick) ∧
          (free → (Instr.nonRepeatable i = true → s.copiesReading = false ∧ s.w.deferred = []) → consumers s.w i = 0 →
            (s.w.mustCompare i = false → Claims.StepIs s s i) ∧
            (s.w.mustCompare i = true → step s = .next { s.heldBack with w := { s.heldBack.w with cmpWait := true } }.tick)))) ∧
      (s.t.isHeader pc = true → s.t.isHeader (pc + 4) = false → pc.toNat % 4096 ≠ 4092 →
        (s.w.cur.clause = none → (¬ alone → step s = .next s.waitHeld.tick) ∧ (alone → Claims.StepIs s s i)) ∧
        (s.w.cur.clause ≠ none → atBoundary s = true → alone → Claims.StepIs s { s with w := { s.w with
          paths := s.w.paths.map fun e => if e.st = .run then { e with clause := none } else e } } i))))

/-- R10, R13, R36, R65, R66, R73, R88, R246, R264: at issue, bytes that are no instruction, an instruction out of its place, a
33rd one, an immediate that EXT may not extend, or a register at or above N raise ILLOP; a latch read before it is written
raises LATCH; what a capsule body forbids raises CAPSULE_ILL; where there is no header or two, ILLOP. The trap is taken at the
instruction, before it has any effect; a leader's waits for its umbra (R382).
Where the manual leaves it open this is the model's reading or choice: logs 30, 33, 38 and 59. -/
def Obligations.IssueChecks : Prop :=
  ∀ (s : State) (h : Nat), s.due = [] → s.granted = true → s.under = false → (∀ l, s.w.mloop = some l → l.retryDue = false) →
    s.w.runIdx.isSome = true → s.w.stallsLeader = false → s.w.reports = [] → CanTrap s →
    let pc := s.w.cur.pc
    let d := decodeHalves h (if pc.toNat % 4096 ≤ 4092 then s.t.half (pc + 2) else none)
    let len := if h % 2 = 0 then 2 else 4
    let raises := fun cause => ∃ t, TrapTaken cause 0 s.w.cur.mask 0 s.w.issuePc s t ∧ Claims.TrapEnters s t
    s.t.half pc = some h →
    (∀ c, s.w.cur.clause = some c → atBoundary s = false →
      (s.t.isHeader pc = true ∨ 32 ≤ c.count ∨ (∃ e, d = .error e) → raises 1) ∧
      (s.t.isHeader pc = false → c.count < 32 → ∀ i, d = .ok i →
        ((∃ p, i = .ext p) → (c.ext.isSome = true ∨ pc.toNat % 4096 = 4092) → raises 1) ∧
        ((∀ p, i ≠ .ext p) →
          let bad := misplaced s i len || immBad i c.ext || (Instr.uses i).beyond s.t.n || wrongHere s i c
          (bad = true → raises 1) ∧
          (bad = false → (Instr.uses i).latch = true → c.lw = false → raises 2) ∧
          (bad = false → ((Instr.uses i).latch = true → c.lw = true) → capsuleIll s i = true → raises 3)))) ∧
    (s.w.cur.clause = none → (s.t.isHeader pc = false ∨ pc.toNat % 4096 = 4092 ∨ s.t.isHeader (pc + 4) = true) → raises 1)

/-- Each happening is one event of the opcode table. -/
def Sys2Proof.Claims.HappeningsAreEvents : Prop :=
  (∀ core n u, runHappening (.issue core n) u = exec (.issueOpportunity core n) u) ∧
  (∀ w u, runHappening (.fairness w) u = exec (.fairnessIntervalExpiry w) u) ∧
  (∀ w u, runHappening (.hang w) u = exec (.hangSib w) u) ∧
  (∀ w u, runHappening (.promote w) u = exec (.wavePromotion w) u) ∧
  (∀ w u, runHappening (.trapEntry w) u = exec (.trapEntry w) u) ∧
  (∀ t n u, runHappening (.spoolDl t n) u = exec (.spoolDl t n) u) ∧
  (∀ t n u, runHappening (.barDl t n) u = exec (.barrierDeadlock t n) u) ∧
  (∀ t u, runHappening (.teamKill t) u = exec (.teamKill t) u) ∧
  (∀ t u, runHappening (.teamEnd t) u = exec (.teamEnd t) u) ∧
  (∀ t u, runHappening (.binDraw t) u = exec (.binDraw t) u) ∧
  (∀ w i u, runHappening (.load w i) u = exec (.loadCompletion w i) u) ∧
  (∀ w i u, runHappening (.store w i) u = exec (.storePerformed w i) u) ∧
  (∀ w i u, runHappening (.atomic w i) u = exec (.atomicAtHome w i) u) ∧
  (∀ w u, runHappening (.blocked w) u = exec (.blockedReevaluation w) u) ∧
  (∀ w u, runHappening (.umbra w) u = exec (.umbraComparison w true) u) ∧
  (∀ w i u, runHappening (.parked w i) u = exec (.parkedEntryRelease w i) u) ∧
  (∀ t n u, runHappening (.fill t n) u = exec (.cfetchFillComplete t n false) u) ∧
  (∀ c i u, runHappening (.copyStart c i) u = exec (.tileCopyStart c i) u) ∧
  (∀ c i u, runHappening (.copyRetire c i) u = exec (.tileCopyRetire c i) u) ∧
  (∀ c i r u, runHappening (.multicast c i r) u = exec (.multicastDelivery c i r) u) ∧
  (∀ c u, runHappening (.arrayStep c) u = exec (.arrayStep c) u) ∧
  (∀ c u, runHappening (.selfTest c) u = exec (.selfTestEnd c ⟨false, []⟩) u) ∧
  (∀ n u, runHappening (.burst n) u = exec (.hbmRefreshBurst ⟨n, []⟩) u) ∧
  (∀ c u, runHappening (.hopEnd c) u = exec (.ratioHopEnd c) u) ∧
  (∀ c u, runHappening (.duty c) u = exec (.dutyWindow c) u) ∧
  (∀ c u, runHappening (.spill c) u = exec (.spill c) u) ∧
  (∀ sp p u, runHappening (.cardTake sp p) u = exec (.cardTake sp p) u) ∧
  (∀ i u, runHappening (.copy i) u = exec (.copy i) u) ∧
  (∀ i u, runHappening (.zero i) u = exec (.fill i) u) ∧
  (∀ i u, runHappening (.migrate i) u = exec (.migrate i) u) ∧
  (∀ i u, runHappening (.replicate i) u = exec (.replicate i) u) ∧
  (∀ i u, runHappening (.cardDone i) u = exec (.cardCompletion i) u) ∧
  (∀ p q u, runHappening (.hostTake p q) u = exec (.hostCardTake p q) u) ∧
  (∀ p q c xs u, runHappening (.place p q c xs) u = exec (.cardPlacement p q c xs) u) ∧
  (∀ p q c u, runHappening (.makeRoom p q c) u = exec (.placementEvictionTrigger p q c) u) ∧
  (∀ d cs u, runHappening (.demand d cs) u = exec (.placementDemand d cs) u) ∧
  (∀ t u, runHappening (.evict t) u = exec (.slotEviction t) u) ∧
  (∀ t u, runHappening (.deferral t) u = exec (.evictionDeferralExpiry t) u) ∧
  (∀ t c n u, runHappening (.reload t c n) u = exec (.teamReload t c n) u) ∧
  (∀ d u, runHappening (.regroup d) u = exec (.regroupInterval d (u.die d).cons) u) ∧
  (∀ d u, runHappening (.decide d) u = exec (.regroupRequestDecision d) u) ∧
  (∀ d c u, runHappening (.thaw d c) u = exec (.freezeExpired d c) u) ∧
  (∀ p u, runHappening (.quote p) u = exec (.quoteComplete p) u) ∧
  (∀ p u, runHappening (.resetPart p) u = exec (.partitionReset p) u) ∧
  (∀ u, runHappening (.boot) u = exec (.boot 0) u) ∧
  (∀ op i u, runHappening (.collective op i) u = if op = 16 then exec (.allreduce i (alone u i)) u else if op = 17 then exec (.reducescatter i (alone u i)) u
    else if op = 18 then exec (.allgather i (alone u i)) u else exec (.broadcast i (alone u i)) u)

/-- R316, R324, R347, R422, R434: what the machine does by itself is an event of the opcode table, by the happening that names it: one
that is due comes first; else, where no wave holds a grant, BOOT before the package is up, and afterwards the first that is urgent, else
the next that can happen, or nothing. The step is that event at the machine's state, with what was in hand put back, its turn
counted and the waves that were held set free, and time goes on by one FCLK. What meets a page under migration stays due, lets the
others go on, or changes nothing but the turn that it has taken (R312). A refresh burst that is due is urgent.
The choice among the events is the model's (DESIGN CHOICE, logs 3 and 91). -/
def Obligations.StepsAreEvents : Prop :=
  Claims.HappeningsAreEvents ∧
  ∀ (s : State),
    let p := s.putBack
    let worked := { p with workTurn := s.workTurn + 1 }
    (∀ (h : Happening) (rest : List Happening), s.due = h :: rest → let u := { s with due := rest }
      (∀ f, runHappening h u = .fault f → step s = .fault f) ∧ (∀ r, runHappening h u = .refused r → step s = .refused r) ∧
      ∀ v, runHappening h u = .next v →
        (v.waits = false → step s = .next v.tick) ∧
        (v.waits = true → (∀ x, plainStep u = .next x → step s = .next { x with due := h :: x.due }.tick) ∧
          (∀ f, plainStep u = .fault f → step s = .fault f) ∧ ∀ r, plainStep u = .refused r → step s = .refused r)) ∧
    (s.due = [] → s.granted = false →
      (s.booted = false → s.bootFail = none → step s = tickOut (exec (.boot 0) s)) ∧
      (s.booted = false → s.bootFail.isSome = true → step s = .next s.tick) ∧
      (s.booted = true → urgent p = [] → step s = tickOut (plainEvent p)) ∧
      (s.booted = true → ∀ h rest, urgent p = h :: rest → let u := wakeHeld worked
        (∀ f, runHappening h u = .fault f → step s = .fault f) ∧ (∀ r, runHappening h u = .refused r → step s = .refused r) ∧
        ∀ v, runHappening h u = .next v → (v.waits = false → step s = .next v.tick) ∧ (v.waits = true → step s = tickOut (plainEvent p)))) ∧
    (nextHappening p = none → plainEvent p = .next { p with turn := s.turn + 1 }) ∧
    (∀ h, nextHappening p = some h →
      ((∃ core n, h = .issue core n) → plainEvent p = runHappening h { p with turn := s.turn + 1 }) ∧
      ((∀ core n, h ≠ .issue core n) → let u := wakeHeld worked
        (∀ f, runHappening h u = .fault f → plainEvent p = .fault f) ∧ (∀ r, runHappening h u = .refused r → plainEvent p = .refused r) ∧
        ∀ v, runHappening h u = .next v → (v.waits = false ∨ s.waits = true → plainEvent p = .next v) ∧
          (v.waits = true → s.waits = false → plainEvent p = .next worked))) ∧
    (∀ n x, n < 16 → p.hbmStacks[n]? = some x → x.lastBurst + (if x.hot then 1500 else 3000) ≤ p.clock → .burst n ∈ urgent p)

/-- Every step keeps every memory of the machine in its canonical form, so that equal memories are equal data. The form is the model's own
representation of a memory (DESIGN CHOICE, log 2); the manual says only that memory is bytes at addresses (R62, R150). -/
def Obligations.StepKeepsMemory : Prop :=
  ∀ s t : State, s.MemCanonical → step s = .next t → t.MemCanonical

/-- R291: every step keeps every L1 within the twelve ways of each of its sets. Which set a line lies in, its number modulo 256, is the
model's choice (DESIGN CHOICE, log 28). -/
def Obligations.StepKeepsWays : Prop :=
  ∀ s t : State, s.WaysKept → step s = .next t → t.WaysKept

/-- R404, R405, R425, R426, R434, R435: after reset the package is not booted, nothing is resident, memory lists nothing, no
partition exists, and every link is DOWN with no partner; a fresh partition, queue and finish scope have the reset values of
their registers.
Where the manual leaves it open this is the model's reading or choice: logs 1, 2 and 77; that the rollback version starts at 0, DESIGN CHOICE, log 77. -/
def Obligations.ResetState : Prop :=
  let s := State.reset
  s.MemCanonical ∧ s.WaysKept ∧ s.mem = [] ∧ s.memPoison = [] ∧ s.booted = false ∧ s.bootFail = none ∧ s.teams = [] ∧ s.hand = none ∧ s.parts = [] ∧
  s.launches = [] ∧ s.cards = [] ∧ s.due = [] ∧ s.lost = [] ∧ s.persist = [] ∧ s.rollback = 0 ∧ s.locked = false ∧ s.links.length = 24 ∧
  (∀ l ∈ s.links, l.st = .down ∧ l.width = 0 ∧ l.version = 0 ∧ l.peerPkg = 0 ∧ l.peerPort = 0) ∧ s.hbmStacks.length = 16 ∧
  (∀ n, ({ num := n } : Part).evbase = 0 ∧ ({ num := n } : Part).evsize = 0 ∧ ({ num := n } : Part).evcons = 0 ∧
    ({ num := n } : Part).evprod = 0 ∧ ({ num := n } : Part).retired = false ∧ ({ num := n } : Part).verok = false) ∧
  ({} : FScope).st = .free ∧
  step s = tickOut (exec (.boot 0) s)
end

