-- ==== Sys2Proof/Laws/Memory.lean ====
section
/-! SUPPORT. Memory in canonical form: a read after a write, the bytes that a write leaves alone, and that every operation
over memory keeps the form. -/

namespace Sys2Proof.Machine

/-! The form. -/

theorem wfFrom_weaken {m : Memory} {lo hi : Nat} (h : lo ≤ hi) (hm : Memory.wfFrom (some hi) m = true) :
    Memory.wfFrom (some lo) m = true := by
  cases m with
  | nil => rfl
  | cons x m =>
    simp only [Memory.wfFrom, Bool.and_eq_true, decide_eq_true_eq] at hm ⊢
    exact ⟨⟨by omega, hm.1.2⟩, hm.2⟩

theorem wfFrom_none {m : Memory} {lo : Nat} (hm : Memory.wfFrom (some lo) m = true) : Memory.wf m = true := by
  cases m with
  | nil => rfl
  | cons x m =>
    simp only [Memory.wf, Memory.wfFrom, Bool.and_eq_true] at hm ⊢
    exact ⟨⟨trivial, hm.1.2⟩, hm.2⟩

/-- Below the least listed address everything reads as 0. -/
theorem readByte_below {m : Memory} {lo a : Nat} (hm : Memory.wfFrom (some lo) m = true) (h : a ≤ lo) : readByte m a = 0 := by
  cases m with
  | nil => rfl
  | cons x m =>
    simp only [Memory.wfFrom, Bool.and_eq_true, decide_eq_true_eq] at hm
    have : a < x.1 := by omega
    simp [readByte, this]

theorem writeByte_wfFrom (m : Memory) (lo : Option Nat) (a : Nat) (v : Byte) (hm : Memory.wfFrom lo m = true)
    (ha : ∀ l, lo = some l → l < a) : Memory.wfFrom lo (writeByte m a v) = true := by
  induction m generalizing lo with
  | nil =>
    unfold writeByte
    split
    · rfl
    · rename_i hv
      have hv' : (v != 0) = true := by simpa using hv
      cases lo with
      | none => simp only [Memory.wfFrom, hv', Bool.and_self]
      | some l => simp only [Memory.wfFrom, hv', decide_eq_true (ha l rfl), Bool.and_self]
  | cons x m ih =>
    obtain ⟨b, y⟩ := x
    simp only [Memory.wfFrom, Bool.and_eq_true] at hm
    unfold writeByte
    split
    · rename_i hab
      split
      · simp only [Memory.wfFrom, Bool.and_eq_true]; exact hm
      · rename_i hv
        have hv' : (v != 0) = true := by simpa using hv
        unfold Memory.wfFrom
        simp only [Bool.and_eq_true]
        refine ⟨⟨by cases lo with | none => rfl | some l => exact decide_eq_true (ha l rfl), hv'⟩, ?_⟩
        unfold Memory.wfFrom
        simp only [Bool.and_eq_true, decide_eq_true_eq]
        exact ⟨⟨hab, hm.1.2⟩, hm.2⟩
    · split
      · rename_i _ hab
        subst hab
        split
        · cases lo with
          | none => exact wfFrom_none hm.2
          | some l => exact wfFrom_weaken (Nat.le_of_lt (ha l rfl)) hm.2
        · rename_i hv
          simp only [Memory.wfFrom, Bool.and_eq_true]
          exact ⟨⟨hm.1.1, by simpa using hv⟩, hm.2⟩
      · rename_i h1 h2
        simp only [Memory.wfFrom, Bool.and_eq_true]
        exact ⟨hm.1, ih (some b) hm.2 fun l hl => by cases hl; omega⟩

/-- A write keeps the canonical form. -/
theorem writeByte_wf {m : Memory} (a : Nat) (v : Byte) (hm : Memory.wf m = true) : Memory.wf (writeByte m a v) = true :=
  writeByte_wfFrom m none a v hm fun _ h => by cases h

theorem writeBytes_wf (bs : List Byte) {m : Memory} (a : Nat) (hm : Memory.wf m = true) : Memory.wf (writeBytes m a bs) = true := by
  induction bs generalizing m a with
  | nil => exact hm
  | cons b bs ih => exact ih (a + 1) (writeByte_wf a b hm)

theorem filter_wfFrom (m : Memory) (lo : Option Nat) (p : Nat × Byte → Bool) (hm : Memory.wfFrom lo m = true) :
    Memory.wfFrom lo (m.filter p) = true := by
  induction m generalizing lo with
  | nil => rfl
  | cons x m ih =>
    obtain ⟨a, v⟩ := x
    simp only [Memory.wfFrom, Bool.and_eq_true] at hm
    rw [List.filter_cons]
    split
    · simp only [Memory.wfFrom, Bool.and_eq_true]
      exact ⟨hm.1, ih (some a) hm.2⟩
    · have h := ih (some a) hm.2
      cases lo with
      | none => exact wfFrom_none h
      | some l => exact wfFrom_weaken (by simp at hm; omega) h

/-- Memory with some addresses cleared keeps the form. -/
theorem filter_wf {m : Memory} (p : Nat × Byte → Bool) (hm : Memory.wf m = true) : Memory.wf (m.filter p) = true :=
  filter_wfFrom m none p hm

/-! Reads after writes. -/

theorem readByte_writeByte_from (m : Memory) (lo : Option Nat) (a b : Nat) (v : Byte) (hm : Memory.wfFrom lo m = true) :
    readByte (writeByte m a v) b = if b = a then v else readByte m b := by
  induction m generalizing lo with
  | nil =>
    unfold writeByte
    by_cases hv : v = 0
    · simp [hv, readByte]
    · simp only [hv, if_false, readByte]
      split
      · rw [if_neg (by omega)]
      · rfl
  | cons x m ih =>
    obtain ⟨c, y⟩ := x
    simp only [Memory.wfFrom, Bool.and_eq_true] at hm
    unfold writeByte
    by_cases h1 : a < c
    · by_cases hv : v = 0
      · simp only [h1, hv, if_true]
        by_cases hb : b = a
        · subst hb; simp [readByte, h1]
        · simp [hb]
      · simp only [h1, hv, if_true, if_false, readByte]
        by_cases hb : b = a
        · subst hb; simp
        · by_cases hlt : b < a
          · have : b < c := by omega
            simp [hlt, this, hb]
          · simp [hlt, hb]
    · by_cases h2 : a = c
      · subst h2
        by_cases hv : v = 0
        · simp only [Nat.lt_irrefl, hv, if_true, if_false]
          by_cases hb : b = a
          · subst hb; simp [readByte_below hm.2 (Nat.le_refl _)]
          · by_cases hlt : b < a
            · simp [readByte, hlt, hb, readByte_below hm.2 (Nat.le_of_lt hlt)]
            · simp [readByte, hlt, hb]
        · simp only [Nat.lt_irrefl, hv, if_true, if_false, readByte]
          by_cases hb : b = a
          · subst hb; simp
          · simp [hb]
      · simp only [h1, h2, if_false, readByte, ih (some c) hm.2]
        by_cases hb : b = a
        · subst hb; simp [h1, h2]
        · simp [hb]

/-- A read after a write of one byte: the written byte, and every other byte as before. -/
theorem readByte_writeByte {m : Memory} (a b : Nat) (v : Byte) (hm : Memory.wf m = true) :
    readByte (writeByte m a v) b = if b = a then v else readByte m b :=
  readByte_writeByte_from m none a b v hm

/-- The same for a write of several bytes. -/
theorem readByte_writeBytes (bs : List Byte) {m : Memory} (a b : Nat) (hm : Memory.wf m = true) :
    readByte (writeBytes m a bs) b = if a ≤ b ∧ b < a + bs.length then bs.getD (b - a) 0 else readByte m b := by
  induction bs generalizing m a with
  | nil => simp [writeBytes]
  | cons x bs ih =>
    rw [writeBytes, ih (a + 1) (writeByte_wf a x hm), readByte_writeByte a b x hm]
    by_cases hb : b = a
    · subst hb; simp
    · by_cases h : a + 1 ≤ b ∧ b < a + 1 + bs.length
      · have e : b - a = (b - (a + 1)) + 1 := by omega
        have h' : a ≤ b ∧ b < a + (x :: bs).length := by simp; omega
        rw [if_pos h, if_pos h', e]; simp
      · have h' : ¬ (a ≤ b ∧ b < a + (x :: bs).length) := by simp at h ⊢; omega
        rw [if_neg h, if_neg h', if_neg hb]

/-! The operations of the machine over memory. -/

theorem foldl_keeps {α β : Type} (P : α → Prop) (f : α → β → α) (h : ∀ a b, P a → P (f a b)) (l : List β) (a : α) (ha : P a) :
    P (l.foldl f a) := by
  induction l generalizing a with
  | nil => exact ha
  | cons b l ih => exact ih (f a b) (h a b ha)

/-- The package's memory is in canonical form. -/
abbrev MemWf (s : State) : Prop := Memory.wf s.mem = true

theorem postNow_wf (s : State) (p : Part) (e : Event) (h : MemWf s) : MemWf (postNow s p e) := by
  simp only [MemWf, postNow, State.setPart]
  exact writeBytes_wf _ _ h

theorem drainEvents_wf (part n : Nat) (s : State) (h : MemWf s) : MemWf (drainEvents s part n) := by
  induction n generalizing s with
  | zero => exact h
  | succ n ih =>
    unfold drainEvents
    split
    · exact h
    · split
      · split
        · exact ih _ (postNow_wf _ _ _ h)
        · exact h
      · exact h

theorem postEvent_wf (s : State) (part type detail data : Nat) (h : MemWf s) : MemWf (postEvent s part type detail data) := by
  unfold postEvent
  split
  · exact h
  · dsimp only
    split
    · exact h
    · split
      · exact drainEvents_wf _ _ _ h
      · exact h

theorem watchOne_wf (s : State) (part i : Nat) (atomic : Bool) (pa : Nat) (who : Writer) (h : MemWf s) :
    MemWf (watchOne s part i atomic pa who) := by
  unfold watchOne
  split
  · exact h
  · split
    · dsimp only
      split
      · split
        · exact postEvent_wf _ _ _ _ _ h
        · exact h
      · split
        · exact postEvent_wf _ _ _ _ _ h
        · exact h
    · exact h

theorem watchAll_wf (s : State) (atomic : Bool) (pa : Nat) (who : Writer) (h : MemWf s) : MemWf (watchAll s atomic pa who) := by
  unfold watchAll
  split
  · exact h
  · exact foldl_keeps MemWf _ (fun s i => watchOne_wf s _ i _ _ _) _ _ h

/-- What goes out to another package changes no byte of memory. -/
theorem transmit_mem (s : State) (m : RemoteMsg) : (transmit s m).mem = s.mem := by
  unfold transmit
  split
  · rfl
  · dsimp only
    split <;> rfl

theorem sendRemote_mem (s : State) (die pa : Nat) (req : RemoteReq) : (sendRemote s die pa req).mem = s.mem := transmit_mem _ _

theorem sendWrite_mem (s : State) (die pa : Nat) (d : List (Byte × Bool)) : (sendWrite s die pa d).mem = s.mem := by
  unfold sendWrite
  split
  · exact sendRemote_mem _ _ _ _
  · rfl

theorem homePut_wf (who : Writer) (s : State) (pa : Nat) (d : List PByte) (h : MemWf s) : MemWf (homePut who s pa d) := by
  unfold homePut
  rw [MemWf, sendWrite_mem]
  exact writeBytes_wf _ _ h

theorem lostEvent_wf (s : State) (pa die : Nat) (h : MemWf s) : MemWf (lostEvent s pa die) := by
  unfold lostEvent
  split
  · exact postEvent_wf _ _ _ _ _ h
  · exact h

theorem homeRuns_wf (s : State) (pa : Nat) (runs : List (Nat × List PByte)) (atomic : Bool) (who : Writer) (h : MemWf s) :
    MemWf (homeRuns s pa runs atomic who) := by
  unfold homeRuns
  split
  · exact h
  · split
    · exact lostEvent_wf _ _ _ h
    · exact watchAll_wf _ _ _ _ (foldl_keeps MemWf _ (fun s r => homePut_wf who s _ _) _ _ h)

theorem homeWrite_wf (s : State) (pa : Nat) (d : List PByte) (atomic : Bool) (who : Writer) (h : MemWf s) :
    MemWf (homeWrite s pa d atomic who) := homeRuns_wf _ _ _ _ _ h

theorem addFault_mem (s : State) (f : PageWait) : (addFault s f).mem = s.mem := by
  unfold addFault
  split <;> rfl

theorem waitRoute_mem (s : State) (pa die : Nat) : (waitRoute s pa die).mem = s.mem := by
  unfold waitRoute
  split <;> rfl

/-- An access that waits changes no byte of memory. -/
theorem waitWalk_mem (s : State) (root space va d : Nat) : (waitWalk s root space va d).mem = s.mem := by
  unfold waitWalk
  split
  · split
    · rfl
    · exact waitRoute_mem _ _ _
    · exact waitRoute_mem _ _ _
    · rfl
  · exact addFault_mem _ _
  · rfl

theorem waitMoving_mem (s : State) (space va d : Nat) : (waitMoving s space va d).mem = s.mem := waitWalk_mem _ _ _ _ _

theorem dieWrite_wf (s : State) (space : Nat) (p : W64) (d : List PByte) (atomic : Bool) (who : Writer) (die : Nat) (h : MemWf s) :
    MemWf (dieWrite s space p d atomic who die) := by
  unfold dieWrite
  refine foldl_keeps MemWf _ (fun s c h => ?_) _ _ h
  have hw : MemWf (waitMoving s space (c.1 % 2 ^ 52) die) := by rw [MemWf, waitMoving_mem]; exact h
  dsimp only
  split
  · exact homeWrite_wf _ _ _ _ _ hw
  · exact hw

theorem watchRun_wf (s : State) (part i pa len : Nat) (who : Writer) (h : MemWf s) : MemWf (watchRun s part i pa len who) := by
  unfold watchRun
  extract_lets v bits lo hi
  split
  · exact h
  · exact watchOne_wf _ _ _ _ _ _ h

theorem zeroFrame_wf (s : State) (pa len : Nat) (h : MemWf s) : MemWf (zeroFrame s pa len) := by
  unfold zeroFrame
  dsimp only
  split
  · exact filter_wf _ h
  · exact foldl_keeps MemWf _ (fun s i => watchRun_wf s _ i _ _ _) _ _ (filter_wf _ h)

theorem copyFrame_wf (s : State) (old new len : Nat) (h : MemWf s) : MemWf (copyFrame s old new len) :=
  foldl_keeps (fun m => Memory.wf m = true) _ (fun _ _ hm => writeByte_wf _ _ hm) _ _ (zeroFrame_wf s new len h)

theorem performRemote_wf (s : State) (m : RemoteMsg) (h : MemWf s) : MemWf (performRemote s m) := by
  unfold performRemote
  split
  · exact foldl_keeps MemWf _ (fun _ _ h => homeWrite_wf _ _ _ _ _ h) _ _ h
  · rw [MemWf, sendRemote_mem]; exact h
  · extract_lets n bs r t
    have ht : MemWf t := by
      unfold t
      split
      · exact h
      · exact homeWrite_wf _ _ _ _ _ h
    split
    · exact ht
    · rw [MemWf, sendRemote_mem]; exact ht
  · exact h
  · exact h

theorem clearHbm_wf (s : State) (dies : List Nat) (h : MemWf s) : MemWf (clearHbm s dies) := filter_wf _ h

theorem packageReset_wf (s : State) (h : MemWf s) : MemWf (packageReset s) := filter_wf _ h

/-! The windows and B-store shares of teams. -/

/-- A team's window and B-store share are in canonical form. -/
abbrev TeamWf (t : Team) : Prop := Memory.wf t.scratch = true ∧ Memory.wf t.bstore = true

theorem canonical_iff (s : State) : s.MemCanonical ↔ MemWf s ∧ TeamWf s.t ∧ ∀ t ∈ s.teams, TeamWf t := by
  simp [State.MemCanonical]

/-- A change of a team that keeps its memories keeps those of the machine. -/
theorem modTeam_canonical (s : State) (id : Nat) (f : Team → Team) (hf : ∀ t, TeamWf t → TeamWf (f t)) (h : s.MemCanonical) :
    (s.modTeam id f).MemCanonical := by
  rw [canonical_iff] at h ⊢
  unfold State.modTeam
  split
  · exact ⟨h.1, hf _ h.2.1, h.2.2⟩
  · refine ⟨h.1, h.2.1, fun t ht => ?_⟩
    simp only [List.mem_map] at ht
    obtain ⟨u, hu, rfl⟩ := ht
    split
    · exact hf _ (h.2.2 u hu)
    · exact h.2.2 u hu

theorem windowWrite_canonical (s : State) (team a : Nat) (d : List PByte) (h : s.MemCanonical) :
    (windowWrite s team a d).MemCanonical :=
  modTeam_canonical s team _ (fun _ ht => ⟨writeBytes_wf _ _ ht.1, ht.2⟩) h

theorem writeLocal_canonical (s : State) (team : Nat) (b : Bool) (xs : List CopyOut) (h : s.MemCanonical) :
    (writeLocal s team b xs).MemCanonical := by
  unfold writeLocal
  split
  · refine modTeam_canonical s team _ (fun t ht => foldl_keeps TeamWf _ (fun t x ht => ?_) _ _ ht) h
    exact And.intro ht.1 (writeBytes_wf _ _ ht.2)
  · exact foldl_keeps State.MemCanonical _ (fun s x h => windowWrite_canonical s _ _ _ h) _ _ h

/-- The memory of the machine right after reset has the form. -/
theorem reset_mem_wf : Memory.wf State.reset.mem = true := rfl

end Sys2Proof.Machine
end

