-- ==== Sys2Proof/Laws/Ops.lean ====
section
/-! SUPPORT. What the shared operations do, said once: moving past an instruction, results in the lanes, the finish of an
instruction with exceptions, masks and scalars. -/

namespace Sys2Proof.Machine

theorem countOpp_num (w : Wave) (fair starve : Bool) : (w.countOpp fair starve).num = w.num := by
  unfold Wave.countOpp; split <;> rfl

/-- Counting an opportunity changes the counts of entries and nothing else of the wave. -/
theorem countOpp_spec (w : Wave) (fair starve : Bool) :
    w.countOpp fair starve = { w with paths := (w.countOpp fair starve).paths } ∧
    ∃ g : Entry → Entry, (w.countOpp fair starve).paths = w.paths.map g ∧ ∀ e, ∃ m n, g e = { e with fair := m, starve := n } := by
  unfold Wave.countOpp
  split
  · exact ⟨rfl, id, by simp, fun e => ⟨e.fair, e.starve, rfl⟩⟩
  · refine ⟨rfl, _, rfl, fun e => ?_⟩
    split
    · exact ⟨_, _, rfl⟩
    · split <;> exact ⟨_, _, rfl⟩

/-- A counted opportunity spends the grant; what falls due by the counts is the fairness interval and the sibling hang. -/
theorem count_spec (s : State) (fair starve : Bool) :
    (∃ more, (s.count fair starve).due = s.due ++ more ∧ ∀ h ∈ more, h = .fairness s.waveId ∨ h = .hang s.waveId) ∧
    s.count fair starve = { s with
      w := s.w.countOpp fair starve, granted := false, due := (s.count fair starve).due } := by
  have e := countOpp_num s.w fair starve
  simp only [State.count, State.addDue]
  split <;> split
  · exact ⟨⟨[.fairness s.waveId, .hang s.waveId], by simp [State.waveId, e], by simp⟩, rfl⟩
  · exact ⟨⟨[.hang s.waveId], by simp [State.waveId, e], by simp⟩, rfl⟩
  · exact ⟨⟨[.fairness s.waveId], by simp [State.waveId, e], by simp⟩, rfl⟩
  · exact ⟨⟨[], by simp, by simp⟩, rfl⟩

/-- Moving past an instruction is exactly the frame `Past`. -/
theorem advance_past (s : State) (len : Nat) (lw fair : Bool) : Past len s (s.advance len lw fair) := by
  unfold State.advance
  extract_lets w
  obtain ⟨hd, hs⟩ := count_spec { s with w := { w with issued := w.issued + 1, cmpOk := false }, stalled := false } fair true
  obtain ⟨hw, g, hg, hp⟩ := countOpp_spec { w with issued := w.issued + 1, cmpOk := false } fair true
  refine ⟨?_, hd, ?_⟩
  · rw [hs]
    simp only [hg]
    show List.Forall₂ _ s.w.paths (w.paths.map g)
    simp only [w, Wave.onCur, List.map_map]
    refine List.forall₂_map_right_iff.2 (List.forall₂_same.2 fun e _ => ?_)
    simp only [Function.comp]
    split
    · obtain ⟨m, n, h⟩ := hp { e with
        pc := e.pc + BitVec.ofNat 64 len
        clause := e.clause.map fun c => { c with count := c.count + 1, ext := none, lw := c.lw || lw }
        body := e.body.map fun b => { b with count := b.count + 1 }
        blocked := none, only := none }
      rw [h]
      refine ⟨rfl, rfl, rfl, rfl, rfl, ?_⟩
      rw [if_pos ‹_›]
      cases e.clause <;> exact ⟨rfl, rfl, rfl, rfl⟩
    · obtain ⟨m, n, h⟩ := hp e
      rw [h]
      refine ⟨rfl, rfl, rfl, rfl, rfl, ?_⟩
      rw [if_neg ‹_›]
      exact ⟨rfl, rfl⟩
  · rw [hs, hw]; rfl

theorem low_of_append (x : W32) (v : W64) : (x ++ v.setWidth 32 : BitVec 64).setWidth 32 = v.setWidth 32 :=
  @BitVec.setWidth_append_eq_right 32 32 x (v.setWidth 32)

/-- The result of a lane instruction in one lane. -/
theorem result_spec (l : Lane) (free : Nat) (iw : IW) (d : Dst) (v : W64) :
    DstWritten iw d v l (l.result free iw d v) ∧ LatchTaken iw v (l.result free iw d v) := by
  have h : (v >>> 32).setWidth 32 = v.extractLsb' 32 32 := by ext i hi; simp
  refine ⟨?_, ?_⟩
  · have n96 (n : Fin 96) : (n : Nat) < 96 := n.2
    cases iw <;> cases d <;>
      simp [Lane.result, Lane.write, Lane.latchTo, DstWritten, Lane.setReg, Dst.covers, h, bne, n96, BEq.beq]
  · cases iw
    · simp [Lane.result, Lane.latchTo, LatchTaken, low_of_append]
    · simp [Lane.result, Lane.latchTo, LatchTaken]

/-- A lane operation completes with its results and the frame. -/
theorem laneOp_spec (s : State) (len : Nat) (iw : IW) (d : Dst) (f : Wave → Lane → W64) :
    LanesTook s.w.acting iw d (f s.w) s.w.lanes (laneOp s len iw d f).w.lanes ∧
    Past len { s with w := { s.w with lanes := (laneOp s len iw d f).w.lanes }, free := (laneOp s len iw d f).free }
      (laneOp s len iw d f) := by
  unfold laneOp
  have p := advance_past { s with
    w := s.w.onLanes s.w.acting fun l => l.result s.free iw d (f s.w l), free := s.free + 1 } len true true
  have hw := congrArg (fun t : State => t.w.lanes) p.2.2
  have hf := congrArg State.free p.2.2
  simp only at hw hf
  refine ⟨?_, ?_⟩
  · rw [hw]
    refine List.forall₂_map_right_iff.2 (List.forall₂_same.2 fun l _ => ?_)
    split
    · exact result_spec ..
    · rfl
  · rw [hw, hf]; exact p

end Sys2Proof.Machine
end

