-- ==== Sys2Proof/Laws/PerInstr.lean ====
section
/-! SUPPORT. One lemma for each constructor of `Instr`: its encoding is of 16 or 32 bits, or it is an event and has none
(R62). -/

namespace Sys2Proof.Laws

/-- The length of the encoding in bytes. -/
def Encoding.Statement (i : Instr) : Prop := (encode i).1 = 0 ∨ (encode i).1 = 2 ∨ (encode i).1 = 4

theorem Encoding.clause (e : Bool) (exec : MReg) (setb seta : Fin 16) (wait : BitVec 12) : Encoding.Statement (.clause e exec setb seta wait) := .inr (.inr rfl)
theorem Encoding.ext (p : BitVec 25) : Encoding.Statement (.ext p) := .inr (.inr rfl)
theorem Encoding.add (w : IW) (d : Dst) (a : Opd) (b : Src) : Encoding.Statement (.add w d a b) := .inr (.inr rfl)
theorem Encoding.sub (w : IW) (d : Dst) (a : Opd) (b : Src) : Encoding.Statement (.sub w d a b) := .inr (.inr rfl)
theorem Encoding.mul (w : IW) (d : Dst) (a : Opd) (b : Src) : Encoding.Statement (.mul w d a b) := .inr (.inr rfl)
theorem Encoding.mulhI (w : IW) (d : Dst) (a : Opd) (b : Src) : Encoding.Statement (.mulhI w d a b) := .inr (.inr rfl)
theorem Encoding.mulhN (w : IW) (d : Dst) (a : Opd) (b : Src) : Encoding.Statement (.mulhN w d a b) := .inr (.inr rfl)
theorem Encoding.minI (w : IW) (d : Dst) (a : Opd) (b : Src) : Encoding.Statement (.minI w d a b) := .inr (.inr rfl)
theorem Encoding.minN (w : IW) (d : Dst) (a : Opd) (b : Src) : Encoding.Statement (.minN w d a b) := .inr (.inr rfl)
theorem Encoding.maxI (w : IW) (d : Dst) (a : Opd) (b : Src) : Encoding.Statement (.maxI w d a b) := .inr (.inr rfl)
theorem Encoding.maxN (w : IW) (d : Dst) (a : Opd) (b : Src) : Encoding.Statement (.maxN w d a b) := .inr (.inr rfl)
theorem Encoding.and (w : IW) (d : Dst) (a : Opd) (b : Src) : Encoding.Statement (.and w d a b) := .inr (.inr rfl)
theorem Encoding.or (w : IW) (d : Dst) (a : Opd) (b : Src) : Encoding.Statement (.or w d a b) := .inr (.inr rfl)
theorem Encoding.xor (w : IW) (d : Dst) (a : Opd) (b : Src) : Encoding.Statement (.xor w d a b) := .inr (.inr rfl)
theorem Encoding.shl (w : IW) (d : Dst) (a : Opd) (b : Src) : Encoding.Statement (.shl w d a b) := .inr (.inr rfl)
theorem Encoding.shrN (w : IW) (d : Dst) (a : Opd) (b : Src) : Encoding.Statement (.shrN w d a b) := .inr (.inr rfl)
theorem Encoding.shrI (w : IW) (d : Dst) (a : Opd) (b : Src) : Encoding.Statement (.shrI w d a b) := .inr (.inr rfl)
theorem Encoding.rot (w : IW) (d : Dst) (a : Opd) (b : Src) : Encoding.Statement (.rot w d a b) := .inr (.inr rfl)
theorem Encoding.divI (d : Dst) (a : Opd) (b : Src) : Encoding.Statement (.divI d a b) := .inr (.inr rfl)
theorem Encoding.divIT64 (d : Dst) (a b : Opd) : Encoding.Statement (.divIT64 d a b) := .inr (.inr rfl)
theorem Encoding.divII64 (d : Dst) (a : Opd) (i : BitVec 7) : Encoding.Statement (.divII64 d a i) := .inr (.inr rfl)
theorem Encoding.divN (d : Dst) (a : Opd) (b : Src) : Encoding.Statement (.divN d a b) := .inr (.inr rfl)
theorem Encoding.divNT64 (d : Dst) (a b : Opd) : Encoding.Statement (.divNT64 d a b) := .inr (.inr rfl)
theorem Encoding.divNI64 (d : Dst) (a : Opd) (i : BitVec 7) : Encoding.Statement (.divNI64 d a i) := .inr (.inr rfl)
theorem Encoding.remI (d : Dst) (a : Opd) (b : Src) : Encoding.Statement (.remI d a b) := .inr (.inr rfl)
theorem Encoding.remIT64 (d : Dst) (a b : Opd) : Encoding.Statement (.remIT64 d a b) := .inr (.inr rfl)
theorem Encoding.remII64 (d : Dst) (a : Opd) (i : BitVec 7) : Encoding.Statement (.remII64 d a i) := .inr (.inr rfl)
theorem Encoding.remN (d : Dst) (a : Opd) (b : Src) : Encoding.Statement (.remN d a b) := .inr (.inr rfl)
theorem Encoding.remNT64 (d : Dst) (a b : Opd) : Encoding.Statement (.remNT64 d a b) := .inr (.inr rfl)
theorem Encoding.remNI64 (d : Dst) (a : Opd) (i : BitVec 7) : Encoding.Statement (.remNI64 d a i) := .inr (.inr rfl)
theorem Encoding.addcN (d : Dst) (a : Opd) (b : Src) : Encoding.Statement (.addcN d a b) := .inr (.inr rfl)
theorem Encoding.addcNT64 (d : Dst) (a b : Opd) : Encoding.Statement (.addcNT64 d a b) := .inr (.inr rfl)
theorem Encoding.addcNI64 (d : Dst) (a : Opd) (i : BitVec 7) : Encoding.Statement (.addcNI64 d a i) := .inr (.inr rfl)
theorem Encoding.mad (d : Dst) (a : Opd) (b : Src) : Encoding.Statement (.mad d a b) := .inr (.inr rfl)
theorem Encoding.madT64 (d : Dst) (a b : Opd) : Encoding.Statement (.madT64 d a b) := .inr (.inr rfl)
theorem Encoding.madI64 (d : Dst) (a : Opd) (i : BitVec 7) : Encoding.Statement (.madI64 d a i) := .inr (.inr rfl)
theorem Encoding.neg (d : Dst) (a : Opd) : Encoding.Statement (.neg d a) := .inr (.inr rfl)
theorem Encoding.neg64 (d : Dst) (a : Opd) : Encoding.Statement (.neg64 d a) := .inr (.inr rfl)
theorem Encoding.abs (d : Dst) (a : Opd) : Encoding.Statement (.abs d a) := .inr (.inr rfl)
theorem Encoding.abs64 (d : Dst) (a : Opd) : Encoding.Statement (.abs64 d a) := .inr (.inr rfl)
theorem Encoding.not (d : Dst) (a : Opd) : Encoding.Statement (.not d a) := .inr (.inr rfl)
theorem Encoding.not64 (d : Dst) (a : Opd) : Encoding.Statement (.not64 d a) := .inr (.inr rfl)
theorem Encoding.popc (d : Dst) (a : Opd) : Encoding.Statement (.popc d a) := .inr (.inr rfl)
theorem Encoding.popc64 (d : Dst) (a : Opd) : Encoding.Statement (.popc64 d a) := .inr (.inr rfl)
theorem Encoding.clz (d : Dst) (a : Opd) : Encoding.Statement (.clz d a) := .inr (.inr rfl)
theorem Encoding.clz64 (d : Dst) (a : Opd) : Encoding.Statement (.clz64 d a) := .inr (.inr rfl)
theorem Encoding.brev (d : Dst) (a : Opd) : Encoding.Statement (.brev d a) := .inr (.inr rfl)
theorem Encoding.brev64 (d : Dst) (a : Opd) : Encoding.Statement (.brev64 d a) := .inr (.inr rfl)
theorem Encoding.bfxN (d : Dst) (a : Opd) (b : Src) : Encoding.Statement (.bfxN d a b) := .inr (.inr rfl)
theorem Encoding.bfxNT64 (d : Dst) (a b : Opd) : Encoding.Statement (.bfxNT64 d a b) := .inr (.inr rfl)
theorem Encoding.bfxNI64 (d : Dst) (a : Opd) (i : BitVec 7) : Encoding.Statement (.bfxNI64 d a i) := .inr (.inr rfl)
theorem Encoding.bfxI (d : Dst) (a : Opd) (b : Src) : Encoding.Statement (.bfxI d a b) := .inr (.inr rfl)
theorem Encoding.bfxIT64 (d : Dst) (a b : Opd) : Encoding.Statement (.bfxIT64 d a b) := .inr (.inr rfl)
theorem Encoding.bfxII64 (d : Dst) (a : Opd) (i : BitVec 7) : Encoding.Statement (.bfxII64 d a i) := .inr (.inr rfl)
theorem Encoding.bfi (d : Dst) (a : Opd) (b : Src) : Encoding.Statement (.bfi d a b) := .inr (.inr rfl)
theorem Encoding.bfiT64 (d : Dst) (a b : Opd) : Encoding.Statement (.bfiT64 d a b) := .inr (.inr rfl)
theorem Encoding.bfiI64 (d : Dst) (a : Opd) (i : BitVec 7) : Encoding.Statement (.bfiI64 d a i) := .inr (.inr rfl)
theorem Encoding.padd (d : Dst) (a b : Opd) : Encoding.Statement (.padd d a b) := .inr (.inr rfl)
theorem Encoding.paddI (d : Dst) (a : Opd) (i : BitVec 7) : Encoding.Statement (.paddI d a i) := .inr (.inr rfl)
theorem Encoding.fadd (t : FT) (d : Dst) (a b : Opd) : Encoding.Statement (.fadd t d a b) := .inr (.inr rfl)
theorem Encoding.faddI (t : FT) (d : Dst) (a : Opd) (i : BitVec 7) : Encoding.Statement (.faddI t d a i) := .inr (.inr rfl)
theorem Encoding.fsub (t : FT) (d : Dst) (a b : Opd) : Encoding.Statement (.fsub t d a b) := .inr (.inr rfl)
theorem Encoding.fsubI (t : FT) (d : Dst) (a : Opd) (i : BitVec 7) : Encoding.Statement (.fsubI t d a i) := .inr (.inr rfl)
theorem Encoding.fmul (t : FT) (d : Dst) (a b : Opd) : Encoding.Statement (.fmul t d a b) := .inr (.inr rfl)
theorem Encoding.fmulI (t : FT) (d : Dst) (a : Opd) (i : BitVec 7) : Encoding.Statement (.fmulI t d a i) := .inr (.inr rfl)
theorem Encoding.fma (t : FT) (d : Dst) (a b : Opd) : Encoding.Statement (.fma t d a b) := .inr (.inr rfl)
theorem Encoding.fmaI (t : FT) (d : Dst) (a : Opd) (i : BitVec 7) : Encoding.Statement (.fmaI t d a i) := .inr (.inr rfl)
theorem Encoding.fmin (t : FT) (d : Dst) (a b : Opd) : Encoding.Statement (.fmin t d a b) := .inr (.inr rfl)
theorem Encoding.fminI (t : FT) (d : Dst) (a : Opd) (i : BitVec 7) : Encoding.Statement (.fminI t d a i) := .inr (.inr rfl)
theorem Encoding.fmax (t : FT) (d : Dst) (a b : Opd) : Encoding.Statement (.fmax t d a b) := .inr (.inr rfl)
theorem Encoding.fmaxI (t : FT) (d : Dst) (a : Opd) (i : BitVec 7) : Encoding.Statement (.fmaxI t d a i) := .inr (.inr rfl)
theorem Encoding.fdiv (t : FT) (d : Dst) (a b : Opd) : Encoding.Statement (.fdiv t d a b) := .inr (.inr rfl)
theorem Encoding.fdivI (t : FT) (d : Dst) (a : Opd) (i : BitVec 7) : Encoding.Statement (.fdivI t d a i) := .inr (.inr rfl)
theorem Encoding.fscale (t : FT) (d : Dst) (a b : Opd) : Encoding.Statement (.fscale t d a b) := .inr (.inr rfl)
theorem Encoding.fscaleI (t : FT) (d : Dst) (a : Opd) (i : BitVec 7) : Encoding.Statement (.fscaleI t d a i) := .inr (.inr rfl)
theorem Encoding.fsqrt (t : FT) (d : Dst) (a : Opd) : Encoding.Statement (.fsqrt t d a) := .inr (.inr rfl)
theorem Encoding.frcp (t : FT) (d : Dst) (a : Opd) : Encoding.Statement (.frcp t d a) := .inr (.inr rfl)
theorem Encoding.frsq (t : FT) (d : Dst) (a : Opd) : Encoding.Statement (.frsq t d a) := .inr (.inr rfl)
theorem Encoding.fclass (t : FT) (d : Dst) (a : Opd) : Encoding.Statement (.fclass t d a) := .inr (.inr rfl)
theorem Encoding.fexp2 (t : FT) (d : Dst) (a : Opd) : Encoding.Statement (.fexp2 t d a) := .inr (.inr rfl)
theorem Encoding.flog2 (t : FT) (d : Dst) (a : Opd) : Encoding.Statement (.flog2 t d a) := .inr (.inr rfl)
theorem Encoding.fsin (t : FT) (d : Dst) (a : Opd) : Encoding.Statement (.fsin t d a) := .inr (.inr rfl)
theorem Encoding.fcos (t : FT) (d : Dst) (a : Opd) : Encoding.Statement (.fcos t d a) := .inr (.inr rfl)
theorem Encoding.frnd (m : RMode) (t : FT) (d : Dst) (a : Opd) : Encoding.Statement (.frnd m t d a) := .inr (.inr rfl)
theorem Encoding.cmp (t : CT) (c : Cond) (m : MReg) (a : Opd) (b : Src) : Encoding.Statement (.cmp t c m a b) := .inr (.inr rfl)
theorem Encoding.fcmp (t : FT) (c : Cond) (m : MReg) (a : Opd) (b : Src) : Encoding.Statement (.fcmp t c m a b) := .inr (.inr rfl)
theorem Encoding.mov (w : IW) (d : Dst) (a : Opd) : Encoding.Statement (.mov w d a) := .inr (.inr rfl)
theorem Encoding.movi (w : IW) (d : Dst) (i : BitVec 7) : Encoding.Statement (.movi w d i) := .inr (.inr rfl)
theorem Encoding.sel (x : MReg) (d : Dst) (a b : Opd) : Encoding.Statement (.sel x d a b) := .inr (.inr rfl)
theorem Encoding.sel64 (x : MReg) (d : Dst) (a b : Opd) : Encoding.Statement (.sel64 x d a b) := .inr (.inr rfl)
theorem Encoding.cvt (m : CvtMode) (dty sty : Ty) (d : Dst) (a : Opd) : Encoding.Statement (.cvt m dty sty d a) := .inr (.inr rfl)
theorem Encoding.cvtRdn (dty sty : Ty) (d : Dst) (a : Opd) : Encoding.Statement (.cvtRdn dty sty d a) := .inr (.inr rfl)
theorem Encoding.npack (f : PackFmt) (d : Dst) (a : Opd) : Encoding.Statement (.npack f d a) := .inr (.inr rfl)
theorem Encoding.nunpk (f : PackFmt) (d : Dst) (a : Opd) : Encoding.Statement (.nunpk f d a) := .inr (.inr rfl)
theorem Encoding.shflIdx (d : Dst) (a b : Opd) : Encoding.Statement (.shflIdx d a b) := .inr (.inr rfl)
theorem Encoding.shflUp (d : Dst) (a b : Opd) : Encoding.Statement (.shflUp d a b) := .inr (.inr rfl)
theorem Encoding.shflDown (d : Dst) (a b : Opd) : Encoding.Statement (.shflDown d a b) := .inr (.inr rfl)
theorem Encoding.shflXor (d : Dst) (a b : Opd) : Encoding.Statement (.shflXor d a b) := .inr (.inr rfl)
theorem Encoding.bcast (d : Dst) (a b : Opd) : Encoding.Statement (.bcast d a b) := .inr (.inr rfl)
theorem Encoding.voteAll (m : MReg) (a : Opd) : Encoding.Statement (.voteAll m a) := .inr (.inr rfl)
theorem Encoding.voteAny (m : MReg) (a : Opd) : Encoding.Statement (.voteAny m a) := .inr (.inr rfl)
theorem Encoding.voteEq (m : MReg) (a : Opd) : Encoding.Statement (.voteEq m a) := .inr (.inr rfl)
theorem Encoding.wred (o : RedOp) (t : RedTy) (d : Dst) (a : Opd) : Encoding.Statement (.wred o t d a) := .inr (.inr rfl)
theorem Encoding.wscan (o : RedOp) (t : RedTy) (d : Dst) (a : Opd) : Encoding.Statement (.wscan o t d a) := .inr (.inr rfl)
theorem Encoding.movs (s : SReg) (a b : Opd) : Encoding.Statement (.movs s a b) := .inr (.inr rfl)
theorem Encoding.mand (d a b : MReg) : Encoding.Statement (.mand d a b) := .inr (.inr rfl)
theorem Encoding.mor (d a b : MReg) : Encoding.Statement (.mor d a b) := .inr (.inr rfl)
theorem Encoding.mxor (d a b : MReg) : Encoding.Statement (.mxor d a b) := .inr (.inr rfl)
theorem Encoding.mnot (d a : MReg) : Encoding.Statement (.mnot d a) := .inr (.inr rfl)
theorem Encoding.mpop (d : SReg) (a : MReg) : Encoding.Statement (.mpop d a) := .inr (.inr rfl)
theorem Encoding.mfirst (d : SReg) (a : MReg) : Encoding.Statement (.mfirst d a) := .inr (.inr rfl)
theorem Encoding.sadd (d a b : SReg) : Encoding.Statement (.sadd d a b) := .inr (.inr rfl)
theorem Encoding.saddImm (d : SReg) (i : BitVec 12) : Encoding.Statement (.saddImm d i) := .inr (.inr rfl)
theorem Encoding.ssub (d a b : SReg) : Encoding.Statement (.ssub d a b) := .inr (.inr rfl)
theorem Encoding.ssubImm (d : SReg) (i : BitVec 12) : Encoding.Statement (.ssubImm d i) := .inr (.inr rfl)
theorem Encoding.smul (d a b : SReg) : Encoding.Statement (.smul d a b) := .inr (.inr rfl)
theorem Encoding.smulImm (d : SReg) (i : BitVec 12) : Encoding.Statement (.smulImm d i) := .inr (.inr rfl)
theorem Encoding.sand (d a b : SReg) : Encoding.Statement (.sand d a b) := .inr (.inr rfl)
theorem Encoding.sandImm (d : SReg) (i : BitVec 12) : Encoding.Statement (.sandImm d i) := .inr (.inr rfl)
theorem Encoding.sor (d a b : SReg) : Encoding.Statement (.sor d a b) := .inr (.inr rfl)
theorem Encoding.sorImm (d : SReg) (i : BitVec 12) : Encoding.Statement (.sorImm d i) := .inr (.inr rfl)
theorem Encoding.sxor (d a b : SReg) : Encoding.Statement (.sxor d a b) := .inr (.inr rfl)
theorem Encoding.sxorImm (d : SReg) (i : BitVec 12) : Encoding.Statement (.sxorImm d i) := .inr (.inr rfl)
theorem Encoding.sshl (d a b : SReg) : Encoding.Statement (.sshl d a b) := .inr (.inr rfl)
theorem Encoding.sshlImm (d : SReg) (i : BitVec 12) : Encoding.Statement (.sshlImm d i) := .inr (.inr rfl)
theorem Encoding.sshr (arith : Bool) (d a b : SReg) : Encoding.Statement (.sshr arith d a b) := .inr (.inr rfl)
theorem Encoding.sshrImm (arith : Bool) (d : SReg) (i : BitVec 12) : Encoding.Statement (.sshrImm arith d i) := .inr (.inr rfl)
theorem Encoding.scmp (c : SCond) (d a b : SReg) : Encoding.Statement (.scmp c d a b) := .inr (.inr rfl)
theorem Encoding.scmpImm (c : SCond) (d : SReg) (i : BitVec 12) : Encoding.Statement (.scmpImm c d i) := .inr (.inr rfl)
theorem Encoding.scmpU (le : Bool) (d a b : SReg) : Encoding.Statement (.scmpU le d a b) := .inr (.inr rfl)
theorem Encoding.scmpUImm (le : Bool) (d : SReg) (i : BitVec 12) : Encoding.Statement (.scmpUImm le d i) := .inr (.inr rfl)
theorem Encoding.smov (d a : SReg) : Encoding.Statement (.smov d a) := .inr (.inr rfl)
theorem Encoding.smovi (d : SReg) (i : BitVec 12) : Encoding.Statement (.smovi d i) := .inr (.inr rfl)
theorem Encoding.ldg (z : MSize) (m : MMode) (d : Dst) (b : Opd) : Encoding.Statement (.ldg z m d b) := .inr (.inr rfl)
theorem Encoding.stg (z : MSize) (m : MMode) (d : Opd) (b : Opd) : Encoding.Statement (.stg z m d b) := .inr (.inr rfl)
theorem Encoding.sldg (w : IW) (d a : SReg) : Encoding.Statement (.sldg w d a) := .inr (.inr rfl)
theorem Encoding.prefg (v : PfLevel) (o : BitVec 7) (b : Opd) : Encoding.Statement (.prefg v o b) := .inr (.inr rfl)
theorem Encoding.lds (z : MSize) (m : MMode) (d : Dst) (b : Opd) : Encoding.Statement (.lds z m d b) := .inr (.inr rfl)
theorem Encoding.sts (z : MSize) (m : MMode) (d : Opd) (b : Opd) : Encoding.Statement (.sts z m d b) := .inr (.inr rfl)
theorem Encoding.ldp (z : MSize) (m : MMode) (d : Dst) (b : Opd) : Encoding.Statement (.ldp z m d b) := .inr (.inr rfl)
theorem Encoding.stp (z : MSize) (m : MMode) (d : Opd) (b : Opd) : Encoding.Statement (.stp z m d b) := .inr (.inr rfl)
theorem Encoding.ldl (z : MSize) (o : BitVec 7) (d : Dst) (b : Opd) : Encoding.Statement (.ldl z o d b) := .inr (.inr rfl)
theorem Encoding.stl (z : MSize) (o : BitVec 7) (d : Opd) (b : Opd) : Encoding.Statement (.stl z o d b) := .inr (.inr rfl)
theorem Encoding.ldk (z : MSize) (o : BitVec 7) (d : Dst) (b : Opd) : Encoding.Statement (.ldk z o d b) := .inr (.inr rfl)
theorem Encoding.atomg (o : Order) (s : Scope) (w : IW) (p : AtomOp) (d : Opd) (b : Opd) : Encoding.Statement (.atomg o s w p d b) := .inr (.inr rfl)
theorem Encoding.redg (o : Order) (s : Scope) (w : IW) (p : AtomOp) (d : Opd) (b : Opd) : Encoding.Statement (.redg o s w p d b) := .inr (.inr rfl)
theorem Encoding.atoms (o : Order) (s : Scope) (w : IW) (p : AtomOp) (d : Opd) (b : Opd) : Encoding.Statement (.atoms o s w p d b) := .inr (.inr rfl)
theorem Encoding.atomp (o : Order) (s : Scope) (w : IW) (p : AtomOp) (d : Opd) (b : Opd) : Encoding.Statement (.atomp o s w p d b) := .inr (.inr rfl)
theorem Encoding.tlook (d : Dst) (a : Opd) : Encoding.Statement (.tlook d a) := .inr (.inr rfl)
theorem Encoding.tset (d : Dst) (a b : Opd) : Encoding.Statement (.tset d a b) := .inr (.inr rfl)
theorem Encoding.tevict (d : Dst) (a : Opd) : Encoding.Statement (.tevict d a) := .inr (.inr rfl)
theorem Encoding.bra (i : BitVec 12) : Encoding.Statement (.bra i) := .inr (.inr rfl)
theorem Encoding.brd (m : MReg) (i : BitVec 12) : Encoding.Statement (.brd m i) := .inr (.inr rfl)
theorem Encoding.call (s : SReg) (i : BitVec 12) : Encoding.Statement (.call s i) := .inr (.inr rfl)
theorem Encoding.rjoinW (m : MReg) : Encoding.Statement (.rjoinW m) := .inr (.inr rfl)
theorem Encoding.yieldW : Encoding.Statement .yieldW := .inr (.inr rfl)
theorem Encoding.exit : Encoding.Statement .exit := .inr (.inr rfl)
theorem Encoding.nopW : Encoding.Statement .nopW := .inr (.inr rfl)
theorem Encoding.brk (c : BitVec 12) : Encoding.Statement (.brk c) := .inr (.inr rfl)
theorem Encoding.reform (c : BitVec 12) : Encoding.Statement (.reform c) := .inr (.inr rfl)
theorem Encoding.jmpi (s : SReg) : Encoding.Statement (.jmpi s) := .inr (.inr rfl)
theorem Encoding.fjmp (link : Bool) (s : SReg) (i : BitVec 12) : Encoding.Statement (.fjmp link s i) := .inr (.inr rfl)
theorem Encoding.ret (s : SReg) : Encoding.Statement (.ret s) := .inr (.inr rfl)
theorem Encoding.cfetch (slot : Fin 8) (s : SReg) : Encoding.Statement (.cfetch slot s) := .inr (.inr rfl)
theorem Encoding.movH (d : HReg) (s : HSrc) : Encoding.Statement (.movH d s) := .inr (.inl rfl)
theorem Encoding.addH (d : HReg) (s : HSrc) : Encoding.Statement (.addH d s) := .inr (.inl rfl)
theorem Encoding.subH (d : HReg) (s : HSrc) : Encoding.Statement (.subH d s) := .inr (.inl rfl)
theorem Encoding.mulH (d : HReg) (s : HSrc) : Encoding.Statement (.mulH d s) := .inr (.inl rfl)
theorem Encoding.andH (d : HReg) (s : HSrc) : Encoding.Statement (.andH d s) := .inr (.inl rfl)
theorem Encoding.orH (d : HReg) (s : HSrc) : Encoding.Statement (.orH d s) := .inr (.inl rfl)
theorem Encoding.xorH (d : HReg) (s : HSrc) : Encoding.Statement (.xorH d s) := .inr (.inl rfl)
theorem Encoding.shlH (d : HReg) (s : HSrc) : Encoding.Statement (.shlH d s) := .inr (.inl rfl)
theorem Encoding.shrNH (d : HReg) (s : HSrc) : Encoding.Statement (.shrNH d s) := .inr (.inl rfl)
theorem Encoding.faddH (d : HReg) (s : HSrc) : Encoding.Statement (.faddH d s) := .inr (.inl rfl)
theorem Encoding.fmulH (d : HReg) (s : HSrc) : Encoding.Statement (.fmulH d s) := .inr (.inl rfl)
theorem Encoding.fmaH (d : HReg) (s : HSrc) : Encoding.Statement (.fmaH d s) := .inr (.inl rfl)
theorem Encoding.fmaxH (d : HReg) (s : HSrc) : Encoding.Statement (.fmaxH d s) := .inr (.inl rfl)
theorem Encoding.fminH (d : HReg) (s : HSrc) : Encoding.Statement (.fminH d s) := .inr (.inl rfl)
theorem Encoding.cvtF32I32H (d : HReg) (s : HSrc) : Encoding.Statement (.cvtF32I32H d s) := .inr (.inl rfl)
theorem Encoding.nop : Encoding.Statement .nop := .inr (.inl rfl)
theorem Encoding.yield : Encoding.Statement .yield := .inr (.inl rfl)
theorem Encoding.rjoin (m : MReg) : Encoding.Statement (.rjoin m) := .inr (.inl rfl)
theorem Encoding.fence (o : FenceOrder) (s : Scope) : Encoding.Statement (.fence o s) := .inr (.inr rfl)
theorem Encoding.scope (k : HKind) (c : SReg) : Encoding.Statement (.scope k c) := .inr (.inr rfl)
theorem Encoding.scopeq (c a : SReg) : Encoding.Statement (.scopeq c a) := .inr (.inr rfl)
theorem Encoding.scopefz (c a : SReg) : Encoding.Statement (.scopefz c a) := .inr (.inr rfl)
theorem Encoding.scopeth (c a : SReg) : Encoding.Statement (.scopeth c a) := .inr (.inr rfl)
theorem Encoding.bar (n : Fin 64) : Encoding.Statement (.bar n) := .inr (.inr rfl)
theorem Encoding.bara (k : HKind) (c b a : SReg) : Encoding.Statement (.bara k c b a) := .inr (.inr rfl)
theorem Encoding.barw (k : HKind) (c b a : SReg) : Encoding.Statement (.barw k c b a) := .inr (.inr rfl)
theorem Encoding.waitf (hi lo : BitVec 6) : Encoding.Statement (.waitf hi lo) := .inr (.inr rfl)
theorem Encoding.sleept (abs : Bool) (a : SReg) : Encoding.Statement (.sleept abs a) := .inr (.inr rfl)
theorem Encoding.spinit (gang : Bool) (b : SReg) (n : Fin 64) : Encoding.Statement (.spinit gang b n) := .inr (.inr rfl)
theorem Encoding.spush (c b : SReg) (n : Fin 64) : Encoding.Statement (.spush c b n) := .inr (.inr rfl)
theorem Encoding.spop (c b : SReg) (n : Fin 64) : Encoding.Statement (.spop c b n) := .inr (.inr rfl)
theorem Encoding.sptryPop (c b : SReg) (n : Fin 64) : Encoding.Statement (.sptryPop c b n) := .inr (.inr rfl)
theorem Encoding.sptryPush (c b : SReg) (n : Fin 64) : Encoding.Statement (.sptryPush c b n) := .inr (.inr rfl)
theorem Encoding.msend (drop : Bool) (c a : SReg) : Encoding.Statement (.msend drop c a) := .inr (.inr rfl)
theorem Encoding.mrecv (c b a : SReg) : Encoding.Statement (.mrecv c b a) := .inr (.inr rfl)
theorem Encoding.mloopOpen (a : SReg) : Encoding.Statement (.mloopOpen a) := .inr (.inr rfl)
theorem Encoding.mloopClose : Encoding.Statement .mloopClose := .inr (.inr rfl)
theorem Encoding.mma (y : Layout) (c b a : SReg) : Encoding.Statement (.mma y c b a) := .inr (.inr rfl)
theorem Encoding.mmag (y : Layout) (c b a : SReg) : Encoding.Statement (.mmag y c b a) := .inr (.inr rfl)
theorem Encoding.mzero (fp64 strict : Bool) (a : SReg) : Encoding.Statement (.mzero fp64 strict a) := .inr (.inr rfl)
theorem Encoding.mloadz (src : ZSrc) (add : Bool) (c b a : SReg) : Encoding.Statement (.mloadz src add c b a) := .inr (.inr rfl)
theorem Encoding.mdrain (c b a : SReg) : Encoding.Statement (.mdrain c b a) := .inr (.inr rfl)
theorem Encoding.mseam (c : SReg) (mask : Fin 64) : Encoding.Statement (.mseam c mask) := .inr (.inr rfl)
theorem Encoding.mseamloc (c : SReg) (t : Fin 64) : Encoding.Statement (.mseamloc c t) := .inr (.inr rfl)
theorem Encoding.mseamfix (c : SReg) (t : Fin 64) : Encoding.Statement (.mseamfix c t) := .inr (.inr rfl)
theorem Encoding.mflags (clear : Bool) (c : SReg) (mask : Fin 64) : Encoding.Statement (.mflags clear c mask) := .inr (.inr rfl)
theorem Encoding.merrq (clear : Bool) (c : SReg) : Encoding.Statement (.merrq clear c) := .inr (.inr rfl)
theorem Encoding.tcopy (v : Bool) (c b : SReg) (a : Fin 16) : Encoding.Statement (.tcopy v c b a) := .inr (.inr rfl)
theorem Encoding.tgather (c b : SReg) (a : Fin 16) : Encoding.Statement (.tgather c b a) := .inr (.inr rfl)
theorem Encoding.tscat (c b : SReg) (a : Fin 16) : Encoding.Statement (.tscat c b a) := .inr (.inr rfl)
theorem Encoding.tstore (aon : Bool) (c b : SReg) (a : Fin 16) : Encoding.Statement (.tstore aon c b a) := .inr (.inr rfl)
theorem Encoding.tloadv (b : SReg) (a : Fin 16) : Encoding.Statement (.tloadv b a) := .inr (.inr rfl)
theorem Encoding.job (b a : SReg) : Encoding.Statement (.job b a) := .inr (.inr rfl)
theorem Encoding.jseq (s : Scope) (c a : SReg) : Encoding.Statement (.jseq s c a) := .inr (.inr rfl)
theorem Encoding.enq (c b : SReg) (q : Fin 64) : Encoding.Statement (.enq c b q) := .inr (.inr rfl)
theorem Encoding.fsopen (c a : SReg) : Encoding.Statement (.fsopen c a) := .inr (.inr rfl)
theorem Encoding.fsclose (a : SReg) : Encoding.Statement (.fsclose a) := .inr (.inr rfl)
theorem Encoding.fswait (tmo : Bool) (c b a : SReg) : Encoding.Statement (.fswait tmo c b a) := .inr (.inr rfl)
theorem Encoding.fscancel (a : SReg) : Encoding.Statement (.fscancel a) := .inr (.inr rfl)
theorem Encoding.fsq (c a : SReg) : Encoding.Statement (.fsq c a) := .inr (.inr rfl)
theorem Encoding.capb (pkg : Bool) (m g : Fin 64) : Encoding.Statement (.capb pkg m g) := .inr (.inr rfl)
theorem Encoding.cstep : Encoding.Statement .cstep := .inr (.inr rfl)
theorem Encoding.cape : Encoding.Statement .cape := .inr (.inr rfl)
theorem Encoding.capadopt (pkg : Bool) (m g : Fin 64) : Encoding.Statement (.capadopt pkg m g) := .inr (.inr rfl)
theorem Encoding.capq (c a : SReg) : Encoding.Statement (.capq c a) := .inr (.inr rfl)
theorem Encoding.hemo (a : SReg) : Encoding.Statement (.hemo a) := .inr (.inr rfl)
theorem Encoding.hemc : Encoding.Statement .hemc := .inr (.inr rfl)
theorem Encoding.tretNext : Encoding.Statement .tretNext := .inr (.inr rfl)
theorem Encoding.tretSame : Encoding.Statement .tretSame := .inr (.inr rfl)
theorem Encoding.tretRegion : Encoding.Statement .tretRegion := .inr (.inr rfl)
theorem Encoding.movxR (c : SReg) (x : Fin 64) : Encoding.Statement (.movxR c x) := .inr (.inr rfl)
theorem Encoding.movxW (x : Fin 64) (a : SReg) : Encoding.Statement (.movxW x a) := .inr (.inr rfl)
theorem Encoding.movxDst (g : Fin 64) : Encoding.Statement (.movxDst g) := .inr (.inr rfl)
theorem Encoding.rdtime (c : SReg) : Encoding.Statement (.rdtime c) := .inr (.inr rfl)
theorem Encoding.trapi (h l : BitVec 6) : Encoding.Statement (.trapi h l) := .inr (.inr rfl)
theorem Encoding.perfq (c : SReg) (n : Fin 64) : Encoding.Statement (.perfq c n) := .inr (.inr rfl)
theorem Encoding.issueOpportunity (core : CoreId) (sched : Nat) : Encoding.Statement (.issueOpportunity core sched) := .inl rfl
theorem Encoding.fairnessIntervalExpiry (w : WaveId) : Encoding.Statement (.fairnessIntervalExpiry w) := .inl rfl
theorem Encoding.hangSib (w : WaveId) : Encoding.Statement (.hangSib w) := .inl rfl
theorem Encoding.spoolDl (team spool : Nat) : Encoding.Statement (.spoolDl team spool) := .inl rfl
theorem Encoding.barrierDeadlock (team bar : Nat) : Encoding.Statement (.barrierDeadlock team bar) := .inl rfl
theorem Encoding.wavePromotion (w : WaveId) : Encoding.Statement (.wavePromotion w) := .inl rfl
theorem Encoding.binDraw (team : Nat) : Encoding.Statement (.binDraw team) := .inl rfl
theorem Encoding.loadCompletion (w : WaveId) (i : Nat) : Encoding.Statement (.loadCompletion w i) := .inl rfl
theorem Encoding.storePerformed (w : WaveId) (i : Nat) : Encoding.Statement (.storePerformed w i) := .inl rfl
theorem Encoding.atomicAtHome (w : WaveId) (i : Nat) : Encoding.Statement (.atomicAtHome w i) := .inl rfl
theorem Encoding.blockedReevaluation (w : WaveId) : Encoding.Statement (.blockedReevaluation w) := .inl rfl
theorem Encoding.sleeptWake (w : WaveId) : Encoding.Statement (.sleeptWake w) := .inl rfl
theorem Encoding.spopTimeout (w : WaveId) : Encoding.Statement (.spopTimeout w) := .inl rfl
theorem Encoding.mrecvTimeout (w : WaveId) : Encoding.Statement (.mrecvTimeout w) := .inl rfl
theorem Encoding.fswaitTimeout (w : WaveId) : Encoding.Statement (.fswaitTimeout w) := .inl rfl
theorem Encoding.trapEntry (w : WaveId) : Encoding.Statement (.trapEntry w) := .inl rfl
theorem Encoding.teamKill (team : Nat) : Encoding.Statement (.teamKill team) := .inl rfl
theorem Encoding.teamEnd (team : Nat) : Encoding.Statement (.teamEnd team) := .inl rfl
theorem Encoding.pageFaultService (i : Nat) (act : FaultAct) : Encoding.Statement (.pageFaultService i act) := .inl rfl
theorem Encoding.parkedEntryRelease (w : WaveId) (entry : Nat) : Encoding.Statement (.parkedEntryRelease w entry) := .inl rfl
theorem Encoding.translationShootdown (space lo : Nat) (change : EntryChange) : Encoding.Statement (.translationShootdown space lo change) := .inl rfl
theorem Encoding.descriptorShootdown (space obj : Nat) : Encoding.Statement (.descriptorShootdown space obj) := .inl rfl
theorem Encoding.serviceCommitRaise (w : WaveId) : Encoding.Statement (.serviceCommitRaise w) := .inl rfl
theorem Encoding.serviceDescriptorShootdown (w : WaveId) : Encoding.Statement (.serviceDescriptorShootdown w) := .inl rfl
theorem Encoding.cfetchFillComplete (team slot : Nat) (poisoned : Bool) : Encoding.Statement (.cfetchFillComplete team slot poisoned) := .inl rfl
theorem Encoding.regroupInterval (die : Nat) (proposal : List (List Nat)) : Encoding.Statement (.regroupInterval die proposal) := .inl rfl
theorem Encoding.placementDemand (die : Nat) (cores : List Nat) : Encoding.Statement (.placementDemand die cores) := .inl rfl
theorem Encoding.regroupRequest (die : Nat) (v : W64) : Encoding.Statement (.regroupRequest die v) := .inl rfl
theorem Encoding.regroupRequestDecision (die : Nat) : Encoding.Statement (.regroupRequestDecision die) := .inl rfl
theorem Encoding.freezeExpired (die core : Nat) : Encoding.Statement (.freezeExpired die core) := .inl rfl
theorem Encoding.hostCardTake (part q : Nat) : Encoding.Statement (.hostCardTake part q) := .inl rfl
theorem Encoding.cardPlacement (part q card : Nat) (cores : List (CoreId × Nat)) : Encoding.Statement (.cardPlacement part q card cores) := .inl rfl
theorem Encoding.placementEvictionTrigger (part q card : Nat) : Encoding.Statement (.placementEvictionTrigger part q card) := .inl rfl
theorem Encoding.slotEviction (team : Nat) : Encoding.Statement (.slotEviction team) := .inl rfl
theorem Encoding.evictionDeferralExpiry (team : Nat) : Encoding.Statement (.evictionDeferralExpiry team) := .inl rfl
theorem Encoding.teamReload (team : Nat) (core : CoreId) (slot : Nat) : Encoding.Statement (.teamReload team core slot) := .inl rfl
theorem Encoding.shadowSwap (core : CoreId) : Encoding.Statement (.shadowSwap core) := .inl rfl
theorem Encoding.spill (core : CoreId) : Encoding.Statement (.spill core) := .inl rfl
theorem Encoding.umbraComparison (w : WaveId) (equal : Bool) : Encoding.Statement (.umbraComparison w equal) := .inl rfl
theorem Encoding.tileCopyStart (core : CoreId) (i : Nat) : Encoding.Statement (.tileCopyStart core i) := .inl rfl
theorem Encoding.tileCopyRetire (core : CoreId) (i : Nat) : Encoding.Statement (.tileCopyRetire core i) := .inl rfl
theorem Encoding.multicastDelivery (core : CoreId) (i rank : Nat) : Encoding.Statement (.multicastDelivery core i rank) := .inl rfl
theorem Encoding.deferredFault (w : WaveId) : Encoding.Statement (.deferredFault w) := .inl rfl
theorem Encoding.arrayStep (core : CoreId) : Encoding.Statement (.arrayStep core) := .inl rfl
theorem Encoding.errorDetected (at_ : ErrorAt) (corrected : Bool) : Encoding.Statement (.errorDetected at_ corrected) := .inl rfl
theorem Encoding.selfTestEnd (core : CoreId) (found : TestFound) : Encoding.Statement (.selfTestEnd core found) := .inl rfl
theorem Encoding.hbmRefreshBurst (burst : RefreshBurst) : Encoding.Statement (.hbmRefreshBurst burst) := .inl rfl
theorem Encoding.backgroundScrub (at_ : ErrorAt) (found : Bool) : Encoding.Statement (.backgroundScrub at_ found) := .inl rfl
theorem Encoding.sensorSample (stack temp : Nat) : Encoding.Statement (.sensorSample stack temp) := .inl rfl
theorem Encoding.dutyUpdate (core : CoreId) (duty : Nat) : Encoding.Statement (.dutyUpdate core duty) := .inl rfl
theorem Encoding.dutyWindow (core : CoreId) : Encoding.Statement (.dutyWindow core) := .inl rfl
theorem Encoding.fillerInjection (core : CoreId) (steps mj : Nat) : Encoding.Statement (.fillerInjection core steps mj) := .inl rfl
theorem Encoding.droopStretch (core : CoreId) : Encoding.Statement (.droopStretch core) := .inl rfl
theorem Encoding.clkselWrite (core : CoreId) (v : W64) : Encoding.Statement (.clkselWrite core v) := .inl rfl
theorem Encoding.ratioHopEnd (core : CoreId) : Encoding.Statement (.ratioHopEnd core) := .inl rfl
theorem Encoding.meridianMeasurement (offset : Int) : Encoding.Statement (.meridianMeasurement offset) := .inl rfl
theorem Encoding.cardTake (space : Nat) (chain : W64) : Encoding.Statement (.cardTake space chain) := .inl rfl
theorem Encoding.copy (i : Nat) : Encoding.Statement (.copy i) := .inl rfl
theorem Encoding.fill (i : Nat) : Encoding.Statement (.fill i) := .inl rfl
theorem Encoding.migrate (i : Nat) : Encoding.Statement (.migrate i) := .inl rfl
theorem Encoding.replicate (i : Nat) : Encoding.Statement (.replicate i) := .inl rfl
theorem Encoding.allreduce (i : Nat) (inputs : List Matched) : Encoding.Statement (.allreduce i inputs) := .inl rfl
theorem Encoding.reducescatter (i : Nat) (inputs : List Matched) : Encoding.Statement (.reducescatter i inputs) := .inl rfl
theorem Encoding.allgather (i : Nat) (inputs : List Matched) : Encoding.Statement (.allgather i inputs) := .inl rfl
theorem Encoding.broadcast (i : Nat) (inputs : List Matched) : Encoding.Statement (.broadcast i inputs) := .inl rfl
theorem Encoding.cardCompletion (i : Nat) : Encoding.Statement (.cardCompletion i) := .inl rfl
theorem Encoding.collectiveChunk (c : Chunk) : Encoding.Statement (.collectiveChunk c) := .inl rfl
theorem Encoding.remoteMessageArrival (m : RemoteMsg) : Encoding.Statement (.remoteMessageArrival m) := .inl rfl
theorem Encoding.routeFailover (dst lane port : Nat) : Encoding.Statement (.routeFailover dst lane port) := .inl rfl
theorem Encoding.routeLossTimeout (dst : Nat) : Encoding.Statement (.routeLossTimeout dst) := .inl rfl
theorem Encoding.omsenFlitReceive (port : Nat) (seq ack type : Nat) (crcOk : Bool) : Encoding.Statement (.omsenFlitReceive port seq ack type crcOk) := .inl rfl
theorem Encoding.omsenNak (port : Nat) : Encoding.Statement (.omsenNak port) := .inl rfl
theorem Encoding.linkEnable (port : Nat) : Encoding.Statement (.linkEnable port) := .inl rfl
theorem Encoding.linkStateTimeout (port : Nat) : Encoding.Statement (.linkStateTimeout port) := .inl rfl
theorem Encoding.linkEqualiseComplete (port lanes lowVer highVer peerPkg peerPort : Nat) : Encoding.Statement (.linkEqualiseComplete port lanes lowVer highVer peerPkg peerPort) := .inl rfl
theorem Encoding.bridgeCrcError (flit : BridgeFlit) : Encoding.Statement (.bridgeCrcError flit) := .inl rfl
theorem Encoding.hostTailWrite (part q : Nat) (v : W64) : Encoding.Statement (.hostTailWrite part q v) := .inl rfl
theorem Encoding.evconsWrite (part : Nat) (v : W64) : Encoding.Statement (.evconsWrite part v) := .inl rfl
theorem Encoding.hostverWrite (part : Nat) (v : W64) : Encoding.Statement (.hostverWrite part v) := .inl rfl
theorem Encoding.quoteRequest (part : Nat) (v : W64) : Encoding.Statement (.quoteRequest part v) := .inl rfl
theorem Encoding.quoteComplete (part : Nat) : Encoding.Statement (.quoteComplete part) := .inl rfl
theorem Encoding.jobScopeOpen (part : Nat) : Encoding.Statement (.jobScopeOpen part) := .inl rfl
theorem Encoding.graphScopeOpen (part parent : Nat) : Encoding.Statement (.graphScopeOpen part parent) := .inl rfl
theorem Encoding.scopeCancelRequest (part n : Nat) : Encoding.Statement (.scopeCancelRequest part n) := .inl rfl
theorem Encoding.scopeRelease (part n : Nat) : Encoding.Statement (.scopeRelease part n) := .inl rfl
theorem Encoding.registerWrite (part : Nat) (r : WinReg) (v : W64) : Encoding.Statement (.registerWrite part r v) := .inl rfl
theorem Encoding.hostMemoryAccess (addr : Nat) (data : List (Byte × Bool)) : Encoding.Statement (.hostMemoryAccess addr data) := .inl rfl
theorem Encoding.partitionCreate (part : Nat) (dies : List Nat) (debug : Bool) : Encoding.Statement (.partitionCreate part dies debug) := .inl rfl
theorem Encoding.partitionDestroy (part : Nat) : Encoding.Statement (.partitionDestroy part) := .inl rfl
theorem Encoding.partitionReset (part : Nat) : Encoding.Statement (.partitionReset part) := .inl rfl
theorem Encoding.boot (failed : Nat) : Encoding.Statement (.boot failed) := .inl rfl
theorem Encoding.linkDisable (port : Nat) : Encoding.Statement (.linkDisable port) := .inl rfl
theorem Encoding.linkDetectComplete (port : Nat) : Encoding.Statement (.linkDetectComplete port) := .inl rfl
theorem Encoding.shadowBankPrefill (core : CoreId) (team : Nat) : Encoding.Statement (.shadowBankPrefill core team) := .inl rfl

end Sys2Proof.Laws
end

