-- ==== Sys2Proof/Laws/State.lean ====
section
/-! SUPPORT. One lemma for each field and each update of the state, of a wave and of a lane, so that no proof unfolds a
record update. -/

namespace Sys2Proof.Machine

/-! tick -/

@[simp] theorem State.tick_hand (s : State) : (s.tick).hand = s.hand := rfl
@[simp] theorem State.tick_granted (s : State) : (s.tick).granted = s.granted := rfl
@[simp] theorem State.tick_under (s : State) : (s.tick).under = s.under := rfl
@[simp] theorem State.tick_stalled (s : State) : (s.tick).stalled = s.stalled := rfl
@[simp] theorem State.tick_w (s : State) : (s.tick).w = s.w := rfl
@[simp] theorem State.tick_t (s : State) : (s.tick).t = s.t := rfl
@[simp] theorem State.tick_c (s : State) : (s.tick).c = s.c := rfl
@[simp] theorem State.tick_teams (s : State) : (s.tick).teams = s.teams := rfl
@[simp] theorem State.tick_cores (s : State) : (s.tick).cores = s.cores := rfl
@[simp] theorem State.tick_dies (s : State) : (s.tick).dies = s.dies := rfl
@[simp] theorem State.tick_parts (s : State) : (s.tick).parts = s.parts := rfl
@[simp] theorem State.tick_spaces (s : State) : (s.tick).spaces = s.spaces := rfl
@[simp] theorem State.tick_launches (s : State) : (s.tick).launches = s.launches := rfl
@[simp] theorem State.tick_cards (s : State) : (s.tick).cards = s.cards := rfl
@[simp] theorem State.tick_links (s : State) : (s.tick).links = s.links := rfl
@[simp] theorem State.tick_lost (s : State) : (s.tick).lost = s.lost := rfl
@[simp] theorem State.tick_cut (s : State) : (s.tick).cut = s.cut := rfl
@[simp] theorem State.tick_domain (s : State) : (s.tick).domain = s.domain := rfl
@[simp] theorem State.tick_due (s : State) : (s.tick).due = s.due := rfl
@[simp] theorem State.tick_mem (s : State) : (s.tick).mem = s.mem := rfl
@[simp] theorem State.tick_memPoison (s : State) : (s.tick).memPoison = s.memPoison := rfl
@[simp] theorem State.tick_clock (s : State) : (s.tick).clock = if s.stands then s.clock else s.clock + 2 := rfl
@[simp] theorem State.tick_free (s : State) : (s.tick).free = s.free := rfl
@[simp] theorem State.tick_order (s : State) : (s.tick).order = s.order := rfl

/-! addDue -/

@[simp] theorem State.addDue_hand (s : State) (h : Happening) : (s.addDue h).hand = s.hand := rfl
@[simp] theorem State.addDue_granted (s : State) (h : Happening) : (s.addDue h).granted = s.granted := rfl
@[simp] theorem State.addDue_under (s : State) (h : Happening) : (s.addDue h).under = s.under := rfl
@[simp] theorem State.addDue_stalled (s : State) (h : Happening) : (s.addDue h).stalled = s.stalled := rfl
@[simp] theorem State.addDue_w (s : State) (h : Happening) : (s.addDue h).w = s.w := rfl
@[simp] theorem State.addDue_t (s : State) (h : Happening) : (s.addDue h).t = s.t := rfl
@[simp] theorem State.addDue_c (s : State) (h : Happening) : (s.addDue h).c = s.c := rfl
@[simp] theorem State.addDue_teams (s : State) (h : Happening) : (s.addDue h).teams = s.teams := rfl
@[simp] theorem State.addDue_cores (s : State) (h : Happening) : (s.addDue h).cores = s.cores := rfl
@[simp] theorem State.addDue_dies (s : State) (h : Happening) : (s.addDue h).dies = s.dies := rfl
@[simp] theorem State.addDue_parts (s : State) (h : Happening) : (s.addDue h).parts = s.parts := rfl
@[simp] theorem State.addDue_spaces (s : State) (h : Happening) : (s.addDue h).spaces = s.spaces := rfl
@[simp] theorem State.addDue_launches (s : State) (h : Happening) : (s.addDue h).launches = s.launches := rfl
@[simp] theorem State.addDue_cards (s : State) (h : Happening) : (s.addDue h).cards = s.cards := rfl
@[simp] theorem State.addDue_links (s : State) (h : Happening) : (s.addDue h).links = s.links := rfl
@[simp] theorem State.addDue_lost (s : State) (h : Happening) : (s.addDue h).lost = s.lost := rfl
@[simp] theorem State.addDue_cut (s : State) (h : Happening) : (s.addDue h).cut = s.cut := rfl
@[simp] theorem State.addDue_domain (s : State) (h : Happening) : (s.addDue h).domain = s.domain := rfl
@[simp] theorem State.addDue_due (s : State) (h : Happening) : (s.addDue h).due = s.due ++ [h] := rfl
@[simp] theorem State.addDue_mem (s : State) (h : Happening) : (s.addDue h).mem = s.mem := rfl
@[simp] theorem State.addDue_memPoison (s : State) (h : Happening) : (s.addDue h).memPoison = s.memPoison := rfl
@[simp] theorem State.addDue_clock (s : State) (h : Happening) : (s.addDue h).clock = s.clock := rfl
@[simp] theorem State.addDue_free (s : State) (h : Happening) : (s.addDue h).free = s.free := rfl
@[simp] theorem State.addDue_order (s : State) (h : Happening) : (s.addDue h).order = s.order := rfl

/-! onCur -/

@[simp] theorem State.onCur_hand (s : State) (f : Entry → Entry) : (s.onCur f).hand = s.hand := rfl
@[simp] theorem State.onCur_granted (s : State) (f : Entry → Entry) : (s.onCur f).granted = s.granted := rfl
@[simp] theorem State.onCur_under (s : State) (f : Entry → Entry) : (s.onCur f).under = s.under := rfl
@[simp] theorem State.onCur_stalled (s : State) (f : Entry → Entry) : (s.onCur f).stalled = s.stalled := rfl
@[simp] theorem State.onCur_w (s : State) (f : Entry → Entry) : (s.onCur f).w = s.w.onCur f := rfl
@[simp] theorem State.onCur_t (s : State) (f : Entry → Entry) : (s.onCur f).t = s.t := rfl
@[simp] theorem State.onCur_c (s : State) (f : Entry → Entry) : (s.onCur f).c = s.c := rfl
@[simp] theorem State.onCur_teams (s : State) (f : Entry → Entry) : (s.onCur f).teams = s.teams := rfl
@[simp] theorem State.onCur_cores (s : State) (f : Entry → Entry) : (s.onCur f).cores = s.cores := rfl
@[simp] theorem State.onCur_dies (s : State) (f : Entry → Entry) : (s.onCur f).dies = s.dies := rfl
@[simp] theorem State.onCur_parts (s : State) (f : Entry → Entry) : (s.onCur f).parts = s.parts := rfl
@[simp] theorem State.onCur_spaces (s : State) (f : Entry → Entry) : (s.onCur f).spaces = s.spaces := rfl
@[simp] theorem State.onCur_launches (s : State) (f : Entry → Entry) : (s.onCur f).launches = s.launches := rfl
@[simp] theorem State.onCur_cards (s : State) (f : Entry → Entry) : (s.onCur f).cards = s.cards := rfl
@[simp] theorem State.onCur_links (s : State) (f : Entry → Entry) : (s.onCur f).links = s.links := rfl
@[simp] theorem State.onCur_lost (s : State) (f : Entry → Entry) : (s.onCur f).lost = s.lost := rfl
@[simp] theorem State.onCur_cut (s : State) (f : Entry → Entry) : (s.onCur f).cut = s.cut := rfl
@[simp] theorem State.onCur_domain (s : State) (f : Entry → Entry) : (s.onCur f).domain = s.domain := rfl
@[simp] theorem State.onCur_due (s : State) (f : Entry → Entry) : (s.onCur f).due = s.due := rfl
@[simp] theorem State.onCur_mem (s : State) (f : Entry → Entry) : (s.onCur f).mem = s.mem := rfl
@[simp] theorem State.onCur_memPoison (s : State) (f : Entry → Entry) : (s.onCur f).memPoison = s.memPoison := rfl
@[simp] theorem State.onCur_clock (s : State) (f : Entry → Entry) : (s.onCur f).clock = s.clock := rfl
@[simp] theorem State.onCur_free (s : State) (f : Entry → Entry) : (s.onCur f).free = s.free := rfl
@[simp] theorem State.onCur_order (s : State) (f : Entry → Entry) : (s.onCur f).order = s.order := rfl

/-! heldBack -/

@[simp] theorem State.heldBack_hand (s : State) : (s.heldBack).hand = s.hand := rfl
@[simp] theorem State.heldBack_granted (s : State) : (s.heldBack).granted = false := rfl
@[simp] theorem State.heldBack_under (s : State) : (s.heldBack).under = s.under := rfl
@[simp] theorem State.heldBack_stalled (s : State) : (s.heldBack).stalled = true := rfl
@[simp] theorem State.heldBack_w (s : State) : (s.heldBack).w = { s.w with held := true } := rfl
@[simp] theorem State.heldBack_t (s : State) : (s.heldBack).t = s.t := rfl
@[simp] theorem State.heldBack_c (s : State) : (s.heldBack).c = s.c := rfl
@[simp] theorem State.heldBack_teams (s : State) : (s.heldBack).teams = s.teams := rfl
@[simp] theorem State.heldBack_cores (s : State) : (s.heldBack).cores = s.cores := rfl
@[simp] theorem State.heldBack_dies (s : State) : (s.heldBack).dies = s.dies := rfl
@[simp] theorem State.heldBack_parts (s : State) : (s.heldBack).parts = s.parts := rfl
@[simp] theorem State.heldBack_spaces (s : State) : (s.heldBack).spaces = s.spaces := rfl
@[simp] theorem State.heldBack_launches (s : State) : (s.heldBack).launches = s.launches := rfl
@[simp] theorem State.heldBack_cards (s : State) : (s.heldBack).cards = s.cards := rfl
@[simp] theorem State.heldBack_links (s : State) : (s.heldBack).links = s.links := rfl
@[simp] theorem State.heldBack_lost (s : State) : (s.heldBack).lost = s.lost := rfl
@[simp] theorem State.heldBack_cut (s : State) : (s.heldBack).cut = s.cut := rfl
@[simp] theorem State.heldBack_domain (s : State) : (s.heldBack).domain = s.domain := rfl
@[simp] theorem State.heldBack_due (s : State) : (s.heldBack).due = s.due := rfl
@[simp] theorem State.heldBack_mem (s : State) : (s.heldBack).mem = s.mem := rfl
@[simp] theorem State.heldBack_memPoison (s : State) : (s.heldBack).memPoison = s.memPoison := rfl
@[simp] theorem State.heldBack_clock (s : State) : (s.heldBack).clock = s.clock := rfl
@[simp] theorem State.heldBack_free (s : State) : (s.heldBack).free = s.free := rfl
@[simp] theorem State.heldBack_order (s : State) : (s.heldBack).order = s.order := rfl

/-! launchPend -/

@[simp] theorem State.launchPend_hand (s : State) (p : Pend) : (s.launchPend p).hand = s.hand := rfl
@[simp] theorem State.launchPend_granted (s : State) (p : Pend) : (s.launchPend p).granted = s.granted := rfl
@[simp] theorem State.launchPend_under (s : State) (p : Pend) : (s.launchPend p).under = s.under := rfl
@[simp] theorem State.launchPend_stalled (s : State) (p : Pend) : (s.launchPend p).stalled = s.stalled := rfl
@[simp] theorem State.launchPend_w (s : State) (p : Pend) : (s.launchPend p).w = { (s.w.flagUp p.flag) with pend := s.w.pend ++ [{ p with tag := s.w.issued + 1 }] } := rfl
@[simp] theorem State.launchPend_t (s : State) (p : Pend) : (s.launchPend p).t = s.t := rfl
@[simp] theorem State.launchPend_c (s : State) (p : Pend) : (s.launchPend p).c = s.c := rfl
@[simp] theorem State.launchPend_teams (s : State) (p : Pend) : (s.launchPend p).teams = s.teams := rfl
@[simp] theorem State.launchPend_cores (s : State) (p : Pend) : (s.launchPend p).cores = s.cores := rfl
@[simp] theorem State.launchPend_dies (s : State) (p : Pend) : (s.launchPend p).dies = s.dies := rfl
@[simp] theorem State.launchPend_parts (s : State) (p : Pend) : (s.launchPend p).parts = s.parts := rfl
@[simp] theorem State.launchPend_spaces (s : State) (p : Pend) : (s.launchPend p).spaces = s.spaces := rfl
@[simp] theorem State.launchPend_launches (s : State) (p : Pend) : (s.launchPend p).launches = s.launches := rfl
@[simp] theorem State.launchPend_cards (s : State) (p : Pend) : (s.launchPend p).cards = s.cards := rfl
@[simp] theorem State.launchPend_links (s : State) (p : Pend) : (s.launchPend p).links = s.links := rfl
@[simp] theorem State.launchPend_lost (s : State) (p : Pend) : (s.launchPend p).lost = s.lost := rfl
@[simp] theorem State.launchPend_cut (s : State) (p : Pend) : (s.launchPend p).cut = s.cut := rfl
@[simp] theorem State.launchPend_domain (s : State) (p : Pend) : (s.launchPend p).domain = s.domain := rfl
@[simp] theorem State.launchPend_due (s : State) (p : Pend) : (s.launchPend p).due = s.due := rfl
@[simp] theorem State.launchPend_mem (s : State) (p : Pend) : (s.launchPend p).mem = s.mem := rfl
@[simp] theorem State.launchPend_memPoison (s : State) (p : Pend) : (s.launchPend p).memPoison = s.memPoison := rfl
@[simp] theorem State.launchPend_clock (s : State) (p : Pend) : (s.launchPend p).clock = s.clock := rfl
@[simp] theorem State.launchPend_free (s : State) (p : Pend) : (s.launchPend p).free = s.free := rfl
@[simp] theorem State.launchPend_order (s : State) (p : Pend) : (s.launchPend p).order = s.order := rfl

/-! setUmbra -/

@[simp] theorem State.setUmbra_hand (s : State) (u : Umbra) : (s.setUmbra u).hand = s.hand := rfl
@[simp] theorem State.setUmbra_granted (s : State) (u : Umbra) : (s.setUmbra u).granted = s.granted := rfl
@[simp] theorem State.setUmbra_under (s : State) (u : Umbra) : (s.setUmbra u).under = s.under := rfl
@[simp] theorem State.setUmbra_stalled (s : State) (u : Umbra) : (s.setUmbra u).stalled = s.stalled := rfl
@[simp] theorem State.setUmbra_w (s : State) (u : Umbra) : (s.setUmbra u).w = { s.w with umbra := some u } := rfl
@[simp] theorem State.setUmbra_t (s : State) (u : Umbra) : (s.setUmbra u).t = s.t := rfl
@[simp] theorem State.setUmbra_c (s : State) (u : Umbra) : (s.setUmbra u).c = s.c := rfl
@[simp] theorem State.setUmbra_teams (s : State) (u : Umbra) : (s.setUmbra u).teams = s.teams := rfl
@[simp] theorem State.setUmbra_cores (s : State) (u : Umbra) : (s.setUmbra u).cores = s.cores := rfl
@[simp] theorem State.setUmbra_dies (s : State) (u : Umbra) : (s.setUmbra u).dies = s.dies := rfl
@[simp] theorem State.setUmbra_parts (s : State) (u : Umbra) : (s.setUmbra u).parts = s.parts := rfl
@[simp] theorem State.setUmbra_spaces (s : State) (u : Umbra) : (s.setUmbra u).spaces = s.spaces := rfl
@[simp] theorem State.setUmbra_launches (s : State) (u : Umbra) : (s.setUmbra u).launches = s.launches := rfl
@[simp] theorem State.setUmbra_cards (s : State) (u : Umbra) : (s.setUmbra u).cards = s.cards := rfl
@[simp] theorem State.setUmbra_links (s : State) (u : Umbra) : (s.setUmbra u).links = s.links := rfl
@[simp] theorem State.setUmbra_lost (s : State) (u : Umbra) : (s.setUmbra u).lost = s.lost := rfl
@[simp] theorem State.setUmbra_cut (s : State) (u : Umbra) : (s.setUmbra u).cut = s.cut := rfl
@[simp] theorem State.setUmbra_domain (s : State) (u : Umbra) : (s.setUmbra u).domain = s.domain := rfl
@[simp] theorem State.setUmbra_due (s : State) (u : Umbra) : (s.setUmbra u).due = s.due := rfl
@[simp] theorem State.setUmbra_mem (s : State) (u : Umbra) : (s.setUmbra u).mem = s.mem := rfl
@[simp] theorem State.setUmbra_memPoison (s : State) (u : Umbra) : (s.setUmbra u).memPoison = s.memPoison := rfl
@[simp] theorem State.setUmbra_clock (s : State) (u : Umbra) : (s.setUmbra u).clock = s.clock := rfl
@[simp] theorem State.setUmbra_free (s : State) (u : Umbra) : (s.setUmbra u).free = s.free := rfl
@[simp] theorem State.setUmbra_order (s : State) (u : Umbra) : (s.setUmbra u).order = s.order := rfl

/-! setPart -/

@[simp] theorem State.setPart_hand (s : State) (p : Part) : (s.setPart p).hand = s.hand := rfl
@[simp] theorem State.setPart_granted (s : State) (p : Part) : (s.setPart p).granted = s.granted := rfl
@[simp] theorem State.setPart_under (s : State) (p : Part) : (s.setPart p).under = s.under := rfl
@[simp] theorem State.setPart_stalled (s : State) (p : Part) : (s.setPart p).stalled = s.stalled := rfl
@[simp] theorem State.setPart_w (s : State) (p : Part) : (s.setPart p).w = s.w := rfl
@[simp] theorem State.setPart_t (s : State) (p : Part) : (s.setPart p).t = s.t := rfl
@[simp] theorem State.setPart_c (s : State) (p : Part) : (s.setPart p).c = s.c := rfl
@[simp] theorem State.setPart_teams (s : State) (p : Part) : (s.setPart p).teams = s.teams := rfl
@[simp] theorem State.setPart_cores (s : State) (p : Part) : (s.setPart p).cores = s.cores := rfl
@[simp] theorem State.setPart_dies (s : State) (p : Part) : (s.setPart p).dies = s.dies := rfl
@[simp] theorem State.setPart_parts (s : State) (p : Part) : (s.setPart p).parts = s.parts.map fun x => if x.num = p.num then p else x := rfl
@[simp] theorem State.setPart_spaces (s : State) (p : Part) : (s.setPart p).spaces = s.spaces := rfl
@[simp] theorem State.setPart_launches (s : State) (p : Part) : (s.setPart p).launches = s.launches := rfl
@[simp] theorem State.setPart_cards (s : State) (p : Part) : (s.setPart p).cards = s.cards := rfl
@[simp] theorem State.setPart_links (s : State) (p : Part) : (s.setPart p).links = s.links := rfl
@[simp] theorem State.setPart_lost (s : State) (p : Part) : (s.setPart p).lost = s.lost := rfl
@[simp] theorem State.setPart_cut (s : State) (p : Part) : (s.setPart p).cut = s.cut := rfl
@[simp] theorem State.setPart_domain (s : State) (p : Part) : (s.setPart p).domain = s.domain := rfl
@[simp] theorem State.setPart_due (s : State) (p : Part) : (s.setPart p).due = s.due := rfl
@[simp] theorem State.setPart_mem (s : State) (p : Part) : (s.setPart p).mem = s.mem := rfl
@[simp] theorem State.setPart_memPoison (s : State) (p : Part) : (s.setPart p).memPoison = s.memPoison := rfl
@[simp] theorem State.setPart_clock (s : State) (p : Part) : (s.setPart p).clock = s.clock := rfl
@[simp] theorem State.setPart_free (s : State) (p : Part) : (s.setPart p).free = s.free := rfl
@[simp] theorem State.setPart_order (s : State) (p : Part) : (s.setPart p).order = s.order := rfl

/-! modPart -/

@[simp] theorem State.modPart_hand (s : State) (n : Nat) (f : Part → Part) : (s.modPart n f).hand = s.hand := rfl
@[simp] theorem State.modPart_granted (s : State) (n : Nat) (f : Part → Part) : (s.modPart n f).granted = s.granted := rfl
@[simp] theorem State.modPart_under (s : State) (n : Nat) (f : Part → Part) : (s.modPart n f).under = s.under := rfl
@[simp] theorem State.modPart_stalled (s : State) (n : Nat) (f : Part → Part) : (s.modPart n f).stalled = s.stalled := rfl
@[simp] theorem State.modPart_w (s : State) (n : Nat) (f : Part → Part) : (s.modPart n f).w = s.w := rfl
@[simp] theorem State.modPart_t (s : State) (n : Nat) (f : Part → Part) : (s.modPart n f).t = s.t := rfl
@[simp] theorem State.modPart_c (s : State) (n : Nat) (f : Part → Part) : (s.modPart n f).c = s.c := rfl
@[simp] theorem State.modPart_teams (s : State) (n : Nat) (f : Part → Part) : (s.modPart n f).teams = s.teams := rfl
@[simp] theorem State.modPart_cores (s : State) (n : Nat) (f : Part → Part) : (s.modPart n f).cores = s.cores := rfl
@[simp] theorem State.modPart_dies (s : State) (n : Nat) (f : Part → Part) : (s.modPart n f).dies = s.dies := rfl
@[simp] theorem State.modPart_parts (s : State) (n : Nat) (f : Part → Part) : (s.modPart n f).parts = s.parts.map fun x => if x.num = n then f x else x := rfl
@[simp] theorem State.modPart_spaces (s : State) (n : Nat) (f : Part → Part) : (s.modPart n f).spaces = s.spaces := rfl
@[simp] theorem State.modPart_launches (s : State) (n : Nat) (f : Part → Part) : (s.modPart n f).launches = s.launches := rfl
@[simp] theorem State.modPart_cards (s : State) (n : Nat) (f : Part → Part) : (s.modPart n f).cards = s.cards := rfl
@[simp] theorem State.modPart_links (s : State) (n : Nat) (f : Part → Part) : (s.modPart n f).links = s.links := rfl
@[simp] theorem State.modPart_lost (s : State) (n : Nat) (f : Part → Part) : (s.modPart n f).lost = s.lost := rfl
@[simp] theorem State.modPart_cut (s : State) (n : Nat) (f : Part → Part) : (s.modPart n f).cut = s.cut := rfl
@[simp] theorem State.modPart_domain (s : State) (n : Nat) (f : Part → Part) : (s.modPart n f).domain = s.domain := rfl
@[simp] theorem State.modPart_due (s : State) (n : Nat) (f : Part → Part) : (s.modPart n f).due = s.due := rfl
@[simp] theorem State.modPart_mem (s : State) (n : Nat) (f : Part → Part) : (s.modPart n f).mem = s.mem := rfl
@[simp] theorem State.modPart_memPoison (s : State) (n : Nat) (f : Part → Part) : (s.modPart n f).memPoison = s.memPoison := rfl
@[simp] theorem State.modPart_clock (s : State) (n : Nat) (f : Part → Part) : (s.modPart n f).clock = s.clock := rfl
@[simp] theorem State.modPart_free (s : State) (n : Nat) (f : Part → Part) : (s.modPart n f).free = s.free := rfl
@[simp] theorem State.modPart_order (s : State) (n : Nat) (f : Part → Part) : (s.modPart n f).order = s.order := rfl

/-! modScope -/

@[simp] theorem State.modScope_hand (s : State) (n m : Nat) (f : FScope → FScope) : (s.modScope n m f).hand = s.hand := rfl
@[simp] theorem State.modScope_granted (s : State) (n m : Nat) (f : FScope → FScope) : (s.modScope n m f).granted = s.granted := rfl
@[simp] theorem State.modScope_under (s : State) (n m : Nat) (f : FScope → FScope) : (s.modScope n m f).under = s.under := rfl
@[simp] theorem State.modScope_stalled (s : State) (n m : Nat) (f : FScope → FScope) : (s.modScope n m f).stalled = s.stalled := rfl
@[simp] theorem State.modScope_w (s : State) (n m : Nat) (f : FScope → FScope) : (s.modScope n m f).w = s.w := rfl
@[simp] theorem State.modScope_t (s : State) (n m : Nat) (f : FScope → FScope) : (s.modScope n m f).t = s.t := rfl
@[simp] theorem State.modScope_c (s : State) (n m : Nat) (f : FScope → FScope) : (s.modScope n m f).c = s.c := rfl
@[simp] theorem State.modScope_teams (s : State) (n m : Nat) (f : FScope → FScope) : (s.modScope n m f).teams = s.teams := rfl
@[simp] theorem State.modScope_cores (s : State) (n m : Nat) (f : FScope → FScope) : (s.modScope n m f).cores = s.cores := rfl
@[simp] theorem State.modScope_dies (s : State) (n m : Nat) (f : FScope → FScope) : (s.modScope n m f).dies = s.dies := rfl
@[simp] theorem State.modScope_spaces (s : State) (n m : Nat) (f : FScope → FScope) : (s.modScope n m f).spaces = s.spaces := rfl
@[simp] theorem State.modScope_launches (s : State) (n m : Nat) (f : FScope → FScope) : (s.modScope n m f).launches = s.launches := rfl
@[simp] theorem State.modScope_cards (s : State) (n m : Nat) (f : FScope → FScope) : (s.modScope n m f).cards = s.cards := rfl
@[simp] theorem State.modScope_links (s : State) (n m : Nat) (f : FScope → FScope) : (s.modScope n m f).links = s.links := rfl
@[simp] theorem State.modScope_lost (s : State) (n m : Nat) (f : FScope → FScope) : (s.modScope n m f).lost = s.lost := rfl
@[simp] theorem State.modScope_cut (s : State) (n m : Nat) (f : FScope → FScope) : (s.modScope n m f).cut = s.cut := rfl
@[simp] theorem State.modScope_domain (s : State) (n m : Nat) (f : FScope → FScope) : (s.modScope n m f).domain = s.domain := rfl
@[simp] theorem State.modScope_due (s : State) (n m : Nat) (f : FScope → FScope) : (s.modScope n m f).due = s.due := rfl
@[simp] theorem State.modScope_mem (s : State) (n m : Nat) (f : FScope → FScope) : (s.modScope n m f).mem = s.mem := rfl
@[simp] theorem State.modScope_memPoison (s : State) (n m : Nat) (f : FScope → FScope) : (s.modScope n m f).memPoison = s.memPoison := rfl
@[simp] theorem State.modScope_clock (s : State) (n m : Nat) (f : FScope → FScope) : (s.modScope n m f).clock = s.clock := rfl
@[simp] theorem State.modScope_free (s : State) (n m : Nat) (f : FScope → FScope) : (s.modScope n m f).free = s.free := rfl
@[simp] theorem State.modScope_order (s : State) (n m : Nat) (f : FScope → FScope) : (s.modScope n m f).order = s.order := rfl

/-! modQueue -/

@[simp] theorem State.modQueue_hand (s : State) (n q : Nat) (f : Queue → Queue) : (s.modQueue n q f).hand = s.hand := rfl
@[simp] theorem State.modQueue_granted (s : State) (n q : Nat) (f : Queue → Queue) : (s.modQueue n q f).granted = s.granted := rfl
@[simp] theorem State.modQueue_under (s : State) (n q : Nat) (f : Queue → Queue) : (s.modQueue n q f).under = s.under := rfl
@[simp] theorem State.modQueue_stalled (s : State) (n q : Nat) (f : Queue → Queue) : (s.modQueue n q f).stalled = s.stalled := rfl
@[simp] theorem State.modQueue_w (s : State) (n q : Nat) (f : Queue → Queue) : (s.modQueue n q f).w = s.w := rfl
@[simp] theorem State.modQueue_t (s : State) (n q : Nat) (f : Queue → Queue) : (s.modQueue n q f).t = s.t := rfl
@[simp] theorem State.modQueue_c (s : State) (n q : Nat) (f : Queue → Queue) : (s.modQueue n q f).c = s.c := rfl
@[simp] theorem State.modQueue_teams (s : State) (n q : Nat) (f : Queue → Queue) : (s.modQueue n q f).teams = s.teams := rfl
@[simp] theorem State.modQueue_cores (s : State) (n q : Nat) (f : Queue → Queue) : (s.modQueue n q f).cores = s.cores := rfl
@[simp] theorem State.modQueue_dies (s : State) (n q : Nat) (f : Queue → Queue) : (s.modQueue n q f).dies = s.dies := rfl
@[simp] theorem State.modQueue_spaces (s : State) (n q : Nat) (f : Queue → Queue) : (s.modQueue n q f).spaces = s.spaces := rfl
@[simp] theorem State.modQueue_launches (s : State) (n q : Nat) (f : Queue → Queue) : (s.modQueue n q f).launches = s.launches := rfl
@[simp] theorem State.modQueue_cards (s : State) (n q : Nat) (f : Queue → Queue) : (s.modQueue n q f).cards = s.cards := rfl
@[simp] theorem State.modQueue_links (s : State) (n q : Nat) (f : Queue → Queue) : (s.modQueue n q f).links = s.links := rfl
@[simp] theorem State.modQueue_lost (s : State) (n q : Nat) (f : Queue → Queue) : (s.modQueue n q f).lost = s.lost := rfl
@[simp] theorem State.modQueue_cut (s : State) (n q : Nat) (f : Queue → Queue) : (s.modQueue n q f).cut = s.cut := rfl
@[simp] theorem State.modQueue_domain (s : State) (n q : Nat) (f : Queue → Queue) : (s.modQueue n q f).domain = s.domain := rfl
@[simp] theorem State.modQueue_due (s : State) (n q : Nat) (f : Queue → Queue) : (s.modQueue n q f).due = s.due := rfl
@[simp] theorem State.modQueue_mem (s : State) (n q : Nat) (f : Queue → Queue) : (s.modQueue n q f).mem = s.mem := rfl
@[simp] theorem State.modQueue_memPoison (s : State) (n q : Nat) (f : Queue → Queue) : (s.modQueue n q f).memPoison = s.memPoison := rfl
@[simp] theorem State.modQueue_clock (s : State) (n q : Nat) (f : Queue → Queue) : (s.modQueue n q f).clock = s.clock := rfl
@[simp] theorem State.modQueue_free (s : State) (n q : Nat) (f : Queue → Queue) : (s.modQueue n q f).free = s.free := rfl
@[simp] theorem State.modQueue_order (s : State) (n q : Nat) (f : Queue → Queue) : (s.modQueue n q f).order = s.order := rfl

/-! setDie -/

@[simp] theorem State.setDie_hand (s : State) (d : Die) : (s.setDie d).hand = s.hand := rfl
@[simp] theorem State.setDie_granted (s : State) (d : Die) : (s.setDie d).granted = s.granted := rfl
@[simp] theorem State.setDie_under (s : State) (d : Die) : (s.setDie d).under = s.under := rfl
@[simp] theorem State.setDie_stalled (s : State) (d : Die) : (s.setDie d).stalled = s.stalled := rfl
@[simp] theorem State.setDie_w (s : State) (d : Die) : (s.setDie d).w = s.w := rfl
@[simp] theorem State.setDie_t (s : State) (d : Die) : (s.setDie d).t = s.t := rfl
@[simp] theorem State.setDie_c (s : State) (d : Die) : (s.setDie d).c = s.c := rfl
@[simp] theorem State.setDie_teams (s : State) (d : Die) : (s.setDie d).teams = s.teams := rfl
@[simp] theorem State.setDie_cores (s : State) (d : Die) : (s.setDie d).cores = s.cores := rfl
@[simp] theorem State.setDie_parts (s : State) (d : Die) : (s.setDie d).parts = s.parts := rfl
@[simp] theorem State.setDie_spaces (s : State) (d : Die) : (s.setDie d).spaces = s.spaces := rfl
@[simp] theorem State.setDie_launches (s : State) (d : Die) : (s.setDie d).launches = s.launches := rfl
@[simp] theorem State.setDie_cards (s : State) (d : Die) : (s.setDie d).cards = s.cards := rfl
@[simp] theorem State.setDie_links (s : State) (d : Die) : (s.setDie d).links = s.links := rfl
@[simp] theorem State.setDie_lost (s : State) (d : Die) : (s.setDie d).lost = s.lost := rfl
@[simp] theorem State.setDie_cut (s : State) (d : Die) : (s.setDie d).cut = s.cut := rfl
@[simp] theorem State.setDie_domain (s : State) (d : Die) : (s.setDie d).domain = s.domain := rfl
@[simp] theorem State.setDie_due (s : State) (d : Die) : (s.setDie d).due = s.due := rfl
@[simp] theorem State.setDie_mem (s : State) (d : Die) : (s.setDie d).mem = s.mem := rfl
@[simp] theorem State.setDie_memPoison (s : State) (d : Die) : (s.setDie d).memPoison = s.memPoison := rfl
@[simp] theorem State.setDie_clock (s : State) (d : Die) : (s.setDie d).clock = s.clock := rfl
@[simp] theorem State.setDie_free (s : State) (d : Die) : (s.setDie d).free = s.free := rfl
@[simp] theorem State.setDie_order (s : State) (d : Die) : (s.setDie d).order = s.order := rfl

/-! setLink -/

@[simp] theorem State.setLink_hand (s : State) (p : Nat) (l : Link) : (s.setLink p l).hand = s.hand := rfl
@[simp] theorem State.setLink_granted (s : State) (p : Nat) (l : Link) : (s.setLink p l).granted = s.granted := rfl
@[simp] theorem State.setLink_under (s : State) (p : Nat) (l : Link) : (s.setLink p l).under = s.under := rfl
@[simp] theorem State.setLink_stalled (s : State) (p : Nat) (l : Link) : (s.setLink p l).stalled = s.stalled := rfl
@[simp] theorem State.setLink_w (s : State) (p : Nat) (l : Link) : (s.setLink p l).w = s.w := rfl
@[simp] theorem State.setLink_t (s : State) (p : Nat) (l : Link) : (s.setLink p l).t = s.t := rfl
@[simp] theorem State.setLink_c (s : State) (p : Nat) (l : Link) : (s.setLink p l).c = s.c := rfl
@[simp] theorem State.setLink_teams (s : State) (p : Nat) (l : Link) : (s.setLink p l).teams = s.teams := rfl
@[simp] theorem State.setLink_cores (s : State) (p : Nat) (l : Link) : (s.setLink p l).cores = s.cores := rfl
@[simp] theorem State.setLink_dies (s : State) (p : Nat) (l : Link) : (s.setLink p l).dies = s.dies := rfl
@[simp] theorem State.setLink_parts (s : State) (p : Nat) (l : Link) : (s.setLink p l).parts = s.parts := rfl
@[simp] theorem State.setLink_spaces (s : State) (p : Nat) (l : Link) : (s.setLink p l).spaces = s.spaces := rfl
@[simp] theorem State.setLink_launches (s : State) (p : Nat) (l : Link) : (s.setLink p l).launches = s.launches := rfl
@[simp] theorem State.setLink_cards (s : State) (p : Nat) (l : Link) : (s.setLink p l).cards = s.cards := rfl
@[simp] theorem State.setLink_links (s : State) (p : Nat) (l : Link) : (s.setLink p l).links = s.links.set p l := rfl
@[simp] theorem State.setLink_lost (s : State) (p : Nat) (l : Link) : (s.setLink p l).lost = s.lost := rfl
@[simp] theorem State.setLink_cut (s : State) (p : Nat) (l : Link) : (s.setLink p l).cut = s.cut := rfl
@[simp] theorem State.setLink_domain (s : State) (p : Nat) (l : Link) : (s.setLink p l).domain = s.domain := rfl
@[simp] theorem State.setLink_due (s : State) (p : Nat) (l : Link) : (s.setLink p l).due = s.due := rfl
@[simp] theorem State.setLink_mem (s : State) (p : Nat) (l : Link) : (s.setLink p l).mem = s.mem := rfl
@[simp] theorem State.setLink_memPoison (s : State) (p : Nat) (l : Link) : (s.setLink p l).memPoison = s.memPoison := rfl
@[simp] theorem State.setLink_clock (s : State) (p : Nat) (l : Link) : (s.setLink p l).clock = s.clock := rfl
@[simp] theorem State.setLink_free (s : State) (p : Nat) (l : Link) : (s.setLink p l).free = s.free := rfl
@[simp] theorem State.setLink_order (s : State) (p : Nat) (l : Link) : (s.setLink p l).order = s.order := rfl

/-! mapCores -/

@[simp] theorem State.mapCores_hand (s : State) (f : Core → Core) : (s.mapCores f).hand = s.hand := rfl
@[simp] theorem State.mapCores_granted (s : State) (f : Core → Core) : (s.mapCores f).granted = s.granted := rfl
@[simp] theorem State.mapCores_under (s : State) (f : Core → Core) : (s.mapCores f).under = s.under := rfl
@[simp] theorem State.mapCores_stalled (s : State) (f : Core → Core) : (s.mapCores f).stalled = s.stalled := rfl
@[simp] theorem State.mapCores_w (s : State) (f : Core → Core) : (s.mapCores f).w = s.w := rfl
@[simp] theorem State.mapCores_t (s : State) (f : Core → Core) : (s.mapCores f).t = s.t := rfl
@[simp] theorem State.mapCores_teams (s : State) (f : Core → Core) : (s.mapCores f).teams = s.teams := rfl
@[simp] theorem State.mapCores_cores (s : State) (f : Core → Core) : (s.mapCores f).cores = s.cores.map f := rfl
@[simp] theorem State.mapCores_dies (s : State) (f : Core → Core) : (s.mapCores f).dies = s.dies := rfl
@[simp] theorem State.mapCores_parts (s : State) (f : Core → Core) : (s.mapCores f).parts = s.parts := rfl
@[simp] theorem State.mapCores_spaces (s : State) (f : Core → Core) : (s.mapCores f).spaces = s.spaces := rfl
@[simp] theorem State.mapCores_launches (s : State) (f : Core → Core) : (s.mapCores f).launches = s.launches := rfl
@[simp] theorem State.mapCores_cards (s : State) (f : Core → Core) : (s.mapCores f).cards = s.cards := rfl
@[simp] theorem State.mapCores_links (s : State) (f : Core → Core) : (s.mapCores f).links = s.links := rfl
@[simp] theorem State.mapCores_lost (s : State) (f : Core → Core) : (s.mapCores f).lost = s.lost := rfl
@[simp] theorem State.mapCores_cut (s : State) (f : Core → Core) : (s.mapCores f).cut = s.cut := rfl
@[simp] theorem State.mapCores_domain (s : State) (f : Core → Core) : (s.mapCores f).domain = s.domain := rfl
@[simp] theorem State.mapCores_due (s : State) (f : Core → Core) : (s.mapCores f).due = s.due := rfl
@[simp] theorem State.mapCores_mem (s : State) (f : Core → Core) : (s.mapCores f).mem = s.mem := rfl
@[simp] theorem State.mapCores_memPoison (s : State) (f : Core → Core) : (s.mapCores f).memPoison = s.memPoison := rfl
@[simp] theorem State.mapCores_clock (s : State) (f : Core → Core) : (s.mapCores f).clock = s.clock := rfl
@[simp] theorem State.mapCores_free (s : State) (f : Core → Core) : (s.mapCores f).free = s.free := rfl
@[simp] theorem State.mapCores_order (s : State) (f : Core → Core) : (s.mapCores f).order = s.order := rfl

/-! mapWaves -/

@[simp] theorem State.mapWaves_hand (s : State) (f : Wave → Wave) : (s.mapWaves f).hand = s.hand := rfl
@[simp] theorem State.mapWaves_granted (s : State) (f : Wave → Wave) : (s.mapWaves f).granted = s.granted := rfl
@[simp] theorem State.mapWaves_under (s : State) (f : Wave → Wave) : (s.mapWaves f).under = s.under := rfl
@[simp] theorem State.mapWaves_stalled (s : State) (f : Wave → Wave) : (s.mapWaves f).stalled = s.stalled := rfl
@[simp] theorem State.mapWaves_c (s : State) (f : Wave → Wave) : (s.mapWaves f).c = s.c := rfl
@[simp] theorem State.mapWaves_cores (s : State) (f : Wave → Wave) : (s.mapWaves f).cores = s.cores := rfl
@[simp] theorem State.mapWaves_dies (s : State) (f : Wave → Wave) : (s.mapWaves f).dies = s.dies := rfl
@[simp] theorem State.mapWaves_parts (s : State) (f : Wave → Wave) : (s.mapWaves f).parts = s.parts := rfl
@[simp] theorem State.mapWaves_spaces (s : State) (f : Wave → Wave) : (s.mapWaves f).spaces = s.spaces := rfl
@[simp] theorem State.mapWaves_launches (s : State) (f : Wave → Wave) : (s.mapWaves f).launches = s.launches := rfl
@[simp] theorem State.mapWaves_cards (s : State) (f : Wave → Wave) : (s.mapWaves f).cards = s.cards := rfl
@[simp] theorem State.mapWaves_links (s : State) (f : Wave → Wave) : (s.mapWaves f).links = s.links := rfl
@[simp] theorem State.mapWaves_lost (s : State) (f : Wave → Wave) : (s.mapWaves f).lost = s.lost := rfl
@[simp] theorem State.mapWaves_cut (s : State) (f : Wave → Wave) : (s.mapWaves f).cut = s.cut := rfl
@[simp] theorem State.mapWaves_domain (s : State) (f : Wave → Wave) : (s.mapWaves f).domain = s.domain := rfl
@[simp] theorem State.mapWaves_due (s : State) (f : Wave → Wave) : (s.mapWaves f).due = s.due := rfl
@[simp] theorem State.mapWaves_mem (s : State) (f : Wave → Wave) : (s.mapWaves f).mem = s.mem := rfl
@[simp] theorem State.mapWaves_memPoison (s : State) (f : Wave → Wave) : (s.mapWaves f).memPoison = s.memPoison := rfl
@[simp] theorem State.mapWaves_clock (s : State) (f : Wave → Wave) : (s.mapWaves f).clock = s.clock := rfl
@[simp] theorem State.mapWaves_free (s : State) (f : Wave → Wave) : (s.mapWaves f).free = s.free := rfl
@[simp] theorem State.mapWaves_order (s : State) (f : Wave → Wave) : (s.mapWaves f).order = s.order := rfl

/-! onCur of a wave -/

@[simp] theorem Wave.onCur_num (w : Wave) (g : Entry → Entry) : (w.onCur g).num = w.num := rfl
@[simp] theorem Wave.onCur_lanes (w : Wave) (g : Entry → Entry) : (w.onCur g).lanes = w.lanes := rfl
@[simp] theorem Wave.onCur_s (w : Wave) (g : Entry → Entry) : (w.onCur g).s = w.s := rfl
@[simp] theorem Wave.onCur_m (w : Wave) (g : Entry → Entry) : (w.onCur g).m = w.m := rfl
@[simp] theorem Wave.onCur_f (w : Wave) (g : Entry → Entry) : (w.onCur g).f = w.f := rfl
@[simp] theorem Wave.onCur_spoison (w : Wave) (g : Entry → Entry) : (w.onCur g).spoison = w.spoison := rfl
@[simp] theorem Wave.onCur_inHandler (w : Wave) (g : Entry → Entry) : (w.onCur g).inHandler = w.inHandler := rfl
@[simp] theorem Wave.onCur_frame (w : Wave) (g : Entry → Entry) : (w.onCur g).frame = w.frame := rfl
@[simp] theorem Wave.onCur_reports (w : Wave) (g : Entry → Entry) : (w.onCur g).reports = w.reports := rfl
@[simp] theorem Wave.onCur_hems (w : Wave) (g : Entry → Entry) : (w.onCur g).hems = w.hems := rfl
@[simp] theorem Wave.onCur_pend (w : Wave) (g : Entry → Entry) : (w.onCur g).pend = w.pend := rfl
@[simp] theorem Wave.onCur_mloop (w : Wave) (g : Entry → Entry) : (w.onCur g).mloop = w.mloop := rfl
@[simp] theorem Wave.onCur_deferred (w : Wave) (g : Entry → Entry) : (w.onCur g).deferred = w.deferred := rfl
@[simp] theorem Wave.onCur_xfprm (w : Wave) (g : Entry → Entry) : (w.onCur g).xfprm = w.xfprm := rfl
@[simp] theorem Wave.onCur_flg (w : Wave) (g : Entry → Entry) : (w.onCur g).flg = w.flg := rfl
@[simp] theorem Wave.onCur_ten (w : Wave) (g : Entry → Entry) : (w.onCur g).ten = w.ten := rfl
@[simp] theorem Wave.onCur_xprog (w : Wave) (g : Entry → Entry) : (w.onCur g).xprog = w.xprog := rfl
@[simp] theorem Wave.onCur_xhang (w : Wave) (g : Entry → Entry) : (w.onCur g).xhang = w.xhang := rfl
@[simp] theorem Wave.onCur_ended (w : Wave) (g : Entry → Entry) : (w.onCur g).ended = w.ended := rfl

/-! setS of a wave -/

@[simp] theorem Wave.setS_num (w : Wave) (r : SReg) (v : W64) : (w.setS r v).num = w.num := rfl
@[simp] theorem Wave.setS_lanes (w : Wave) (r : SReg) (v : W64) : (w.setS r v).lanes = w.lanes := rfl
@[simp] theorem Wave.setS_m (w : Wave) (r : SReg) (v : W64) : (w.setS r v).m = w.m := rfl
@[simp] theorem Wave.setS_f (w : Wave) (r : SReg) (v : W64) : (w.setS r v).f = w.f := rfl
@[simp] theorem Wave.setS_paths (w : Wave) (r : SReg) (v : W64) : (w.setS r v).paths = w.paths := rfl
@[simp] theorem Wave.setS_inHandler (w : Wave) (r : SReg) (v : W64) : (w.setS r v).inHandler = w.inHandler := rfl
@[simp] theorem Wave.setS_frame (w : Wave) (r : SReg) (v : W64) : (w.setS r v).frame = w.frame := rfl
@[simp] theorem Wave.setS_reports (w : Wave) (r : SReg) (v : W64) : (w.setS r v).reports = w.reports := rfl
@[simp] theorem Wave.setS_hems (w : Wave) (r : SReg) (v : W64) : (w.setS r v).hems = w.hems := rfl
@[simp] theorem Wave.setS_pend (w : Wave) (r : SReg) (v : W64) : (w.setS r v).pend = w.pend := rfl
@[simp] theorem Wave.setS_mloop (w : Wave) (r : SReg) (v : W64) : (w.setS r v).mloop = w.mloop := rfl
@[simp] theorem Wave.setS_deferred (w : Wave) (r : SReg) (v : W64) : (w.setS r v).deferred = w.deferred := rfl
@[simp] theorem Wave.setS_xfprm (w : Wave) (r : SReg) (v : W64) : (w.setS r v).xfprm = w.xfprm := rfl
@[simp] theorem Wave.setS_flg (w : Wave) (r : SReg) (v : W64) : (w.setS r v).flg = w.flg := rfl
@[simp] theorem Wave.setS_ten (w : Wave) (r : SReg) (v : W64) : (w.setS r v).ten = w.ten := rfl
@[simp] theorem Wave.setS_xprog (w : Wave) (r : SReg) (v : W64) : (w.setS r v).xprog = w.xprog := rfl
@[simp] theorem Wave.setS_xhang (w : Wave) (r : SReg) (v : W64) : (w.setS r v).xhang = w.xhang := rfl
@[simp] theorem Wave.setS_ended (w : Wave) (r : SReg) (v : W64) : (w.setS r v).ended = w.ended := rfl

/-! onLanes of a wave -/

@[simp] theorem Wave.onLanes_num (w : Wave) (a : W32) (g : Lane → Lane) : (w.onLanes a g).num = w.num := rfl
@[simp] theorem Wave.onLanes_s (w : Wave) (a : W32) (g : Lane → Lane) : (w.onLanes a g).s = w.s := rfl
@[simp] theorem Wave.onLanes_m (w : Wave) (a : W32) (g : Lane → Lane) : (w.onLanes a g).m = w.m := rfl
@[simp] theorem Wave.onLanes_f (w : Wave) (a : W32) (g : Lane → Lane) : (w.onLanes a g).f = w.f := rfl
@[simp] theorem Wave.onLanes_spoison (w : Wave) (a : W32) (g : Lane → Lane) : (w.onLanes a g).spoison = w.spoison := rfl
@[simp] theorem Wave.onLanes_paths (w : Wave) (a : W32) (g : Lane → Lane) : (w.onLanes a g).paths = w.paths := rfl
@[simp] theorem Wave.onLanes_inHandler (w : Wave) (a : W32) (g : Lane → Lane) : (w.onLanes a g).inHandler = w.inHandler := rfl
@[simp] theorem Wave.onLanes_frame (w : Wave) (a : W32) (g : Lane → Lane) : (w.onLanes a g).frame = w.frame := rfl
@[simp] theorem Wave.onLanes_reports (w : Wave) (a : W32) (g : Lane → Lane) : (w.onLanes a g).reports = w.reports := rfl
@[simp] theorem Wave.onLanes_hems (w : Wave) (a : W32) (g : Lane → Lane) : (w.onLanes a g).hems = w.hems := rfl
@[simp] theorem Wave.onLanes_pend (w : Wave) (a : W32) (g : Lane → Lane) : (w.onLanes a g).pend = w.pend := rfl
@[simp] theorem Wave.onLanes_mloop (w : Wave) (a : W32) (g : Lane → Lane) : (w.onLanes a g).mloop = w.mloop := rfl
@[simp] theorem Wave.onLanes_deferred (w : Wave) (a : W32) (g : Lane → Lane) : (w.onLanes a g).deferred = w.deferred := rfl
@[simp] theorem Wave.onLanes_xfprm (w : Wave) (a : W32) (g : Lane → Lane) : (w.onLanes a g).xfprm = w.xfprm := rfl
@[simp] theorem Wave.onLanes_flg (w : Wave) (a : W32) (g : Lane → Lane) : (w.onLanes a g).flg = w.flg := rfl
@[simp] theorem Wave.onLanes_ten (w : Wave) (a : W32) (g : Lane → Lane) : (w.onLanes a g).ten = w.ten := rfl
@[simp] theorem Wave.onLanes_xprog (w : Wave) (a : W32) (g : Lane → Lane) : (w.onLanes a g).xprog = w.xprog := rfl
@[simp] theorem Wave.onLanes_xhang (w : Wave) (a : W32) (g : Lane → Lane) : (w.onLanes a g).xhang = w.xhang := rfl
@[simp] theorem Wave.onLanes_ended (w : Wave) (a : W32) (g : Lane → Lane) : (w.onLanes a g).ended = w.ended := rfl

@[simp] theorem Wave.setS_s (w : Wave) (r : SReg) (v : W64) : (w.setS r v).s = w.s.set r.val v := rfl

/-! setMask and the flags -/

@[simp] theorem Wave.setMask_num (w : Wave) (m : MReg) (v : W32) : (w.setMask m v).num = w.num := by
  unfold Wave.setMask; split <;> rfl
@[simp] theorem Wave.setMask_lanes (w : Wave) (m : MReg) (v : W32) : (w.setMask m v).lanes = w.lanes := by
  unfold Wave.setMask; split <;> rfl
@[simp] theorem Wave.setMask_s (w : Wave) (m : MReg) (v : W32) : (w.setMask m v).s = w.s := by
  unfold Wave.setMask; split <;> rfl
@[simp] theorem Wave.setMask_f (w : Wave) (m : MReg) (v : W32) : (w.setMask m v).f = w.f := by
  unfold Wave.setMask; split <;> rfl
@[simp] theorem Wave.setMask_spoison (w : Wave) (m : MReg) (v : W32) : (w.setMask m v).spoison = w.spoison := by
  unfold Wave.setMask; split <;> rfl
@[simp] theorem Wave.setMask_paths (w : Wave) (m : MReg) (v : W32) : (w.setMask m v).paths = w.paths := by
  unfold Wave.setMask; split <;> rfl
@[simp] theorem Wave.setMask_inHandler (w : Wave) (m : MReg) (v : W32) : (w.setMask m v).inHandler = w.inHandler := by
  unfold Wave.setMask; split <;> rfl
@[simp] theorem Wave.setMask_frame (w : Wave) (m : MReg) (v : W32) : (w.setMask m v).frame = w.frame := by
  unfold Wave.setMask; split <;> rfl
@[simp] theorem Wave.setMask_reports (w : Wave) (m : MReg) (v : W32) : (w.setMask m v).reports = w.reports := by
  unfold Wave.setMask; split <;> rfl
@[simp] theorem Wave.setMask_hems (w : Wave) (m : MReg) (v : W32) : (w.setMask m v).hems = w.hems := by
  unfold Wave.setMask; split <;> rfl
@[simp] theorem Wave.setMask_pend (w : Wave) (m : MReg) (v : W32) : (w.setMask m v).pend = w.pend := by
  unfold Wave.setMask; split <;> rfl
@[simp] theorem Wave.setMask_mloop (w : Wave) (m : MReg) (v : W32) : (w.setMask m v).mloop = w.mloop := by
  unfold Wave.setMask; split <;> rfl
@[simp] theorem Wave.setMask_deferred (w : Wave) (m : MReg) (v : W32) : (w.setMask m v).deferred = w.deferred := by
  unfold Wave.setMask; split <;> rfl
@[simp] theorem Wave.setMask_xfprm (w : Wave) (m : MReg) (v : W32) : (w.setMask m v).xfprm = w.xfprm := by
  unfold Wave.setMask; split <;> rfl
@[simp] theorem Wave.setMask_flg (w : Wave) (m : MReg) (v : W32) : (w.setMask m v).flg = w.flg := by
  unfold Wave.setMask; split <;> rfl
@[simp] theorem Wave.setMask_ten (w : Wave) (m : MReg) (v : W32) : (w.setMask m v).ten = w.ten := by
  unfold Wave.setMask; split <;> rfl
@[simp] theorem Wave.setMask_xprog (w : Wave) (m : MReg) (v : W32) : (w.setMask m v).xprog = w.xprog := by
  unfold Wave.setMask; split <;> rfl
@[simp] theorem Wave.setMask_xhang (w : Wave) (m : MReg) (v : W32) : (w.setMask m v).xhang = w.xhang := by
  unfold Wave.setMask; split <;> rfl
@[simp] theorem Wave.setMask_ended (w : Wave) (m : MReg) (v : W32) : (w.setMask m v).ended = w.ended := by
  unfold Wave.setMask; split <;> rfl
@[simp] theorem Wave.flagUp_num (w : Wave) (n : Option Nat) : (w.flagUp n).num = w.num := by cases n <;> rfl
@[simp] theorem Wave.flagUp_lanes (w : Wave) (n : Option Nat) : (w.flagUp n).lanes = w.lanes := by cases n <;> rfl
@[simp] theorem Wave.flagUp_s (w : Wave) (n : Option Nat) : (w.flagUp n).s = w.s := by cases n <;> rfl
@[simp] theorem Wave.flagUp_m (w : Wave) (n : Option Nat) : (w.flagUp n).m = w.m := by cases n <;> rfl
@[simp] theorem Wave.flagUp_spoison (w : Wave) (n : Option Nat) : (w.flagUp n).spoison = w.spoison := by cases n <;> rfl
@[simp] theorem Wave.flagUp_paths (w : Wave) (n : Option Nat) : (w.flagUp n).paths = w.paths := by cases n <;> rfl
@[simp] theorem Wave.flagUp_inHandler (w : Wave) (n : Option Nat) : (w.flagUp n).inHandler = w.inHandler := by cases n <;> rfl
@[simp] theorem Wave.flagUp_frame (w : Wave) (n : Option Nat) : (w.flagUp n).frame = w.frame := by cases n <;> rfl
@[simp] theorem Wave.flagUp_reports (w : Wave) (n : Option Nat) : (w.flagUp n).reports = w.reports := by cases n <;> rfl
@[simp] theorem Wave.flagUp_hems (w : Wave) (n : Option Nat) : (w.flagUp n).hems = w.hems := by cases n <;> rfl
@[simp] theorem Wave.flagUp_pend (w : Wave) (n : Option Nat) : (w.flagUp n).pend = w.pend := by cases n <;> rfl
@[simp] theorem Wave.flagUp_mloop (w : Wave) (n : Option Nat) : (w.flagUp n).mloop = w.mloop := by cases n <;> rfl
@[simp] theorem Wave.flagUp_deferred (w : Wave) (n : Option Nat) : (w.flagUp n).deferred = w.deferred := by cases n <;> rfl
@[simp] theorem Wave.flagUp_xfprm (w : Wave) (n : Option Nat) : (w.flagUp n).xfprm = w.xfprm := by cases n <;> rfl
@[simp] theorem Wave.flagUp_flg (w : Wave) (n : Option Nat) : (w.flagUp n).flg = w.flg := by cases n <;> rfl
@[simp] theorem Wave.flagUp_ten (w : Wave) (n : Option Nat) : (w.flagUp n).ten = w.ten := by cases n <;> rfl
@[simp] theorem Wave.flagUp_xprog (w : Wave) (n : Option Nat) : (w.flagUp n).xprog = w.xprog := by cases n <;> rfl
@[simp] theorem Wave.flagUp_xhang (w : Wave) (n : Option Nat) : (w.flagUp n).xhang = w.xhang := by cases n <;> rfl
@[simp] theorem Wave.flagUp_ended (w : Wave) (n : Option Nat) : (w.flagUp n).ended = w.ended := by cases n <;> rfl
@[simp] theorem Wave.flagDown_num (w : Wave) (n : Option Nat) : (w.flagDown n).num = w.num := by cases n <;> rfl
@[simp] theorem Wave.flagDown_lanes (w : Wave) (n : Option Nat) : (w.flagDown n).lanes = w.lanes := by cases n <;> rfl
@[simp] theorem Wave.flagDown_s (w : Wave) (n : Option Nat) : (w.flagDown n).s = w.s := by cases n <;> rfl
@[simp] theorem Wave.flagDown_m (w : Wave) (n : Option Nat) : (w.flagDown n).m = w.m := by cases n <;> rfl
@[simp] theorem Wave.flagDown_spoison (w : Wave) (n : Option Nat) : (w.flagDown n).spoison = w.spoison := by cases n <;> rfl
@[simp] theorem Wave.flagDown_paths (w : Wave) (n : Option Nat) : (w.flagDown n).paths = w.paths := by cases n <;> rfl
@[simp] theorem Wave.flagDown_inHandler (w : Wave) (n : Option Nat) : (w.flagDown n).inHandler = w.inHandler := by cases n <;> rfl
@[simp] theorem Wave.flagDown_frame (w : Wave) (n : Option Nat) : (w.flagDown n).frame = w.frame := by cases n <;> rfl
@[simp] theorem Wave.flagDown_reports (w : Wave) (n : Option Nat) : (w.flagDown n).reports = w.reports := by cases n <;> rfl
@[simp] theorem Wave.flagDown_hems (w : Wave) (n : Option Nat) : (w.flagDown n).hems = w.hems := by cases n <;> rfl
@[simp] theorem Wave.flagDown_pend (w : Wave) (n : Option Nat) : (w.flagDown n).pend = w.pend := by cases n <;> rfl
@[simp] theorem Wave.flagDown_mloop (w : Wave) (n : Option Nat) : (w.flagDown n).mloop = w.mloop := by cases n <;> rfl
@[simp] theorem Wave.flagDown_deferred (w : Wave) (n : Option Nat) : (w.flagDown n).deferred = w.deferred := by cases n <;> rfl
@[simp] theorem Wave.flagDown_xfprm (w : Wave) (n : Option Nat) : (w.flagDown n).xfprm = w.xfprm := by cases n <;> rfl
@[simp] theorem Wave.flagDown_flg (w : Wave) (n : Option Nat) : (w.flagDown n).flg = w.flg := by cases n <;> rfl
@[simp] theorem Wave.flagDown_ten (w : Wave) (n : Option Nat) : (w.flagDown n).ten = w.ten := by cases n <;> rfl
@[simp] theorem Wave.flagDown_xprog (w : Wave) (n : Option Nat) : (w.flagDown n).xprog = w.xprog := by cases n <;> rfl
@[simp] theorem Wave.flagDown_xhang (w : Wave) (n : Option Nat) : (w.flagDown n).xhang = w.xhang := by cases n <;> rfl
@[simp] theorem Wave.flagDown_ended (w : Wave) (n : Option Nat) : (w.flagDown n).ended = w.ended := by cases n <;> rfl

/-! Lanes. -/

@[simp] theorem Lane.setReg_id (l : Lane) (c : Nat) (v : W32) : (l.setReg c v).id = l.id := by
  unfold Lane.setReg; split <;> rfl
@[simp] theorem Lane.write_id (l : Lane) (iw : IW) (d : Dst) (v : W64) : (l.write iw d v).id = l.id := by
  cases iw <;> cases d <;> simp [Lane.write]
@[simp] theorem Lane.setReg_tid (l : Lane) (c : Nat) (v : W32) : (l.setReg c v).tid = l.tid := by
  unfold Lane.setReg; split <;> rfl
@[simp] theorem Lane.write_tid (l : Lane) (iw : IW) (d : Dst) (v : W64) : (l.write iw d v).tid = l.tid := by
  cases iw <;> cases d <;> simp [Lane.write]
@[simp] theorem Lane.setReg_latch (l : Lane) (c : Nat) (v : W32) : (l.setReg c v).latch = l.latch := by
  unfold Lane.setReg; split <;> rfl
@[simp] theorem Lane.write_latch (l : Lane) (iw : IW) (d : Dst) (v : W64) : (l.write iw d v).latch = l.latch := by
  cases iw <;> cases d <;> simp [Lane.write]
@[simp] theorem Lane.latchTo_id (l : Lane) (n : Nat) (iw : IW) (v : W64) : (l.latchTo n iw v).id = l.id := by cases iw <;> rfl
@[simp] theorem Lane.latchTo_tid (l : Lane) (n : Nat) (iw : IW) (v : W64) : (l.latchTo n iw v).tid = l.tid := by cases iw <;> rfl
@[simp] theorem Lane.latchTo_g (l : Lane) (n : Nat) (iw : IW) (v : W64) : (l.latchTo n iw v).g = l.g := by cases iw <;> rfl
@[simp] theorem Lane.latchTo_k (l : Lane) (n : Nat) (iw : IW) (v : W64) : (l.latchTo n iw v).k = l.k := by cases iw <;> rfl
@[simp] theorem Lane.latchTo_poison (l : Lane) (n : Nat) (iw : IW) (v : W64) : (l.latchTo n iw v).poison = l.poison := by cases iw <;> rfl
@[simp] theorem Lane.write_zero (l : Lane) (iw : IW) (v : W64) : l.write iw .zero v = l := by cases iw <;> rfl
@[simp] theorem Lane.write_l (l : Lane) (iw : IW) (v : W64) : l.write iw .l v = l := by cases iw <;> rfl

end Sys2Proof.Machine
end

