-- ==== Sys2Proof/Tests/Slice0.lean ====
section
/-! SUPPORT. Small tests: words of the manual's listings, ill-formed instructions, single steps, and for every statement with
hypotheses a state and operands that meet them. -/

namespace Sys2Proof.Tests
open Machine

set_option Elab.async false
set_option maxRecDepth 100000

/-! Words that the manual's listings and tables give (R96, R97, R102, R141, R143, R147, R166, R175, R176, R199, R243), beside the
instructions they stand for. -/

theorem test_words_clause :
    decodeTableWord 32 0x8780007F = some (.clause true 0 15 0 0) ∧
    decodeTableWord 32 0x078800FF = some (.clause false 0 15 1 1) ∧
    decodeTableWord 32 0x07F8017F = some (.clause false 0 15 15 2) := by decide +kernel

theorem test_words_integer :
    decodeTableWord 32 0x0C142003 = some (.add .w32 (.g 4) (.g 5) (.r (.g 6))) ∧
    decodeTableWord 32 0xF618200F = some (.add .w64 (.g 4) (.g 6) (.i (BitVec.ofInt 7 (-5)))) ∧
    decodeTableWord 32 0x05AC160B = some (.shl .w32 (.g 2) .tid (.i 2)) ∧
    decodeTableWord 32 0x03AC448B = some (.and .w32 (.g 8) .tid (.i 1)) ∧
    decodeTableWord 32 0x04002789 = some (.padd (.g 4) (.g 0) (.g 2)) ∧
    decodeTableWord 32 0x08103791 = some (.paddI (.g 6) (.g 4) 4) := by decide +kernel

theorem test_words_fp :
    decodeTableWord 32 0x14244713 = some (.fma .f32 (.g 8) (.g 9) (.g 10)) ∧
    decodeTableWord 32 0x10182595 = some (.fdiv .f64 (.g 4) (.g 6) (.g 8)) := by decide +kernel

theorem test_words_compare :
    decodeTableWord 32 0x0E091821 = some (.cmp .i32 .lt 3 (.g 2) (.r (.g 7))) ∧
    decodeTableWord 32 0xD3F92921 = some (.cmp .i64 .lt 5 (.s 14) (.r .zero)) ∧
    decodeTableWord 32 0xF820A121 = some (.cmp .i64 .ne 4 (.g 8) (.r (.s 12))) ∧
    decodeTableWord 32 0x0024B823 = some (.cmp .i32 .ne 7 (.g 9) (.i 0)) := by decide +kernel

theorem test_words_convert :
    decodeTableWord 32 0x0E0CA12F = some (.cvt .rtz .i32 .f32 (.g 3) (.g 7)) := by decide +kernel

theorem test_words_lanes :
    decodeTableWord 32 0x14082435 = some (.wred .add .f32 (.g 4) (.g 2)) ∧
    decodeTableWord 32 0x14082CB5 = some (.wscan .add .f32 (.g 5) (.g 2)) ∧
    decodeTableWord 32 0xD22832B5 = some (.voteAll 6 (.g 10)) := by decide +kernel

theorem test_words_scalar :
    decodeTableWord 32 0x30B28039 = some (.sadd 10 11 12) ∧
    decodeTableWord 32 0xFFD14D39 = some (.smovi 5 (BitVec.ofInt 12 (-3))) ∧
    decodeTableWord 32 0x03830BB9 = some (.sshrImm false 12 56) ∧
    decodeTableWord 32 0x00110A39 = some (.sorImm 4 1) := by decide +kernel

theorem test_words_memory :
    decodeTableWord 32 0x00103241 = some (.ldg .n32 (.plain 0) (.g 6) (.g 4)) ∧
    decodeTableWord 32 0x60103641 = some (.ldg .n32 (.ordered .die) (.g 6) (.g 4)) ∧
    decodeTableWord 32 0x98103643 = some (.stg .n32 (.ordered .const) (.g 6) (.g 4)) ∧
    decodeTableWord 32 0x202842C9 = some (.lds .n64 (.plain 16) (.g 8) (.g 10)) ∧
    decodeTableWord 32 0x01A402D9 = some (.ldk .n64 0 (.g 0) .zero) ∧
    decodeTableWord 32 0x2013CAC3 = some (.stg .n64 (.plain 16) (.s 9) (.g 4)) ∧
    decodeTableWord 32 0x00086341 = some (.ldg .n128 (.plain 0) (.g 12) (.g 2)) := by decide +kernel

theorem test_words_atomics :
    decodeTableWord 32 0xE01040C5 = some (.atomg .ar .die .w32 .fadd (.g 8) (.g 4)) ∧
    decodeTableWord 32 0xA01040C7 = some (.redg .rel .die .w32 .fadd (.g 8) (.g 4)) ∧
    decodeTableWord 32 0xD220605F = some (.tlook (.g 12) (.g 8)) ∧
    decodeTableWord 32 0x1A2070DF = some (.tset (.g 14) (.g 8) (.g 13)) := by decide +kernel

theorem test_words_control :
    decodeTableWord 32 0x00800061 = some (.bra 8) ∧
    decodeTableWord 32 0xFFA018E1 = some (.brd 3 (BitVec.ofInt 12 (-6))) ∧
    decodeTableWord 32 0x0140A161 = some (.call 20 20) ∧
    decodeTableWord 32 0x000021E1 = some (.rjoinW 4) ∧
    decodeTableWord 16 0x089E = some (.rjoin 4) ∧
    decodeTableWord 32 0x00000261 = some .yieldW ∧
    decodeTableWord 16 0x041E = some .yield ∧
    decodeTableWord 32 0x000002E1 = some .exit ∧
    decodeTableWord 32 0x00000361 = some .nopW ∧
    decodeTableWord 16 0x001E = some .nop ∧
    decodeTableWord 32 0x02A003E1 = some (.brk 42) ∧
    decodeTableWord 32 0x00400461 = some (.reform 4) ∧
    decodeTableWord 32 0x00003863 = some (.jmpi 7) ∧
    decodeTableWord 32 0x1002A0E3 = some (.fjmp true 20 256) ∧
    decodeTableWord 32 0x0000A163 = some (.ret 20) ∧
    decodeTableWord 32 0x003041E3 = some (.cfetch 3 8) := by decide +kernel

theorem test_words_half :
    decodeTableWord 16 0x8602 = some (.addH (.g 6) (.i 1)) := by decide +kernel

theorem test_words_sync :
    decodeTableWord 32 0x6000203B = some (.fence .ar .die) ∧
    decodeTableWord 32 0x048018BB = some (.scope .const 9) ∧
    decodeTableWord 32 0x050049BB = some (.scopefz 10 9) ∧
    decodeTableWord 32 0x0480413B = some (.scopeq 9 8) ∧
    decodeTableWord 32 0x0000103D = some (.bar 2) ∧
    decodeTableWord 32 0x0A2A18BF = some (.spush 20 21 3) ∧
    decodeTableWord 32 0x0C1A62BF = some (.mrecv 24 13 12) ∧
    decodeTableWord 32 0x00006A3D = some (.sleept false 13) := by decide +kernel

theorem test_words_matrix :
    decodeTableWord 32 0x0000A865 = some (.mloopOpen 21) ∧
    decodeTableWord 32 0x000081E5 = some (.mzero false false 16) ∧
    decodeTableWord 32 0x081A60E5 = some (.mma .ce16 16 13 12) ∧
    decodeTableWord 32 0x0A2692E5 = some (.mdrain 20 19 18) ∧
    decodeTableWord 32 0x0B0000E7 = some (.mseamloc 22 0) ∧
    decodeTableWord 32 0x06984069 = some (.tcopy false 13 12 2) ∧
    decodeTableWord 32 0x26984069 = some (.tcopy true 13 12 2) ∧
    decodeTableWord 32 0x000E306B = some (.job 7 6) ∧
    decodeTableWord 32 0x8F0030EB = some (.jseq .die 30 6) := by decide +kernel

theorem test_words_system :
    decodeTableWord 32 0x0080106F = some (.capb false 1 2) ∧
    decodeTableWord 32 0x000000EF = some .cstep ∧
    decodeTableWord 32 0x0000016F = some .cape ∧
    decodeTableWord 32 0x020011EF = some (.capadopt false 4 2) ∧
    decodeTableWord 32 0x0A004A6F = some (.capq 20 9) ∧
    decodeTableWord 32 0x0F10296B = some (.enq 30 8 5) ∧
    decodeTableWord 32 0x0500586D = some (.fsopen 10 11) ∧
    decodeTableWord 32 0x261A516D = some (.fswait true 12 13 10) ∧
    decodeTableWord 32 0x00007071 = some (.hemo 14) ∧
    decodeTableWord 32 0x000000F1 = some .hemc ∧
    decodeTableWord 32 0x00000073 = some .tretNext ∧
    decodeTableWord 32 0x20000073 = some .tretSame ∧
    decodeTableWord 32 0x40000073 = some .tretRegion ∧
    decodeTableWord 32 0x028600F3 = some (.movxR 5 3) ∧
    decodeTableWord 32 0x400030F3 = some (.movxDst 6) ∧
    decodeTableWord 32 0x04800173 = some (.rdtime 9) ∧
    decodeTableWord 32 0x000151F3 = some (.trapi 0 42) ∧
    decodeTableWord 32 0x02000A73 = some (.perfq 4 1) := by decide +kernel

/-! Ill-formed instructions: one for each check, which refuses it. -/

/-- A 64-bit operand in an odd register (R70). -/
theorem test_wf_pair : Instr.wf (.add .w64 (.g 1) (.g 0) (.r (.g 2))) = false := by decide
/-- An odd 64-bit source. -/
theorem test_wf_pair_source : Instr.wf (.padd (.g 0) (.g 3) (.g 2)) = false := by decide
/-- M0 as a mask destination (R12). -/
theorem test_wf_mask : Instr.wf (.cmp .i32 .eq 0 (.g 0) (.i 0)) = false := by decide
/-- An unordered condition in CMP (R83). -/
theorem test_wf_cond : Instr.wf (.cmp .i32 .un 1 (.g 0) (.i 0)) = false := by decide
/-- A type pair that CVT does not convert (R54). -/
theorem test_wf_cvt : Instr.wf (.cvt .dflt .i32 .i64 (.g 0) (.g 2)) = false := by decide
/-- A rounding mode where XFPRM does not round (R79). -/
theorem test_wf_cvt_mode : Instr.wf (.cvt .rtz .f64 .f32 (.g 0) (.g 2)) = false := by decide
/-- A group source off its alignment (R70). -/
theorem test_wf_group : Instr.wf (.npack .e4m3 (.g 0) (.g 2)) = false := by decide
/-- A group destination that contains the source (R70). -/
theorem test_wf_overlap : Instr.wf (.nunpk .e4m3 (.g 4) (.g 6)) = false := by decide
/-- A logical reduction of F32 (R84). -/
theorem test_wf_red : Instr.wf (.wred .xor .f32 (.g 0) (.g 1)) = false := by decide
/-- A load into L (R148). -/
theorem test_wf_load : Instr.wf (.ldg .n32 (.plain 0) .l (.g 0)) = false := by decide
/-- A 128-bit load over its base (R70). -/
theorem test_wf_load_group : Instr.wf (.ldg .n128 (.plain 0) (.g 4) (.g 6)) = false := by decide
/-- A store of size I8 (R75). -/
theorem test_wf_store : Instr.wf (.stg .i8 (.plain 0) (.g 0) (.g 2)) = false := by decide
/-- A window access at scope DIE (R161). -/
theorem test_wf_local : Instr.wf (.lds .n32 (.ordered .die) (.g 0) (.g 1)) = false := by decide
/-- An atomic result in TID (R76). -/
theorem test_wf_atomic : Instr.wf (.atomg .rlx .die .w32 .add .tid (.g 0)) = false := by decide
/-- A REDG that acquires (R167). -/
theorem test_wf_redg : Instr.wf (.redg .acq .die .w32 .add (.g 0) (.g 2)) = false := by decide
/-- TSET over its operands (R70). -/
theorem test_wf_tset : Instr.wf (.tset (.g 2) (.g 2) (.g 5)) = false := by decide
/-- A REFORM of 17 registers (R31). -/
theorem test_wf_reform : Instr.wf (.reform 17) = false := by decide
/-- FJMP with a register and no link (R74). -/
theorem test_wf_fjmp : Instr.wf (.fjmp false 3 0) = false := by decide
/-- A negative H shift (R71). -/
theorem test_wf_shift : Instr.wf (.shlH (.g 0) (.i 16)) = false := by decide
/-- Barrier 16 (R185). -/
theorem test_wf_bar : Instr.wf (.bar 16) = false := by decide
/-- BARA with a register where the kind takes none (R186). -/
theorem test_wf_bara : Instr.wf (.bara .gang 0 2 1) = false := by decide
/-- Spool 16 (R190). -/
theorem test_wf_spool : Instr.wf (.spop 0 1 16) = false := by decide
/-- A mailbox pair in an odd register (R195). -/
theorem test_wf_mailbox : Instr.wf (.msend false 1 2) = false := by decide
/-- MLOADZ from a tile with a descriptor (R199). -/
theorem test_wf_mloadz : Instr.wf (.mloadz .own false 0 0 3) = false := by decide
/-- MSEAM of no tile (R213). -/
theorem test_wf_mseam : Instr.wf (.mseam 0 0) = false := by decide
/-- Tile 4 (R215). -/
theorem test_wf_tile : Instr.wf (.mseamloc 0 4) = false := by decide
/-- MFLAGS that reads with a mask (R218). -/
theorem test_wf_mflags : Instr.wf (.mflags false 0 1) = false := by decide
/-- FSWAIT without a timeout that names one (R257). -/
theorem test_wf_fswait : Instr.wf (.fswait false 0 1 2) = false := by decide
/-- CAPB with mask M0 (R245). -/
theorem test_wf_capb : Instr.wf (.capb false 0 1) = false := by decide
/-- MOVX of register 7 (R262). -/
theorem test_wf_movx_read : Instr.wf (.movxR 0 7) = false := by decide
/-- MOVX to a read-only register (R262). -/
theorem test_wf_movx_write : Instr.wf (.movxW 1 0) = false := by decide
/-- PERFQ of counter 12 (R267). -/
theorem test_wf_perfq : Instr.wf (.perfq 0 12) = false := by decide

/-! Witnesses: for each statement with hypotheses, states and operands that meet them. `W` is the machine with an instruction
placed for its first step (DESIGN CHOICE, log 27): 32 lanes run in one entry, inside a clause. -/

def W : State := State.reset.withFetchWord 32 0x3E834D39
/-- The wave in hand changed. -/
def ww (f : Wave → Wave) : State := { W with w := f W.w }
/-- The running entry changed. -/
def we (f : Entry → Entry) : State := ww fun w => { w with paths := (f w.cur) :: w.paths.tail }
/-- The team in hand changed. -/
def wt (f : Team → Team) : State := { W with t := f W.t }
/-- Scalar registers 0, 1, … hold these values. -/
def withS (s : State) (v : List W64) : State := { s with w := { s.w with s := v ++ s.w.s.drop v.length } }
/-- The 48 bits of a pointer in the placed segment, `n` bytes into it. -/
def at_ (n : Nat) : W64 := placeBase + BitVec.ofNat 64 n
/-- The placed team with a trap vector at its own segment. -/
def WT : State := wt fun t => { t with xtvec := placeBase }

/-- FloatingPoint, LaneMoves, LaneReductions: no enable is set, whatever is raised; nor does any trap in a handler. -/
theorem witness_no_trap (exc : Nat → Exc) : NoTrap W.w W.w.acting exc ∧ NoTrap { W.w with inHandler := true } W.w.acting exc := by
  refine ⟨.inr fun i k _ hk _ _ => ?_, .inl rfl⟩
  have h : W.w.ten = List.replicate 5 0 := rfl
  rw [h]
  match k, hk with
  | 0, _ => simp
  | 1, _ => simp
  | 2, _ => simp
  | 3, _ => simp
  | 4, _ => simp

/-- Page tables in host memory that map the first 2 MiB of space 0, and its object table: object 1 is code,
2 data, 3 mailboxes, 4 private areas. -/
def pagesMem : Memory :=
  let h := 2 ^ 40 + 0x10000
  let f := 2 ^ 40 + 0x200000
  let m := writeBytes [] h (leBytes 8 (h + 0x1000 + 1))
  let m := writeBytes m (h + 0x1000) (leBytes 8 (h + 0x2000 + 1))
  let m := writeBytes m (h + 0x2000) (leBytes 8 (2 ^ 52 + f + 1))
  let entry (m : Memory) (obj ctl : Nat) : Memory :=
    writeBytes m (f + 0x40000 + 32 * obj) (leBytes 8 0 ++ leBytes 8 0x200000 ++ leBytes 8 0x200000 ++ leBytes 8 (2 ^ 63 + ctl))
  entry (entry (entry (entry m 1 0xC9) 2 0x0F) 3 0x4F) 4 0x83
/-- Partition 0 holds die 0, is ready and has accepted a version; scope 0 is an open JOB scope, queue 0 is enabled. -/
def part0 : Part :=
  { num := 0, dies := [0], debug := true, ready := true, verok := true, hostver := 0x11, evsize := 64, evbase := 0x100000
    queues := { base := 0x300000, cap := 8, enable := true } :: { base := 0x310000, cap := 8, device := true, enable := true } ::
      List.replicate 62 {}
    scopes := { st := .open_, kind := .job, count := 1 } :: { st := .open_, kind := .launch, parent := some 0, count := 2 } ::
      List.replicate 254 {} }
/-- The machine in hand with a space, a partition and a launch. -/
def withSpace (s : State) : State :=
  { s with mem := pagesMem, spaces := [{ num := 0, part := 0, table := 0x0020000000040000, root := 2 ^ 40 + 0x10000 }], parts := [part0]
           launches := [{ id := 0, part := 0, queue := 0, num := 0, card := List.replicate 256 0, scope := 1, host := true }] }
def D : State := withSpace W
/-- A pointer into an object. -/
def ptr (obj a : Nat) : W64 := BitVec.ofNat 64 (obj * 2 ^ 52 + a)
/-- 64-bit words in memory from an address of space 0 on. -/
def poke (s : State) (a : Nat) (v : List Nat) : State :=
  { s with mem := writeBytes s.mem (2 ^ 40 + 0x200000 + a) (v.flatMap (leBytes 8)) }

/-- The state after a checked access of the running entry. -/
def seen (p : W64) (n : Nat) (q : Want) (s : State) (watch : Bool := true) : State :=
  let s := (globalAcc s 0 p n q watch).1
  waitMoving (waitMoving s s.t.space (pAddr p) s.t.die) s.t.space (pAddr p + n - 1) s.t.die
theorem accessOpen_of {p : W64} {n : Nat} {q : Want} {s : State} (h : (globalAcc s 0 p n q).2.bad = none) :
    AccessOpen p n q s (seen p n q s) := by
  intro k
  simp only [scalarAccess, scalarChecked, h, seen]
theorem allPass_of {f : State → Nat → State × Acc} {ls : List Nat} {s : State} (h : ∀ a ∈ (eachLane s ls f).2, a.bad = none) :
    ∃ v xs, AllPass f ls s v xs := ⟨(eachLane s ls f).1, (eachLane s ls f).2, rfl, h⟩
theorem allPass_of' {f : State → Nat → State × Acc} {ls : List Nat} {s : State} {P : List Acc → Prop}
    (h : ∀ a ∈ (eachLane s ls f).2, a.bad = none) (hp : P (eachLane s ls f).2) :
    ∃ v xs, AllPass f ls s v xs ∧ P xs := ⟨(eachLane s ls f).1, (eachLane s ls f).2, ⟨rfl, h⟩, hp⟩

/-- No watch of the partition is armed. -/
theorem quietD : ∀ p ∈ D.parts, ∀ h ∈ p.hwatch, h.msb = false := by
  intro p hp h hh
  have hd : D.parts = [part0] := rfl
  rw [hd, List.mem_singleton] at hp
  subst hp
  rw [List.eq_of_mem_replicate hh]
  simp

/-- NUNPK of FloatingPoint is well-formed on a group at its alignment. -/
theorem witness_FloatingPoint : Instr.wf (.nunpk .e4m3 (.g 4) (.g 2)) = true ∧ Instr.wf (.nunpk .e5m2 (.g 88) (.g 2)) = true := by
  decide +kernel

/-- LaneReductions: a result with lanes acting, none without; the highest acting lane 31, and lane 0 alone. -/
theorem witness_LaneReductions :
    (wredResult W.w .add .i32 (.g 0)).isSome = true ∧
    wredResult (we fun e => { e with mask := 0 }).w .add .i32 (.g 0) = none ∧ (we fun e => { e with mask := 0 }).w.acting = 0 ∧
    RedTy.isFloat .n64 = false ∧ W.w.acting.getLsbD 31 = true ∧
    (we fun e => { e with mask := 1 }).w.acting = 1 ∧ (∀ i, i < 32 → (1 : W32).getLsbD i = true → i ≤ 0) := by decide +kernel

/-- MasksAndScalars: the first lane of a mask is 0, or 31, or there is none; the same of the acting set. -/
theorem witness_MasksAndScalars :
    (W.w.mask 0).getLsbD (0 : Fin 32) = true ∧
    (let w := W.w.setMask 3 0x80000000; (w.mask 3).getLsbD (31 : Fin 32) = true ∧ ∀ k : Fin 32, k < 31 → (w.mask 3).getLsbD k = false) ∧
    W.w.mask 5 = 0 ∧
    (let w := (we fun e => { e with mask := 0x80000000 }).w
     w.acting.getLsbD (31 : Fin 32) = true ∧ ∀ k : Fin 32, k < 31 → w.acting.getLsbD k = false) ∧
    (we fun e => { e with mask := 0 }).w.acting = 0 := by decide +kernel

/-- ClausesAndTransfers: no flag named reads above 0, or the last one does. -/
theorem witness_ClausesAndTransfers_headers :
    ((∀ n, n < 12 → (0xFFF : BitVec 12).getLsbD n = true → W.w.f.getD n 0 = 0) ∧ W.copiesReading = false ∧ W.w.deferred = []) ∧
    ∃ n, n < 12 ∧ (0x800 : BitVec 12).getLsbD n = true ∧ (ww fun w => { w with f := w.f.set 11 1 }).w.f.getD n 0 ≠ 0 := by
  refine ⟨by decide +kernel, 11, by decide +kernel⟩

/-- ClausesAndTransfers: an offset that stays in the segment and meets a header, at its ends; a pointer to a header; an FJMP
whose offset lies in its object. -/
theorem witness_ClausesAndTransfers_targets :
    (let i : BitVec 12 := BitVec.ofInt 12 (-2)
     0 ≤ (W.w.cur.pc.toNat % 4096 : Int) + 2 * i.toInt ∧ (W.w.cur.pc.toNat % 4096 : Int) + 2 * i.toInt < 4096 ∧
     W.t.isHeader (nearTarget W.w.cur.pc (i.signExtend 52)) = true) ∧
    (let i : BitVec 12 := 2045
     0 ≤ (W.w.cur.pc.toNat % 4096 : Int) + 2 * i.toInt ∧ (W.w.cur.pc.toNat % 4096 : Int) + 2 * i.toInt < 4096) ∧
    ((at_ 8).getLsbD 0 = false ∧ W.t.isHeader (at_ 8) = true ∧ (withS W [at_ 8]).w.sreg 0 = at_ 8) ∧
    (let i : BitVec 12 := BitVec.ofInt 12 (-2)
     ∃ d, (descOf D D.coreId D.t.space (pObj D.w.cur.pc)).2 = some d ∧
      (d.base : Int) ≤ (pAddr D.w.cur.pc : Int) + 2 * (imm12w D.w i).toInt ∧
      (pAddr D.w.cur.pc : Int) + 2 * (imm12w D.w i).toInt < d.base + d.reslim ∧
      (nearTarget D.w.cur.pc ((imm12w D.w i).setWidth 52)).getLsbD 0 = false ∧
      D.t.isHeader (nearTarget D.w.cur.pc ((imm12w D.w i).setWidth 52)) = true) := by
  refine ⟨by decide +kernel, by decide +kernel, by decide +kernel, ?_⟩
  exact ⟨{ space := 0, obj := 1, base := 0, reslim := 0x200000, comlim := 0x200000, ctl := 2 ^ 63 + 0xC9 },
    by decide +kernel, by decide +kernel, by decide +kernel, by decide +kernel, by decide +kernel⟩

/-- Seven entries in use. -/
def full (s : State) : State :=
  { s with w := { s.w with paths := s.w.cur :: List.replicate 6 { st := .ready, pc := at_ 0, mask := 0 } ++ [{}] } }

/-- PathsDivergeAndJoin: BRD with no lane taken, with all, with some and a free entry, and with a full path table. -/
theorem witness_PathsDivergeAndJoin_brd :
    (let i : BitVec 12 := BitVec.ofInt 12 (-2)
     inSegment W.w i.toInt = true ∧ W.w.acting &&& W.w.mask 5 = 0 ∧ W.w.acting &&& W.w.mask 0 ≠ 0 ∧
     W.w.cur.mask &&& ~~~(W.w.acting &&& W.w.mask 0) = 0 ∧ W.t.isHeader (relTarget W.w i.toInt) = true) ∧
    (let s := ww fun w => w.setMask 3 1
     s.w.acting &&& s.w.mask 3 ≠ 0 ∧ s.w.cur.mask &&& ~~~(s.w.acting &&& s.w.mask 3) ≠ 0 ∧ s.w.used < 7 ∧
     s.w.paths.findIdx? (·.st == .free) = some 1 ∧ 7 ≤ (full s).w.used ∧ (full s).w.acting &&& (full s).w.mask 3 ≠ 0 ∧
     (full s).w.cur.mask &&& ~~~((full s).w.acting &&& (full s).w.mask 3) ≠ 0) := by decide +kernel

/-- PathsDivergeAndJoin: RJOIN with a lane of the mask elsewhere, with none, and with a full path table; YIELD to a READY
entry, and alone. -/
theorem witness_PathsDivergeAndJoin_rjoin :
    (let s := we fun e => { e with mask := 1 }
     let s := { s with w := { s.w with paths := s.w.cur :: { st := .ready, pc := at_ 0, mask := 2 } :: List.replicate 6 {} } }
     s.w.runIdx.isSome = true ∧ s.w.cur.mask &&& s.w.mask 0 ≠ 0 ∧ s.w.cur.mask &&& ~~~(s.w.mask 0) = 0 ∧
     ((s.w.mask 0).getLsbD 1 = true ∧ s.w.live.getLsbD 1 = true ∧ s.w.cur.mask.getLsbD 1 = false ∧
       ∀ e ∈ s.w.paths, e.st = .waitJoin → e.mask.getLsbD 1 = false) ∧
     s.w.oldestReady = some 1 ∧ s.w.runIdx = some 0) ∧
    (∀ k, k < 32 → W.w.live.getLsbD k = true → W.w.cur.mask.getLsbD k = true) ∧ (∀ e ∈ W.w.paths, e.st ≠ .ready) ∧
    (let s := full (ww fun w => w.setMask 3 1)
     s.w.cur.mask &&& s.w.mask 3 ≠ 0 ∧ s.w.cur.mask &&& ~~~(s.w.mask 3) ≠ 0 ∧ 7 ≤ s.w.used) := by decide +kernel

/-- ExitAndReform: EXIT of some lanes, of all at the last word of a segment, and of one there; REFORM of 32 threads, at the first and at the
last even offset of the segment. -/
theorem witness_ExitAndReform :
    (W.copiesReading = false ∧ W.w.deferred = [] ∧ W.w.cur.pc.toNat % 4096 ≠ 4092) ∧
    (let s := we fun e => { e with pc := at_ 4092 }
     s.w.cur.pc.toNat % 4096 = 4092 ∧ s.w.cur.mask &&& ~~~s.w.acting = 0) ∧
    (let s := { WT with w := { WT.w with paths := { WT.w.cur with pc := at_ 4092, clause := WT.w.cur.clause.map fun c => { c with exec := 1 } } :: WT.w.paths.tail } }
     s.w.cur.pc.toNat % 4096 = 4092 ∧ s.w.cur.mask &&& ~~~s.w.acting ≠ 0 ∧ s.copiesReading = false ∧ s.w.deferred = [] ∧ CanTrap s) ∧
    (let s := ww fun w => { w with lanes := w.lanes.modify 31 fun l => { l with g := l.g.set 0 4094 } }
     s.w.used ≤ 1 ∧ (∀ l ∈ s.w.lanes, l.holding = false) ∧ s.w.hems = [] ∧ s.t.twin = false ∧ (∀ n ∈ s.w.f, n = 0) ∧
     s.w.cur.blocked = none ∧
     (∀ i, i < 32 → s.w.acting.getLsbD i = true → ((s.w.lane i).reg 0).toNat % 2 = 0 ∧ ((s.w.lane i).reg 0).toNat < 4096) ∧
     (fileLanes s.w (BitVec.ofNat 64 (s.w.cur.pc.toNat / 4096 * 4096)) 16 s.t.opps (lanesOf s.w.acting) s.t.bins).2 = s.w.acting) := by
  unfold CanTrap; decide +kernel

/-- OverlayFill: a readable segment of code into slot 7, in which no entry runs. -/
theorem witness_OverlayFill :
    (∀ w ∈ D.w :: D.t.waves, ∀ e ∈ w.paths, e.st ≠ .free → D.t.slotIdx e.pc ≠ some 7) ∧ D.t.xtvec = 0 ∧
    (let p := at_ 0x4000
     p.toNat % 4096 = 0 ∧ checkEntry (descOf D D.coreId D.t.space (pObj p)).2 p 4096 { rights := [3], kinds := [3] } = none ∧
     (D.t.slots.getD 7 {}).fill = false) := by decide +kernel

/-- TrapsTaken: a landed vector; a trap code below 3840 at its bounds; a trap in a handler, without a vector, and with one whose segment
has not landed. -/
theorem witness_TrapsTaken :
    CanTrap WT ∧ WT.w.acting ≠ 0 ∧ ((0 : BitVec 6) ++ (0 : BitVec 6)).toNat < 3840 ∧ ((59 : BitVec 6) ++ (63 : BitVec 6)).toNat < 3840 ∧
    WT.hand.isSome = true ∧ WT.t.ending = none ∧ (ww fun w => { w with inHandler := true }).w.inHandler = true ∧ W.t.xtvec = 0 ∧
    (let s := wt fun t => { t with xtvec := at_ 0x4000 }; s.w.inHandler = false ∧ s.t.xtvec ≠ 0 ∧ s.t.lacks s.t.xtvec = true) := by
  unfold CanTrap; decide +kernel

/-- A wave in the handler of a BRK that it met at the start of the placed clause. -/
def inTrap : State :=
  match exec (.brk 5) WT with | .next t => t | _ => WT

/-- TrapReturn: the handler of a trap that the running entry took. -/
theorem witness_TrapReturn :
    (let s := inTrap
     s.w.inHandler = true ∧ s.w.used ≤ 1 ∧ s.w.mloop = none ∧ s.w.xtdst = none ∧
     (s.w.xtcause.toNat % 256 ≠ 37 ∧ s.w.xtcause.toNat % 256 ≠ 33 ∧ s.w.xtcause.toNat % 256 ≠ 20) ∧
     ∃ f, s.w.frame = some f ∧ (let e := f.paths.getD f.trapped {}
       e.st = .run ∧ f.trapped < f.paths.length ∧ e.mask &&& s.w.live ≠ 0 ∧ e.body = none ∧ f.body = none ∧ f.atHeader = false)) := by
  refine ⟨by decide +kernel, by decide +kernel, by decide +kernel, by decide +kernel, by decide +kernel, ?_⟩
  exact ⟨(inTrap.w.frame).getD { paths := [], latches := [], trapped := 0, next := 0 }, by decide +kernel⟩

/-- Hems: none held, and three; a landed header as the handler. -/
theorem witness_Hems :
    W.w.used ≤ 1 ∧ W.w.hems.length < 4 ∧ (ww fun w => { w with hems := [0, 0, 0] }).w.hems.length < 4 ∧
    (withS W [at_ 8]).w.sreg 0 = at_ 8 ∧ (at_ 8).getLsbD 0 = false ∧ W.t.isHeader (at_ 8) = true ∧
    (ww fun w => { w with hems := [0, 0, 0] }).w.hems ≠ [] := by decide +kernel

/-- FencesAndReleases: the scopes either side of GANG and of DIE. -/
theorem witness_FencesAndReleases : 2 ≤ Scope.rank .gang ∧ 4 ≤ Scope.rank .die ∧ Scope.rank .const < 4 ∧ 4 ≤ Scope.rank .sys ∧ Scope.rank .team < 2 := by decide

/-- The handle of a kind that SCOPE makes for core 47 of die 0, by package. -/
def handleOf (kind : Nat) (p : BitVec 8) : W64 := BitVec.ofNat 64 (kind * 2 ^ 60 + p.toNat * 2 ^ 52 + 47 * 2 ^ 40)
theorem handleOf_fields (kind : Nat) (h : 2 ≤ kind ∧ kind ≤ 6) (p : BitVec 8) : handleKind (handleOf kind p) = kind ∧ handleDie (handleOf kind p) = 0 ∧
    handleCore (handleOf kind p) = 47 ∧ bitsOf (handleOf kind p).toNat 39 32 = 0 ∧ bitsOf (handleOf kind p).toNat 59 52 = p.toNat := by
  have hp := p.isLt
  simp only [handleKind, handleDie, handleCore, bitsOf, handleOf, BitVec.toNat_ofNat]
  omega

/-- ScopeHandles: a handle of each kind that names a core of the partition; a constellation's count 0 with no other freeze, 1, 255, and
0 with four other freezes. -/
theorem witness_ScopeHandles (kind : Nat) (h : 2 ≤ kind ∧ kind ≤ 6) :
    handleKind (handleOf kind Config.packageNumber) = kind ∧ handleBad D (handleOf kind Config.packageNumber) = false ∧
    (let n := fun fs => ({ D.t with freezes := fs } : Team).freezeOf 0 ((D.die 0).consId 47)
     n [] = 0 ∧ n [⟨0, 47, 1⟩] = 1 ∧ n [⟨0, 47, 255⟩] = 255 ∧ n [⟨0, 1, 1⟩, ⟨0, 2, 1⟩, ⟨0, 3, 1⟩, ⟨0, 4, 1⟩] = 0) := by
  have f := handleOf_fields kind h Config.packageNumber
  refine ⟨f.1, ?_, by decide +kernel⟩
  have hp : D.part D.t.part = some part0 := by decide +kernel
  have hk : (decide (2 ≤ kind) && decide (kind ≤ 6)) = true := by simp [h]
  simp only [handleBad, f.1, f.2.1, f.2.2.1, f.2.2.2.1, f.2.2.2.2, hp, bne_self_eq_false, hk]
  decide

/-- Barriers: barrier 0 and 15, with every entry of the wave there or running, and with a wave that has not arrived; a barrier
object that expects two arrivals, the first and the last. -/
theorem witness_Barriers :
    (W.w.runIdx.isSome = true ∧ (settleAtoms W).w.ended = false ∧ (settleAtoms W).t.waves = [] ∧
      ∀ e ∈ (settleAtoms W).w.paths, e.st = .free ∨ e.st = .run) ∧
    (∃ w ∈ ({ W.t with waves := [W.w] } : Team).waves, w.ended = false ∧ w.arrived 15 = false) ∧
    (let s := withS (poke D 0x4000 [2, 5, 0]) [ptr 2 0x4000]
     let u := seen (ptr 2 0x4000) 64 (wantObject true) (settleAtoms s)
     AccessOpen (s.w.sreg 0) 64 (wantObject true) (settleAtoms s) u ∧
     homeWord (flushLine u (ptr 2 0x4000)) (ptr 2 0x4000) 0 = 2 ∧ homeWord (flushLine u (ptr 2 0x4000)) (ptr 2 0x4000) 1 = 5 ∧
     homeWord (((flushLine u (ptr 2 0x4000)).release .die).escape) (ptr 2 0x4000) 2 = 0 ∧ (flushLine u (ptr 2 0x4000)).w.bara = []) ∧
    (let s := poke D 0x4000 [1, 0, 0]; homeWord s (ptr 2 0x4000) 0 = 1 ∧ homeWord s (ptr 2 0x4000) 2 + 1 = 1) := by
  refine ⟨by decide +kernel, ⟨W.w, by decide +kernel⟩, ⟨accessOpen_of (by decide +kernel), by decide +kernel, by decide +kernel, by decide +kernel, by decide +kernel⟩,
    by decide +kernel⟩

/-- Waiting: every flag reads 0, and the last named one does not; a deadline at the time, and one later. -/
theorem witness_Waiting :
    (∀ n, n < 12 → ((63 : BitVec 6) ++ (63 : BitVec 6)).getLsbD n = true → W.w.f.getD n 0 = 0) ∧
    (∃ n, n < 12 ∧ ((32 : BitVec 6) ++ (0 : BitVec 6)).getLsbD n = true ∧ (ww fun w => { w with f := w.f.set 11 1 }).w.f.getD n 0 ≠ 0) ∧
    (W.w.sreg 0).toNat ≤ W.now ∧ W.w.cur.blocked = none ∧ W.now < W.now + ((withS W [1]).w.sreg 0).toNat ∧ W.w.runIdx.isSome = true :=
  ⟨by decide +kernel, ⟨11, by decide +kernel⟩, by decide +kernel⟩

/-- A team with spool 0 at the end of its window, of capacity 2, holding `n` entries. -/
def spooled (n : Nat) : State :=
  wt fun t => { t with spools := t.spools.set 0 { defined := true, cap := 2, base := 65536 - 16, tail := n } }

/-- SpoolsAndMailboxes: SPINIT at the capacities 1 and 64; a push with room and into a full spool; a pop of an entry and of
none, without and with a time-out; a wave that waits before; an entry that a copy moves. -/
theorem witness_SpoolsAndMailboxes_spools :
    W.MemCanonical ∧
    (∀ v : W64, v = BitVec.ofNat 64 (1 * 2 ^ 20 + 65528) ∨ v = BitVec.ofNat 64 (64 * 2 ^ 20) →
      v.toNat < 2 ^ 27 ∧ 0 < bitsOf v.toNat 26 20 ∧ bitsOf v.toNat 26 20 ≤ 64 ∧ bitsOf v.toNat 19 0 % 8 = 0 ∧
      bitsOf v.toNat 19 0 + 8 * bitsOf v.toNat 26 20 ≤ W.t.window) ∧
    (∀ n : Nat, n < 3 → let u := settleAtoms (spooled n)
      let p := spoolOf u u.t.id 0
      pushTo u (u.w.sreg 1) 0 = .team u.t.id ∧ scoreboardHolds u (p.range u.t.id p.tail) true = false ∧ p.cap = 2 ∧ p.tail - p.head = n ∧
      popBad u (u.w.sreg 1) 0 = false ∧ scoreboardHolds u (p.range u.t.id p.head) false = false ∧ u.w.cur.blocked = none ∧
      waitsBefore u (pushKey u.t.id 0) u.order = false ∧ waitsBefore u (popKey u.t.id 0) u.order = false ∧ ctlTmo (u.w.sreg 1) = 0) ∧
    (∀ k, k = pushKey 1 0 ∨ k = popKey 1 0 →
      let u := settleAtoms (spooled 1)
      let w : Wave := { u.w with num := 1, paths := [{ u.w.cur with blocked := some { pc := at_ 4, key := some k, order := 0 } }] }
      let u := { u with t := { u.t with waves := [w] }, order := 1 }
      waitsBefore u k (placeOf u k) = true) ∧
    (let u := settleAtoms (spooled 1)
     let u := { u with c := { u.c with copies := [{ op := .tcopy false, st := .writing, team := u.t.id, wave := 0, flag := none
                                                    desc := BitVec.ofNat 64 (64 * 2 ^ 40 + 65536 - 16), group := [0, BitVec.ofNat 64 (10 * 2 ^ 56 + 2 ^ 44 + 2 ^ 32 + 64), 0, 0], ctl := 0 }] } }
     let p := spoolOf u u.t.id 0
     scoreboardHolds u (p.range u.t.id p.tail) true = true ∧ scoreboardHolds u (p.range u.t.id p.head) false = true) ∧
    (let u := settleAtoms (withS { spooled 0 with clock := 3000 * 3 } [0, 65536])
     let u := { u with w := { u.w with paths := u.w.paths.map fun e => { e with blocked := some { pc := e.pc, deadline := some 1000 } } } }
     ctlTmo (u.w.sreg 1) ≠ 0 ∧ deadlineOf u (u.now + 1000 * ctlTmo (u.w.sreg 1)) ≤ u.now) := by
  refine ⟨by unfold State.MemCanonical; decide +kernel, ?_, by decide +kernel, ?_, by decide +kernel, by decide +kernel⟩
  · rintro v (rfl | rfl) <;> decide +kernel
  · rintro k (rfl | rfl) <;> decide +kernel

/-- A push into a peer's spool while the peer is out of its core, and into one that the wave's gang does not have. -/
theorem witness_SpoolsAndMailboxes_absent :
    (let u := settleAtoms (withS { W with t := { W.t with gangSize := 2 }, teams := [{ id := 9, rank := 1, gangSize := 2 }] } [0, 33])
     pushTo u (u.w.sreg 1) 0 = .absent 9) ∧
    (let s := wt fun t => { t with xtvec := placeBase }
     ∃ d, pushTo (settleAtoms s) ((settleAtoms s).w.sreg 1) 0 = .bound d ∧ CanTrap (settleAtoms s) ∧ popBad (settleAtoms s) ((settleAtoms s).w.sreg 1) 0 = true ∧
       (settleAtoms s).w.cur.body = none) := by
  refine ⟨by decide +kernel, 7, ?_⟩
  unfold CanTrap
  decide +kernel

/-- The state after the checks of a mailbox, and after those of the slot of its next message. -/
def boxState (send : Bool) (b : Box) (s : State) : State :=
  (limitsAcc (flushLine (seen (ptr 3 0x8000) 64 (wantBox send) (settleAtoms s)) (ptr 3 0x8000)) (ptr 3 0x8000) (64 + 16 * b.cap) (wantBox send)).1
def slotState (send : Bool) (b : Box) (s : State) : State :=
  seen (slotPtr (ptr 3 0x8000) b (if send then b.sent else b.received)) 16 { wantBox send with align := 1 } (boxState send b s) false

theorem boxOpen_of {send : Bool} {p : W64} {s : State} {b : Box} (h1 : (globalAcc s 0 p 64 (wantBox send)).2.bad = none)
    (hb : readBox (flushLine (seen p 64 (wantBox send) s) p) p = some b)
    (h2 : (limitsAcc (flushLine (seen p 64 (wantBox send) s) p) p (64 + 16 * b.cap) (wantBox send)).2.bad = none) :
    BoxOpen send p s (limitsAcc (flushLine (seen p 64 (wantBox send) s) p) p (64 + 16 * b.cap) (wantBox send)).1 b := by
  intro k
  unfold boxAccess
  rw [accessOpen_of h1]
  simp only [hb, scalarChecked, h2]
theorem slotOpen_of {send : Bool} {p : W64} {s : State} (h : (globalAcc s 0 p 16 { wantBox send with align := 1 } false).2.bad = none) :
    SlotOpen send p s (seen p 16 { wantBox send with align := 1 } s false) := by
  intro k
  simp only [slotAccess, scalarAccess, scalarChecked, h, seen]

/-- SpoolsAndMailboxes: a mailbox of two slots at scope DIE that holds none, and one that holds two messages; with its slots in reach;
and a header that is none. -/
theorem witness_SpoolsAndMailboxes_mailboxes (n : Nat) (hn : n = 0 ∨ n = 2) :
    let s := withS (poke D 0x8000 [2 + 4 * 2 ^ 16, n]) [ptr 3 0x8000]
    let b : Box := { cap := 2, scope := .die, sent := n, received := 0, dropped := 0 }
    (∀ send : Bool, BoxOpen send (s.w.sreg 0) (settleAtoms s) (boxState send b s) b ∧
      SlotOpen send (slotPtr (s.w.sreg 0) b (if send then b.sent else b.received)) (boxState send b s) (slotState send b s)) ∧
    b.held = n ∧ reservedSlots (boxState true b s) (boxKey (boxState true b s) (ptr 3 0x8000)) = 0 ∧
    (boxState false b s).w.cur.blocked = none ∧
    waitsBefore (boxState false b s) (1, boxKey (boxState false b s) (ptr 3 0x8000)) (boxState false b s).order = false ∧
    ctlTmo ((boxState false b s).w.sreg 1) = 0 := by
  rcases hn with rfl | rfl <;>
  exact ⟨by rintro (_ | _) <;> exact ⟨boxOpen_of (by decide +kernel) (by decide +kernel) (by decide +kernel), slotOpen_of (by decide +kernel)⟩,
    by decide +kernel⟩
/-- SpoolsAndMailboxes: a mailbox whose header is none. -/
theorem witness_SpoolsAndMailboxes_bad (send : Bool) :
    let s := withS { D with t := { D.t with xtvec := placeBase } } [ptr 3 0x8000]
    let v := flushLine (seen (ptr 3 0x8000) 64 (wantBox send) (settleAtoms s)) (ptr 3 0x8000)
    AccessOpen (s.w.sreg 0) 64 (wantBox send) (settleAtoms s) (seen (ptr 3 0x8000) 64 (wantBox send) (settleAtoms s)) ∧
    readBox v (ptr 3 0x8000) = none ∧ CanTrap v ∧ v.w.runIdx.isSome = true ∧ v.w.cur.body = none := by
  unfold CanTrap
  cases send <;> exact ⟨accessOpen_of (by decide +kernel), by decide +kernel⟩

/-- `D` with two lanes that act: lane 0 addresses the start, lane 31 the last 16 bytes, of object 2 (and of the window, below its
end), through G2 and G4. -/
def L2 : State :=
  let s := { D with w := { D.w with
    paths := { D.w.cur with mask := 0x80000001 } :: D.w.paths.tail
    lanes := D.w.lanes.map fun (l : Lane) => if l.id = 31 then { l with g := ((l.g.set 2 0x1FFFF0).set 3 0x00200000).set 4 0xFFF0 }
      else { l with g := l.g.set 3 0x00200000 } } }
  { s with t := { s.t with priv := 65536, privObj := 4, params := List.replicate 2048 0 } }

/-- LoadInstructions, StoresIssue: 16 bytes of object 2 at both of its ends pass every check, plain and ordered. -/
theorem witness_LoadInstructions_global :
    copyConflict L2 (lanePtrs L2.w (.plain 0) (.g 2)) 16 false = false ∧ copyConflict L2 (lanePtrs L2.w (.plain 0) (.g 2)) 16 true = false ∧
    (∃ v xs, AllPass (fun k i => globalAcc k i (padd (opd64 k.w (k.w.lane i) (.g 2)) (MMode.offset k.w (.plain 0))) 16
      { wantLoad with align := 1 }) (lanesOf (beforeLoad L2 (.plain 0)).w.acting) (beforeLoad L2 (.plain 0)) v xs) ∧
    (∃ v xs, AllPass (fun k i => globalAcc k i (padd (opd64 k.w (k.w.lane i) (.g 2)) (MMode.offset k.w (.ordered .die))) 8
      { wantStore with align := 8 }) (lanesOf (beforeStore L2 (.ordered .die)).w.acting) (beforeStore L2 (.ordered .die)) v xs) :=
  ⟨by decide +kernel, by decide +kernel, allPass_of (by decide +kernel), allPass_of (by decide +kernel)⟩

/-- LoadInstructions, StoresIssue: the window at its start and at its last 16 bytes; a peer's window (the own rank); private
areas; a parameter at the end of the block. -/
theorem witness_LoadInstructions_windows :
    (let u := beforeLoad L2 (.plain 0)
     scoreboardHolds u (windowRanges u.t.id 16 ((lanesOf u.w.acting).map fun i => (addr32 u.w (.plain 0) (.g 4) i).toNat)) true = false ∧
     (∃ v xs, AllPass (fun k i => scratchAcc k i (addr32 u.w (.plain 0) (.g 4) i) 16 1 true) (lanesOf u.w.acting) u v xs) ∧
     peerAbsent u ((lanesOf u.w.acting).map fun i => addr32 u.w (.plain 0) (.g 4) i) = false ∧
     (∃ v xs, AllPass (fun k i => peerAcc k i (addr32 u.w (.plain 0) (.g 4) i) 16 1 true) (lanesOf u.w.acting) u v xs ∧
       scoreboardHolds u (peerRanges xs 16) true = false)) ∧
    (∃ v xs, AllPass (fun k i => privAcc k i (k.w.lane i).tid (addr32 k.w (.plain 0) (.g 4) i) 16 true)
      (lanesOf (settleAtoms L2).w.acting) (settleAtoms L2) v xs) ∧
    (∀ i, i < 32 → L2.w.acting.getLsbD i = true → (addr32 L2.w (.plain 8) (.g 1) i).toNat + 16 ≤ L2.t.params.length) :=
  ⟨⟨by decide +kernel, allPass_of (by decide +kernel), by decide +kernel, allPass_of' (by decide +kernel) (by decide +kernel)⟩,
    allPass_of (by decide +kernel), by decide +kernel⟩

/-- LoadInstructions: SLDG of eight bytes at the end of object 2. -/
theorem witness_LoadInstructions_scalar :
    (let u := settleAtoms (withS D [ptr 2 0x1FFFF8])
     copyConflict u [u.w.sreg 0] 8 false = false ∧ (globalAcc u 0 (u.w.sreg 0) 8 { wantLoad with align := 8 }).2.bad = none) := by
  decide +kernel

/-- StoresIssue: the wave is in no capsule body, or in one; the machine's memories are canonical. -/
theorem witness_StoresIssue :
    (beforeStore L2 (.plain 0)).w.cur.body = none ∧ (beforeStore L2 (.plain 0)).hand.isSome = true ∧ L2.MemCanonical ∧
    (let s := { L2 with w := { L2.w with paths := { L2.w.cur with body := some {} } :: L2.w.paths.tail } }
     (beforeStore s (.plain 0)).w.cur.body.isSome = true) := by
  unfold State.MemCanonical; decide +kernel

/-- StoresSeenAndHome: 16 bytes into an L1 that keeps its ways; an address of a package that is not lost, and no armed watch; a line whose page is there. -/
theorem witness_StoresSeenAndHome :
    (clean (List.replicate 16 7)).length ≤ 16 ∧ (D.core ⟨0, 0⟩).l1 = [] ∧ D.MemCanonical ∧ D.domain = [] ∧ (portServe D ⟨0, 0⟩ 0 (lineVa 63)).2 = .at_ (2 ^ 40 + 0x200000 + 64 * 63) ∧ isLost D (2 ^ 40) = false ∧ (∀ p ∈ D.parts, ∀ h ∈ p.hwatch, h.msb = false) :=
  ⟨by decide +kernel, by decide +kernel, by unfold State.MemCanonical; decide +kernel, by decide +kernel, by decide +kernel, by decide +kernel, quietD⟩

/-- Atomics: 32-bit operands at their bounds; both lanes' words pass every check, in memory, window and peer window. -/
theorem witness_Atomics :
    ((0xFFFFFFFF : W64).toNat < 2 ^ 32) ∧
    copyConflict L2 (lanePtrs L2.w (.ordered .team) (.g 2)) 8 true = false ∧
    (let u := (settleAtoms L2).escape
     (∃ v xs, AllPass (fun k i => globalAcc k i (opd64 k.w (k.w.lane i) (.g 2)) 8 { wantAtomic with align := 8 }) (lanesOf u.w.acting) u v xs) ∧
     scoreboardHolds u (windowRanges u.t.id 8 ((lanesOf u.w.acting).map fun i => (opd32 u.w (u.w.lane i) (.g 4)).toNat)) true = false ∧
     (∃ v xs, AllPass (fun k i => scratchAcc k i (opd32 u.w (u.w.lane i) (.g 4)) 8 8 true) (lanesOf u.w.acting) u v xs) ∧
     peerAbsent u ((lanesOf u.w.acting).map fun i => opd32 u.w (u.w.lane i) (.g 4)) = false ∧
     (∃ v xs, AllPass (fun k i => peerAcc k i (opd32 u.w (u.w.lane i) (.g 4)) 8 8 true) (lanesOf u.w.acting) u v xs ∧
       scoreboardHolds u (peerRanges xs 8) true = false) ∧ anyEnabled u.w 0x80000001 = false) :=
  ⟨by decide +kernel, by decide +kernel, allPass_of (by decide +kernel), by decide +kernel, allPass_of (by decide +kernel),
    by decide +kernel, allPass_of' (by decide +kernel) (by decide +kernel), by decide +kernel⟩

/-- TagTableInstructions: a team with a tag table, and one without. -/
theorem witness_TagTableInstructions :
    WT.t.tags = none ∧ CanTrap WT ∧
    (wt fun t => { t with tags := some { base := 0, sets := List.replicate 16 {} } }).t.tags = some { base := 0, sets := List.replicate 16 {} } := by
  unfold CanTrap; decide +kernel

/-- A wave with one access in flight. -/
def flying (p : Pend) : State := ww fun w => { w with pend := [p] }

/-- Completions: a load with a value, a store, and an atomic, in flight. -/
theorem witness_Completions :
    (let p : Pend := { flag := some 11, load := true, writes := [{ lane := 31, reg := 95, val := 7 }] }
     (flying p).wave (flying p).waveId = some (flying p).w ∧ (flying p).w.pend[0]? = some p ∧ p.load = true ∧ p.atoms = []) ∧
    (let p : Pend := { load := false }
     (flying p).wave (flying p).waveId = some (flying p).w ∧ (flying p).w.pend[0]? = some p ∧ p.load = false ∧ p.atoms = [] ∧ p.held = false) ∧
    (let p : Pend := { load := false, held := true }
     (flying p).wave (flying p).waveId = some (flying p).w ∧ (flying p).w.pend[0]? = some p) ∧
    (let p : Pend := { atoms := [{ lane := 0, place := .window 1, addr := 0, op := .add, w := .w32, val := 1 }] }
     (flying p).hand = some (flying p).waveId ∧ (flying p).w.pend[0]? = some p ∧ p.atoms ≠ []) := by decide +kernel

/-- NullPointerTrap: every lane's pointer names object 0. -/
theorem witness_NullPointerTrap :
    CanTrap WT ∧ WT.w.pend = [] ∧ WT.w.runIdx.isSome = true ∧ WT.w.cur.body = none ∧ WT.c.copies = [] ∧ (∀ e ∈ WT.w.paths, e.st ≠ .parked) ∧
    lowest WT.w.acting = some 0 ∧ WT.w.acting = WT.w.cur.mask ∧
    (∀ i, i < 32 → pObj (padd (opd64 WT.w (WT.w.lane i) (.g 2)) (imm32 WT.w 0).toInt) = 0) := by
  unfold CanTrap; decide +kernel

/-- SystemInstructions: in debug mode and out of it; no loop; a launch; a handler with a trapped register pair; service codes
at the bounds; blocked, and answered. -/
theorem witness_SystemInstructions :
    (D.part D.t.part = some part0 ∧ part0.debug = true) ∧ (W.part W.t.part = none ∧ CanTrap WT) ∧ W.w.mloop = none ∧
    (D.launch.isSome = true) ∧ W.t.resident = true ∧
    (∃ f, inTrap.w.frame = some f ∧ inTrap.w.inHandler = true ∧ f.dst = .none ∧ (63 : Fin 64).val + 0 ≤ inTrap.t.n) ∧
    (we fun e => { e with mask := 0 }).w.acting = 0 ∧ W.w.acting ≠ 0 ∧ W.w.cur.blocked = none ∧ W.w.runIdx.isSome = true ∧
    (3842 ≤ ((60 : BitVec 6) ++ (2 : BitVec 6)).toNat ∧ 3840 ≤ ((60 : BitVec 6) ++ (0 : BitVec 6)).toNat ∧
      ((60 : BitVec 6) ++ (1 : BitVec 6)).toNat < 3842) ∧
    (∀ d : Bool, (we fun e => { e with blocked := some { pc := e.pc, done := d } }).w.cur.blocked = some { pc := at_ 4, done := d }) := by
  refine ⟨by decide +kernel, by unfold CanTrap; decide +kernel, by decide +kernel, by decide +kernel, by decide +kernel, ?_, by decide +kernel⟩
  exact ⟨inTrap.w.frame.getD { paths := [], latches := [], trapped := 0, next := 0 }, by decide +kernel⟩

/-- A tile of zeros. -/
def zeroTile : Tile := { rows := List.replicate 64 (List.replicate 64 0) }
/-- `D` with four tiles of zeros, and its core's DUTY set. -/
def Z : State := { D with t := { D.t with tiles := List.replicate 4 zeroTile }, c := { D.c with duty := some 100 } }

/-- MatrixLoopsAndIssue: POLICY 0 on tile 0, POLICY 1 on all four with its area at the window's end, and a restarted loop. -/
theorem witness_MatrixLoopsAndIssue_loops :
    Z.w.used ≤ 1 ∧ Z.w.mloop = none ∧ Z.w.cur.clause.isSome = true ∧ Z.c.test = none ∧
    (let v : W64 := 1; v.toNat < 2 ^ 40 ∧ bitsOf v.toNat 19 8 = 0 ∧ v.toNat % 16 ≠ 0 ∧ bitsOf v.toNat 39 20 = 0 ∧ bitsOf v.toNat 4 4 = 0 ∧
      matrixForbidden Z [0] = false ∧ teamBusy Z [0] = false) ∧
    (let v : W64 := BitVec.ofNat 64 (0xFF + 0x1000 * 2 ^ 20)
     let snap := bitsOf v.toNat 39 20
     let s := wt fun t => { t with window := 0x1000 + 4 * snapBytes }
     v.toNat < 2 ^ 40 ∧ bitsOf v.toNat 19 8 = 0 ∧ v.toNat % 16 ≠ 0 ∧ snap % 256 = 0 ∧ bitsOf v.toNat 4 4 = 1 ∧ snap + 4 * snapBytes ≤ s.t.window ∧
     matrixForbidden s [0, 1, 2, 3] = false ∧ teamBusy s [0, 1, 2, 3] = false ∧ s.c.test = none ∧ copiesFor s = [] ∧ opsFor s = []) ∧
    (let s := ww fun w => { w with mloop := some { point := 0, tiles := 1, policy := 0, limit := 1, redirect := true } }
     ∃ l, s.w.mloop = some l ∧ l.redirect = true) :=
  ⟨by decide +kernel, by decide +kernel, by decide +kernel, by decide +kernel, by decide +kernel, by decide +kernel, _, rfl, rfl⟩

/-- Control word of a matrix instruction: all four tiles, 16 steps; and tile 3 alone with one step. -/
def mctl4 : W64 := 0xF3
def mctl1 : W64 := 0x0C
/-- A scratch descriptor of CF32 vectors a pitch of 64 bytes apart, and a B-store descriptor, both at their starts. -/
def asd : W64 := BitVec.ofNat 64 (64 * 2 ^ 40)
def bsd : W64 := BitVec.ofNat 64 (2 ^ 62 + 64 * 2 ^ 26)

/-- MatrixLoopsAndIssue: an MMA of one step on one tile, and an MMAG whose peer is the own rank. -/
theorem witness_MatrixLoopsAndIssue_issue :
    let bytes := ctlSteps mctl1 * Layout.k .cf32 * Layout.elemBytes .cf32
    ctlMalformed mctl1 true = false ∧ ctlMalformed mctl4 true = false ∧ sdMalformed asd false false = false ∧
    sdMalformed (asd ||| BitVec.ofNat 64 (2 ^ 61)) false true = false ∧ bdMalformed bsd [1] false = false ∧
    matrixForbidden Z ((regionOf mctl1).map (·.1)) = false ∧ firstOut Z.t.window (vecSpans asd (regionRows 0) bytes false) = none ∧
    firstOut (Z.t.share / 32) (colSpans bsd (regionCols 0 false) bytes false) = none ∧
    (∀ z ∈ regionOf mctl1, (Z.tile z.1).kind = Layout.kind .cf32) ∧ Z.c.test = none ∧ copiesFor Z = [] ∧
    (Z.gangTeam (sdRank asd)).isSome = true ∧ sdRank asd < Z.t.gangSize ∧ Z.t.resident = true ∧ Z.t.started = true := by
  decide +kernel

/-- A matrix instruction of two steps in the array, its first done or not. -/
def stepping (done : Nat) : State :=
  { Z with c := { Z.c with array := [{ team := Z.t.id, wave := 0, flag := none, layout := .cf32, zt := 0, shape := 0, steps := 2, done
                                       a := asd, b := bsd, aTeam := Z.t.id, lanes := 0x80000001 }] } }

/-- ArraySteps: the first step, and the last. -/
theorem witness_ArraySteps (done : Nat) (h : done < 2) :
    let s := stepping done
    let id : CoreId := ⟨0, 0⟩
    (s.core id).array.length = 1 ∧ (∀ o ∈ (s.core id).array, Core.arrayHeld (s.core id) s.clock o.stepAclk = false) ∧ s.t.bwait = false ∧
    s.team s.t.id = some { s.t with waves := s.w :: s.t.waves } ∧ s.t.ended = false ∧ s.t.xsinj.getLsbD 63 = false ∧ s.t.tiles.length = 4 ∧
    (∀ x ∈ s.t.tiles, x.rows.length = 64 ∧ ∀ r ∈ x.rows, r.length = 64) ∧ (∀ x ∈ s.t.tiles, x.kind = .fp32) ∧ zonesOk 0 0 = true ∧
    s.hand.isSome = true ∧ s.c.die = 0 ∧ s.c.num = 0 ∧ s.t.die = 0 ∧ s.t.core = 0 ∧ (done + 1 < 2 ∨ 2 ≤ done + 1) := by
  match done, h with
  | 0, _ => decide +kernel
  | 1, _ => decide +kernel

/-- SeamInstructions: no matrix instruction, and a duty window with room and one without; a tile with a SINGLE at its last element; an error entry, and none. -/
theorem witness_SeamInstructions :
    arrayBusy Z [0, 1, 2, 3] = false ∧ teamBusy Z [0, 1, 2, 3] = false ∧ checksFit Z 4 = true ∧
    checksFit { Z with c := { Z.c with dutyUsed := Z.c.dutyLimit } } 1 = false ∧ (Z.tile 0).outcome ≠ 2 ∧ Z.t.merrq = [] ∧
    (let s := wt fun t => { t with tiles := List.replicate 4 { zeroTile with outcome := 2, atRow := 63, atCol := 63 } }
     (s.tile 3).outcome = 2 ∧ (s.tile 3).atRow < 64 ∧ (s.tile 3).atCol < 64 ∧ 3 < s.t.tiles.length ∧ arrayBusy s [3] = false ∧
     teamBusy s [3] = false) ∧
    ((2 ^ 63 + 2 ^ 59 - 1 : W64).toNat < 2 ^ 59 + 2 ^ 63 ∧ 2 ^ 63 ≤ (2 ^ 63 : W64).toNat) := by decide +kernel

theorem getD_replicate {α : Type} (n : Nat) (x d : α) (i : Nat) : (List.replicate n x).getD i d = if i < n then x else d := by
  rw [List.getD_eq_getElem?_getD, List.getElem?_replicate]
  split <;> rfl

/-- The elements of a tile whose rows are zeros. -/
theorem zero_value (c r : List W64) (i j : Nat) : Tile.value { zeroTile with seamCol := c, seamRow := r } i j = fmtF32.dec 0 := by
  have h : ({ zeroTile with seamCol := c, seamRow := r } : Tile).elem i j = 0 := by
    have hr : (zeroTile.rows.getD i []).getD j 0 = 0 := by
      rw [show zeroTile.rows.getD i [] = if i < 64 then List.replicate 64 0 else [] from getD_replicate ..]
      split
      · rw [getD_replicate]; split <;> rfl
      · rfl
    exact congrArg BitVec.toNat hr
  simp only [Tile.value, h]
  rfl

/-- A line of zeros fails exactly where its prediction is 1, under the reset tolerance of CE16. -/
theorem zero_line : (lineFails 0x3A8000000F800000 (fmtF32.dec 0) (List.replicate 64 (fmtF32.dec 0))).1 = false ∧
    (lineFails 0x3A8000000F800000 (fmtF32.dec 0x3F800000) (List.replicate 64 (fmtF32.dec 0))).1 = true := by decide +kernel

theorem zero_lines (c r : List W64) (i : Nat) (w : W64) (hw : w = 0 ∨ w = 0x3F800000) :
    let t : Tile := { zeroTile with seamCol := c, seamRow := r }
    (lineFails 0x3A8000000F800000 (fmtF32.dec w.toNat) ((List.range 64).map (t.value i))).1 = decide (w ≠ 0) ∧
    (lineFails 0x3A8000000F800000 (fmtF32.dec w.toNat) ((List.range 64).map (t.value · i))).1 = decide (w ≠ 0) := by
  have h1 : (List.range 64).map (Tile.value { zeroTile with seamCol := c, seamRow := r } i) = List.replicate 64 (fmtF32.dec 0) := by
    simp only [funext (zero_value c r i)]; decide +kernel
  have h2 : (List.range 64).map (Tile.value { zeroTile with seamCol := c, seamRow := r } · i) = List.replicate 64 (fmtF32.dec 0) := by
    simp only [zero_value c r]; decide +kernel
  simp only [h1, h2]
  rcases hw with rfl | rfl
  · exact ⟨zero_line.1, zero_line.1⟩
  · exact ⟨zero_line.2, zero_line.2⟩

/-- PASS, SINGLE or MULTI, by the rows and columns that fail. -/
def outcomeOf : List Nat → List Nat → Nat | [], [] => 1 | [_], [_] => 2 | _, _ => 3

theorem check_outcome (t : Tile) (tol : W64) (x y : List Nat)
    (hx : (List.range 64).filter (fun i => (lineFails tol (t.kind.fmt.dec (t.seamCol.getD i 0).toNat) ((List.range t.kind.cols).map (t.value i))).1) = x)
    (hy : (List.range t.kind.cols).filter (fun j => (lineFails tol (t.kind.fmt.dec (t.seamRow.getD j 0).toNat) ((List.range 64).map (t.value · j))).1) = y) :
    (t.check tol).outcome = outcomeOf x y := by
  have hf : t.failing tol = (x, y) := Prod.ext hx hy
  unfold Tile.check
  rw [hf]
  clear hf hx hy
  match x, y with
  | [], [] => rfl
  | [], _ :: _ => rfl
  | [_], [] => rfl
  | [_], [_] => rfl
  | [_], _ :: _ :: _ => rfl
  | _ :: _ :: _, _ => rfl

/-- The check of a tile of zeros whose seams hold 0 and 1. -/
theorem zero_check (c r : List W64) (hc : ∀ i, c.getD i 0 = 0 ∨ c.getD i 0 = 0x3F800000) (hr : ∀ i, r.getD i 0 = 0 ∨ r.getD i 0 = 0x3F800000) :
    (Tile.check { zeroTile with seamCol := c, seamRow := r } 0x3A8000000F800000).outcome =
      outcomeOf ((List.range 64).filter fun i => decide (c.getD i 0 ≠ 0)) ((List.range 64).filter fun i => decide (r.getD i 0 ≠ 0)) := by
  have e1 : (List.range 64).filter (fun i => (lineFails 0x3A8000000F800000 (fmtF32.dec (c.getD i 0).toNat)
      ((List.range 64).map (Tile.value { zeroTile with seamCol := c, seamRow := r } i))).1) = (List.range 64).filter (fun i => decide (c.getD i 0 ≠ 0)) :=
    List.filter_congr fun i _ => (zero_lines c r i _ (hc i)).1
  have e2 : (List.range 64).filter (fun i => (lineFails 0x3A8000000F800000 (fmtF32.dec (r.getD i 0).toNat)
      ((List.range 64).map (Tile.value { zeroTile with seamCol := c, seamRow := r } · i))).1) = (List.range 64).filter (fun i => decide (r.getD i 0 ≠ 0)) :=
    List.filter_congr fun i _ => (zero_lines c r i _ (hr i)).2
  exact check_outcome _ _ _ _ e1 e2

/-- SeamInstructions: a tile that passes, one with a SINGLE at its last row and column, and one with MULTI. -/
theorem witness_SeamInstructions_check :
    (zeroTile.check 0x3A8000000F800000).outcome = 1 ∧
    (Tile.check { zeroTile with seamCol := List.replicate 63 0 ++ [0x3F800000], seamRow := List.replicate 63 0 ++ [0x3F800000] }
      0x3A8000000F800000).outcome = 2 ∧
    (Tile.check { zeroTile with seamCol := List.replicate 64 0x3F800000, seamRow := List.replicate 64 0 } 0x3A8000000F800000).outcome = 3 := by
  have out (l : List W64) (h : ∀ i, i < 64 → l.getD i 0 = 0 ∨ l.getD i 0 = 0x3F800000) (n : l.length = 64) (i : Nat) :
      l.getD i 0 = 0 ∨ l.getD i 0 = 0x3F800000 := by
    by_cases hi : i < 64
    · exact h i hi
    · exact .inl (by rw [List.getD_eq_default]; omega)
  refine ⟨?_, ?_, ?_⟩
  · exact (zero_check (List.replicate 64 0) (List.replicate 64 0) (out _ (by decide +kernel) rfl) (out _ (by decide +kernel) rfl)).trans (by decide +kernel)
  · exact (zero_check _ _ (out _ (by decide +kernel) rfl) (out _ (by decide +kernel) rfl)).trans (by decide +kernel)
  · exact (zero_check _ _ (out _ (by decide +kernel) rfl) (out _ (by decide +kernel) rfl)).trans (by decide +kernel)

/-- A tile after its check. -/
theorem tile_checked (s : State) (n : Nat) (h : n < s.t.tiles.length) :
    (checkTile s n).tile n = (s.tile n).check (s.t.xmtol.getD (s.tile n).sel 0) := by
  simp only [checkTile, noteCheck, State.setTile, State.perf]
  split <;> simp [State.tile, h]

/-- A check of one tile of the team as a list of checks. -/
theorem checkTiles_one (s : State) (n : Nat) (h : n < s.t.tiles.length) (rest : List Nat) :
    checkTiles s (n :: rest) = if ((s.tile n).check (s.t.xmtol.getD (s.tile n).sel 0)).outcome = 1 then checkTiles (checkTile s n) rest
      else (checkTile s n, some (n, ((s.tile n).check (s.t.xmtol.getD (s.tile n).sel 0)).outcome)) := by
  simp only [checkTiles, tile_checked s n h]

theorem checkMixed_own (p : Team) (s : State) (n : Nat) (h : n < s.t.tiles.length) : (checkMixed p s [(n, false)]).2 =
    if ((s.tile n).check (s.t.xmtol.getD (s.tile n).sel 0)).outcome = 1 then none
    else some (n, ((s.tile n).check (s.t.xmtol.getD (s.tile n).sel 0)).outcome, false) := by
  simp only [checkMixed, tile_checked s n h]
  split <;> rfl

theorem checkMixed_peer (p : Team) (s : State) (n : Nat) : (checkMixed p s [(n, true)]).2 =
    if ((p.tiles.getD n {}).check (s.t.xmtol.getD (p.tiles.getD n {}).sel 0)).outcome = 1 then none
    else some (n, ((p.tiles.getD n {}).check (s.t.xmtol.getD (p.tiles.getD n {}).sel 0)).outcome, true) := by
  simp only [checkMixed]
  split <;> rfl

/-- MatrixData: MZERO, MLOADZ from the window and from another tile, and MDRAIN, on one tile of which the lanes own all or only
the first rows. -/
theorem witness_MatrixData :
    Z.t.tiles.length = 4 ∧ Z.t.xsinj.getLsbD 63 = false ∧ ctlMalformed mctl1 false = false ∧ matrixForbidden Z [3] = false ∧
    arrayBusy Z [3] = false ∧ (checkTiles Z [3]).2 = none ∧ (checkTiles Z []).2 = none ∧ (checkTiles Z [0]).2 = none ∧
    (let ad : W64 := BitVec.ofNat 64 (256 * 2 ^ 40)
     sdMalformed ad false false = false ∧ firstOut Z.t.window (vecSpans ad (regionRows 0) 256 false) = none ∧ copiesFor Z = [] ∧ opsFor Z = [] ∧
     Z.t.scratchPoison = [] ∧ 64 * 4 ≤ sdVp ad) ∧
    ((0 : W64).toNat < 4 ∧ zonesOk 0 0 = true ∧ (∀ y ∈ regionTiles 0 0, y.1 ∉ (regionOf mctl1).map (·.1) ∧ (Z.tile y.1).kind = .fp32) ∧
      matrixForbidden Z [3, 0] = false ∧ arrayBusy Z [3, 0] = false) ∧
    (let dc := 12; dc < 2 ^ 15 ∧ bitsOf dc 12 11 ≤ 1 ∧ bitsOf dc 10 8 ≤ 5 ∧ bitsOf dc 7 4 = 0 ∧ zonesOk (ctlShape (BitVec.ofNat 64 (dc % 16)))
      (ctlZt (BitVec.ofNat 64 (dc % 16))) = true ∧ bitOf dc 13 = false ∧ bitOf dc 14 = false) ∧ Z.hand.isSome = true := by
  have h (n : Nat) (hn : n < 4) : (checkTiles Z [n]).2 = none := by
    have hz : Z.tile n = zeroTile := by match n, hn with | 0, _ => rfl | 1, _ => rfl | 2, _ => rfl | 3, _ => rfl
    rw [checkTiles_one Z n hn, hz, show Z.t.xmtol.getD zeroTile.sel 0 = 0x3A8000000F800000 from rfl, if_pos witness_SeamInstructions_check.1]
    rfl
  exact ⟨by decide +kernel, by decide +kernel, by decide +kernel, by decide +kernel, by decide +kernel, h 3 (by omega), rfl, h 0 (by omega),
    by decide +kernel, by decide +kernel, by decide +kernel, by decide +kernel⟩

/-- MatrixData: a peer's tile; a tile that fails, with a loop that may retry, with none, and a vector that can be taken. -/
theorem witness_MatrixData_fails :
    (let p : Team := { id := 9, rank := 1, gangSize := 2, resident := true, started := true, tiles := List.replicate 4 zeroTile }
     let s := { Z with t := { Z.t with gangSize := 2 }, teams := [p] }
     let b : W64 := 0x13
     b.toNat < 512 ∧ bitsOf b.toNat 3 2 = 0 ∧ zonesOk 0 (b.toNat % 4) = true ∧ bitsOf b.toNat 8 4 < s.t.gangSize ∧
     s.gangTeam (bitsOf b.toNat 8 4) = some p ∧ p.id ≠ s.t.id ∧ p.resident = true ∧ p.started = true ∧
     (p.tiles.getD 3 {}) = zeroTile) ∧
    (let bad : Tile := { zeroTile with seamCol := List.replicate 64 0x3F800000, seamRow := List.replicate 64 0 }
     let s := { Z with t := { Z.t with tiles := List.replicate 4 bad, xtvec := placeBase } }
     (checkTiles s [3]).2 = some (3, 3) ∧ s.w.mloop = none ∧ s.w.runIdx.isSome = true ∧ s.w.cur.body = none ∧ (∀ e ∈ s.w.paths, e.st ≠ .parked) ∧
     s.w.inHandler = false ∧ s.t.xtvec ≠ 0 ∧ (s.t.slotOf s.t.xtvec).isSome = true ∧
     (let l : MLoop := { point := 0, tiles := 8, policy := 0, limit := 1 }; l.tiles.testBit 3 = true ∧ l.retries < l.limit)) := by
  refine ⟨by decide +kernel, ?_, by decide +kernel⟩
  rw [checkTiles_one _ 3 (by decide +kernel)]
  have e := witness_SeamInstructions_check.2.2
  generalize hx : Tile.check _ _ = x at e
  have h : ∀ (a : State × Option (Nat × Nat)) (u : State), (if x.outcome = 1 then a else (u, some (3, x.outcome))).2 = some (3, 3) := by
    intro a u
    rw [if_neg (by omega), e]
  exact (congrArg (fun t : Tile => (if t.outcome = 1 then _ else (_, some (3, t.outcome))).2) hx).trans (h _ _)

/-- MatrixData: MLOADZ from a tile of the team, its own rank named or not, and from a peer's: the check of one tile of zeros of either
passes, and the duty window has room for them. -/
theorem witness_MatrixData_tiles :
    (checkMixed Z.t Z (byTile [(0, false)])).2 = none ∧
    (let p : Team := { id := 9, rank := 1, gangSize := 2, resident := true, started := true, tiles := List.replicate 4 zeroTile }
     (checkMixed p Z (byTile [(3, true)])).2 = none ∧ (p.tiles.getD 3 {}).kind = .fp32) ∧
    checksFit Z 2 = true ∧ bitsOf 0x03 8 4 < Z.t.gangSize ∧ (Z.gangTeam 0).map (·.id) = some Z.t.id := by
  refine ⟨?_, ⟨?_, rfl⟩, by decide +kernel, by decide +kernel, by decide +kernel⟩
  · rw [show byTile [(0, false)] = [(0, false)] from by decide, checkMixed_own _ Z 0 (by decide +kernel), show Z.tile 0 = zeroTile from rfl,
      show Z.t.xmtol.getD zeroTile.sel 0 = 0x3A8000000F800000 from rfl, if_pos witness_SeamInstructions_check.1]
  · rw [show byTile [(3, true)] = [(3, true)] from by decide, checkMixed_peer, show (List.replicate 4 zeroTile).getD 3 {} = zeroTile from rfl,
      show Z.t.xmtol.getD zeroTile.sel 0 = 0x3A8000000F800000 from rfl, if_pos witness_SeamInstructions_check.1]

/-- A tensor group of two vectors of 16 F32 elements in object 2, 64 bytes apart. -/
def tgroup : List W64 := [ptr 2 0x4000, BitVec.ofNat 64 (10 * 2 ^ 56 + 1 * 2 ^ 44 + 1 * 2 ^ 32 + 64), 0, 0]

/-- TileCopyIssue: a tensor of two vectors into the window, into the B store, out of the window by TSTORE, and as a multicast. -/
theorem witness_TileCopyIssue :
    let s := withS D tgroup
    tensorBad tgroup 0 = none ∧ tStride tgroup ≠ 0 ∧ copyCtlBad (.tcopy false) false s.t.gangSize 0 = false ∧
    copyCtlBad (.tcopy false) true s.t.gangSize 1 = false ∧ copyCtlBad (.tstore false) false s.t.gangSize (BitVec.ofNat 64 (10 * 2 ^ 32)) = false ∧
    copyCtlBad .tgather false s.t.gangSize 0x4000 = false ∧ sdMalformed asd false false = false ∧ bdMalformed bsd [1, 3] false = false ∧
    firstOut s.t.window (vecSpans asd 2 64 false) = none ∧ firstOut (s.t.share / 32) (colSpans bsd 2 64 false) = none ∧
    firstOut s.t.window [(0, 8)] = none ∧ firstOut s.t.window [(0x4000, 0x4000 + 4 * 2)] = none ∧
    (checkSpans s (copySpans (.tcopy false) 0 tgroup)).2 = none ∧ (checkSpans s (copySpans (.tstore false) (BitVec.ofNat 64 (10 * 2 ^ 32)) tgroup)).2 = none ∧
    (checkSpans s (copySpans (.tcopy false) 0 tgroup)).1.c.copies.length < 16 := by decide +kernel

/-- A copy in the core's queue. -/
def copying (st : CopyState) (op : CopyOp) (desc : W64) : State :=
  { D with c := { D.c with copies := [{ op, st, team := D.t.id, wave := 0, flag := none, desc, group := tgroup
                                        ctl := if op.outward then BitVec.ofNat 64 (10 * 2 ^ 32) else if 2 ≤ sdDest desc then 3 else 0 }] } }

/-- TileCopyEvents: copies that may begin, inward and outward; one with its writes performed; and a page that is absent. -/
theorem witness_TileCopyEvents :
    (∀ op : CopyOp, op = .tcopy false ∨ op = .tstore false → let s := copying .queued op asd
      startable s ⟨0, 0⟩ = some 0 ∧ (s.team s.t.id).isSome = true ∧
      (∀ k ∈ s.c.copies, firstFault s s.t.space (copyReads s.t k) false = none ∧ firstFault s s.t.space (copyWrites s.t k) true = none)) ∧
    (let s := { copying .queued (.tcopy false) asd with mem := [] }
     startable s ⟨0, 0⟩ = some 0 ∧ ∀ k ∈ s.c.copies, (firstFault s s.t.space (copyReads s.t k) false).isSome = true) ∧
    (let s := copying .writing (.tcopy false) asd
     (∀ k ∈ s.c.copies, k.st = .writing ∧ k.undecided s.t.gangSize = [] ∧ sdDest k.desc < 2 ∧ isB k.desc = false) ∧
     s.hand = some s.waveId ∧ s.coreId = ⟨0, 0⟩ ∧ s.c.die = 0 ∧ s.c.num = 0) := by
  refine ⟨?_, by decide +kernel, by decide +kernel⟩
  rintro op (rfl | rfl) <;> decide +kernel

/-- TileCopyEvents: a multicast with a receiver that lies resident and one that does not; a deferred fault at its delivery
point. -/
theorem witness_TileCopyEvents_delivery :
    (let p : Team := { id := 9, rank := 1, gangSize := 2, window := 65536 }
     let s := { copying .writing (.tcopy false) (asd ||| BitVec.ofNat 64 (2 ^ 63)) with t := { D.t with gangSize := 2 }, teams := [p] }
     ∀ k ∈ s.c.copies, 1 ∈ k.undecided s.t.gangSize ∧ gangOf s { s.t with waves := s.w :: s.t.waves } 1 = some p ∧ isB k.desc = false ∧
       firstOut p.window (vecSpans k.desc (tR k.group) 64 false) = none) ∧
    (let s := { WT with w := { WT.w with paths := { WT.w.cur with pc := at_ 0, clause := none } :: WT.w.paths.tail
                                         deferred := [{ cause := 33, detail := 11, addr := 0, pc := 0, region := 0, flag := none }] } }
     CanTrap s ∧ s.hand = some s.waveId ∧ s.w.cur.clause = none ∧ s.w.runIdx.isSome = true ∧ s.w.reports = [] ∧ s.w.cur.body = none ∧
     (∀ e ∈ s.w.paths, e.st ≠ .parked) ∧ s.t.isHeader s.w.cur.pc = true ∧ s.copiesReading = false ∧
     (match s.t.fetch s.w.cur.pc with | some (.ok (.clause e _ _ _ _)) => e | _ => false) = true) := by
  unfold CanTrap; decide +kernel

/-- The first eight words of a launch card of 32 threads in one team, under a parent scope. -/
def lwords (table parent : Nat) : List Nat := [0x0010000000000000, 0, 0, table, 32, 256, 0, parent * 65536]
def lcard (table parent : Nat) : List Byte := (lwords table parent).flatMap (leBytes 8) ++ List.replicate 192 0

/-- ENQ's card in object 2, after its checks. -/
def enqAt (s : State) : State := ((seen (ptr 2 0x20000) 256 { rights := [0], kinds := [0], align := 64 } (settleAtoms s)).release .pkg).escape

/-- Enqueue: a card in reach; a queue that is not a device queue; a legal card, an illegal one; room and none; a parent that
is open, and one that is free; a free scope. -/
theorem witness_Enqueue :
    (let s := withS (poke D 0x20000 (lwords 0 0)) [ptr 2 0x20000]
     AccessOpen (s.w.sreg 0) 256 { rights := [0], kinds := [0], align := 64 } (settleAtoms s)
       (seen (ptr 2 0x20000) 256 { rights := [0], kinds := [0], align := 64 } (settleAtoms s))) ∧
    (let r := enqAt (poke D 0x20000 (lwords 0 0))
     (r.queue 0 0).device = false ∧ (r.queue 0 1).device = true ∧ (r.queue 0 1).enable = true ∧
     deviceBytes r (ptr 2 0x20000) 256 = lcard 0 0 ∧ (examine r 0 (some 0x0020000000040000) (lcard 0 0)).1 = 0 ∧
     (examine r 0 (some 0x0020000000040000) (List.replicate 256 0)).1 ≠ 0 ∧ (r.queue 0 1).tail - (r.queue 0 1).head < (r.queue 0 1).cap ∧
     (r.scope 0 0).st = .open_ ∧ (r.scope 0 255).st ≠ .open_ ∧ r.part 0 = some part0 ∧ part0.scopes.findIdx? (·.st == .free) = some 2) ∧
    (let p := { part0 with queues := part0.queues.modify 1 fun q => { q with tail := q.cap } }
     (({ D with parts := [p] } : State).queue 0 1).cap ≤ (({ D with parts := [p] } : State).queue 0 1).tail - (({ D with parts := [p] } : State).queue 0 1).head) :=
  ⟨accessOpen_of (by decide +kernel), by decide +kernel, by decide +kernel⟩

/-- A chain of two slots in object 2 with `n` cards appended, and a card for it. -/
def chained (n : Nat) : State :=
  withS (poke (poke D 0x4000 [(ptr 2 0x6000).toNat, 2, n, 0, 0, 0, 0, 0]) 0x5000 [1 + 4 * 2 ^ 8, 0, 0, 0, 0, 0, 65535]) [ptr 2 0x4000, ptr 2 0x5000]

/-- ChainInstructions: a chain with room and its card in reach; a full chain; a card that counts in no scope, and one in scope 0. -/
theorem witness_ChainInstructions (n : Nat) (hn : n = 1 ∨ n = 2) :
    let s := chained n
    let u := seen (ptr 2 0x4000) 64 (wantObject true) (settleAtoms s)
    let v := seen (ptr 2 0x5000) 256 { rights := [0], kinds := [0], align := 256 } u
    let x := flushLine v (ptr 2 0x4000)
    AccessOpen (s.w.sreg 0) 64 (wantObject true) (settleAtoms s) u ∧ AccessOpen (s.w.sreg 1) 256 { rights := [0], kinds := [0], align := 256 } u v ∧
    chainLegal (homeWord x (ptr 2 0x4000) 1) = true ∧ homeWord x (ptr 2 0x4000) 2 - homeWord x (ptr 2 0x4000) 3 = n ∧
    chainCap (homeWord x (ptr 2 0x4000) 1) = 2 ∧ (D.scope 0 0).st = .open_ ∧ (D.scope 0 255).st ≠ .open_ := by
  rcases hn with rfl | rfl <;> exact ⟨accessOpen_of (by decide +kernel), accessOpen_of (by decide +kernel), by decide +kernel⟩

/-- `D` with scope 5 as given. -/
def inScope (f : FScope) : State := withS { D with parts := [{ part0 with scopes := part0.scopes.set 5 f }] } [5]

/-- FinishScopes: scope 5 open with and without outstanding work, closed, complete, and free; scopes that stand for the launch's
own; a full table. -/
theorem witness_FinishScopes :
    D.part D.t.part = some part0 ∧ namedScope (inScope {}) ((inScope {}).w.sreg 0) = some 5 ∧ namedScope D 65535 = some 1 ∧ namedScope D 255 = some 255 ∧
    ((inScope { st := .open_, owner := some D.t.id }).scope 0 5).st = .open_ ∧ part0.scopes.findIdx? (·.st == .free) = some 2 ∧
    (let p := { part0 with scopes := List.replicate 256 { st := .open_ } }; p.scopes.all (·.st != .free) = true) ∧
    (let s := inScope { st := .open_, count := 1 }
     (s.scope 0 5).count ≠ 0 ∧ (s.scope 0 5).parent = none ∧ subtree s.escape.advanceNR 0 5 = [5] ∧ (∀ l ∈ s.launches, l.part = 0 → l.scope ≠ 5)) ∧
    (let s := inScope { st := .open_, owner := some D.t.id }
     (s.scope 0 5).count = 0 ∧ (s.scope 0 5).done = false ∧ (s.scope 0 5).kind = .user ∧ s.lives D.t.id = true) ∧
    (let s := inScope { st := .closed }; (s.scope 0 5).st ≠ .open_ ∧ (s.scope 0 5).st ≠ .free) ∧
    (let s := inScope { st := .complete, done := true }
     s.w.cur.blocked = none ∧ (s.scope 0 5).st ≠ .free ∧ (s.scope 0 5).done = true ∧ (s.scope 0 5).kind = .user ∧
     (∀ l ∈ s.launch.toList, 5 ∉ ancestors s 0 l.scope 256)) ∧
    (inScope {}).w.sreg 1 = 0 := by decide +kernel

/-- Two lanes act with a capsule record each in object 2 (G0:G1) and a mailbox in object 3 (G2:G3). -/
def C2 : State :=
  let s := { D with w := { D.w with
    paths := { D.w.cur with mask := 0x80000001 } :: D.w.paths.tail
    lanes := D.w.lanes.map fun (l : Lane) => { l with g := (((l.g.set 0 (BitVec.ofNat 32 (0x4000 + 64 * l.id))).set 1 0x00200000).set 2 0x8000).set 3 0x00300000 } } }
  poke s 0x8000 [2 + 4 * 2 ^ 16]

/-- CapsuleInstructions: no lane holds a capsule; every check passes, with and without the mailbox; no lane is adopted, or a lane
is; none is owed a message. -/
theorem witness_CapsuleInstructions :
    C2.w.runIdx.isSome = true ∧ anyHolding C2.w = false ∧
    (∃ v xs, AllPass (capAcc true 0) (lanesOf (settleAtoms C2).w.acting) (settleAtoms C2) v xs) ∧
    (∃ v xs, AllPass (capAcc false 0) (lanesOf (settleAtoms C2).w.acting) (settleAtoms C2) v xs ∧
      ∀ i ∈ lanesOf (settleAtoms C2).w.acting, adoptable (settleAtoms C2) (groupPtr (settleAtoms C2).w i 0 0) = false) ∧
    (let u := settleAtoms C2
     C2.w.cur.blocked = none ∧ (∀ i, i < 32 → C2.w.cur.mask.getLsbD i = true → (u.w.lane i).adopted = false) ∧
     leavers ((committers u.w).foldl (commitOne true) u).w = 0 ∧ owed ((committers u.w).foldl (commitOne true) u).w = []) ∧
    AccessOpen (ptr 2 0x4000) 64 (wantObject false) (settleAtoms C2) (seen (ptr 2 0x4000) 64 (wantObject false) (settleAtoms C2)) :=
  ⟨by decide +kernel, by decide +kernel, allPass_of (by decide +kernel), allPass_of' (by decide +kernel) (by decide +kernel), by decide +kernel,
    accessOpen_of (by decide +kernel)⟩

/-- CapsuleInstructions: a STALLED record, whose lane goes to its resume address, a landed header; a lane that has adopted, in CAPE;
a lane that waits for its message. -/
theorem witness_CapsuleInstructions_adopt :
    (let s := { poke C2 0x4000 [2 * 2 ^ 20, (at_ 0).toNat] with w := { C2.w with paths := { C2.w.cur with mask := 1 } :: C2.w.paths.tail } }
     let p := groupPtr s.w 0 0 0
     let a := BitVec.ofNat 64 (homeWord s p 1)
     (lanesOf s.w.acting).find? (fun i => adoptable s (groupPtr s.w i 0 0)) = some 0 ∧ a.getLsbD 0 = false ∧ s.t.isHeader a = true ∧
     adopters s 0 a.toNat (64 - tableUse s s.coreId) (lanesOf s.w.acting) [] = [0] ∧ s.w.cur.mask &&& ~~~maskOf [0].contains = 0) ∧
    (let s := { C2 with w := { C2.w with
        xcapret := at_ 0, paths := { C2.w.cur with mask := 1 } :: C2.w.paths.tail
        lanes := C2.w.lanes.modify 0 fun l => { l with adopted := true, reserved := some 0 } } }
     leavers s.w ≠ 0 ∧ s.w.cur.mask &&& ~~~leavers s.w = 0 ∧ s.w.xcapret.getLsbD 0 = false ∧ s.t.isHeader s.w.xcapret = true ∧ committers s.w = []) ∧
    (let s := { C2 with w := { C2.w with lanes := C2.w.lanes.modify 31 fun l => { l with displaced := true, mail := ptr 3 0x8000 } } }
     owed ((owed s.w).foldl receiveOne s).w ≠ []) := by decide +kernel

/-- CapsuleLanes: lane 31 at a free record with room in the table; at a held one; a lane that owns its record, and one that does
not. -/
theorem witness_CapsuleLanes :
    C2.w.lanes.length = 32 ∧ C2.w.lanes.map (·.id) = List.range 32 ∧
    lockState (homeWord C2 (groupPtr C2.w 31 0 0) 0) = 0 ∧ tableUse C2 C2.coreId < 64 ∧
    lockState (homeWord (poke C2 (0x4000 + 64 * 31) [2 ^ 20]) (groupPtr C2.w 31 0 0) 0) ≠ 0 ∧
    (let s := { C2 with w := { C2.w with lanes := C2.w.lanes.modify 31 fun l => { l with holding := true, capPtr := ptr 2 0x4000 } } }
     let mine := homeWord (flushLine s (s.w.lane 31).capPtr) (s.w.lane 31).capPtr 0
     lockOwner mine ≠ 31 ∧ lockStep mine = (s.w.lane 31).capStep % 256) ∧
    (∀ t : BitVec 22, lockOwner (mkLock (t.toNat * 1024 + 31) 0 1 0) = t.toNat * 1024 + 31) := by
  refine ⟨by decide +kernel, by decide +kernel, by decide +kernel, by decide +kernel, by decide +kernel, by decide +kernel, ?_⟩
  intro t
  have h := t.isLt
  simp only [lockOwner, mkLock, bitsOf]
  omega

/-- `D` with its wave put back and the grant gone. -/
def Q : State := { D with granted := false }.putBack

/-- An instruction of a leader with a result that its umbra follows. -/
def result : Trail := .op { i := .rdtime 0, pc := at_ 4, tag := 0, queued := true, held := false, todo := false, fields := [], path := 0, region := at_ 0
                            writes := [], after := {} }

/-- `Q` with an umbra that has eight results of its leader to follow, and its leader held by a full queue or not. -/
def shadowed (n : Nat) : State :=
  let s := { D with granted := false }
  { s with w := { s.w with umbra := some { trail := List.replicate n result } } }.putBack

/-- Scheduling: schedulers 0 and 3 of core 0, with the wave of `D` and with none; a wave that is able, and one promoted; an umbra
whose leader is stalled; no opportunity; a wave passed over 4,096 times. -/
theorem witness_Scheduling :
    ((grantee Q ⟨0, 0⟩ 0).map fun g => (g.id, g.umbra, g.able)) = some (⟨1, 0⟩, false, true) ∧ (grantee Q ⟨0, 0⟩ 3).isNone = true ∧
    (cands Q ⟨0, 0⟩ 3).isEmpty = true ∧ Q.granted = false ∧ opportunity Q ⟨0, 0⟩ = true ∧ Q.hand = none ∧
    (Q.teams.find? (·.id == 1)).isSome = true ∧ (((Q.teams.find? (·.id == 1)).bind fun t => t.waves.find? (·.num == 0)).isSome = true) ∧
    ((cands Q ⟨0, 0⟩ 0).map fun y => (y.able, y.promoted)) = [(true, none)] ∧
    (let s := { D with granted := false, w := { D.w with promoted := some 5 } }.putBack
     ((cands s ⟨0, 0⟩ 0).map fun y => (y.able, y.promoted)) = [(true, some 5)]) ∧
    ((grantee (shadowed 64) ⟨0, 0⟩ 0).map fun g => (g.id, g.umbra, g.able)) = some (⟨1, 16⟩, true, true) ∧
    ((shadowed 64).wave ⟨1, 16⟩).isNone = true ∧ (shadowed 64).hand = none ∧
    (let s := { Q with cores := Q.cores.map fun (k : Core) => { k with hop := some (600, 1) } }
     opportunity s ⟨0, 0⟩ = false ∧ s.granted = false) ∧
    (let s := ww fun w => { w with ungranted := 4096 }
     s.hand = some s.waveId ∧ 4096 ≤ s.w.ungranted ∧ s.w.promoted = none) := by decide +kernel

/-- The wave blocked at a placed word until a deadline. -/
def blockedAt (word : Nat) (d : Option Nat) (key : Option (Nat × Nat) := none) (s : List W64 := []) : State :=
  let w := withSpace (State.reset.withFetchWord 32 word)
  withS { w with w := { w.w with paths := w.w.paths.map fun e => { e with blocked := some { pc := e.pc, deadline := d, key } } } } s

/-- ProgressEvents: fairness with another entry READY; starvation; a pending report. -/
theorem witness_ProgressEvents_entries :
    (let s := ww fun w => { w with xprog := 0x401, paths := { w.cur with fair := 0x400 } :: { st := .ready, pc := at_ 0, mask := 0 } :: List.replicate 6 {} }
     s.hand = some s.waveId ∧ s.w.fairDue = true ∧ s.w.reports = [] ∧ s.w.ext = none ∧ s.w.runIdx = some 0 ∧ s.w.oldestReady = some 1) ∧
    (let s := ww fun w => { w with xhang := 5, paths := w.cur :: { st := .ready, pc := at_ 0, mask := 1, starve := 5 } :: List.replicate 6 {} }
     (s.w.starved.getLast?).isSome = true ∧ W.w.starved = []) ∧
    (wt fun t => { t with resident := false }).t.resident = false ∧ (ww fun w => { w with inHandler := true }).w.inHandler = true ∧
    (let s := { WT with w := { WT.w with reports := [{ cause := 48, detail := 2, pc := 0, lanes := 1 }] } }
     CanTrap s ∧ s.w.ext = none ∧ s.w.runIdx.isSome = true ∧ (∃ r ∈ s.w.reports, r.async = false)) := by
  unfold CanTrap; decide +kernel

/-- ProgressEvents: a full spool whose only wave pushes; a barrier at which some lanes of the only wave wait, the others at a
join. -/
theorem witness_ProgressEvents_deadlocks :
    (let b := blockedAt 131263 none
     let s := { b with t := { b.t with spools := b.t.spools.set 0 { defined := true, cap := 1, tail := 1 } } }
     let t : Team := { s.t with waves := s.w :: s.t.waves }
     spoolDeadlock s t 0 = true ∧ s.t.reported.contains (false, 0) = false ∧ (s.t.spools.getD 0 {}).gang = false ∧ s.w.ended = false ∧
     spoolRole s t 0 [t.id] t s.w = 1 ∧ s.t.waves = []) ∧
    (let s := ww fun w => { w with paths := { w.cur with st := .waitJoin, wait := .bar 15, mask := 1 } :: { w.cur with st := .waitJoin, wait := .join, mask := 2 } :: List.replicate 6 {} }
     barDeadlock { s.t with waves := s.w :: s.t.waves } 15 = true ∧ s.t.reported.contains (true, 15) = false ∧ barStuck 15 s.w = true ∧ s.w.ended = false) := by
  decide +kernel

/-- ProgressEvents: blocked in WAITF, SLEEPT, SPOP and FSWAIT, with what each waits for. -/
theorem witness_ProgressEvents_blocked :
    (let s := blockedAt 8387005 none
     s.t.fetch (at_ 4) = some (.ok (.waitf 63 63)) ∧ s.w.cur.blocked.map (·.pc) = some (at_ 4) ∧ (∀ n, n < 12 → s.w.f.getD n 0 = 0)) ∧
    (let s := blockedAt 536871485 (some 1000)
     s.t.fetch (at_ 4) = some (.ok (.sleept true 0)) ∧ s.w.cur.blocked.bind (·.deadline) = some 1000) ∧
    (let b := blockedAt 131391 (some 1000) none [0, 65536]
     let s := { b with t := { b.t with spools := b.t.spools.set 0 { defined := true, cap := 1 } } }
     s.t.fetch (at_ 4) = some (.ok (.spop 0 1 0)) ∧ s.w.pend = [] ∧ ctlTmo (s.w.sreg 1) ≠ 0 ∧ s.t.spools[0]? = some { defined := true, cap := 1 } ∧
     popBad s (s.w.sreg 1) 0 = false ∧ s.t.resident = true) ∧
    (let s := blockedAt 570556781 (some 1000) (some (scopeKey 0 5)) [5]
     s.t.fetch (at_ 4) = some (.ok (.fswait true 4 1 0)) ∧ namedScope s (s.w.sreg 0) = some 5 ∧
     s.w.cur.blocked.bind (·.key) = some (scopeKey s.t.part 5) ∧ s.w.cur.blocked.map (·.done) = some false) := by decide +kernel

/-- ProgressEvents: blocked in MRECV on an empty mailbox. -/
theorem witness_ProgressEvents_mrecv :
    let s := poke (blockedAt 264895 (some 1000) none [0, ptr 3 0x8000, 65536]) 0x8000 [2 + 4 * 2 ^ 16]
    let late : State := { s with clock := max s.clock (3 * 1000) }
    let b : Box := { cap := 2, scope := .die, sent := 0, received := 0, dropped := 0 }
    s.t.fetch (at_ 4) = some (.ok (.mrecv 0 2 1)) ∧ s.w.pend = [] ∧ ctlTmo (s.w.sreg 2) ≠ 0 ∧
    BoxOpen false (s.w.sreg 1) (settleAtoms late) (boxState false b late) b ∧ (boxState false b late).w = s.w ∧
    (boxState false b late).clock = late.clock ∧ (boxState false b late).waits = s.waits ∧ b.held = 0 :=
  ⟨by decide +kernel, by decide +kernel, by decide +kernel,
    boxOpen_of (by decide +kernel) (by decide +kernel) (by decide +kernel), by decide +kernel⟩

/-- `D` with a bin of `n` threads, room for a second wave, and its launch counted. -/
def binned (n : Nat) : State :=
  { D with t := { D.t with w := 2, xbinage := 0, bins := [{ key := at_ 8, threads := (List.range n).map fun i => (BitVec.ofNat 32 i, [7], 0), carry := 1 }] } }

/-- TeamEvents: a bin of one thread, and one of more than 32; a team alone in its gang; a team that has ended. -/
theorem witness_TeamEvents (n : Nat) (hn : n = 1 ∨ n = 33) :
    (let s := binned n
     let t : Team := { s.t with waves := s.w :: s.t.waves }
     (s.launches.find? (·.id == t.launch)).isSome = true ∧ s.hand = some s.waveId ∧ s.w.num ≠ 1 ∧ t.freeWave = some 1 ∧ drawable t = some 0 ∧
     s.t.bins[0]?.isSome = true ∧ t.ending = none ∧
     (s.allTeams.filter fun x => x.launch == t.launch && x.gang == t.gang).map (·.id) = [t.id]) ∧
    (let w := { D.w with ended := true, paths := [] }
     let s := { D with w := w, t := { D.t with part := 0 } }.putBack
     s.hand = none ∧ (∀ t ∈ s.teams, endable s t = true ∧ t.ending = none ∧ t.id = 1 ∧ t.launch = 0 ∧ t.part = 0) ∧ s.teams.length = 1 ∧
     2 ≤ (s.scope 0 1).count ∧ (s.scope 0 1).done = false) := by
  rcases hn with rfl | rfl <;> decide +kernel

/-- TeamEvents: a leader with an umbra: at a mismatch its path, with no loop, with a loop at the region and with one elsewhere, a first and
a second difference, without a hem and with a landed one. -/
theorem witness_TeamEvents_mismatch (again : Bool) :
    let x : Umbra := { miss := if again then some (at_ 0, true) else none }
    let s := ww fun w => { w with umbra := some x, mloop := some { point := at_ 0, tiles := 1, policy := 0, limit := 1 } }
    s.w.umbra = some x ∧ (s.w.paths[0]?).isSome = true ∧ s.w.cur.st ≠ .free ∧ (x.miss = none ↔ again = false) ∧ s.w.hems = [] ∧
    teamBusy s [0] = false ∧ (∀ l, s.w.mloop = some l → l.point = at_ 0 ∧ l.point ≠ at_ 8) ∧ teamBusy (stepping 0) [0] = true ∧
    (s.t.slotOf (at_ 8)).isSome = true ∧ W.w.mloop = none := by
  cases again <;> decide +kernel

/-- A leader whose umbra comes to an operation that is to be compared, in the buffer or not, with the fields as given. -/
def submits (held todo : Bool) (f : List Nat) : State :=
  ww fun w =>
    let o : Follow := { i := .redg .rlx .die .w32 .add (.g 0) (.g 2), pc := w.cur.pc, tag := 1, queued := false, held, todo, fields := f, path := 0, region := w.cur.region, writes := [], after := {} }
    { w with umbra := (w.withUmbra).umbra.map fun u => { u with trail := [.op o] }, pend := [{ held }] }

/-- TeamEvents: an operation that the umbra submits, of equal and of other fields, buffered or not; one that needs no comparison; an
instruction that it executes itself; and a leader that waits to be compared. -/
theorem witness_TeamEvents_comparison :
    (∀ held : Bool, let s := submits held true []
      s.hand = some s.waveId ∧ s.w.umbraWork = true ∧ ∃ u, s.w.umbra.map Umbra.settled = some u ∧ ∃ o, u.trail = [.op o] ∧ o.todo = true ∧
        Instr.fields o.i (s.w.under u) ≠ o.fields) ∧
    (let s := submits true true (match (submits true true []).w.umbra with
       | some u => Instr.fields (.redg .rlx .die .w32 .add (.g 0) (.g 2)) ((submits true true []).w.under u) | none => [])
     ∃ u, s.w.umbra.map Umbra.settled = some u ∧ ∃ o, u.trail = [.op o] ∧ Instr.fields o.i (s.w.under u) = o.fields) ∧
    (let s := submits false false []; ∃ u, s.w.umbra.map Umbra.settled = some u ∧ ∃ o, u.trail = [.op o] ∧ o.todo = false) ∧
    (let s := ww fun w => { w with umbra := some { trail := [.own .nop (at_ 4)] } }
     ∃ u, s.w.umbra.map Umbra.settled = some u ∧ u.trail = [.own .nop (at_ 4)]) ∧
    (let s := ww fun w => { w.withUmbra with cmpWait := true }
     ∃ u, s.w.umbra.map Umbra.settled = some u ∧ u.trail = [] ∧ s.w.cmpWait = true ∧ ∃ i, s.t.fetch s.w.cur.pc = some (.ok i) ∧
       Instr.fields i (s.w.under u) = Instr.fields i s.w) := by
  refine ⟨?_, ⟨_, rfl, _, rfl, by decide +kernel⟩, ⟨_, rfl, _, rfl, rfl⟩, ⟨_, rfl, rfl⟩, ⟨_, rfl, rfl, rfl, .smovi (13 : Fin 64) 1000, by decide +kernel⟩⟩
  intro held
  cases held <;> exact ⟨by decide +kernel, by decide +kernel, _, rfl, _, rfl, rfl, by decide +kernel⟩

/-- PageEvents: a fault on an absent page of level 3, whose frame does not meet its table entry; an entry whose parks are answered
yes, and one declined; the services; a fill under way. -/
theorem witness_PageEvents :
    D.hand = some D.waveId ∧
    (let f : PageWait := { space := 0, page := 32, write := false, lanes := 1, addr := 0x200000, pc := 0 }
     let s := { D with faults := [f] }
     s.faults[0]? = some f ∧ (walkStop s.mem (f.page * 65536) [0, 1, 2, 3] (s.root f.space)) = (2, 2 ^ 40 + 0x12008, .absent) ∧
     0x10000400000 % 2 ^ pageBits 2 = 0 ∧ frameOk 0x10000400000 (2 ^ pageBits 2) = true ∧ 2 ^ 40 + 0x12008 + 8 ≤ 0x10000400000 ∧ isLost s (2 ^ 40 + 0x12008) = false) ∧
    (∀ b : Bool, let p : PageWait := { space := 0, page := 32, write := b, lanes := 1, addr := 0x200000, pc := at_ 4, answer := some b }
      let e : Entry := { st := .parked, pc := at_ 0, mask := 1, region := at_ 0, parks := [p] }
      let s := { WT with w := { WT.w with paths := WT.w.cur :: e :: List.replicate 6 {} } }
      s.w.paths[1]? = some e ∧ s.t.resident = true ∧ s.w.ext = none ∧ (∀ x ∈ e.parks, x.answer ≠ none) ∧ s.w.mloop = none ∧
      (b = true → ∀ x ∈ e.parks, x.answer = some true) ∧ (b = false → (firstDeclined e).isSome = true)) ∧
    (∀ n, n = 3840 ∨ n = 3841 → (blockedAt 7864819 none (some (serviceKey n))).w.cur.blocked.bind (·.key) = some (serviceKey n)) ∧
    (let x : Slot := { tag := at_ 0x4000, fill := true }
     let s := { D with t := { D.t with slots := D.t.slots.set 7 x } }
     s.t.slots[7]? = some x ∧ x.fill = true ∧ s.t.resident = true ∧ x.fault = none ∧ firstFault s s.t.space [(x.tag, 4096)] false = none) := by
  refine ⟨by decide +kernel, by decide +kernel, by decide +kernel, ?_, by decide +kernel⟩
  rintro n (rfl | rfl) <;> decide +kernel

/-- PageEvents: a range of 2 MiB to unmap, clean and not under migration; a page that is there, one under migration and a malformed one. -/
theorem witness_PageEvents_unmap :
    (D.MemCanonical ∧ (∀ p ∈ D.parts, ∀ h ∈ p.hwatch, h.msb = false)) ∧
    (D.lost = [] ∧ D.root 0 % 8 = 0 ∧ ((D.c :: D.cores).map fun k => (k.die, k.num)).Nodup ∧ (D.dies.map (·.num)).Nodup ∧
      (∀ k ∈ D.c :: D.cores, k.l1 = []) ∧ ∀ d ∈ D.dies, d.cc = []) ∧
    (∀ st : Nat, st = 0 ∨ st = 2 → let s := { D with mem := writeBytes D.mem (2 ^ 40 + 0x12000) (leBytes 8 (st * 2 ^ 62 + 2 ^ 52 + 2 ^ 40 + 0x200000 + 1)) }
      ((walkStop s.mem (0 * 65536) [0, 1, 2, 3] (s.root 0)).2.2 = .leaf 2 (st * 2 ^ 62 + 2 ^ 52 + 2 ^ 40 + 0x200000 + 1)) ∧
      bitsOf (st * 2 ^ 62 + 2 ^ 52 + 2 ^ 40 + 0x200000 + 1) 63 62 = st) ∧
    (let s := { D with mem := writeBytes D.mem (2 ^ 40 + 0x12000) (leBytes 8 3) }
     (walkStop s.mem (0 * 65536) [0, 1, 2, 3] (s.root 0)).2.2 = .malformed) := by
  refine ⟨⟨by unfold State.MemCanonical; decide +kernel, quietD⟩, by decide +kernel, ?_, by decide +kernel⟩
  rintro st (rfl | rfl) <;> decide +kernel

/-- PageEvents: a commit raise beyond the limits, to the limit, and above it within a quota and without one. -/
theorem witness_PageEvents_commit :
    (tableEntry D 0 2).map (·.comlim) = some 0x200000 ∧ (tableEntry D 0 2).map (·.reslim) = some 0x200000 ∧ (D.space 0).isSome = true ∧
    (D.launches.find? (·.id == D.t.launch)).isSome = true ∧ 0x200001 % 65536 ≠ 0 ∧ 0x200000 % 65536 = 0 ∧
    (let s := { D with mem := writeBytes D.mem (2 ^ 40 + 0x200000 + 0x40000 + 64 + 16) (leBytes 8 0x100000) }
     (tableEntry s 0 2).map (·.comlim) = some 0x100000 ∧ (tableEntry s 0 2).map (·.reslim) = some 0x200000) ∧
    (∀ l ∈ D.launches, cardWord l.card 8 % 2 ^ 32 < l.used + (0x200000 - 0x100000) / 65536) ∧
    (let c := List.replicate 64 0 ++ leBytes 8 16 ++ List.replicate 184 0; 0 + (0x200000 - 0x100000) / 65536 ≤ cardWord c 8 % 2 ^ 32) := by
  decide +kernel

/-- A launch whose card is `c`, in the window of queue 0, not placed yet. -/
def launchOf (c : List Byte) : Launch := { id := 7, part := 0, queue := 0, num := 0, card := c, scope := 1, host := true, table := 0x0020000000040000 }
/-- Nothing in hand: partition 0 with queue 0 at head 1, the launch of a card, and the teams given. -/
def P0 (c : List Byte) (ts : List Team) : State :=
  let s := withSpace State.reset
  { s with booted := true, launches := [launchOf c], teams := ts, clock := 300000, cores := [{ duty := some 100 }]
           parts := [{ part0 with queues := part0.queues.set 0 { base := 0x10000300000, cap := 8, enable := true, head := 1, tail := 1 } }] }
/-- A card of priority `n`. -/
def prioCard (n : Nat) : List Byte := ([0x0010000000000000, 0, 0, 0, 32, 256, 0, n * 32].flatMap (leBytes 8)) ++ List.replicate 192 0

/-- PlacementEvents: an entry of a host queue that is illegal (its table is 0), and one that is legal, with the window empty. -/
theorem witness_PlacementEvents_take :
    (∀ table : Nat, table = 0 ∨ table = 0x0020000000040000 →
      let s := P0 (prioCard 0) []
      let p := { part0 with queues := part0.queues.set 0 { base := 0x10000300000, cap := 8, enable := true, head := 0, tail := 1 } }
      let s := { s with launches := [], parts := [p], mem := writeBytes s.mem 0x10000300000 (lcard table 0) }
      let card := bytesOf (homeRead s (ringSlot (s.queue 0 0) 0) 256)
      s.hand = none ∧ s.part 0 = some p ∧ p.ready = true ∧ p.verok = true ∧ (s.queue 0 0).device = false ∧ (s.queue 0 0).enable = true ∧
      (s.queue 0 0).head < (s.queue 0 0).tail ∧ windowCards s 0 0 < 32 ∧
      ((examine s 0 none card).1 = if table = 0 then 3 else 0) ∧ cardParent card ≤ 255 ∧ (s.scope 0 (cardParent card)).st = .open_ ∧
      p.scopes.findIdx? (·.st == .free) = some 2) ∧
    (let x : Queue := { marks := [(3, 7)], tail := 3 }; x.marks.find? (fun m => x.head < m.1) = some (3, 7)) := by
  refine ⟨?_, by decide⟩
  rintro t (rfl | rfl) <;> decide +kernel

/-- PlacementEvents: a launch with a gang to place on core 1 of die 0, whose DUTY the start gives, slot 0, and no reload before it. -/
theorem witness_PlacementEvents_place :
    let s := P0 (prioCard 0) ((List.range 48).flatMap fun c => if c = 0 then [] else (List.range 4).map fun k => { id := 100 + 4 * c + k, core := c, slot := k, resident := true })
    let l := launchOf (prioCard 0)
    s.launches.find? (fun l => l.part == 0 && l.queue == 0 && l.num == 0 && !l.done) = some l ∧ l.nextGang = some 0 ∧ l.again = [] ∧
    mayPlace s l = true ∧ (∀ y ∈ s.launches, servedBefore y l = false) ∧ reloadFirst s 0 (cardPriority l.card) = false ∧
    placementOf s l = some [⟨0, 0⟩] ∧ slotFree s ⟨0, 0⟩ 3 = true ∧ (spaceFor s l.part l.table).isSome = true := by decide +kernel

/-- Every slot of die 0 holds a team of its own launch, of priority 0, but the launch that waits has priority 2. -/
def crowded (prio : Nat) : State :=
  let s := P0 (prioCard prio) ((List.range 192).map fun k => { id := 100 + k, core := k / 4, slot := k % 4, resident := true })
  { s with launches := { launchOf (prioCard 0) with id := 0, num := 0, done := true } :: s.launches, cores := [] }

/-- PlacementEvents: with every slot taken nothing can be placed; after 100 us a victim two levels below is chosen. -/
theorem witness_PlacementEvents_evict :
    let s := crowded 2
    let l := launchOf (prioCard 2)
    s.launches.find? (fun l => l.part == 0 && l.queue == 0 && l.num == 0 && !l.done) = some l ∧ mayPlace s l = true ∧
    placementOf s l = none ∧ l.since + 100000 ≤ s.now ∧ (∀ y ∈ s.teams, y.evict = none) ∧ (∀ y ∈ s.teams, ∀ z ∈ s.teams, y.id = z.id → y = z) ∧
    (victim s 0 (cardPriority l.card)).isSome = true := by decide +kernel

/-- PlacementEvents: a demand of two cores for a gang of two that no constellation takes. -/
theorem witness_PlacementEvents_demand (wanted : Bool) :
    let c := ([0x0010000000000000, 0, 0, 0, 32 + 1 * 2 ^ 32 + 1 * 2 ^ 48, 256].flatMap (leBytes 8)) ++ List.replicate 208 0
    let s := P0 c (if wanted then [{ id := 9, die := 0, core := 47, recorded := true }] else [])
    (∃ y ∈ s.launches, mayPlace s y = true ∧ placementOf s y = none ∧ 0 ∈ ((s.part y.part).map (·.dies)).getD [] ∧
      y.nextGang.map (launchGangSize y) = some [0, 47].length) ∧ [0, 47].Nodup ∧
    (∀ c ∈ [0, 47], c < 48 ∧ coreOpen s ⟨0, c⟩ = true ∧ (s.die 0).frozenAt = [] ∧ coreTeams s ⟨0, c⟩ = []) ∧
    reloadWants s 0 [0, 47] = wanted := by
  cases wanted <;> exact ⟨⟨launchOf _, List.mem_singleton_self _, by decide +kernel⟩, by decide +kernel, by decide +kernel⟩

/-- PlacementEvents: teams that may be evicted, reloaded into slot 3, swapped in and out, spilled and prefilled. -/
theorem witness_PlacementEvents_moves :
    (let t : Team := { id := 100, resident := true, evict := some 1000 }
     let s := P0 (prioCard 0) [t]
     s.team 100 = some t ∧ t.ending = none ∧ inFlight s t = false ∧ partlyArrived t = false ∧ (s.core ⟨0, 0⟩).spillDue = false ∧ t.shadow = false) ∧
    (let t : Team := { id := 100, recorded := true }
     let s := P0 (prioCard 0) [t]
     s.team 100 = some t ∧ waitsReload t = true ∧ slotFree s ⟨0, 0⟩ 3 = true ∧ mayReload s t ⟨0, 0⟩ = true ∧
     (List.range 4).find? (fun n => (s.teams.filter fun y => y.shadow && y.die == 0 && y.core == 0).all (·.slot != n)) = some 0) ∧
    (let t : Team := { id := 100, shadow := true }
     let s := { P0 (prioCard 0) [t] with cores := [{ spillDue := true }] }
     s.team 100 = some t ∧ t.resident = false ∧ (s.core ⟨0, 0⟩).spillDue = true ∧ (s.core ⟨0, 0⟩).exchange = [] ∧ (s.teams.map (·.id)).Nodup) ∧
    (let t : Team := { id := 100, shadow := true, share := 32768 }
     let s := P0 (prioCard 0) [t]
     s.team 100 = some t ∧ (s.core ⟨0, 0⟩).spillDue = false ∧ (∀ k ∈ s.cores, ∀ x ∈ k.l1, x.isDirty = false) ∧ (∀ d ∈ s.dies, ∀ x ∈ d.cc, x.isDirty = false) ∧
     (∀ y ∈ s.teams, ∀ w ∈ y.waves, ∀ l ∈ w.lanes, l.holding = false) ∧ t.share ≠ 0 ∧ t.slot < 4) ∧
    (let t : Team := { id := 100, resident := true, bwait := true }
     let s := { P0 (prioCard 0) [t] with cores := [{ spillDue := true, exchange := [0] }] }
     s.team 100 = some t ∧ (s.core ⟨0, 0⟩).exchange = [0] ∧ (s.core ⟨0, 0⟩).spillDue = true ∧ t.slot = 0) := by decide +kernel

/-- RegroupAndPowerEvents: a freeze of core 47's constellation that has an end; fillers beyond DUTY within 20 us of a fall, and long after; an
offset that is stepped, slewed forwards and slewed back; time that stands still for a slew, and time that goes on. -/
theorem witness_RegroupAndPowerEvents_times :
    (let d : Die := { num := 0, xfrzmax := 50, frozenAt := [(({ num := 0 } : Die).consId 47, 290000)] }
     let s := { P0 (prioCard 0) [] with dies := [d] }
     (s.die 0).xfrzmax.toNat % 2 ^ 32 ≠ 0 ∧ (s.die 0).frozenAt.find? (·.1 == (s.die 0).consId 47) = some ((s.die 0).consId 47, 290000)  ∧ s.teams = []) ∧
    (∀ late : Bool,
      let k : Core := { lastPart := some 0, duty := some 10, window := 0, fell := some (if late then 0 else 299000) }
      let s := { P0 (prioCard 0) [] with cores := [k] }
      k.array = [] ∧ k.dutyLimit < k.dutyUsed + 64 * (k.dutyLimit / 64 + 1) ∧ k.dutyUsed + 64 * (k.dutyLimit / 64 + 1) ≤ k.dutyLimit + k.windowAclk / 5 ∧
      ((∃ x ∈ s.cores, x.die = 0 ∧ ∃ at_, x.fell = some at_ ∧ s.clock ≤ at_ + 60000) ↔ late = false)) ∧
    (let s : State := { State.reset with nextTeam := 1 }
     s.everLocked = false ∧ (1000000 : Int) < 1000001 ∧ s.slow < 2) ∧
    (let s : State := { State.reset with slow := 3000, slowAt := 0 }
     2 ≤ s.slow ∧ s.slowAt ≤ s.clock) := by
  refine ⟨by decide +kernel, ?_, by decide +kernel, by decide +kernel⟩
  intro late
  cases late <;> refine ⟨rfl, by decide +kernel, by decide +kernel, ?_⟩
  · exact ⟨fun _ => rfl, fun _ => ⟨_, List.mem_singleton_self _, rfl, _, rfl, by decide +kernel⟩⟩
  · refine ⟨?_, fun h => Bool.noConfusion h⟩
    rintro ⟨x, hx, -, a, ha, hc⟩
    rw [List.mem_singleton.1 hx] at ha
    obtain rfl := Option.some.inj ha
    exact absurd hc (by decide +kernel)

/-- RegroupAndPowerEvents: the tests of an interval pass for a proposal; a request with GO set; a freeze that a team holds; a hop
and a held write; partition 0 holds the die. -/
theorem witness_RegroupAndPowerEvents_states :
    (let d : Die := { num := 0, sextant := [((0, 47), [9, 0, 0, 0])] }
     let s := { P0 (prioCard 0) [] with dies := [d] }
     let p := [0, 47] :: (List.range 46).map fun n => [n + 1]
     (s.die 0) = d ∧ d.demand = [] ∧ d.enabled = true ∧ proposalOk s 0 p = true ∧ sortCons p ≠ sortCons d.cons ∧
     (64 + d.hyst) * d.score d.cons ≤ 64 * d.score p ∧ d.score d.cons < d.score p ∧ affected (sortCons d.cons) (sortCons p) ≠ []) ∧
    (let d : Die := { num := 0, xregreq := 0x8000000000000000 }
     let s := { P0 (prioCard 0) [] with dies := [d] }
     2 ^ 63 ≤ (s.die 0).xregreq.toNat ∧ (s.die 0).demand = [] ∧ (s.partOfDie 0).map (·.num) = some 0) ∧
    (let t : Team := { id := 100, resident := true, waves := [{ num := 31 }], freezes := [⟨0, 47, 1⟩] }
     let s := P0 (prioCard 0) [t]
     dieWindow s 0 = true ∧ windowOpen s 0 = true ∧ (s.die 0).xregreq.toNat < 2 ^ 63 ∧ (∀ f ∈ t.freezes, f.count ≠ 0) ∧ (s.die 0).xfrzmax.toNat % 2 ^ 32 ≠ 0 ∧ t.freezeOf 0 ((s.die 0).consId 47) ≠ 0 ∧ lowestWave t = some 31) ∧
    (let d : Die := { num := 0, demand := [0, 47] }
     let s := fun (ts : List Team) => { P0 (prioCard 0) ts with dies := [d] }
     (s []).die 0 = d ∧ d.demand ≠ [] ∧ reloadWants (s []) 0 d.demand = false ∧ proposalOk (s []) 0 (gather d.cons d.demand) = true ∧
     affected (sortCons d.cons) (sortCons (gather d.cons d.demand)) ≠ [] ∧ reloadWants (s [{ id := 9, recorded := true }]) 0 d.demand = true) ∧
    (let d : Die := { num := 0, xregreq := BitVec.ofNat 64 (9 * 2 ^ 60 + 2 ^ 40 + 1 * 2 ^ 24 + 2 ^ 16 + 2) }
     let s := { P0 (prioCard 0) [{ id := 1, launch := 7, core := 0, resident := true, index := 1 }, { id := 2, launch := 7, core := 47, resident := true, index := 2 }] with dies := [d] }
     (s.die 0).demand = [] ∧ d.xregreq.msb = true ∧ (s.partOfDie 0).map (·.num) = some 0 ∧
     (judge s 0 0).1 = 1 ∧ affected (sortCons d.cons) (sortCons (judge s 0 0).2) ≠ []) ∧
    ({ num := 0, xfrzmax := 0 } : Die).xfrzmax.toNat % 2 ^ 32 = 0 ∧ ({ P0 (prioCard 0) [] with dies := [] } : State).cores.all (fun k => k.copies.isEmpty && k.l1.isEmpty) = true ∧
    (let k : Core := { lastPart := some 0, duty := some 100 }; k.lastPart = some 0 ∧ k.array = [] ∧ k.dutyUsed + 64 * 1 ≤ k.dutyLimit + k.windowAclk / 5 ∧
      k.dutyLimit + k.windowAclk / 5 < k.dutyUsed + 64 * 100000) ∧
    (let k : Core := { hop := some (300000, 0), clkHeld := some 1 }; k.hop = some (300000, 0) ∧ k.hop.isSome = true ∧ k.array = []) := by
  decide +kernel

/-- A bulk card: its operation, source, destination and length, with its regions. -/
def bulk (op src dst len : Nat) : List Byte :=
  ([op + 4 * 2 ^ 8, src, dst, len, 0, 0, 65535, 0, src, len, 0, 0, 0, 0, 0, 0, dst, len].flatMap (leBytes 8)) ++ List.replicate 112 0
/-- The chain at 0x4000 of object 2, of engine `e`, with one card taken or not. -/
def carded (e : Nat) (data : List Byte) (taken : Bool) : State :=
  let s := poke (P0 (prioCard 0) []) 0x4000 [(ptr 2 0x6000).toNat, 2 + e * 2 ^ 16, 1, if taken then 1 else 0]
  if taken then { s with cards := [{ key := 2 ^ 40 + 0x204000, chain := ptr 2 0x4000, space := 0, part := 0, num := 0, data, taken := true }] } else s

/-- CardEvents: a card that an engine takes; a chain whose turn it is not; a chain whose page is not there. -/
theorem witness_CardEvents_take :
    let s := carded 0 [] false
    (s.space 0).isSome = true ∧ homeAddr s 0 (ptr 2 0x4000) 0 = some (2 ^ 40 + 0x204000) ∧ chainLegal (chainWord s 0 0 (ptr 2 0x4000) 1) = true ∧
    chainWord s 0 0 (ptr 2 0x4000) 3 < chainWord s 0 0 (ptr 2 0x4000) 2 ∧ takenCards s (2 ^ 40 + 0x204000) < 4 ∧
    chainFault s 0 (ptr 2 0x4000) 0 false = none ∧ (chainFault s 0 (ptr 2 0x400000) 0 false).isSome = true ∧
    (let next : Card := { key := 2 ^ 40 + 0x204000, chain := ptr 2 0x4000, space := 0, part := 0, num := 0, taken := true }
     let other : Card := { next with key := 2 ^ 40 + 0x205000, taken := false }
     hasTurn s next = true ∧ hasTurn { s with cards := [other], cardTurns := [(2 ^ 40 + 0x204000, 9)] } next = false) := by
  refine ⟨by decide +kernel, by decide +kernel, by decide +kernel, by decide +kernel, by decide +kernel, by decide +kernel, by decide +kernel, rfl, ?_⟩
  have h : ownerDie (2 ^ 40 + 0x204000) = none ∧ ownerDie (2 ^ 40 + 0x205000) = none := by
    unfold ownerDie
    constructor <;> split <;> rfl
  simp only [hasTurn, takeable, List.all_cons, List.all_nil, Bool.and_true, cardDie, h, Option.getD_none]
  decide +kernel

/-- CardEvents: a COPY of 64 bytes that may start and passes its checks, and one of length 0; a FILL. -/
theorem witness_CardEvents_bulk :
    (∀ op, op = 1 ∨ op = 2 → let data := bulk op (ptr 2 0x10000).toNat (ptr 2 0x1FFFC0).toNat 64
      let s := carded 0 data true
      (∀ c ∈ s.cards, mayStart s c = true ∧ chainEngine s c = 0 ∧ c.fault = none ∧ cardOp c.data = op ∧ bulkRefusal c.data (op == 1) = none ∧
        c.progress = 0 ∧ c.poison = false ∧ cardLen c.data ≤ 64 - (cardDst c.data).toNat % 64 ∧
        cardCheck s c.space (cardSrc c.data) 64 false = true ∧ firstFault s c.space [(cardSrc c.data, 64)] false = none ∧
        cardLost s c.space (cardSrc c.data) 0 = false ∧ cardCheck s c.space (cardDst c.data) 64 true = true ∧
        firstFault s c.space [(cardDst c.data, 64)] true = none ∧ cardLost s c.space (cardDst c.data) 0 = false)) ∧
    bulkRefusal (bulk 1 0 0 0) true = some 0 := by
  refine ⟨?_, by decide +kernel⟩
  rintro op (rfl | rfl) <;> decide +kernel

/-- A service chain with a card of operation `op` over 64 bytes, or over none, a replica record at 2^40 + 2^21 * 3, and an object table
of one entry, with the right M, at the end of what space 0 maps. -/
def served (op len : Nat) : State :=
  let words := [op + 4 * 2 ^ 8, 0, 0x10000400000, len, 0x10000600000, 0, 65535, 0, 0, len, 0, 0, 0, 0, 0, 0, 0x10000400000, len]
  let c0 := carded 0 (words.flatMap (leBytes 8) ++ List.replicate 112 0) true
  let m := writeBytes c0.mem 0x100003FFFE0 (leBytes 8 0 ++ leBytes 8 0x200000 ++ leBytes 8 0x200000 ++ leBytes 8 (2 ^ 63 + 0x1F))
  { c0 with
    serviceChains := [2 ^ 40 + 0x204000], spaces := [{ num := 0, part := 0, table := 0x1FFFC0, root := 2 ^ 40 + 0x10000 }]
    mem := writeBytes (writeBytes m 0x10000600000 (leBytes 8 (1 + 1 * 16))) 0x10000600008 (leBytes 8 (2 ^ 40 + 0x200000) ++ leBytes 8 0x10000400000) }

/-- A walk through two tables to an entry of the third that is 0. -/
theorem walk_absent {m : Memory} {r a b va : Nat} (h0 : leNat (readBytes m (r + 8 * levelIndex 0 va) 8) = a + 1)
    (h1 : leNat (readBytes m (a + 8 * levelIndex 1 va) 8) = b + 1) (h2 : leNat (readBytes m (b + 8 * levelIndex 2 va) 8) = 0)
    (ha : ¬ (a + 1) % 2 = 0 ∧ bitOf (a + 1) 52 = false ∧ bitsOf (a + 1) 63 53 = 0 ∧ bitsOf (a + 1) 5 1 = 0 ∧ pteAddr (a + 1) = a ∧ a % tableAlign 1 = 0)
    (hb : ¬ (b + 1) % 2 = 0 ∧ bitOf (b + 1) 52 = false ∧ bitsOf (b + 1) 63 53 = 0 ∧ bitsOf (b + 1) 5 1 = 0 ∧ pteAddr (b + 1) = b ∧ b % tableAlign 2 = 0) :
    walk m r va = .absent := by
  simp [walk, walkFrom, h0, h1, h2, ha, hb]

/-- The one object that covers the page has the right M. -/
theorem served_withoutM (op : Nat) (h : op = 3 ∨ op = 4) : withoutM (served op 64) 0 0 (2 ^ 21) = false := by
  have hs : (served op 64).space 0 = some { num := 0, part := 0, table := 0x1FFFC0, root := 2 ^ 40 + 0x10000 } := by
    rcases h with rfl | rfl <;> decide +kernel
  have h0 : leNat (readBytes (served op 64).mem (2 ^ 40 + 0x10000) 8) = 2 ^ 40 + 0x11000 + 1 := by rcases h with rfl | rfl <;> decide +kernel
  have h1 : leNat (readBytes (served op 64).mem (2 ^ 40 + 0x11000) 8) = 2 ^ 40 + 0x12000 + 1 := by rcases h with rfl | rfl <;> decide +kernel
  have h2 : leNat (readBytes (served op 64).mem (2 ^ 40 + 0x12008) 8) = 0 := by rcases h with rfl | rfl <;> decide +kernel
  have hx : tableEntry (served op 64) 0 1 = some { space := 0, obj := 1, base := 0, reslim := 0x200000, comlim := 0x200000, ctl := 2 ^ 63 + 0x1F } := by
    rcases h with rfl | rfl <;> decide +kernel
  have none_ (i : Nat) (hi : i < 4094) : tableEntry (served op 64) 0 (i + 1 + 1) = none := by
    have i0 : levelIndex 0 (0x1FFFC0 + 32 * (i + 1 + 1)) = 0 := by simp only [levelIndex, bitsOf]; omega
    have i1 : levelIndex 1 (0x1FFFC0 + 32 * (i + 1 + 1)) = 0 := by simp only [levelIndex, bitsOf]; omega
    have i2 : levelIndex 2 (0x1FFFC0 + 32 * (i + 1 + 1)) = 1 := by simp only [levelIndex, bitsOf]; omega
    have hw : walk (served op 64).mem (2 ^ 40 + 0x10000) (0x1FFFC0 + 32 * (i + 1 + 1)) = .absent :=
      walk_absent (a := 2 ^ 40 + 0x11000) (b := 2 ^ 40 + 0x12000) (by rw [i0]; exact h0) (by rw [i1]; exact h1) (by rw [i2]; exact h2)
        (by decide +kernel) (by decide +kernel)
    simp only [tableEntry, hs, entryIn, devRead, show pAddr 0x1FFFC0 = 0x1FFFC0 from by decide, hw]
  have hr : List.range 4095 = 0 :: (List.range 4094).map (· + 1) := List.range_succ_eq_map
  have hf : (List.range 4095).filterMap (fun i => (tableEntry (served op 64) 0 (i + 1)).filter fun x => decide (x.base < 0 + 2 ^ 21) && decide (0 < x.base + x.reslim)) =
      [{ space := 0, obj := 1, base := 0, reslim := 0x200000, comlim := 0x200000, ctl := 2 ^ 63 + 0x1F }] := by
    rw [hr, List.filterMap_cons, hx, List.filterMap_map]
    have : (List.range 4094).filterMap ((fun i => (tableEntry (served op 64) 0 (i + 1)).filter fun x => decide (x.base < 0 + 2 ^ 21) && decide (0 < x.base + x.reslim)) ∘ (· + 1)) = [] :=
      List.filterMap_eq_nil_iff.2 fun i hi => by
        simp only [Function.comp_apply, none_ i (List.mem_range.1 hi), Option.filter_none]
    rw [this]
    rfl
  unfold withoutM
  rw [hf]
  decide

/-- CardEvents: MIGRATE and REPLICATE on a service chain, of the 2 MiB page of space 0; of no length; on a chain that is not one;
and of a range that no region covers. -/
theorem witness_CardEvents_service :
    (∀ op, op = 3 ∨ op = 4 →
      (∀ c ∈ (served op 64).cards, mayStart (served op 64) c = true ∧ chainEngine (served op 64) c = 0 ∧ cardOp c.data = op ∧ c.started = false ∧
        serviceRefusal (served op 64) c = none ∧ (served op 64).serviceChains.contains c.key = true ∧ cardIllegal c.data = false ∧ c.space = 0 ∧
        cardLeaf (served op 64) c = some (2, 2 ^ 40 + 0x12000, 2 ^ 52 + 2 ^ 40 + 0x200000 + 1) ∧ isLost (served op 64) (2 ^ 40 + 0x12000) = false ∧
        (cardDst c.data).toNat % 2 ^ 21 = 0 ∧ frameOk (cardDst c.data).toNat (2 ^ 21) = true ∧
        recordOk (served op 64).mem 0x10000600000 (2 ^ 21) = true ∧ ownerFrame (served op 64).mem 0x10000600000 0 21 = 2 ^ 40 + 0x200000) ∧
      withoutM (served op 64) 0 0 (2 ^ 21) = false ∧
      (∀ c ∈ (served op 0).cards, serviceRefusal (served op 0) c = some 0) ∧
      cardLeaf { served op 64 with mem := [] } { key := 0, chain := 0, space := 0, part := 0, num := 0 } = none) ∧
    (∀ c ∈ (carded 0 (bulk 3 0 0 0) true).cards, (carded 0 [] true).serviceChains.contains c.key = false ∧ c.started = false) ∧
    covered (bulk 3 0 0 32) false 0 64 = false := by
  refine ⟨fun op h => ⟨?_, served_withoutM op h, ?_, by rcases h with rfl | rfl <;> decide +kernel⟩, by decide +kernel, by decide +kernel⟩ <;>
  rcases h with rfl | rfl <;> decide +kernel

/-- CardEvents: the second phase of a MIGRATE; a completed card that counts in no scope, and in one. -/
theorem witness_CardEvents_completion :
    (let e := 2 ^ 52 + 2 ^ 63 + 2 ^ 40 + 0x200000 + 1
     bitsOf e 63 62 = 2 ∧ 0x10000400000 + 2 ^ 21 ≤ 0x10000600000 ∧ 2 ^ 40 + 0x12000 + 8 ≤ 0x10000400000) ∧
    (let c : Card := { key := 2 ^ 40 + 0x204000, chain := ptr 2 0x4000, space := 0, part := 0, num := 0, data := bulk 1 0 0 0, taken := true, status := some 0 }
     let s := { carded 0 [] true with cards := [c] }
     s.cards = [c] ∧ chainFault s c.space c.chain c.num true = none ∧ (chainFault { s with mem := [] } c.space c.chain c.num true).isSome = true ∧
     c.finished = false ∧ cardEvent c.data = false ∧ chainWord s 0 0 c.chain 4 = c.num ∧ 2 ≤ (s.scope 0 1).count ∧ (s.scope 0 1).done = false) := by
  decide +kernel

/-- Collectives: an ALLREDUCE card on a collective chain that may start, with its handle and without; sixteen that run; inputs that are the
same card of the group, with a mark that agrees and with one that does not; a chunk that is new, of the length that its offset asks for and
of another, and one that has come. The members of a group are the configuration's (DESIGN CHOICE, log 23). -/
theorem witness_Collectives :
    (∀ handle : Bool,
      let s := carded 1 ((([16 + 4 * 2 ^ 8, (ptr 2 0x10000).toNat, (ptr 2 0x1FFFC0).toNat, 64, 2 * 2 ^ 8, if handle then 7 * 2 ^ 60 else 0] ++
        [65535, 0, (ptr 2 0x10000).toNat, 64, 0, 0, 0, 0, 0, 0, (ptr 2 0x1FFFC0).toNat, 64]).flatMap (leBytes 8)) ++ List.replicate 112 0) true
      collectivesRunning s < 16 ∧ ∀ c ∈ s.cards, cardOp c.data = 16 ∧ chainEngine s c = 1 ∧ mayStart s c = true ∧ c.fault = none ∧ c.taken = true ∧
        c.finished = false ∧ c.got = [] ∧ c.kth = 0 ∧ cardIllegal c.data = false ∧ (cardGroup c.data).isSome = handle ∧ opTy c.data = some .i32 ∧
        collectiveBad 16 2 c.data = false ∧ covered c.data false (cardSrc c.data) 64 = true ∧ cardCheck s c.space (cardSrc c.data) 64 false = true ∧
        firstFault s c.space [(cardSrc c.data, 64)] false = none ∧ cardLost s c.space (cardSrc c.data) 0 = false ∧
        covered c.data true (cardDst c.data) 64 = true ∧ cardCheck s c.space (cardDst c.data) 64 true = true ∧
        firstFault s c.space [(cardDst c.data, 64)] true = none ∧ cardLost s c.space (cardDst c.data) 0 = false ∧
        destBytes 16 2 64 = 64 ∧ (∃ x : Matched, x.kth = c.kth ∧ x.op = 16 ∧ x.len = 64 ∧ x.word = cardWord c.data 4 ∧ x.handle = cardWord c.data 5) ∧
        (∃ x : Matched, x.kth = c.kth ∧ x.len ≠ 64) ∧ (∃ x : Matched, x.kth ≠ c.kth) ∧ chunkLen c.data 2 0 = some 64 ∧ chunkLen c.data 2 1 = none) ∧
    (let s := carded 1 (bulk 16 0 0 0) true
     let c : Card := { key := 2 ^ 40 + 0x204000, chain := ptr 2 0x4000, space := 0, part := 0, num := 1, data := [], taken := true, started := true }
     16 ≤ collectivesRunning { s with cards := s.cards ++ List.replicate 16 c } ∧ ∀ c ∈ s.cards, c.started = false) ∧
    (let c : Card := { key := 0, chain := 0, space := 0, part := 0, num := 0, taken := true, got := [(1, 64, [])] }
     ∃ g ∈ c.got, g.1 = 1 ∧ g.2.1 = 64) := by
  refine ⟨?_, by decide +kernel, (1, 64, []), List.mem_singleton_self _, rfl, rfl⟩
  intro handle s
  refine ⟨by cases handle <;> decide +kernel, fun c hc => ?_⟩
  obtain rfl := List.mem_singleton.1 hc
  refine ⟨?_, ?_, ?_, rfl, rfl, rfl, rfl, rfl, ?_, ?_, ?_, ?_, ?_, ?_, ?_, ?_, ?_, ?_, ?_, ?_, rfl, ⟨⟨0, 16, _, _, 64, []⟩, rfl, rfl, rfl, rfl, rfl⟩,
    ⟨⟨0, 16, 0, 0, 0, []⟩, rfl, by decide⟩, ⟨⟨1, 16, 0, 0, 0, []⟩, fun h => Nat.one_ne_zero h⟩, ?_, ?_⟩ <;> cases handle <;> decide +kernel

/-- The package after reset with port 23 in a state. -/
def linked (l : Link) : State := { State.reset with links := State.reset.links.set 23 l }

/-- FabricEvents: port 23 in each state of a link; its eighth NAK; a flit in sequence at the wrap, a duplicate and an early one; a retrain
that failed for the third time within 1 s. -/
theorem witness_FabricEvents_links :
    State.reset.links.length = 24 ∧ (∀ st : LinkState, ((linked { st }).link 23).st = st) ∧
    (let l : Link := { st := .active, naks := 7, rx := 4095 }
     7 ≤ ((linked l).link 23).naks ∧ ((linked l).link 23).rx < 4096 ∧ l.queue = [] ∧
     (0 + 4096 - l.rx) % 4096 = 1 ∧ (1 + 4096 - l.rx) % 4096 = 2 ∧ (4095 + 4096 - l.rx) % 4096 = 0 ∧ (2048 + 4096 - l.rx) % 4096 = 2049) ∧
    ((linked { st := .active }).link 23).naks < 7 ∧ 255 % 256 = 255 ∧ 15 % 16 = 15 ∧ 0x10 ≤ 0x11 ∧
    (let l : Link := { st := .retrain, retries := [70000000, 0] }
     2 ≤ (((linked l).link 23).retries.filter fun t => max State.reset.clock (((linked l).link 23).since + 75000000) ≤ t + 3000000000).length) := by
  refine ⟨by decide +kernel, ?_, by decide +kernel, by decide +kernel, rfl, rfl, by decide, by decide +kernel⟩
  intro st
  cases st <;> decide +kernel

/-- FabricEvents: no port ACTIVE towards a package; a first failure of a bridge's flit, one of another flit, and the eighth. -/
theorem witness_FabricEvents_lost :
    (∀ dst, ∀ p ∈ Config.routePorts dst, (State.reset.link p).st ≠ .active) ∧
    (∀ n, (({ State.reset with bridges := State.reset.bridges.set 19 (3, n) } : State).bridges[19]? = some (3, n))) ∧
    (let s : State := { State.reset with domain := [5], cut := [(5, 0)] }
     s.domain.contains (bitsOf (5 * 2 ^ 44) 51 44) = true ∧ 5 ∈ s.domain ∧ s.cut.find? (·.1 == 5) = some (5, 0) ∧ s.cut.find? (·.1 == 6) = none) := by
  refine ⟨?_, ?_, by decide +kernel⟩
  · intro dst p _
    have h : State.reset.link p = {} := by
      simp only [State.link, State.reset, List.getD_eq_getElem?_getD, List.getElem?_replicate]
      split <;> rfl
    rw [h]
    decide
  · intro n
    exact List.getElem?_set_self (by decide)

/-- The lane of an address whose line bits are 0. -/
theorem hashLane_package (n : Nat) : hashLane (n * 2 ^ 44) = 0 := by
  have a : bitsOf (n * 2 ^ 44) 9 6 = 0 ∧ bitsOf (n * 2 ^ 44) 13 10 = 0 ∧ bitsOf (n * 2 ^ 44) 17 14 = 0 ∧ bitsOf (n * 2 ^ 44) 21 18 = 0 := by
    simp only [bitsOf]; omega
  simp only [hashLane, a]
  rfl

/-- FabricEvents: a message for this package: in order, performed before, and early; an acknowledgement. -/
theorem witness_FabricEvents_messages (n : Nat) (h : n = 0 ∨ n = 5 ∨ n = 2 ^ 32 - 1) :
    let m : RemoteMsg := { src := 1, lane := 0, seq := n, dst := Config.packageNumber.toNat, addr := Config.packageNumber.toNat * 2 ^ 44, req := .write [] }
    m.dst = Config.packageNumber.toNat ∧ bitsOf m.addr 51 44 = Config.packageNumber.toNat ∧ m.seq < 2 ^ 32 ∧ State.reset.early = [] ∧
    nextSeq State.reset m.src m.lane = 0 ∧ m.lane = hashLane m.addr ∧ ({ m with lane := 1 } : RemoteMsg).lane ≠ hashLane m.addr ∧
    heldByReset State.reset m = false ∧ (∀ q, m.req ≠ .ack q) ∧ ({ m with req := .ack 3 } : RemoteMsg).req = .ack 3 := by
  have hp := Config.packageNumber.isLt
  have hh := hashLane_package Config.packageNumber.toNat
  refine ⟨rfl, ?_, ?_, rfl, rfl, hh.symm, fun h => Nat.one_ne_zero (h.trans hh), rfl, by simp, rfl⟩
  · clear hh; simp only [bitsOf]; omega
  · rcases h with rfl | rfl | rfl <;> decide

/-- The first byte of stack 0 of a package. -/
theorem stack0_package (n : Nat) (h : n < 2 ^ 8) : bitsOf (n * 2 ^ 44) 51 36 = n * 256 + 0 ∧ n * 2 ^ 44 / 256 % 8 = 0 / 32000 % 8 := by
  simp only [bitsOf]; omega

/-- ReliabilityEvents: a resident team in the block found wrong; units that exist; a test of the array with and without spares
used; a stack before its first burst, and one burst later, hot and cool. -/
theorem witness_ReliabilityEvents :
    (let a : ErrorAt := { block := .scratchpad, core := ⟨0, 47⟩, slot := 3, wave := 0, lane := 0, pos := 64 }
     let t : Team := { id := 100, core := 47, slot := 3, resident := true }
     let s := P0 (prioCard 0) [t]
     s.hand = none ∧ a.core.die < 8 ∧ a.core.core < 48 ∧ teamAt s a false = some t ∧ (s.teams.map (·.id)).Nodup ∧
     errorUnitOk a = true ∧ errorUnitOk { a with block := .homeCache, core := ⟨7, 15⟩ } = true) ∧
    (let x : Test := { at_ := { block := .array, core := ⟨7, 47⟩, slot := 0, wave := 0, lane := 0, pos := 0 }, kind := 0, time := 0 }
     let k : Core := { die := 7, num := 47, test := some x, spareRow := true, spareCol := true }
     ({ State.reset with cores := [k] } : State).core ⟨7, 47⟩ = k ∧ k.test = some x ∧ x.at_.core = ⟨7, 47⟩ ∧ x.at_.block = .array ∧
     x.finds [] = [] ∧ x.finds [(0, 0)] = [(0, 0)] ∧ x.finds [(32, 0)] = [(32, 0)] ∧ x.finds [(5, 5)] = []) ∧
    (∃ x, State.reset.hbmStacks[15]? = some x ∧ x.bursts = 0 ∧ (256 / 256 % 8 ≠ x.bursts / 32000 % 8)) ∧
    (∃ pa, bitsOf pa 51 36 = Config.packageNumber.toNat * 256 + 0 ∧ pa / 256 % 8 = 0 / 32000 % 8) ∧
    (∃ x, ({ State.reset with hbmStacks := State.reset.hbmStacks.modify 0 fun x => { x with bursts := 1, hot := true } } : State).hbmStacks[0]? = some x ∧
      x.bursts ≠ 0 ∧ 1499 < x.lastBurst + (if x.hot then 1500 else 3000) ∧ x.lastBurst + (if x.hot then 1500 else 3000) ≤ 1500) ∧
    (85 : Int) < 86 ∧ (82 : Int) < 83 ∧ (83 : Int) ≤ 85 ∧ (82 : Int) ≤ 82 :=
  ⟨by decide +kernel, by decide +kernel, ⟨_, rfl, by decide +kernel⟩, ⟨_, stack0_package _ Config.packageNumber.isLt⟩,
    ⟨_, rfl, by decide +kernel⟩, by decide⟩

/-- A machine with one partition and no wave in hand. -/
def one (p : Part) : State := { State.reset with booted := true, parts := [p] }

/-- EventRing: room at the last slot; no room; 1,024 held with none lost and with some; the host consumes one entry, where one can then go
out of the 1,024 that are held, or none. -/
theorem witness_EventRing :
    (let p := { part0 with evsize := 64, evprod := 63 }
     Memory.wf (one p).mem = true ∧ (one p).part 0 = some p ∧ p.hostver ≠ 0x10 ∧ p.evsize = 2 ^ 6 ∧ p.evprod + 1 ≤ p.evcons + p.evsize ∧
     p.evbuf = [] ∧ p.evlost = 0) ∧
    (let p := { part0 with evsize := 64, evprod := 64 }
     (one p).part 0 = some p ∧ p.evcons + p.evsize < p.evprod + 1 ∧ p.evbuf.length < 1024) ∧
    (let e : Event := { type := 1, detail := 0, data := 0, time := 0 }
     let p := { part0 with evprod := 64, evbuf := List.replicate 1024 e }
     (one p).part 0 = some p ∧ 1024 ≤ p.evbuf.length) ∧
    (let e : Event := { type := 1, detail := 0, data := 0, time := 0 }
     let p := { part0 with evsize := 64, evprod := 64, evbuf := e :: List.replicate 1023 e, evlost := 3 }
     (one p).part 0 = some p ∧ p.verok = true ∧ p.resetting = false ∧ p.evcons ≤ (1 : W64).toNat ∧ (1 : W64).toNat ≤ p.evprod ∧
     p.evprod + 1 = (1 : W64).toNat + p.evsize ∧ p.evsize = 2 ^ 6 ∧ e.free = none ∧ p.evlost ≠ 0 ∧ p.evbuf.length = 1024 ∧
     p.evcons ≤ (0 : W64).toNat ∧ (0 : W64).toNat + p.evsize ≤ p.evprod) := by
  refine ⟨?_, ?_, ?_, ?_⟩ <;> decide +kernel

/-- HostEvents: the window open and shut; tails equal, behind, too far, and at the limit; a device queue; event counts at
their bounds; scopes free, open, done. -/
theorem witness_HostEvents_window :
    (let s := one part0
     Memory.wf s.mem = true ∧ s.hand = none ∧ s.part 0 = some part0 ∧ part0.scopes.length = 256 ∧ part0.queues.length = 64 ∧
     part0.verok = true ∧ part0.resetting = false ∧
     ((0 : W64).toNat = (s.queue 0 0).tail ∧ (1 : W64).toNat ≠ (s.queue 0 1).tail ∧ (s.queue 0 1).device = true ∧ (s.queue 0 63).enable = false ∧
       (s.queue 0 0).tail < (9 : W64).toNat ∧ (s.queue 0 0).head + (s.queue 0 0).cap < (9 : W64).toNat ∧
       (8 : W64).toNat ≤ (s.queue 0 0).head + (s.queue 0 0).cap ∧ (s.queue 0 0).device = false ∧ (s.queue 0 0).enable = true) ∧
     (part0.evprod < (1 : W64).toNat ∧ part0.evcons ≤ (0 : W64).toNat ∧ (0 : W64).toNat ≤ part0.evprod ∧ part0.evbuf = []) ∧
     part0.scopes.findIdx? (·.st == .free) = some 2 ∧ (s.scope 0 0).kind = .job ∧ (s.scope 0 0).st = .open_ ∧ (s.scope 0 1).kind = .launch ∧
     (s.scope 0 0).st ≠ .free ∧ part0.evprod ≤ part0.evcons) ∧
    (let s := one { part0 with queues := { cap := 8, enable := true, tail := 3, head := 3 } :: List.replicate 63 {} }
     (2 : W64).toNat < (s.queue 0 0).tail ∧ (s.queue 0 0).device = false ∧ (s.queue 0 0).enable = true) ∧
    (let s := one { part0 with scopes := { st := .open_, kind := .graph, done := true } :: List.replicate 255 {}, evprod := 1 }
     (s.scope 0 0).done = true ∧ (s.scope 0 0).kind = .graph ∧ ∀ p, s.part 0 = some p → p.scopes.length = 256 ∧ p.evcons < p.evprod ∧ (0 : W64).toNat < 1) ∧
    ({ part0 with verok := false } : Part).verok = false ∧ ({ part0 with resetting := true } : Part).resetting = true ∧
    (0x80 : W64).getLsbD 7 = true := by
  refine ⟨?_, ?_, ?_, ?_⟩ <;> decide +kernel

/-- HostEvents: a quote not yet and in progress; a partition that is being reset and one that is not; a partition of free dies, and one
whose number or die is in use; a machine before its boot and after, or down; links that stand and that are down. What the images hold is
the configuration's (DESIGN CHOICE, log 11). -/
theorem witness_HostEvents_module :
    part0.quoteBusy = false ∧ ({ part0 with quoteBusy := true } : Part).quoteBusy = true ∧ part0.nonce.length = 48 ∧ part0.resetting = false ∧
    (let s := one { part0 with resetting := true, ready := false, verok := false }
     (s.part 0).map (·.resetting) = some true ∧ (s.teams = [] ∧ s.cores = [] ∧ s.dies = [])) ∧
    (let s := one part0
     s.booted = true ∧ s.part 7 = none ∧ [7, 1] ≠ [] ∧ [7, 1].Nodup ∧ (∀ d ∈ [7, 1], d < 8 ∧ s.partOfDie d = none) ∧
     (s.part 0).isSome = true ∧ (∃ d ∈ [0], (s.partOfDie d).isSome = true)) ∧
    (∀ h ∈ part0.hwatch, h.getLsbD 63 = false) ∧ (one part0).lost = [] ∧ isLost (one part0) 0 = false ∧
    (one part0).domain.contains Config.packageNumber.toNat = false ∧
    (State.reset.booted = false ∧ State.reset.bootFail = none ∧ (State.reset.link 23).st = .down ∧ 23 < State.reset.links.length ∧
      (linked { st := .active }).booted = false ∧ ((linked { st := .active }).link 23).st ≠ .down) := by
  refine ⟨rfl, rfl, by decide +kernel, rfl, by decide +kernel, by decide +kernel, ?_, rfl, rfl, rfl, by decide +kernel⟩
  intro h hh
  rw [List.eq_of_mem_replicate hh]
  decide

/-- A placed instruction with a trap vector. -/
def pl (i : Instr) : State :=
  let e := encode i
  let s := State.reset.withFetchWord (8 * e.1) e.2
  { s with t := { s.t with xtvec := placeBase } }
/-- The clause it stands in. -/
def plc (s : State) : Clause := s.w.cur.clause.getD { hdr := 0, addr := 0, exec := 0 }

/-- StepRunsDecoded: an instruction in a clause that passes every check, an EXT, and a header. -/
theorem witness_StepRunsDecoded :
    (let i : Instr := .add .w32 (.g 1) (.g 2) (.r (.g 3))
     let s := pl i
     let c := plc s
     s.due = [] ∧ s.granted = true ∧ s.under = false ∧ s.w.mloop = none ∧ s.w.runIdx.isSome = true ∧ s.w.reports = [] ∧
     (s.t.half s.w.cur.pc).map (fun h => decodeHalves h (if s.w.cur.pc.toNat % 4096 ≤ 4092 then s.t.half (s.w.cur.pc + 2) else none)) = some (.ok i) ∧
     s.w.cur.clause = some c ∧ atBoundary s = false ∧ s.t.isHeader s.w.cur.pc = false ∧ c.count < 32 ∧
     misplaced s i 4 = false ∧ immBad i c.ext = false ∧ (Instr.uses i).beyond s.t.n = false ∧ wrongHere s i c = false ∧ (Instr.uses i).latch = false ∧
     capsuleIll s i = false ∧ inert s i = false ∧ Instr.mark i = none ∧ Instr.nonRepeatable i = false ∧ consumers s.w i = 0 ∧
     s.w.stallsLeader = false ∧ s.w.mustCompare i = false ∧ (∀ p ∈ s.w.pend, p.held = false) ∧ s.w.umbra = none) ∧
    (let i : Instr := .ext 5
     let s := pl i
     (s.t.half s.w.cur.pc).map (fun h => decodeHalves h (if s.w.cur.pc.toNat % 4096 ≤ 4092 then s.t.half (s.w.cur.pc + 2) else none)) = some (.ok i) ∧
     (plc s).ext = none ∧ s.w.cur.pc.toNat % 4096 ≠ 4092 ∧ atBoundary s = false ∧ s.t.isHeader s.w.cur.pc = false ∧ (plc s).count < 32) ∧
    (let s := we fun e => { e with pc := placeBase, clause := none }
     s.t.isHeader s.w.cur.pc = true ∧ s.t.isHeader (s.w.cur.pc + 4) = false ∧ s.w.cur.pc.toNat % 4096 ≠ 4092 ∧ s.due = [] ∧ s.granted = true ∧
     s.w.runIdx.isSome = true ∧ s.w.reports = [] ∧ s.w.cur.clause = none) := by
  refine ⟨?_, ?_, ?_⟩ <;> decide +kernel

/-- StepRunsDecoded: a leader whose umbra follows, one whose result queue is full, and one whose atomic is not yet compared; a step that
meets no page under migration, and one that does. -/
theorem witness_StepRunsDecoded_umbra :
    (let i : Instr := .add .w32 (.g 1) (.g 2) (.r (.g 3))
     let s := pl i
     let u := fun (n : Nat) => { s with w := { s.w with umbra := some { trail := List.replicate n result } } }
     (u 1).w.stallsLeader = false ∧ (u 1).w.umbra.isSome = true ∧ (u 1).w.lagging = true ∧ (u 1).w.mustCompare i = false ∧ (u 64).w.stallsLeader = true) ∧
    (let i : Instr := .redg .rlx .die .w32 .add (.g 0) (.g 2)
     let s := pl i
     let s := { s with w := { s.w with umbra := some {} } }
     s.w.stallsLeader = false ∧ s.w.mustCompare i = true) ∧
    ((match exec (.add .w32 (.g 1) (.g 2) (.r (.g 3))) (pl (.add .w32 (.g 1) (.g 2) (.r (.g 3)))) with
      | .next t => (t.waits, t.w.umbra.isNone) | _ => (true, false)) = (false, true)) ∧
    ({ W with waits := true } : State).waits = true := by
  refine ⟨?_, ?_, ?_, rfl⟩ <;> decide +kernel

/-- StepRunsDecoded: a leader's trap that its umbra has come to, and one where the umbra raises another cause. -/
theorem witness_StepRunsDecoded_trap :
    (let s := pl (.brk 5)
     let s := { s with w := s.w.withUmbra }
     s.w.umbra.isSome = true ∧ s.w.lagging = false ∧
     (match exec (.brk 5) s, s.w.umbra with
      | .next t, some u => trapping s t && (match spendGrant { s with w := s.w.under u } with | .next x => sameTrap s t x u && (x.waits == s.waits) | _ => false)
      | _, _ => false) = true) ∧
    (let s := pl (.brk 5)
     let s := { s with w := s.w.withUmbra }
     let s := { s with w := { s.w with umbra := s.w.umbra.map fun u => { u with course := { u.course with paths := u.course.paths.map fun e =>
       { e with clause := none } } } } }
     (match exec (.brk 5) s, s.w.umbra with
      | .next t, some u => trapping s t && (match spendGrant { s with w := s.w.under u } with | .next x => sameTrap s t x u | _ => false)
      | _, _ => true) = false) := by
  refine ⟨?_, ?_⟩ <;> decide +kernel

/-- The clause changed. -/
def cl (s : State) (f : Clause → Clause) : State :=
  { s with w := { s.w with paths := { s.w.cur with clause := some (f (plc s)) } :: s.w.paths.tail } }
/-- The premises of IssueChecks in a clause. -/
def inClause (s : State) : Bool :=
  decide (s.due = []) && s.granted && !s.under && s.w.mloop.isNone && s.w.runIdx.isSome && !s.w.stallsLeader && s.w.reports.isEmpty && !s.w.inHandler && s.t.xtvec != 0 &&
    (s.t.slotOf s.t.xtvec).isSome && (s.t.half s.w.cur.pc).isSome && s.w.cur.clause.isSome && !atBoundary s
/-- What stands at the pc. -/
def here (s : State) : Dec Instr :=
  decodeHalves ((s.t.half s.w.cur.pc).getD 0) (if s.w.cur.pc.toNat % 4096 ≤ 4092 then s.t.half (s.w.cur.pc + 2) else none)

/-- IssueChecks: a 33rd instruction; bytes that are none; a header before the clause's end; a second EXT, and one at the last
word of its segment. -/
theorem witness_IssueChecks_words :
    (let s := cl (pl (.add .w32 (.g 1) (.g 2) (.r (.g 3)))) fun c => { c with count := 32 }
     inClause s = true ∧ 32 ≤ (plc s).count) ∧
    (let s := State.reset.withFetchWord 32 1
     let s := { s with t := { s.t with xtvec := placeBase } }
     inClause s = true ∧ (here s).toBool = false) ∧
    (let s := cl (pl (.ext 5)) fun c => { c with ext := some 0 }
     inClause s = true ∧ s.t.isHeader s.w.cur.pc = false ∧ (plc s).count < 32 ∧ here s = .ok (.ext 5) ∧ (plc s).ext.isSome = true) := by
  refine ⟨?_, ?_, ?_⟩ <;> decide +kernel

/-- IssueChecks: a register above N; a latch not written, and written; what a capsule may not hold. -/
theorem witness_IssueChecks_places :
    (let i : Instr := .add .w32 (.g 1) (.g 2) (.r (.g 95))
     let s := pl i
     let s := { s with t := { s.t with n := 32 } }
     inClause s = true ∧ s.t.isHeader s.w.cur.pc = false ∧ (plc s).count < 32 ∧ here s = .ok i ∧ (Instr.uses i).beyond s.t.n = true) ∧
    (let i : Instr := .add .w32 (.g 1) .l (.r (.g 3))
     let s := cl (pl i) fun c => { c with lw := false }
     inClause s = true ∧ s.t.isHeader s.w.cur.pc = false ∧ (plc s).count < 32 ∧ here s = .ok i ∧ (Instr.uses i).latch = true ∧ (plc s).lw = false ∧
     (misplaced s i 4 || immBad i (plc s).ext || (Instr.uses i).beyond s.t.n || wrongHere s i (plc s)) = false) ∧
    (let i : Instr := .brk 5
     let s := pl i
     let s := { s with w := { s.w with paths := { s.w.cur with body := some {} } :: s.w.paths.tail } }
     inClause s = true ∧ s.t.isHeader s.w.cur.pc = false ∧ here s = .ok i ∧ (Instr.uses i).latch = false ∧ capsuleIll s i = true ∧
     (misplaced s i 4 || immBad i (plc s).ext || (Instr.uses i).beyond s.t.n || wrongHere s i (plc s)) = false) ∧
    (let s := we fun e => { e with clause := none }
     s.w.cur.clause = none ∧ s.t.isHeader s.w.cur.pc = false ∧ s.due = [] ∧ s.granted = true) := by
  refine ⟨?_, ?_, ?_, ?_⟩ <;> decide +kernel

/-- StepsAreEvents: a happening that is due; the package before its boot, down, and up with nothing to do and with something. -/
theorem witness_StepsAreEvents :
    ({ State.reset with due := [.boot] } : State).due = .boot :: [] ∧
    (State.reset.due = [] ∧ State.reset.granted = false ∧ State.reset.booted = false ∧ State.reset.bootFail = none) ∧
    ({ State.reset with bootFail := some 1 } : State).bootFail.isSome = true ∧
    (let s : State := { State.reset with booted := true }
     s.booted = true ∧ urgent s.putBack = [] ∧ nextHappening s.putBack = none) ∧
    (let s := one { part0 with quoteBusy := true }
     s.due = [] ∧ s.granted = false ∧ s.booted = true ∧ (nextHappening s.putBack).isSome = true) ∧
    (let s := { W with granted := false, w := { W.w with reports := [{ cause := 48, detail := 2, pc := 0, lanes := 1 }] } }
     s.booted = true ∧ s.due = [] ∧ (urgent s.putBack).isEmpty = false ∧ s.waits = false) := by
  refine ⟨?_, ?_, ?_, ?_, ?_, ?_⟩ <;> decide +kernel

/-- EncodedInstructionsDecode and DecodedWordsAreEncodings: a well-formed instruction that is no event, of 32 and of 16 bits. -/
theorem witness_encodings :
    (Instr.isEvent (.add .w64 (.g 94) (.k 6) (.i 64)) = false ∧ Instr.wf (.add .w64 (.g 94) (.k 6) (.i 64)) = true) ∧
    decodeHalves 0x8602 (some 65535) = .ok (.addH (.g 6) (.i 1)) ∧
    decodeHalves 0x2003 (some 0x0C14) = .ok (.add .w32 (.g 4) (.g 5) (.r (.g 6))) := by decide +kernel

/-- StepKeepsWays: the placed machine keeps to the ways, and steps (as the next witness says). -/
theorem witness_StepKeepsWays : W.WaysKept := by
  intro k hk n
  rw [show W.c :: W.cores = [W.c] from rfl, List.mem_singleton] at hk
  subst hk
  rw [show W.c.l1 = [] from rfl]
  exact Nat.zero_le _

/-- StepKeepsMemory: the placed machine is canonical and steps. -/
theorem witness_StepKeepsMemory : W.MemCanonical ∧ ∃ t, step W = .next t := by
  refine ⟨by unfold State.MemCanonical; decide +kernel, ?_⟩
  have h : (match step W with | .next _ => true | _ => false) = true := by decide +kernel
  split at h
  · exact ⟨_, ‹_›⟩
  · simp at h

/-- The running entry's region at 0, as the copies of `copying` have it. -/
def inRegion0 (s : State) : State := { s with w := { s.w with paths := s.w.paths.map fun e => { e with region := 0 } } }

/-- ClausesAndTransfers: a header with E, or one that names the flag of a copy that could fault, while a copy still reads. -/
theorem witness_ClausesAndTransfers_copies :
    (let s := fun (st : CopyState) => inRegion0 (copying st .tgather asd)
     (s .queued).copiesReading = true ∧ (s .writing).copiesReading = false) ∧
    (∃ n ∈ (ww fun w => { w with copyFlags := [11] }).w.copyFlags, (0x800 : BitVec 12).getLsbD n = true) :=
  ⟨by decide +kernel, 11, by decide +kernel⟩

/-- ExitAndReform: a REFORM that finds every bin taken by other keys. -/
theorem witness_ExitAndReform_stalls :
    (let s := wt fun t => { t with bins := (List.range 64).map fun n => { key := BitVec.ofNat 64 n, threads := [(0, [], 0)], carry := 0 } }
     (fileLanes s.w (BitVec.ofNat 64 (s.w.cur.pc.toNat / 4096 * 4096)) 0 s.t.opps (lanesOf s.w.acting) s.t.bins).2 ≠ s.w.acting) := by
  decide +kernel

/-- A wave in a handler, whose frame is changed. -/
def framed (f : Frame → Frame) (g : Wave → Wave := id) : State :=
  { inTrap with w := g { inTrap.w with frame := inTrap.w.frame.map f } }

/-- TrapReturn: an entry that parked with other lanes, with and without a free entry for them; a wave that trapped while it
waited; a mask as the destination; a trap at a header; a region entry that no loop holds; a handler with paths to join. -/
theorem witness_TrapReturn_forms :
    (let part := fun (f : Frame) => { f with paths := f.paths.modify f.trapped fun e => { e with st := .parked } }
     let s := framed part fun w => { w with xtlanes := 1 }
     ∃ f, s.w.frame = some f ∧ (let e := f.paths.getD f.trapped {}
       e.st = .parked ∧ e.mask &&& s.w.live &&& ~~~s.w.xtlanes ≠ 0 ∧ e.mask &&& s.w.live &&& s.w.xtlanes ≠ 0 ∧
       f.paths.findIdx? (·.st == .free) = some 1 ∧ f.waiting = false ∧
       ({ f with paths := List.replicate 8 e } : Frame).paths.findIdx? (·.st == .free) = none)) ∧
    (let s := framed fun f => { f with waiting := true, paths := f.paths.modify f.trapped fun e => { e with st := .waitJoin, wait := .bar 15 } }
     ∃ f, s.w.frame = some f ∧ f.waiting = true ∧ (f.paths.getD f.trapped {}).st = .waitJoin) ∧
    (let s := framed (fun f => { f with dst := .mask 14, atHeader := true }) fun w => { w with xtdst := some (1, List.replicate 32 [1]) }
     ∃ f, s.w.frame = some f ∧ f.dst = .mask 14 ∧ f.atHeader = true ∧ s.w.xtdst = some (1, List.replicate 32 [1]) ∧ (14 : Nat) < s.w.m.length) ∧
    (let s := framed id fun w => { w with mloop := some { point := w.xtreg + 4096, tiles := 1, policy := 0, limit := 1 } }
     ∀ l, s.w.mloop = some l → l.point ≠ s.w.xtreg) ∧
    (let s := framed id fun w => { w with paths := w.paths.modify 7 fun e => { e with st := .ready, mask := 1 } }
     s.w.inHandler = true ∧ 1 < s.w.used ∧ s.hand.isSome = true ∧ s.t.ending = none) := by
  refine ⟨⟨_, rfl, ?_⟩, ⟨_, rfl, ?_⟩, ⟨_, rfl, ?_⟩, by decide +kernel, by decide +kernel⟩ <;> decide +kernel

/-- ScopeHandles: a handle that is none, with a trap vector. -/
theorem witness_ScopeHandles_bad : handleBad WT (WT.w.sreg 0) = true ∧ CanTrap WT ∧ WT.w.runIdx.isSome = true ∧ WT.w.cur.body = none := by
  unfold CanTrap; decide +kernel

/-- Barriers: a wave that has arrived at this phase already; EXPECTED 0 at an arrival; a phase that BARW waits for, and one that has
passed. -/
theorem witness_Barriers_objects :
    (let s := withS { poke D 0x4000 [2, 5, 1] with w := { D.w with bara := [(ptr 2 0x4000, 5)] } } [ptr 2 0x4000]
     let v := flushLine (seen (ptr 2 0x4000) 64 (wantObject true) (settleAtoms s)) (ptr 2 0x4000)
     ∃ x ∈ v.w.bara, x.1 = ptr 2 0x4000 ∧ homeWord v (ptr 2 0x4000) 1 ≤ x.2) ∧
    (let s := withS { D with t := { D.t with xtvec := placeBase } } [ptr 2 0x4000]
     let v := flushLine (seen (ptr 2 0x4000) 64 (wantObject true) (settleAtoms s)) (ptr 2 0x4000)
     homeWord v (ptr 2 0x4000) 0 = 0 ∧ CanTrap v ∧ v.w.runIdx.isSome = true ∧ v.w.cur.body = none) ∧
    (let s := withS (poke D 0x4000 [2, 5, 1]) [ptr 2 0x4000, 5, 4]
     let u := seen (ptr 2 0x4000) 64 (wantObject false) (settleAtoms s)
     let v := flushLine u (ptr 2 0x4000)
     AccessOpen (s.w.sreg 0) 64 (wantObject false) (settleAtoms s) u ∧ homeWord v (ptr 2 0x4000) 1 ≤ (v.w.sreg 1).toNat ∧
     (v.w.sreg 2).toNat < homeWord v (ptr 2 0x4000) 1) := by
  refine ⟨⟨(ptr 2 0x4000, 5), by decide +kernel⟩, ?_, accessOpen_of (by decide +kernel), by decide +kernel, by decide +kernel⟩
  unfold CanTrap; decide +kernel

/-- LoadInstructions, StoresIssue, Atomics: a copy of the wave's that overlaps, in memory and in the window; an absent peer. -/
theorem witness_Loads_held :
    (let k : Copy := { op := .tstore false, st := .writing, team := L2.t.id, wave := 0, flag := none, desc := asd, group := tgroup
                       ctl := BitVec.ofNat 64 (10 * 2 ^ 32) }
     let s := { L2 with c := { L2.c with copies := [k] }, w := { L2.w with lanes := L2.w.lanes.map fun (l : Lane) => { l with g := l.g.set 2 0x4000 } } }
     copyConflict s (lanePtrs s.w (.plain 0) (.g 2)) 4 false = true ∧ copyConflict s (lanePtrs s.w (.ordered .team) (.g 2)) 8 true = true) ∧
    (let k : Copy := { op := .tcopy false, st := .writing, team := L2.t.id, wave := 0, flag := none, desc := asd, group := tgroup, ctl := 0 }
     let s := { L2 with c := { L2.c with copies := [k] } }
     scoreboardHolds s (windowRanges s.t.id 4 [0]) false = true ∧ scoreboardHolds s (windowRanges s.t.id 4 [0]) true = true) ∧
    (let s := { L2 with t := { L2.t with gangSize := 2 }, teams := [{ id := 9, rank := 1, gangSize := 2 }] }
     peerAbsent s [0x00100000] = true) := by decide +kernel

/-- StoresIssue, Atomics: a wave with an umbra; a wave in whose lanes an exception is enabled, outside a handler. -/
theorem witness_StoresIssue_forms :
    (let s := { L2 with w := { L2.w with umbra := some {} } }
     (beforeStore s (.plain 0)).w.umbra.isSome = true ∧ lanesOf (beforeStore s (.plain 0)).w.acting ≠ []) ∧
    (let s := { L2 with w := { L2.w with ten := [0xFFFFFFFF, 0, 0, 0, 0] } }
     AtomOp.isFloat .fadd = true ∧ anyEnabled s.w 0x80000001 = true) := by decide +kernel

/-- MatrixLoopsAndIssue: an OPEN of no tiles; one whose tile the array works on; an area that a copy moves; an MMA that waits for
the self-test; a peer that does not lie resident. -/
theorem witness_MatrixLoopsAndIssue_waits :
    ((0 : W64).toNat % 16 = 0 ∧ CanTrap WT) ∧ (teamBusy (stepping 0) [0] = true) ∧
    (let s := { Z with c := { Z.c with copies := (copying .writing (.tcopy false) asd).c.copies } }
     (copiesFor s).any (fun k => anyMeets [{ team := s.t.id, lo := 0, hi := snapBytes }] k.ranges) = true) ∧
    (let s := { Z with c := { Z.c with test := some { at_ := { block := .array, core := ⟨0, 0⟩, slot := 0, wave := 0, lane := 0, pos := 0 }, kind := 1, time := 0 } } }
     s.c.test ≠ none ∧ matrixForbidden s ((regionOf mctl1).map (·.1)) = false) ∧
    (let p : Team := { id := 9, rank := 1, gangSize := 2, window := 65536 }
     let s := { Z with t := { Z.t with gangSize := 2 }, teams := [p] }
     s.gangTeam 1 = some p ∧ p.resident = false) := by
  unfold CanTrap; decide +kernel

/-- ArraySteps: a duty window that is used up, and a hop, which hold the array; a team that supplies A and is gone. -/
theorem witness_ArraySteps_holds :
    (let s := stepping 0
     ∀ o ∈ s.c.array, Core.arrayHeld { s.c with dutyUsed := Core.dutyLimit s.c } s.clock o.stepAclk = true ∧
       Core.arrayHeld { s.c with hop := some (300, 1) } s.clock o.stepAclk = true ∧ s.w.num = o.wave ∧ s.w.ended = false) ∧
    peerGone ((stepping 0).team 77) (stepping 0).t.id = true := by decide +kernel

/-- SeamInstructions: an instruction of the array on the tiles. -/
theorem witness_SeamInstructions_waits :
    arrayBusy (stepping 0) [0, 3] = true ∧ teamBusy (stepping 0) [0] = true ∧ teamBusy (stepping 0) [0, 1, 2, 3] = true := by
  decide +kernel

/-- TileCopyIssue: a queue that holds sixteen copies; a TGATHER with its index range. -/
theorem witness_TileCopyIssue_full :
    (let s := withS { D with c := { D.c with copies := List.replicate 16 { op := .tcopy false, team := 77, wave := 0, flag := none } } } tgroup
     16 ≤ (checkSpans s (copySpans (.tcopy false) 0 tgroup)).1.c.copies.length ∧
     (checkSpans s (copySpans .tgather 0x4000 tgroup)).2 = none) := by decide +kernel

/-- TileCopyEvents: a fault answered either way; a validated copy whose word is odd, at its first and at its last attempt; a copy in READING
that reads on; an AON store whose sequence word is odd. -/
theorem witness_TileCopyEvents_answers :
    (let f : PageWait := { space := 0, page := 0, write := false, lanes := 0, addr := 0, pc := 0 }
     ({ f with answer := some true } : PageWait).answer = some true ∧ ({ f with answer := some false } : PageWait).answer = some false ∧
     CopyOp.outward (.tcopy false) = false) ∧
    (let g := [ptr 2 0x4000, BitVec.ofNat 64 (10 * 2 ^ 56 + 2 ^ 44 + 2 ^ 32 + 64), 0, ptr 2 0x8000]
     let k : Copy := { op := .tcopy true, st := .queued, team := D.t.id, wave := 0, flag := none, desc := asd, group := g, ctl := 0 }
     let s := poke { D with c := { D.c with copies := [k] } } 0x3FF8 [3]
     CopyOp.validated k.op = true ∧ startable s ⟨0, 0⟩ = some 0) ∧
    (let s := copying .reading (.tcopy false) asd
     ∀ k ∈ s.c.copies, k.readsOn = true ∧ k.fault = none ∧ (aonBegin s ⟨0, 0⟩ 0 k s.t).isSome = true) ∧
    (let s := poke D 0x3FF8 [3]
     let k : Copy := { op := .tstore true, st := .queued, team := s.t.id, wave := 0, flag := none, desc := asd, group := tgroup
                       ctl := BitVec.ofNat 64 (10 * 2 ^ 32) }
     (aonBegin s ⟨0, 0⟩ 0 k s.t).isNone = true ∧ CopyOp.aon k.op = true ∧ k.seqWord = none) := by decide +kernel

/-! Single steps of a placed instruction. -/

/-- SMOVI S13 = 1000 from the listing of spec/12 runs as the first instruction after reset. -/
theorem test_smovi : (match step W with | .next t => some (t.w.sreg 13, t.w.cur.pc, t.clock) | _ => none) = some (1000, at_ 8, 2) := by decide +kernel
/-- ADD wraps at 32 bits (R115), and writes lane 31 as well as lane 0. -/
theorem test_add_wraps :
    (match step (State.reset.withFetchWord 32 0x0C142003) with | .next t => some ((t.w.lane 31).reg 4) | _ => none) = some 0 := by decide +kernel
/-- The fill is no instruction: without a handler the team ends (R63, R348). -/
theorem test_reserved_word : (match step (State.reset.withFetchWord 16 0) with | .next t => some t.w.cur.pc.toNat | _ => none) ≠ none := by decide +kernel

/-- SHA-384 of the three bytes of abc, as its standard's published example gives it (FIPS 180-4). -/
theorem test_sha384 :
    beNat (sha384 [0x61, 0x62, 0x63]) =
      0xcb00753f45a35e8bb5a03d699ac65007272c32ab0eded1631a8b605a43ff5bed8086072ba1e7cc2358baeca134c825a7 := by decide +kernel

end Sys2Proof.Tests
end

section
/-! PROOFS. Operand forms, destinations and masks (R12, R14, R69, R97 to R99). -/

namespace Sys2Proof.Machine

/-- A write leaves every register that its destination does not cover. -/
theorem reg_write_of_not_mem (l : Lane) (iw : IW) (d : Dst) (v : W64) (c : Nat) (h : c ∉ Dst.covers iw d) :
    (l.write iw d v).reg c = l.reg c := by
  have hk (n : Fin 8) : ¬ 96 + n.val < 96 := by omega
  cases iw <;> cases d <;> simp only [Dst.covers, List.mem_cons, List.not_mem_nil, or_false, not_or] at h <;>
    simp only [Lane.write, Lane.setReg, Lane.reg, hk, Fin.is_lt, if_true, if_false] <;> split <;>
    simp only [List.getD_eq_getElem?_getD] <;>
    (repeat rw [List.getElem?_set_ne (by omega)])

/-- A 32-bit write puts the value in its register. -/
theorem reg_write_w32 (l : Lane) (d : Dst) (v : W64) (hg : l.g.length = 96) (hk : l.k.length = 8) (c : Nat)
    (h : c ∈ Dst.covers .w32 d) : (l.write .w32 d v).reg c = v.setWidth 32 := by
  cases d with
  | g n =>
    obtain rfl : c = n.val := by simpa [Dst.covers] using h
    simp [Lane.write, Lane.setReg, Lane.reg, hg]
  | k n =>
    obtain rfl : c = 96 + n.val := by simpa [Dst.covers] using h
    simp [Lane.write, Lane.setReg, Lane.reg, hk]
  | l => simp [Dst.covers] at h
  | zero => simp [Dst.covers] at h

/-- A 64-bit write puts the low half in the even register of the pair and the high half in the next. -/
theorem reg_write_w64 (l : Lane) (d : Dst) (v : W64) (hg : l.g.length = 96) (hk : l.k.length = 8) (hd : d.okW .w64 = true)
    (o : Nat) (h : Dst.covers .w64 d = [o, o + 1]) :
    (l.write .w64 d v).reg o = v.setWidth 32 ∧ (l.write .w64 d v).reg (o + 1) = (v >>> 32).setWidth 32 := by
  cases d with
  | g n =>
    obtain rfl : n.val = o := by simpa [Dst.covers] using h
    have hn : n.val + 1 < 96 := by simp [Dst.okW, Dst.ok64] at hd; omega
    simp [Lane.write, Lane.reg, hg, hn]
  | k n =>
    obtain rfl : 96 + n.val = o := by simp [Dst.covers] at h; omega
    have hn : n.val + 1 < 8 := by simp [Dst.okW, Dst.ok64] at hd; omega
    simp [Lane.write, Lane.reg, hk, hn, Nat.add_assoc]
  | l => simp [Dst.covers] at h
  | zero => simp [Dst.covers] at h

theorem mask_setMask_same (w : Wave) (m : MReg) (v : W32) (h0 : m ≠ 0) (h15 : m ≠ 15) (hl : w.m.length = 16) :
    (w.setMask m v).mask m = v := by
  have h0 : m.val ≠ 0 := fun h => h0 (Fin.ext h)
  have h15 : m.val ≠ 15 := fun h => h15 (Fin.ext h)
  simp [Wave.setMask, Wave.mask, h0, h15, hl]

theorem mask_setMask_other (w : Wave) (m n : MReg) (v : W32) (h : n ≠ m) : (w.setMask m v).mask n = w.mask n := by
  have h : m.val ≠ n.val := fun e => h (Fin.ext e.symm)
  simp only [Wave.setMask]
  split
  · rfl
  · simp only [Wave.mask, Wave.cur, List.getD_eq_getElem?_getD, List.getElem?_set_ne h]

/-- Acting lanes are lanes of the running entry. -/
theorem acting_sub_mask (w : Wave) (i : Nat) (h : w.acting.getLsbD i = true) : w.cur.mask.getLsbD i = true := by
  simp only [Wave.acting] at h
  cases hc : w.cur.clause <;> cases ho : w.cur.only <;> cases hb : w.cur.body <;> simp_all

/-- Settles O50: each form by its defining equation, a destination by the registers that it covers. -/
theorem operandForms : Obligations.OperandForms := by
  intro w l
  refine ⟨fun _ => ⟨rfl, rfl⟩, fun _ => ⟨rfl, rfl⟩, ⟨rfl, rfl⟩, ⟨rfl, rfl⟩, ⟨rfl, rfl⟩, ⟨rfl, rfl⟩, fun _ => ⟨rfl, rfl⟩, ?_, ?_, ?_,
    acting_sub_mask w, ?_⟩
  · intro i
    exact ⟨fun h => by simp [imm32, h], fun p h => by simp [imm32, h], rfl⟩
  · intro iw d v x
    refine ⟨Lane.write_latch .., Lane.write_tid .., Lane.write_id .., fun c => reg_write_of_not_mem l iw d v c,
      by rintro rfl; exact Lane.write_zero .., ?_, ?_⟩
    · rintro hg hk rfl c hc
      exact reg_write_w32 l d v hg hk c hc
    · rintro hg hk rfl hd o ho
      exact reg_write_w64 l d v hg hk hd o ho
  · intro m
    refine ⟨fun h => by simp [Wave.mask, h], fun h => by simp [Wave.mask, h], fun h0 h15 => ?_, fun v => ⟨fun h => ?_, fun h0 h15 hl =>
      ⟨mask_setMask_same w m v h0 h15 hl, fun n hn => mask_setMask_other w m n v hn⟩⟩⟩
    · have h0 : m.val ≠ 0 := fun h => h0 (Fin.ext h)
      have h15 : m.val ≠ 15 := fun h => h15 (Fin.ext h)
      simp [Wave.mask, h0, h15]
    · rcases h with rfl | rfl <;> rfl
  · intro c hc ho hb
    simp [Wave.acting, hc, ho, hb]

end Sys2Proof.Machine
end

section
/-! PROOFS. What the accesses that a core makes leave as it was: the wave and the team in hand, among the rest of the state. -/

namespace Sys2Proof.Machine

/-- `t` is `s` but for memory and what lies around it: the caches and translations of cores and dies, partitions, the faults and messages
that an access leaves, and whether it waits. Of the partitions' fault scopes those that have not completed stay as they are. -/
def SideOnly (s t : State) : Prop :=
  (∀ part n, (s.scope part n).done = false → t.scope part n = s.scope part n) ∧
  t = { s with c := t.c, cores := t.cores, dies := t.dies, parts := t.parts, mem := t.mem, memPoison := t.memPoison
               lastWriter := t.lastWriter, faults := t.faults, waits := t.waits, sent := t.sent, nextOut := t.nextOut, links := t.links }

theorem SideOnly.frame {s t : State} (h : SideOnly s t) :
    t = { s with c := t.c, cores := t.cores, dies := t.dies, parts := t.parts, mem := t.mem, memPoison := t.memPoison
                 lastWriter := t.lastWriter, faults := t.faults, waits := t.waits, sent := t.sent, nextOut := t.nextOut, links := t.links } := h.2

theorem SideOnly.scope {s t : State} (h : SideOnly s t) {part n : Nat} (hopen : (s.scope part n).done = false) :
    t.scope part n = s.scope part n := h.1 part n hopen

/-- A change beside the partitions. -/
theorem SideOnly.of_parts {s t : State} (hp : t.parts = s.parts)
    (h : t = { s with c := t.c, cores := t.cores, dies := t.dies, parts := t.parts, mem := t.mem, memPoison := t.memPoison
                      lastWriter := t.lastWriter, faults := t.faults, waits := t.waits, sent := t.sent, nextOut := t.nextOut, links := t.links }) :
    SideOnly s t := by
  refine ⟨fun part n _ => ?_, h⟩
  unfold State.scope State.part
  rw [hp]

theorem SideOnly.refl (s : State) : SideOnly s s := .of_parts rfl rfl

theorem SideOnly.trans {s t u : State} (h : SideOnly s t) (k : SideOnly t u) : SideOnly s u := by
  refine ⟨fun part n hopen => ?_, ?_⟩
  · have ht := h.scope hopen
    exact (k.scope (by rw [ht]; exact hopen)).trans ht
  · rw [k.frame, h.frame]

theorem SideOnly.w {s t : State} (h : SideOnly s t) : t.w = s.w := by rw [h.frame]
theorem SideOnly.t {s t : State} (h : SideOnly s t) : t.t = s.t := by rw [h.frame]

theorem SideOnly.of_eq {α : Type} {s u : State} {p : State × α} {a : α} (h : SideOnly s p.1) (e : p = (u, a)) : SideOnly s u := by
  rw [e] at h; exact h

theorem addFault_side (s : State) (f : PageWait) : SideOnly s (addFault s f) := by
  unfold addFault; split <;> exact .of_parts rfl rfl

theorem waitRoute_side (s : State) (pa die : Nat) : SideOnly s (waitRoute s pa die) := by
  unfold waitRoute; split <;> exact .of_parts rfl rfl

theorem waitWalk_side (s : State) (root space va d : Nat) : SideOnly s (waitWalk s root space va d) := by
  unfold waitWalk reportMalformed
  split
  · split
    · exact .of_parts rfl rfl
    · exact waitRoute_side ..
    · exact waitRoute_side ..
    · exact .of_parts rfl rfl
  · exact addFault_side ..
  · exact .of_parts rfl rfl

theorem waitEntry_side (s : State) (space obj : Nat) : SideOnly s (waitEntry s space obj) := by
  unfold waitEntry waitMoving
  split
  · exact waitWalk_side ..
  · exact .of_parts rfl rfl

theorem setCore_side (s : State) (k : Core) : SideOnly s (s.setCore k) := by
  unfold State.setCore; split
  · exact .of_parts rfl rfl
  · split <;> exact .of_parts rfl rfl

theorem descOf_side (s : State) (id : CoreId) (space obj : Nat) : SideOnly s (descOf s id space obj).1 := by
  simp only [descOf]
  split
  · exact .of_parts rfl rfl
  · split
    · exact (waitEntry_side ..).trans (setCore_side ..)
    · exact waitEntry_side ..

end Sys2Proof.Machine
end

section
/-! PROOFS. The overlay (R40, R113). -/

namespace Sys2Proof.Machine

theorem exec_cfetch (n : Fin 8) (x : SReg) (s : State) : exec (.cfetch n x) s = execCfetch n x s := rfl

/-- Settles O10: the checks pass by the hypotheses, and reading the descriptor leaves the wave and its team. -/
theorem overlayFill : Obligations.OverlayFill := by
  intro s u slot x d p hw hv hp hd hc hf
  have hused : (s.waves.any fun w => w.paths.any fun e => e.st != .free && s.t.slotIdx e.pc == some slot.val) = false := by
    simpa [State.waves, List.any_eq_false] using hw
  have hvec : (s.t.slotIdx s.t.xtvec == some slot.val && s.t.xtvec != 0) = false := by
    by_cases h : s.t.xtvec = 0 <;> simp_all
  have hside : SideOnly s u := (descOf_side ..).of_eq hd
  have hut : u.t = s.t := hside.t
  have huw : u.w = s.w := hside.w
  have hrun : exec (.cfetch slot x) s = .next (State.advance { u with
      t := { s.t with slots := s.t.slots.set slot.val { tag := p, fill := true, waiter := some (s.w.num, s.w.mark true) } }
      w := s.w.flagUp (s.w.mark true) } 4) := by
    simp only [p] at hp hd hc
    simp only [exec_cfetch, execCfetch, hused, hvec, hp, hd, hc, hut, huw, hf, Bool.or_self, Bool.false_eq_true, ne_eq, not_true_eq_false, if_false, p]
  exact ⟨_, hrun, advance_past ..⟩

end Sys2Proof.Machine
end

section
/-! PROOFS. Clause headers, EXT, and transfers of control (R64, R73, R103 to R107), with what holding, waiting and moving do to a state. -/

namespace Sys2Proof.Machine

/-! Waiting and moving. -/

/-- A counted opportunity that ends in a wait leaves everything but the counts and the grant. -/
theorem count_waits (s : State) (fair starve : Bool) : Waits s { s.count fair starve with stalled := true } := by
  obtain ⟨hdue, hcount⟩ := count_spec s fair starve
  obtain ⟨hw, g, hpaths, hg⟩ := countOpp_spec s.w fair starve
  refine ⟨?_, hdue, ?_⟩
  · rw [hcount]
    show List.Forall₂ _ s.w.paths (s.w.countOpp fair starve).paths
    rw [hpaths]
    refine List.forall₂_map_right_iff.2 (List.forall₂_same.2 fun e _ => ?_)
    obtain ⟨m, n, h⟩ := hg e
    rw [h]
    exact ⟨rfl, rfl, rfl, rfl, rfl⟩
  · rw [hcount, hw]

/-- An entry that a path has gone past, put at a target. -/
theorem EntryPast.to {len : Nat} {e e' : Entry} (h : EntryPast len e e') (target : W64) :
    EntryTo target e (if e'.st = .run then { e' with pc := target, clause := none } else e') := by
  obtain ⟨hst, hmask, hregion, hwait, hparks, hrest⟩ := h
  by_cases hr : e.st = .run
  · simp [EntryTo, hst, hr, hmask, hregion, hwait, hparks]
  · rw [if_neg hr] at hrest
    simp [EntryTo, hst, hr, hmask, hregion, hwait, hparks, hrest]

/-- A transfer to a header moves the running entry there (R66). -/
theorem transfer_jumped (s : State) (target : W64) (len : Nat) (h : s.t.isHeader target = true) :
    Jumped target s (transfer s target len) := by
  obtain ⟨hpaths, hdue, hrest⟩ := advance_past s len false true
  unfold transfer
  rw [if_pos h]
  refine ⟨?_, hdue, ?_⟩
  · show List.Forall₂ _ s.w.paths ((s.advance len).w.paths.map _)
    exact List.forall₂_map_right_iff.2 (hpaths.imp fun _ _ p => p.to target)
  · rw [hrest]; rfl

/-- A header lies in a landed segment. -/
theorem slotOf_isSome_of_isHeader {t : Team} {p : W64} (h : t.isHeader p = true) : (t.slotOf p).isSome = true := by
  unfold Team.isHeader Team.half at h
  cases hs : t.slotOf p with
  | none => simp [hs] at h
  | some x => rfl

/-- A transfer through an even pointer to a header (R106). -/
theorem transferFar_jumped (s : State) (target : W64) (h0 : target.getLsbD 0 = false) (h : s.t.isHeader target = true) :
    Jumped target s (transferFar s target) := by
  obtain ⟨x, hx⟩ := Option.isSome_iff_exists.1 (slotOf_isSome_of_isHeader h)
  have e : transferFar s target = transfer s target := by simp only [transferFar, h0, hx, Bool.false_eq_true, if_false]
  exact e ▸ transfer_jumped s target 4 h

/-! Targets. -/

/-- The model's target of a relative transfer is the pointer `off` halfwords further in the same object (R103). -/
theorem relTarget_ofInt (w : Wave) (z : Int) : relTarget w z = nearTarget w.cur.pc (BitVec.ofInt 52 z) := by
  generalize hp : w.cur.pc = pc
  have hsum : (BitVec.extractLsb' 0 52 pc + BitVec.ofInt 52 z <<< 1).toNat = ((pAddr pc + 2 * z) % 2 ^ 52).toNat := by
    have hz : ((BitVec.ofInt 52 z).toNat : Int) = z % 2 ^ 52 := by
      rw [BitVec.toNat_ofInt]; omega
    simp only [BitVec.toNat_add, BitVec.toNat_shiftLeft, BitVec.extractLsb'_toNat, Nat.shiftRight_zero, Nat.shiftLeft_eq, pAddr]
    omega
  have hlt : ((pAddr pc + 2 * z) % 2 ^ 52).toNat < 2 ^ 52 := by omega
  apply BitVec.eq_of_toNat_eq
  rw [nearTarget, BitVec.toNat_append, hsum, ← Nat.shiftLeft_add_eq_or_of_lt hlt]
  have := pc.isLt
  simp only [relTarget, hp, mkPtr, BitVec.toNat_ofNat, BitVec.extractLsb'_toNat, Nat.shiftLeft_eq, Nat.shiftRight_eq_div_pow, pObj]
  omega

theorem setWidth_eq_ofInt (x : W64) : x.setWidth 52 = BitVec.ofInt 52 x.toInt := by
  apply BitVec.eq_of_toNat_eq
  rw [BitVec.toNat_setWidth, BitVec.toNat_ofInt, BitVec.toInt_eq_toNat_bmod]
  simp only [Int.bmod_def]
  omega

/-! The instructions. -/

/-- A clause whose flags read 0 and for which no copy has to read begins, where no fault is deferred. -/
theorem execClause_begins (e : Bool) (x : MReg) (setb seta : Fin 16) (wait : BitVec 12) (s : State)
    (hclear : ∀ n, n < 12 → wait.getLsbD n = true → s.w.f.getD n 0 = 0)
    (hread : (e = true ∨ ∃ n ∈ s.w.copyFlags, wait.getLsbD n = true) → s.copiesReading = false) (hdef : s.w.deferred = []) :
    execClause e x setb seta wait s = .next (beginClause s e x (hdrWord e x setb seta wait)) := by
  have hflags : ((List.range 12).any fun n => wait.getLsbD n && s.w.f.getD n 0 != 0) = false := by
    simpa [List.any_eq_false] using hclear
  have hcopies : ((e || s.w.copyFlags.any wait.getLsbD) && s.copiesReading) = false := by
    cases hr : s.copiesReading
    · simp
    · have : ¬ (e = true ∨ ∃ n ∈ s.w.copyFlags, wait.getLsbD n = true) := fun h => by simp [hread h] at hr
      simpa [List.any_eq_true] using this
  simp only [execClause, hflags, hcopies, hdef, List.any_nil, Bool.false_eq_true, if_false]

/-- A header waits on a flag that it names and that does not read 0. -/
theorem execClause_waits_flag (e : Bool) (x : MReg) (setb seta : Fin 16) (wait : BitVec 12) (s : State)
    (h : ∃ n, n < 12 ∧ wait.getLsbD n = true ∧ s.w.f.getD n 0 ≠ 0) :
    execClause e x setb seta wait s = .next { s.count true true with stalled := true } := by
  have hflags : ((List.range 12).any fun n => wait.getLsbD n && s.w.f.getD n 0 != 0) = true := by
    simpa [List.any_eq_true] using h
  simp only [execClause, hflags, if_true]

/-- A header at a region boundary, or that names the flag of a copy that could fault, waits until such copies have read. -/
theorem execClause_waits_copy (e : Bool) (x : MReg) (setb seta : Fin 16) (wait : BitVec 12) (s : State)
    (hclear : ∀ n, n < 12 → wait.getLsbD n = true → s.w.f.getD n 0 = 0)
    (hasks : e = true ∨ ∃ n ∈ s.w.copyFlags, wait.getLsbD n = true) (hread : s.copiesReading = true) :
    execClause e x setb seta wait s = .next { s.count true true with stalled := true } := by
  have hflags : ((List.range 12).any fun n => wait.getLsbD n && s.w.f.getD n 0 != 0) = false := by
    simpa [List.any_eq_false] using hclear
  have hcopies : ((e || s.w.copyFlags.any wait.getLsbD) && s.copiesReading) = true := by
    simpa [List.any_eq_true, hread] using hasks
  simp only [execClause, hflags, hcopies, Bool.false_eq_true, if_false, if_true]

theorem clauseWords : Claims.ClauseWords := by
  intro s e x setb seta wait p cur clear asks
  refine ⟨fun hclear hread hdef => ⟨_, execClause_begins e x setb seta wait s hclear hread hdef, ?_, ?_, rfl⟩,
    fun h => ⟨_, execClause_waits_flag e x setb seta wait s h, count_waits ..⟩,
    fun hclear hasks hread => ⟨_, execClause_waits_copy e x setb seta wait s hclear hasks hread, count_waits ..⟩, ⟨_, rfl, ?_, rfl⟩⟩
  · show List.Forall₂ _ s.w.paths (s.w.paths.map _)
    refine List.forall₂_map_right_iff.2 (List.forall₂_same.2 fun a _ => ?_)
    by_cases h : a.st = .run
    · rw [if_pos h, if_pos h]
      exact ⟨h, rfl, rfl, rfl, rfl, _, rfl, rfl, rfl, rfl, rfl, rfl, rfl⟩
    · rw [if_neg h, if_neg h]
  · show List.Forall₂ _ s.w.lanes (s.w.lanes.map fun l => if cur.mask.getLsbD l.id then _ else l)
    refine List.forall₂_map_right_iff.2 (List.forall₂_same.2 fun l _ => ?_)
    by_cases h : cur.mask.getLsbD l.id = true
    · rw [if_pos h, if_pos h]; rfl
    · rw [if_neg h, if_neg h]
  · show List.Forall₂ _ s.w.paths (s.w.paths.map _)
    refine List.forall₂_map_right_iff.2 (List.forall₂_same.2 fun a _ => ?_)
    by_cases h : a.st = .run
    · rw [if_pos h, if_pos h]
      exact ⟨rfl, rfl, rfl, rfl, rfl⟩
    · rw [if_neg h, if_neg h]

theorem transfers : Claims.Transfers := by
  intro s i x link pc near stays far lands
  have hnear : relTarget s.w i.toInt = near := relTarget_ofInt s.w i.toInt
  have hin : stays → inSegment s.w i.toInt = true := fun h => by simpa [inSegment] using h
  refine ⟨⟨_, rfl, advance_past ..⟩, ⟨_, rfl, advance_past ..⟩, fun hs hh => ⟨⟨transfer s near, ?_, transfer_jumped s near 4 hh⟩,
    ⟨transfer { s with w := s.w.setS x (pc + 4) } near, ?_, transfer_jumped _ near 4 hh⟩⟩,
    fun ⟨h0, hh⟩ => ⟨⟨_, rfl, transferFar_jumped s far h0 hh⟩, ⟨_, rfl, transferFar_jumped s far h0 hh⟩⟩, ?_⟩
  · show execBra i s = _
    simp only [execBra, hin hs, hnear, if_true]
  · show execCall x i s = _
    simp only [execCall, hin hs, hnear, if_true, pc]
  · intro u d hd off target a hlo hhi h0 hh
    have hside : SideOnly s u := (descOf_side ..).of_eq hd
    have htarget : relTarget u.w (imm12w s.w i).toInt = target := by
      rw [hside.w, relTarget_ofInt, ← setWidth_eq_ofInt]
    have hcode : inCode (some d) a = true := by simp [inCode, hlo, hhi]
    let v : State := if link then { u with w := u.w.setS x (pc + 4) } else u
    have hv : v.t = s.t := by simp only [v]; split <;> exact hside.t
    refine ⟨transferFar v target, ?_, transferFar_jumped v target h0 (hv ▸ hh)⟩
    show execFjmp link x i s = _
    simp only [execFjmp, pc, a] at hd hcode ⊢
    simp only [hd, hcode, htarget, if_true]
    rfl

/-- Settles O7: the header's tests by the flags and copies that they read, and every transfer by the one of `transfer`. -/
theorem clausesAndTransfers : Obligations.ClausesAndTransfers := ⟨clauseWords, transfers⟩

end Sys2Proof.Machine
end

section
/-! PROOFS. The live lanes of a path table, and entries that wait at one instruction and merge (R22, R23, R25). -/

namespace Sys2Proof.Machine

/-! Live lanes. -/

/-- The union of the masks of the entries that are in use, as `Wave.live` folds them. -/
def liveOf (ps : List Entry) : W32 := ps.foldl (fun m e => if e.st = .free then m else m ||| e.mask) 0

theorem live_eq_liveOf (w : Wave) : w.live = liveOf w.paths := rfl

theorem foldl_live_getLsbD (ps : List Entry) (m : W32) (k : Nat) :
    (ps.foldl (fun m e => if e.st = .free then m else m ||| e.mask) m).getLsbD k = true ↔
      m.getLsbD k = true ∨ ∃ e ∈ ps, e.st ≠ .free ∧ e.mask.getLsbD k = true := by
  induction ps generalizing m with
  | nil => simp
  | cons e ps ih =>
    rw [List.foldl_cons, ih]
    by_cases h : e.st = .free <;> simp [h, or_assoc]

/-- A lane is live where an entry in use has it (R22). -/
theorem liveOf_getLsbD (ps : List Entry) (k : Nat) :
    (liveOf ps).getLsbD k = true ↔ ∃ e ∈ ps, e.st ≠ .free ∧ e.mask.getLsbD k = true := by
  simp [liveOf, foldl_live_getLsbD]

/-- Masks that the same lanes are in are equal. -/
theorem mask_ext {a b : W32} (h : ∀ k, a.getLsbD k = true ↔ b.getLsbD k = true) : a = b :=
  BitVec.eq_of_getLsbD_eq fun k _ => Bool.eq_iff_iff.2 (h k)

theorem mask_eq_zero_iff (a : W32) : a = 0 ↔ ∀ k, a.getLsbD k = false := by
  constructor
  · rintro rfl k; simp
  · intro h; exact mask_ext fun k => by simp [h k]

/-- The lanes of `a` are among those of `b`. -/
theorem sub_mask_iff (a b : W32) : a &&& ~~~b = 0 ↔ ∀ k, a.getLsbD k = true → b.getLsbD k = true := by
  rw [mask_eq_zero_iff]
  refine forall_congr' fun k => ?_
  by_cases hk : k < 32
  · simp only [BitVec.getLsbD_and, BitVec.getLsbD_not, hk, decide_true, Bool.true_and]
    cases a.getLsbD k <;> cases b.getLsbD k <;> simp
  · simp [BitVec.getLsbD_of_ge _ _ (Nat.le_of_not_lt hk)]

/-- Entries side by side with the same use and the same masks have the same live lanes. -/
theorem liveOf_congr {ps qs : List Entry} (h : List.Forall₂ (fun e e' => e'.st = .free ∧ e.st = .free ∨
    e'.st ≠ .free ∧ e.st ≠ .free ∧ e'.mask = e.mask) ps qs) : liveOf qs = liveOf ps := by
  unfold liveOf
  generalize (0 : W32) = m
  induction h generalizing m with
  | nil => rfl
  | cons hd _ ih =>
    rw [List.foldl_cons, List.foldl_cons]
    rcases hd with ⟨h, h'⟩ | ⟨h, h', hm⟩
    · rw [if_pos h, if_pos h']; exact ih m
    · rw [if_neg h, if_neg h', hm]; exact ih _

/-! Merging. -/

/-- The entry waits at the instruction at `pc`. -/
def Entry.waitsAt (pc : W64) (wait : WaitAt) (e : Entry) : Bool := e.st == .waitJoin && e.pc == pc && e.wait == wait

theorem waitsAt_iff (pc : W64) (wait : WaitAt) (e : Entry) : e.waitsAt pc wait = true ↔ e.st = .waitJoin ∧ e.pc = pc ∧ e.wait = wait := by
  simp [Entry.waitsAt, and_assoc]

/-- The union of the masks of entries. -/
def unionOf (es : List Entry) : W32 := es.foldl (fun m e => m ||| e.mask) 0

theorem unionOf_getLsbD (es : List Entry) (k : Nat) : (unionOf es).getLsbD k = true ↔ ∃ e ∈ es, e.mask.getLsbD k = true := by
  have h (m : W32) : (es.foldl (fun m e => m ||| e.mask) m).getLsbD k = true ↔ m.getLsbD k = true ∨ ∃ e ∈ es, e.mask.getLsbD k = true := by
    induction es generalizing m with
    | nil => simp
    | cons e es ih => rw [List.foldl_cons, ih]; simp [or_assoc]
  simp [unionOf, h]

theorem wake_mask (w : Wave) (e : Entry) (n : Nat) : (w.wake e n).mask = e.mask := by unfold Wave.wake; split <;> rfl
theorem wake_pc (w : Wave) (e : Entry) (n : Nat) : (w.wake e n).pc = e.pc := by unfold Wave.wake; split <;> rfl
theorem wake_st (w : Wave) (e : Entry) (n : Nat) : (w.wake e n).st = .run ∨ (w.wake e n).st = .ready := by
  unfold Wave.wake; split
  · exact .inl rfl
  · exact .inr rfl

/-- `ps` beside a path table in which the entries that waited at one instruction have merged into `e`. -/
def MergedInto (here : Entry → Bool) (e : Entry) (ps qs : List Entry) : Prop :=
  List.Forall₂ (fun x y => if here x = true then y = {} ∨ y = e else y = x) ps qs ∧ e ∈ qs

/-- Entries that wait at one instruction merge into one of them, which goes on behind it with the lanes of all (R23). -/
theorem mergeAt_spec (w : Wave) (pc : W64) (wait : WaitAt) (len stamp : Nat) :
    w.mergeAt pc wait len stamp = { w with paths := (w.mergeAt pc wait len stamp).paths } ∧
    ((∀ e ∈ w.paths, e.waitsAt pc wait = false) → w.mergeAt pc wait len stamp = w) ∧
    ((∃ e ∈ w.paths, e.waitsAt pc wait = true) → ∃ e : Entry, (e.st = .run ∨ e.st = .ready) ∧ e.pc = pc + BitVec.ofNat 64 len ∧
      e.mask = unionOf (w.paths.filter (Entry.waitsAt pc wait)) ∧
      MergedInto (Entry.waitsAt pc wait) e w.paths (w.mergeAt pc wait len stamp).paths) := by
  unfold Wave.mergeAt
  extract_lets here es last m e₀ e
  have hhere : here = Entry.waitsAt pc wait := rfl
  clear_value here
  subst hhere
  cases hi : w.paths.findIdx? (Entry.waitsAt pc wait) with
  | none =>
    refine ⟨rfl, fun _ => rfl, fun ⟨e, he, h⟩ => ?_⟩
    rw [List.findIdx?_eq_none_iff] at hi
    simp [hi e he] at h
  | some i =>
    obtain ⟨hlt, hp, -⟩ := List.findIdx?_eq_some_iff_getElem.1 hi
    refine ⟨rfl, fun h => ?_, fun _ => ?_⟩
    · simp [h _ (List.getElem_mem hlt)] at hp
    · dsimp only
      refine ⟨e, wake_st .., wake_pc .., wake_mask .., ?_, List.mem_iff_getElem.2 ⟨i, by simpa using hlt, by simp⟩⟩
      refine List.forall₂_iff_get.2 ⟨by simp, fun n h _ => ?_⟩
      rw [List.get_eq_getElem, List.get_eq_getElem, List.getElem_set]
      by_cases hn : i = n
      · subst hn; simp [hp]
      · rw [if_neg hn, List.getElem_map]
        cases hx : (w.paths[n].waitsAt pc wait) <;> simp

/-- A merge keeps the live lanes. -/
theorem MergedInto.live {here : Entry → Bool} {e : Entry} {ps qs : List Entry} (h : MergedInto here e ps qs)
    (hhere : ∀ x, here x = true → x.st ≠ .free) (hst : e.st ≠ .free) (hmask : e.mask = unionOf (ps.filter here)) :
    liveOf qs = liveOf ps := by
  obtain ⟨hall, hmem⟩ := h
  refine mask_ext fun k => ?_
  rw [liveOf_getLsbD, liveOf_getLsbD]
  constructor
  · rintro ⟨y, hy, hyst, hyk⟩
    obtain ⟨n, hn, rfl⟩ := List.mem_iff_getElem.1 hy
    have hlen := hall.length_eq
    have hp := (List.forall₂_iff_get.1 hall).2 n (by omega) hn
    simp only [List.get_eq_getElem] at hp
    split at hp
    · rcases hp with hp | hp
      · simp [hp] at hyst
      · rw [hp, hmask, unionOf_getLsbD] at hyk
        obtain ⟨x, hx, hxk⟩ := hyk
        exact ⟨x, (List.mem_filter.1 hx).1, hhere x (List.mem_filter.1 hx).2, hxk⟩
    · rw [hp] at hyst hyk; exact ⟨_, List.getElem_mem _, hyst, hyk⟩
  · rintro ⟨x, hx, hxst, hxk⟩
    obtain ⟨n, hn, rfl⟩ := List.mem_iff_getElem.1 hx
    have hlen := hall.length_eq
    have hp := (List.forall₂_iff_get.1 hall).2 n hn (by omega)
    simp only [List.get_eq_getElem] at hp
    split at hp
    · refine ⟨e, hmem, hst, ?_⟩
      rw [hmask, unionOf_getLsbD]
      exact ⟨_, List.mem_filter.2 ⟨List.getElem_mem _, ‹_›⟩, hxk⟩
    · exact ⟨_, List.getElem_mem (by omega), hp ▸ hxst, hp ▸ hxk⟩

/-- A test that no entry concerned meets finds the same entries, in their order, after a merge. -/
theorem MergedInto.filter_eq {here : Entry → Bool} {e : Entry} {ps qs : List Entry} (h : MergedInto here e ps qs) (p : Entry → Bool)
    (hp : ∀ x, p x = true → here x = false) (h0 : p {} = false) (he : p e = false) : qs.filter p = ps.filter p := by
  obtain ⟨hall, -⟩ := h
  induction hall with
  | nil => rfl
  | @cons x y ps qs hxy _ ih =>
    rw [List.filter_cons, List.filter_cons, ih]
    split at hxy
    · have hx : p x = false := by
        cases hpx : p x with
        | false => rfl
        | true => simp [hp x hpx] at *
      have hy : p y = false := by rcases hxy with rfl | rfl <;> assumption
      simp [hx, hy]
    · rw [hxy]

/-- What a merge leaves in the path table: entries that do not wait there, unused ones, and the merged one. -/
theorem MergedInto.mem {here : Entry → Bool} {e : Entry} {ps qs : List Entry} (h : MergedInto here e ps qs) {y : Entry} (hy : y ∈ qs) :
    (y ∈ ps ∧ here y = false) ∨ y = {} ∨ y = e := by
  obtain ⟨hall, -⟩ := h
  induction hall with
  | nil => cases hy
  | @cons x z ps qs hxz _ ih =>
    rcases List.mem_cons.1 hy with rfl | hy
    · split at hxz
      · exact .inr hxz
      · subst hxz
        exact .inl ⟨List.mem_cons_self .., by simpa using ‹¬ here y = true›⟩
    · rcases ih hy with ⟨h, h'⟩ | h
      · exact .inl ⟨List.mem_cons_of_mem _ h, h'⟩
      · exact .inr h

/-- Every entry that does not wait there stays. -/
theorem MergedInto.mem_of {here : Entry → Bool} {e : Entry} {ps qs : List Entry} (h : MergedInto here e ps qs) {x : Entry} (hx : x ∈ ps)
    (hh : here x = false) : x ∈ qs := by
  obtain ⟨hall, -⟩ := h
  induction hall with
  | nil => cases hx
  | @cons z y ps qs hzy _ ih =>
    rcases List.mem_cons.1 hx with rfl | hx
    · rw [if_neg (by simp [hh])] at hzy
      exact hzy ▸ List.mem_cons_self ..
    · exact List.mem_cons_of_mem _ (ih hx)

theorem mem_eraseDups (l : List W64) (a : W64) : a ∈ l.eraseDups ↔ a ∈ l := by
  induction hn : l.length using Nat.strong_induction_on generalizing l with
  | _ n ih =>
    cases l with
    | nil => simp
    | cons b l =>
      have hlen : (l.filter fun x => !x == b).length < n := by
        have := List.length_filter_le (fun x => !x == b) l
        simp at hn; omega
      rw [List.eraseDups_cons, List.mem_cons, ih _ hlen _ rfl, List.mem_filter, List.mem_cons]
      by_cases h : a = b <;> simp [h]

/-! Joins (R25). -/

/-- The step of `tryJoins` at one address. -/
def joinStep (s : State) (pc : W64) : State :=
  let es := s.w.paths.filter fun e => e.st == .waitJoin && e.wait == .join && e.pc == pc
  let last := es.foldl (fun a e => if a.age ≤ e.age then e else a) (es.getD 0 {})
  let here := es.foldl (fun m e => m ||| e.mask) 0
  if (here ||| ~~~s.w.live) &&& last.joinMask = last.joinMask then
    { s with w := s.w.mergeAt pc .join (joinLen s.t pc) s.order, order := s.order + 1 }
  else s

theorem tryJoins_eq (s : State) :
    tryJoins s = (((s.w.paths.filter fun e => e.st == .waitJoin && e.wait == .join).map (·.pc)).eraseDups).foldl joinStep s := rfl

/-- The entries that wait at the RJOIN at `pc`. -/
def joinsAt (ps : List Entry) (pc : W64) : List Entry := ps.filter (Entry.waitsAt pc .join)

theorem filter_join_eq (ps : List Entry) (pc : W64) :
    (ps.filter fun e => e.st == .waitJoin && e.wait == .join && e.pc == pc) = joinsAt ps pc := by
  refine List.filter_congr fun e _ => ?_
  simp only [Entry.waitsAt]
  cases e.st == .waitJoin <;> cases e.wait == WaitAt.join <;> cases e.pc == pc <;> rfl

/-- The latest of some entries is one of them. -/
theorem latest_mem (es : List Entry) (a : Entry) (ha : a ∈ es) :
    es.foldl (fun a e => if a.age ≤ e.age then e else a) a ∈ es := by
  have h (xs : List Entry) (hxs : ∀ x ∈ xs, x ∈ es) (a : Entry) (ha : a ∈ es) :
      xs.foldl (fun a e => if a.age ≤ e.age then e else a) a ∈ es := by
    induction xs generalizing a with
    | nil => exact ha
    | cons x xs ih =>
      rw [List.foldl_cons]
      refine ih (fun y hy => hxs y (List.mem_cons_of_mem _ hy)) _ ?_
      split
      · exact hxs x (List.mem_cons_self ..)
      · exact ha
  exact h es (fun _ h => h) a ha

/-- A join at `pc` is complete: no live lane of the value of Mx read last is missing there. -/
def joinDone (ps : List Entry) (pc : W64) : Prop :=
  let es := joinsAt ps pc
  let last := es.foldl (fun a e => if a.age ≤ e.age then e else a) (es.getD 0 {})
  (unionOf es ||| ~~~liveOf ps) &&& last.joinMask = last.joinMask

theorem joinStep_eq (s : State) (pc : W64) [Decidable (joinDone s.w.paths pc)] : joinStep s pc =
    if joinDone s.w.paths pc then { s with w := s.w.mergeAt pc .join (joinLen s.t pc) s.order, order := s.order + 1 } else s := by
  unfold joinStep
  simp only [filter_join_eq]
  by_cases h : joinDone s.w.paths pc
  · rw [if_pos h]; exact if_pos h
  · rw [if_neg h]; exact if_neg h

/-- What completing joins changes: some entries that wait at joins go on, and the count of orders. -/
def JoinsTried (s t : State) : Prop :=
  t = { s with w := { s.w with paths := t.w.paths }, order := t.order } ∧ liveOf t.w.paths = liveOf s.w.paths ∧
  (∀ x ∈ s.w.paths, (∀ pc, x.waitsAt pc .join = false) → x ≠ {} → x ∈ t.w.paths) ∧
  ∀ x ∈ t.w.paths, ∀ pc, x.waitsAt pc .join = true → x ∈ s.w.paths

theorem JoinsTried.refl (s : State) : JoinsTried s s := ⟨rfl, rfl, fun _ h _ _ => h, fun _ h _ _ => h⟩

theorem JoinsTried.trans {s t u : State} (h : JoinsTried s t) (k : JoinsTried t u) : JoinsTried s u := by
  obtain ⟨he, hl, hk, hw⟩ := h
  obtain ⟨ke, kl, kk, kw⟩ := k
  refine ⟨?_, kl.trans hl, fun x hx hj h0 => kk x (hk x hx hj h0) hj h0, fun x hx pc hp => hw x (kw x hx pc hp) pc hp⟩
  rw [ke, he]

theorem empty_waitsAt (pc : W64) (w : WaitAt) : ({} : Entry).waitsAt pc w = false := rfl

theorem waitsAt_false_of_going {e : Entry} (h : e.st = .run ∨ e.st = .ready) (pc : W64) (w : WaitAt) : e.waitsAt pc w = false := by
  rcases h with h | h <;> simp [Entry.waitsAt, h]

/-- One join: the others stay as they are; a complete one goes on behind it, and an incomplete one waits on. -/
theorem joinStep_spec (s : State) (pc : W64) :
    JoinsTried s (joinStep s pc) ∧
    (∀ q, q ≠ pc ∨ ¬ joinDone s.w.paths q → joinsAt (joinStep s pc).w.paths q = joinsAt s.w.paths q) ∧
    (joinDone s.w.paths pc → joinsAt (joinStep s pc).w.paths pc = [] ∧
      (joinsAt s.w.paths pc ≠ [] → ∃ e ∈ (joinStep s pc).w.paths, (e.st = .run ∨ e.st = .ready) ∧
        e.pc = pc + BitVec.ofNat 64 (joinLen s.t pc) ∧ e.mask = unionOf (joinsAt s.w.paths pc))) := by
  classical
  rw [joinStep_eq]
  by_cases hdone : joinDone s.w.paths pc
  · rw [if_pos hdone]
    obtain ⟨hframe, hnone, hsome⟩ := mergeAt_spec s.w pc .join (joinLen s.t pc) s.order
    by_cases hex : ∃ e ∈ s.w.paths, e.waitsAt pc .join = true
    · obtain ⟨e, hst, hpc, hmask, hm⟩ := hsome hex
      refine ⟨⟨?_, ?_, fun x hx hj _ => hm.mem_of hx (hj pc), fun x hx q hq => ?_⟩, fun q hq => ?_, fun _ => ⟨?_, fun _ => ⟨e, hm.2, hst, hpc, hmask⟩⟩⟩
      · conv_lhs => rw [hframe]
      · refine hm.live (fun x hx => ?_) (by rcases hst with h | h <;> simp [h]) hmask
        rw [waitsAt_iff] at hx; simp [hx.1]
      · rcases hm.mem hx with h | rfl | rfl
        · exact h.1
        · rw [empty_waitsAt] at hq; cases hq
        · simp [waitsAt_false_of_going hst] at hq
      · have hne : q ≠ pc := hq.elim id fun h e => h (e ▸ hdone)
        refine hm.filter_eq _ (fun x hx => ?_) (empty_waitsAt ..) (waitsAt_false_of_going hst ..)
        rw [waitsAt_iff] at hx
        simp [Entry.waitsAt, hx.2.1, hne]
      · refine List.filter_eq_nil_iff.2 fun x hx => ?_
        rcases hm.mem hx with h | rfl | rfl
        · simp [h.2]
        · exact Bool.false_ne_true
        · simp [waitsAt_false_of_going hst]
    · have hno : ∀ e ∈ s.w.paths, e.waitsAt pc .join = false := fun e he => by
        simpa using fun h => hex ⟨e, he, h⟩
      have hnil : joinsAt s.w.paths pc = [] := List.filter_eq_nil_iff.2 fun x hx => by simp [hno x hx]
      rw [hnone hno]
      exact ⟨⟨rfl, rfl, fun _ h _ _ => h, fun _ h _ _ => h⟩, fun _ _ => rfl, fun _ => ⟨hnil, fun h => (h hnil).elim⟩⟩
  · rw [if_neg hdone]
    exact ⟨.refl s, fun _ _ => rfl, fun h => (hdone h).elim⟩

theorem joinDone_congr {ps qs : List Entry} {pc : W64} (h : joinsAt qs pc = joinsAt ps pc) (hl : liveOf qs = liveOf ps) :
    joinDone qs pc ↔ joinDone ps pc := by
  unfold joinDone; rw [h, hl]

/-- Joins tried at some addresses: what is complete there goes on, and what is not waits on. -/
theorem foldl_joinStep_spec (pcs : List W64) (s : State) :
    JoinsTried s (pcs.foldl joinStep s) ∧
    (∀ q, ¬ joinDone s.w.paths q → joinsAt (pcs.foldl joinStep s).w.paths q = joinsAt s.w.paths q) ∧
    (∀ q ∈ pcs, joinDone s.w.paths q → joinsAt s.w.paths q ≠ [] → joinsAt (pcs.foldl joinStep s).w.paths q = [] ∧
      ∃ e ∈ (pcs.foldl joinStep s).w.paths, (e.st = .run ∨ e.st = .ready) ∧
        e.pc = q + BitVec.ofNat 64 (joinLen s.t q) ∧ e.mask = unionOf (joinsAt s.w.paths q)) ∧
    ∀ q, joinsAt s.w.paths q = [] → joinsAt (pcs.foldl joinStep s).w.paths q = [] := by
  induction pcs generalizing s with
  | nil => exact ⟨.refl s, fun _ _ => rfl, fun _ h => absurd h List.not_mem_nil, fun _ h => h⟩
  | cons pc pcs ih =>
    rw [List.foldl_cons]
    obtain ⟨hstep, hother, hhere⟩ := joinStep_spec s pc
    obtain ⟨htail, hwait, hgo, hnil⟩ := ih (joinStep s pc)
    have hteam : (joinStep s pc).t = s.t := by rw [hstep.1]
    have hkeep (q : W64) (h : q ≠ pc ∨ ¬ joinDone s.w.paths q) : joinDone (joinStep s pc).w.paths q ↔ joinDone s.w.paths q :=
      joinDone_congr (hother q h) hstep.2.1
    have hnil1 (q : W64) (h : joinsAt s.w.paths q = []) : joinsAt (joinStep s pc).w.paths q = [] := by
      by_cases hq : q = pc ∧ joinDone s.w.paths q
      · obtain ⟨rfl, hd⟩ := hq; exact (hhere hd).1
      · rw [hother q (by tauto)]; exact h
    refine ⟨hstep.trans htail, fun q hq => ?_, fun q hq hdone hne => ?_, fun q h => hnil q (hnil1 q h)⟩
    · rw [hwait q (mt (hkeep q (.inr hq)).1 hq), hother q (.inr hq)]
    · by_cases hqp : q = pc
      · subst hqp
        obtain ⟨hempty, hmerged⟩ := hhere hdone
        obtain ⟨e, he, hst, hpc, hmask⟩ := hmerged hne
        refine ⟨hnil q hempty, e, htail.2.2.1 e he (fun p => waitsAt_false_of_going hst p _) ?_, hst, hpc, hmask⟩
        rintro rfl; rcases hst with h | h <;> simp at h
      · have h := hgo q ((List.mem_cons.1 hq).resolve_left hqp) ((hkeep q (.inl hqp)).2 hdone)
        rw [hother q (.inl hqp), hteam] at h
        exact h hne

/-- Joins that are complete go on, and the others wait on (R25). -/
theorem tryJoins_spec (s : State) :
    JoinsTried s (tryJoins s) ∧
    (∀ q, ¬ joinDone s.w.paths q → joinsAt (tryJoins s).w.paths q = joinsAt s.w.paths q) ∧
    ∀ q, joinDone s.w.paths q → joinsAt s.w.paths q ≠ [] → joinsAt (tryJoins s).w.paths q = [] ∧
      ∃ e ∈ (tryJoins s).w.paths, (e.st = .run ∨ e.st = .ready) ∧
        e.pc = q + BitVec.ofNat 64 (joinLen s.t q) ∧ e.mask = unionOf (joinsAt s.w.paths q) := by
  rw [tryJoins_eq]
  obtain ⟨htried, hwait, hgo, -⟩ := foldl_joinStep_spec
    (((s.w.paths.filter fun e => e.st == .waitJoin && e.wait == .join).map (·.pc)).eraseDups) s
  refine ⟨htried, hwait, fun q hdone hne => hgo q ?_ hdone hne⟩
  obtain ⟨x, hx⟩ := List.exists_mem_of_ne_nil _ hne
  obtain ⟨hx, hq⟩ := List.mem_filter.1 hx
  rw [waitsAt_iff] at hq
  rw [mem_eraseDups]
  exact List.mem_map.2 ⟨x, List.mem_filter.2 ⟨hx, by simp [hq.1, hq.2.2]⟩, hq.2.1⟩

end Sys2Proof.Machine
end

section
/-! PROOFS. Diverging paths, joins and yields (R23 to R25, R28, R104, R108, R109). -/

namespace Sys2Proof.Machine

/-! Entries past an instruction. -/

/-- The running entry past an instruction, but for its counts of opportunities. -/
def Entry.past (len : Nat) (lw : Bool) (e : Entry) : Entry :=
  { e with
    pc := e.pc + BitVec.ofNat 64 len
    clause := e.clause.map fun c => { c with count := c.count + 1, ext := none, lw := c.lw || lw }
    body := e.body.map fun b => { b with count := b.count + 1 }
    blocked := none, only := none }

/-- Moving past an instruction changes the running entry as said, and counts. -/
theorem advance_paths (s : State) (len : Nat) (lw fair : Bool) : ∃ g : Entry → Entry,
    (s.advance len lw fair).w.paths = s.w.paths.map g ∧
    ∀ e, ∃ m n, (fair = false → m = e.fair) ∧ g e = { (if e.st = .run then e.past len lw else e) with fair := m, starve := n } := by
  obtain ⟨-, hcount⟩ := count_spec { s with w := { (s.w.onCur (Entry.past len lw)) with issued := s.w.issued + 1, cmpOk := false }, stalled := false } fair true
  have hw : (s.advance len lw fair).w.paths = (({ (s.w.onCur (Entry.past len lw)) with issued := s.w.issued + 1, cmpOk := false } : Wave).countOpp fair true).paths :=
    congrArg (fun t : State => t.w.paths) hcount
  rw [hw, Wave.countOpp]
  split
  · exact ⟨fun e => if e.st = .run then e.past len lw else e, rfl, fun e => ⟨e.fair, e.starve, fun _ => rfl, by
      by_cases h : e.st = .run <;> simp [h, Entry.past]⟩⟩
  · refine ⟨_, List.map_map, fun e => ?_⟩
    by_cases h : e.st = .run
    · have hp : (e.past len lw).st = .run := h
      cases fair
      · exact ⟨e.fair, e.starve, fun _ => rfl, by simp [Function.comp, h, Entry.past]⟩
      · exact ⟨e.fair + 1, e.starve, fun h => absurd h (by simp), by simp [Function.comp, h, Entry.past]⟩
    · by_cases hr : e.st = .ready
      · exact ⟨e.fair, e.starve + 1, fun _ => rfl, by simp [Function.comp, hr]⟩
      · exact ⟨e.fair, e.starve, fun _ => rfl, by simp [Function.comp, h, hr]⟩

/-- The running entry and its index. -/
theorem runIdx_some {w : Wave} {i : Nat} (h : w.runIdx = some i) : w.paths[i]? = some w.cur ∧ w.cur.st = .run := by
  obtain ⟨hlt, hp, hmin⟩ := List.findIdx?_eq_some_iff_getElem.1 h
  have hcur : w.cur = w.paths[i] := by
    unfold Wave.cur
    have : w.paths.find? (·.st == .run) = some w.paths[i] :=
      List.find?_eq_some_iff_getElem.2 ⟨hp, i, hlt, rfl, fun j hj => by simpa using hmin j hj⟩
    rw [this]; rfl
  exact ⟨by rw [hcur]; exact List.getElem?_eq_getElem hlt, by rw [hcur]; simpa using hp⟩

theorem cur_of_no_run {w : Wave} (h : w.runIdx = none) : w.cur = {} := by
  unfold Wave.cur
  have h := List.findIdx?_eq_none_iff.1 h
  rw [List.find?_eq_none.2 fun x hx => by simp [h x hx]]
  rfl

/-- Side by side path tables whose entries have the same states have the same running index. -/
theorem runIdx_congr {w v : Wave} {R : Entry → Entry → Prop} (h : List.Forall₂ R w.paths v.paths) (hR : ∀ e e', R e e' → e'.st = e.st) :
    v.runIdx = w.runIdx := by
  unfold Wave.runIdx
  generalize w.paths = ps, v.paths = qs at h
  induction h with
  | nil => rfl
  | cons hd _ ih => rw [List.findIdx?_cons, List.findIdx?_cons, ih, hR _ _ hd]

/-- What is true of entries side by side is true of the running ones. -/
theorem cur_of_forall₂ {w v : Wave} {R : Entry → Entry → Prop} (h : List.Forall₂ R w.paths v.paths) (hR : ∀ e e', R e e' → e'.st = e.st)
    (h0 : R {} {}) : R w.cur v.cur := by
  have hidx := runIdx_congr h hR
  cases hi : w.runIdx with
  | none => rw [cur_of_no_run hi, cur_of_no_run (hidx.trans hi)]; exact h0
  | some i =>
    have hw := (runIdx_some hi).1
    have hv := (runIdx_some (hidx.trans hi)).1
    obtain ⟨hlt, hw⟩ := List.getElem?_eq_some_iff.1 hw
    obtain ⟨hlt', hv⟩ := List.getElem?_eq_some_iff.1 hv
    have := (List.forall₂_iff_get.1 h).2 i hlt hlt'
    rwa [List.get_eq_getElem, List.get_eq_getElem, hw, hv] at this

theorem findIdx_free_congr {ps qs : List Entry} {R : Entry → Entry → Prop} (h : List.Forall₂ R ps qs) (hR : ∀ e e', R e e' → e'.st = e.st) :
    qs.findIdx? (·.st == .free) = ps.findIdx? (·.st == .free) := by
  induction h with
  | nil => rfl
  | cons hd _ ih => rw [List.findIdx?_cons, List.findIdx?_cons, ih, hR _ _ hd]

/-- The entry at a position past an instruction. -/
theorem forall₂_getElem? {α β : Type} {R : α → β → Prop} {xs : List α} {ys : List β} (h : List.Forall₂ R xs ys) {n : Nat} {x : α}
    (hx : xs[n]? = some x) : ∃ y, ys[n]? = some y ∧ R x y := by
  obtain ⟨hlt, rfl⟩ := List.getElem?_eq_some_iff.1 hx
  have hlt' : n < ys.length := h.length_eq ▸ hlt
  exact ⟨ys[n], List.getElem?_eq_getElem hlt', (List.forall₂_iff_get.1 h).2 n hlt hlt'⟩

theorem EntryPast.st_eq {len : Nat} {e e' : Entry} (h : EntryPast len e e') : e'.st = e.st := h.1

theorem entryPast_empty (len : Nat) : EntryPast len {} {} := ⟨rfl, rfl, rfl, rfl, rfl, by simp⟩

/-! Full path tables. -/

theorem report_mem (w : Wave) (r : Report) : r ∈ (w.report r).reports := by
  unfold Wave.report
  dsimp only
  split
  · rename_i h
    obtain ⟨x, hx, hc⟩ := List.any_eq_true.1 h
    exact List.mem_map.2 ⟨x, hx, by simp [beq_iff_eq.1 hc]⟩
  · simp

/-- Counting keeps the live lanes. -/
theorem countOpp_live (w : Wave) (fair starve : Bool) : (w.countOpp fair starve).live = w.live := by
  obtain ⟨-, g, hpaths, hg⟩ := countOpp_spec w fair starve
  rw [live_eq_liveOf, live_eq_liveOf, hpaths]
  refine liveOf_congr (List.forall₂_map_right_iff.2 (List.forall₂_same.2 fun e _ => ?_))
  obtain ⟨m, n, h⟩ := hg e
  rw [h]
  by_cases hst : e.st = .free
  · exact .inl ⟨hst, hst⟩
  · exact .inr ⟨hst, hst, rfl⟩

/-- A split with a full path table reports it, and changes nothing but the reports, the counts and the grant (R24). -/
theorem pathFull_spec (s : State) :
    (∃ r ∈ (pathFull s).w.reports, r.cause = 48 ∧ r.detail = 1 ∧ r.lanes = s.w.cur.mask) ∧ (pathFull s).granted = false ∧
    (pathFull s).w.lanes = s.w.lanes ∧ (pathFull s).w.live = s.w.live ∧ (pathFull s).w.s = s.w.s ∧ (pathFull s).w.m = s.w.m ∧
    (pathFull s).mem = s.mem := by
  unfold pathFull State.abandon
  set r : Report := { cause := 48, detail := 1, pc := s.w.issuePc, lanes := s.w.cur.mask } with hr
  obtain ⟨-, hcount⟩ := count_spec { s with w := s.w.report r } true true
  obtain ⟨hw, -⟩ := countOpp_spec (s.w.report r) true true
  rw [hcount]
  exact ⟨⟨r, by rw [hw]; exact report_mem s.w r, rfl, rfl, rfl⟩, rfl, by rw [hw]; rfl, countOpp_live .., by rw [hw]; rfl, by rw [hw]; rfl, rfl⟩

/-! BRD. -/

/-- The running entry split: the lanes `taken` in the free entry `k`, the rest READY where it is (R23, R104). -/
theorem split_spec (w : Wave) (taken : W32) (f : Entry → Entry) (stamp k : Nat) (hk : w.paths.findIdx? (·.st == .free) = some k) :
    w.split taken f stamp = { w with paths := (w.split taken f stamp).paths } ∧
    (w.split taken f stamp).paths.length = w.paths.length ∧
    (w.split taken f stamp).paths[k]? = some (f { w.cur with mask := taken, fair := 0, starve := 0, st := .run }) ∧
    ∀ n, n ≠ k → (w.split taken f stamp).paths[n]? = w.paths[n]?.map fun e =>
      if e.st = .run then { e with mask := e.mask &&& ~~~taken, st := .ready, age := stamp, starve := 0, fair := 0 } else e := by
  have hlt : k < w.paths.length := (List.findIdx?_eq_some_iff_getElem.1 hk).1
  unfold Wave.split
  rw [hk]
  refine ⟨rfl, by simp [Wave.onCur], by simp [Wave.onCur, hlt], fun n hn => ?_⟩
  simp [Wave.onCur, List.getElem?_set_ne (Ne.symm hn)]

theorem divergence : Claims.Divergence := by
  intro s m i target taken rest hin
  obtain ⟨hpaths, hdue, hrest⟩ := advance_past s 4 false true
  refine ⟨fun h0 => ⟨_, ?_, advance_past s 4 false true⟩, fun h0 h1 hh => ⟨_, ?_, transfer_jumped s target 4 hh⟩,
    fun k h0 h1 hused hh hk => ⟨{ s.advance 4 with
      w := (s.advance 4).w.split taken (fun x => { x with pc := target, clause := none }) (s.advance 4).order
      order := (s.advance 4).order + 1 }, ?_, ?_⟩, fun h0 h1 hused => ⟨_, ?_, pathFull_spec s⟩⟩
  · show execBrd m i s = _
    simp only [taken] at h0
    simp only [execBrd, hin, h0, if_true]
  · show execBrd m i s = _
    simp only [taken, rest] at h0 h1
    simp only [execBrd, hin, h0, h1, if_true, if_false, target]
  · show execBrd m i s = _
    simp only [taken, rest] at h0 h1
    simp only [execBrd, hin, h0, h1, hh, Nat.not_le.2 hused, if_true, if_false, target, taken]
  · have hk' : (s.advance 4).w.paths.findIdx? (·.st == .free) = some k := by
      rw [findIdx_free_congr hpaths fun _ _ h => h.st_eq]; exact hk
    obtain ⟨hframe, hlen, hat, hother⟩ := split_spec (s.advance 4).w taken (fun x => { x with pc := target, clause := none }) (s.advance 4).order k hk'
    refine ⟨⟨?_, ⟨_, hat, rfl, rfl, rfl, rfl, ?_⟩, fun n p hn hp => ?_⟩, hdue, ?_⟩
    · exact hlen.trans hpaths.length_eq.symm
    · exact (cur_of_forall₂ hpaths (fun _ _ h => h.st_eq) (entryPast_empty 4)).2.2.1
    · obtain ⟨q, hq, hst, hmask, hregion, -, -, hpc⟩ := forall₂_getElem? hpaths hp
      refine ⟨_, by rw [hother n hn, hq]; rfl, ?_⟩
      by_cases hr : p.st = .run
      · rw [if_pos hr] at hpc
        simp [hst, hr, hmask, hregion, hpc.1]
      · rw [if_neg hr] at hpc
        simp [hst, hr, hmask, hregion, hpc.1]
    · rw [hframe, hrest]
  · show execBrd m i s = _
    simp only [taken, rest] at h0 h1
    simp only [execBrd, hin, h0, h1, hused, if_true, if_false]

end Sys2Proof.Machine
end

section
/-! PROOFS. RJOIN and YIELD (R25, R28, R108, R109). -/

namespace Sys2Proof.Machine

/-! RJOIN. -/

/-- An entry that has come to the RJOIN at `pc`, where the value of Mx is `v` (R25). -/
def Entry.joining (pc : W64) (v : W32) (stamp : Nat) (x : Entry) : Entry :=
  { x with st := .waitJoin, wait := .join, pc, clause := none, age := stamp, joinMask := v, blocked := none }

/-- The entries that wait at the RJOIN at `pc` take the value of Mx read last. -/
def rejoin (pc : W64) (v : W32) (ps : List Entry) : List Entry := ps.map fun x =>
  if x.st = .waitJoin ∧ x.wait = .join ∧ x.pc = pc then { x with joinMask := v } else x

/-- The state in which RJOIN tries the joins, with the path table `ps`. -/
def arriveWith (s a : State) (m : MReg) (ps : List Entry) : State :=
  { a with w := { a.w with paths := rejoin s.w.cur.pc (s.w.mask m) ps }, order := a.order + 1 }

/-- What the path table holds once the running entry of `s` has come to its RJOIN: the same live lanes; at `pc` those that waited there,
and beside them the lanes of Mx that arrive. -/
def Arrived (s : State) (v : W32) (ps : List Entry) : Prop :=
  let here := Entry.waitsAt s.w.cur.pc .join
  let inside := s.w.cur.mask &&& v
  liveOf ps = s.w.live ∧
  (∀ x ∈ ps, here x = true → x.mask = inside ∨ ∃ y ∈ s.w.paths, here y = true ∧ y.mask = x.mask) ∧
  (∀ y ∈ s.w.paths, here y = true → ∃ x ∈ ps, here x = true ∧ x.mask = y.mask) ∧
  (inside ≠ 0 → ∃ x ∈ ps, here x = true ∧ x.mask = inside)

theorem rejoin_waitsAt (pc q : W64) (v : W32) (x : Entry) :
    (if x.st = .waitJoin ∧ x.wait = .join ∧ x.pc = pc then { x with joinMask := v } else x).waitsAt q .join = x.waitsAt q .join := by
  split <;> rfl

/-- The entries at the RJOIN after they have taken the value of Mx. -/
theorem joinsAt_rejoin (pc : W64) (v : W32) (ps : List Entry) :
    joinsAt (rejoin pc v ps) pc = (joinsAt ps pc).map fun x => { x with joinMask := v } := by
  unfold joinsAt rejoin
  rw [List.filter_map]
  have h : Entry.waitsAt pc .join ∘ (fun x : Entry => if x.st = .waitJoin ∧ x.wait = .join ∧ x.pc = pc then { x with joinMask := v } else x) =
      Entry.waitsAt pc .join := funext fun x => rejoin_waitsAt pc pc v x
  rw [h]
  refine List.map_congr_left fun x hx => ?_
  obtain ⟨-, hx⟩ := List.mem_filter.1 hx
  rw [waitsAt_iff] at hx
  rw [if_pos ⟨hx.1, hx.2.2, hx.2.1⟩]

theorem liveOf_rejoin (pc : W64) (v : W32) (ps : List Entry) : liveOf (rejoin pc v ps) = liveOf ps := by
  refine liveOf_congr (List.forall₂_map_right_iff.2 (List.forall₂_same.2 fun e _ => ?_))
  split
  · rename_i h
    exact .inr ⟨by simp [h.1], by simp [h.1], rfl⟩
  · by_cases h : e.st = .free
    · exact .inl ⟨h, h⟩
    · exact .inr ⟨h, h, rfl⟩

/-- A join into which lanes have come is complete exactly where no live lane of Mx is missing. -/
theorem joinDone_rejoin (pc : W64) (v : W32) (ps : List Entry) (hne : joinsAt ps pc ≠ []) :
    joinDone (rejoin pc v ps) pc ↔ ∀ k, v.getLsbD k = true → (liveOf ps).getLsbD k = true → ∃ x ∈ ps, x.waitsAt pc .join = true ∧ x.mask.getLsbD k = true := by
  unfold joinDone
  rw [joinsAt_rejoin, liveOf_rejoin]
  extract_lets es last
  have hes : es ≠ [] := by simpa [es] using hne
  have hlast : last ∈ es := by
    obtain ⟨a, l, h⟩ := List.exists_cons_of_ne_nil hes
    exact latest_mem es _ (by simp [h])
  have hv : last.joinMask = v := by
    obtain ⟨x, -, h⟩ := List.mem_map.1 hlast
    rw [← h]
  have hbit (k : Nat) : (unionOf es).getLsbD k = true ↔ ∃ x ∈ ps, x.waitsAt pc .join = true ∧ x.mask.getLsbD k = true := by
    simp [unionOf_getLsbD, es, joinsAt, and_assoc]
  rw [hv]
  constructor
  · intro h k hk hl
    rw [← hbit]
    have := congrArg (fun m => BitVec.getLsbD m k) h
    simp only [BitVec.getLsbD_and, BitVec.getLsbD_or, BitVec.getLsbD_not, hl, hk, Bool.not_true, Bool.and_false, Bool.or_false, Bool.and_true] at this
    exact this
  · intro h
    refine mask_ext fun k => ?_
    simp only [BitVec.getLsbD_and, BitVec.getLsbD_or, BitVec.getLsbD_not, Bool.and_eq_true, Bool.or_eq_true, decide_eq_true_eq, Bool.not_eq_true']
    constructor
    · exact fun h => h.2
    · intro hk
      refine ⟨?_, hk⟩
      cases hl : (liveOf ps).getLsbD k with
      | true => exact .inl ((hbit k).2 (h k hk hl))
      | false => exact .inr ⟨by by_contra hge; simp [BitVec.getLsbD_of_ge v k (by omega)] at hk, rfl⟩

/-- Entries past an instruction have the same live lanes. -/
theorem liveOf_past {len : Nat} {ps qs : List Entry} (h : List.Forall₂ (EntryPast len) ps qs) : liveOf qs = liveOf ps := by
  refine liveOf_congr (h.imp fun e e' p => ?_)
  by_cases hf : e.st = .free
  · exact .inl ⟨p.1.trans hf, hf⟩
  · exact .inr ⟨fun h => hf (p.1.symm.trans h), hf, p.2.1⟩

/-- An entry in use that changes and keeps its lanes leaves the live lanes. -/
theorem liveOf_modify (ps : List Entry) (n : Nat) (f : Entry → Entry)
    (h : ∀ e, ps[n]? = some e → e.st ≠ .free ∧ (f e).st ≠ .free ∧ (f e).mask = e.mask) : liveOf (ps.modify n f) = liveOf ps := by
  refine liveOf_congr (List.forall₂_iff_get.2 ⟨by simp, fun i h1 h2 => ?_⟩)
  simp only [List.get_eq_getElem, List.getElem_modify]
  by_cases hn : n = i
  · subst hn
    obtain ⟨hst, hst', hm⟩ := h ps[n] (List.getElem?_eq_getElem h1)
    rw [if_pos rfl]
    exact .inr ⟨hst', hst, hm⟩
  · rw [if_neg hn]
    by_cases hf : ps[i].st = .free
    · exact .inl ⟨hf, hf⟩
    · exact .inr ⟨hf, hf, rfl⟩

theorem waitsAt_past {len : Nat} {e e' : Entry} (h : EntryPast len e e') (pc : W64) (w : WaitAt) : e'.waitsAt pc w = e.waitsAt pc w := by
  obtain ⟨hst, -, -, hwait, -, hpc⟩ := h
  by_cases hr : e.st = .run
  · rw [waitsAt_false_of_going (.inl hr), waitsAt_false_of_going (.inl (hst.trans hr))]
  · rw [if_neg hr] at hpc
    simp [Entry.waitsAt, hst, hwait, hpc.1]

theorem forall₂_mem_left {α β : Type} {R : α → β → Prop} {xs : List α} {ys : List β} (h : List.Forall₂ R xs ys) {x : α} (hx : x ∈ xs) :
    ∃ y ∈ ys, R x y := by
  obtain ⟨n, hn⟩ := List.mem_iff_getElem?.1 hx
  obtain ⟨y, hy, hr⟩ := forall₂_getElem? h hn
  exact ⟨y, List.mem_iff_getElem?.2 ⟨n, hy⟩, hr⟩

theorem forall₂_mem_right {α β : Type} {R : α → β → Prop} {xs : List α} {ys : List β} (h : List.Forall₂ R xs ys) {y : β} (hy : y ∈ ys) :
    ∃ x ∈ xs, R x y := forall₂_mem_left h.flip hy

/-- No lane of the running entry is in Mx: the path table is as the instruction leaves it. -/
theorem arrived_outside (s : State) (v : W32) (len : Nat) {ps : List Entry} (hps : List.Forall₂ (EntryPast len) s.w.paths ps)
    (h : s.w.cur.mask &&& v = 0) : Arrived s v ps := by
  refine ⟨liveOf_past hps, fun x hx hh => ?_, fun y hy hh => ?_, fun hn => (hn h).elim⟩
  · obtain ⟨y, hy, hp⟩ := forall₂_mem_right hps hx
    exact .inr ⟨y, hy, by rw [← waitsAt_past hp]; exact hh, hp.2.1.symm⟩
  · obtain ⟨x, hx, hp⟩ := forall₂_mem_left hps hy
    exact ⟨x, hx, by rw [waitsAt_past hp]; exact hh, hp.2.1⟩

/-- Every lane of the running entry is in Mx: all of it waits. -/
theorem arrived_whole (s : State) (v : W32) (len stamp run : Nat) {ps : List Entry} (hps : List.Forall₂ (EntryPast len) s.w.paths ps)
    (hrun : s.w.runIdx = some run) (h : s.w.cur.mask &&& ~~~v = 0) :
    Arrived s v (ps.modify run (Entry.joining s.w.cur.pc v stamp)) := by
  obtain ⟨hcur, hst⟩ := runIdx_some hrun
  obtain ⟨e, he, hp⟩ := forall₂_getElem? hps hcur
  have hin : s.w.cur.mask = s.w.cur.mask &&& v := by
    refine mask_ext fun k => ?_
    have := (sub_mask_iff ..).1 h k
    simp only [BitVec.getLsbD_and, Bool.and_eq_true]
    tauto
  have hat : (ps.modify run (Entry.joining s.w.cur.pc v stamp))[run]? = some (e.joining s.w.cur.pc v stamp) := by simp [he]
  have hother (n : Nat) (hn : n ≠ run) : (ps.modify run (Entry.joining s.w.cur.pc v stamp))[n]? = ps[n]? := by
    simp [Ne.symm hn]
  have hhere : (e.joining s.w.cur.pc v stamp).waitsAt s.w.cur.pc .join = true := by simp [Entry.joining, Entry.waitsAt]
  refine ⟨?_, fun x hx hh => ?_, fun y hy hh => ?_, fun _ => ⟨_, List.mem_iff_getElem?.2 ⟨run, hat⟩, hhere, hp.2.1.trans hin⟩⟩
  · rw [live_eq_liveOf, ← liveOf_past hps]
    refine liveOf_modify ps run _ fun x hx => ?_
    obtain rfl : e = x := Option.some.inj (he.symm.trans hx)
    exact ⟨by simp [hp.1, hst], by simp [Entry.joining], rfl⟩
  · obtain ⟨n, hn⟩ := List.mem_iff_getElem?.1 hx
    by_cases hr : n = run
    · subst hr
      rw [hat] at hn
      obtain rfl := Option.some.inj hn
      exact .inl (hp.2.1.trans hin)
    · rw [hother n hr] at hn
      obtain ⟨y, hy, hq⟩ := forall₂_mem_right hps (List.mem_iff_getElem?.2 ⟨n, hn⟩)
      exact .inr ⟨y, hy, by rw [← waitsAt_past hq]; exact hh, hq.2.1.symm⟩
  · obtain ⟨n, hn⟩ := List.mem_iff_getElem?.1 hy
    obtain ⟨x, hx, hq⟩ := forall₂_getElem? hps hn
    have hr : n ≠ run := by
      rintro rfl
      rw [hcur] at hn
      obtain rfl := Option.some.inj hn
      simp [Entry.waitsAt, hst] at hh
    exact ⟨x, List.mem_iff_getElem?.2 ⟨n, (hother n hr).trans hx⟩, by rw [waitsAt_past hq]; exact hh, hq.2.1⟩

/-- Some lanes of the running entry are in Mx: they wait in an entry of their own, and the rest goes on. -/
theorem arrived_split (s : State) (v : W32) (len stamp run i : Nat) {ps : List Entry} (e : Entry) (hps : List.Forall₂ (EntryPast len) s.w.paths ps)
    (hrun : s.w.runIdx = some run) (hfree : ps.findIdx? (·.st == .free) = some i) :
    Arrived s v ((ps.modify run fun x => { x with mask := s.w.cur.mask &&& ~~~v }).set i
      (Entry.joining s.w.cur.pc v stamp { e with mask := s.w.cur.mask &&& v })) := by
  obtain ⟨hcur, hst⟩ := runIdx_some hrun
  obtain ⟨r, hr, hp⟩ := forall₂_getElem? hps hcur
  obtain ⟨hi, hif, -⟩ := List.findIdx?_eq_some_iff_getElem.1 hfree
  have hne : i ≠ run := by
    rintro rfl
    have : ps[i] = r := by simpa [hi] using hr
    simp [this, hp.1, hst] at hif
  set new := Entry.joining s.w.cur.pc v stamp { e with mask := s.w.cur.mask &&& v } with hnew
  set qs := (ps.modify run fun x => { x with mask := s.w.cur.mask &&& ~~~v }).set i new with hqs
  have hati : qs[i]? = some new := by simp [hqs, hi]
  have hatr : qs[run]? = some { r with mask := s.w.cur.mask &&& ~~~v } := by simp [hqs, List.getElem?_set_ne hne, hr]
  have hother (n : Nat) (h1 : n ≠ i) (h2 : n ≠ run) : qs[n]? = ps[n]? := by
    simp [hqs, List.getElem?_set_ne (Ne.symm h1), Ne.symm h2]
  have hhere : new.waitsAt s.w.cur.pc .join = true := by simp [hnew, Entry.joining, Entry.waitsAt]
  refine ⟨?_, fun x hx hh => ?_, fun y hy hh => ?_, fun _ => ⟨new, List.mem_iff_getElem?.2 ⟨i, hati⟩, hhere, rfl⟩⟩
  · rw [live_eq_liveOf, ← liveOf_past hps]
    refine mask_ext fun k => ?_
    rw [liveOf_getLsbD, liveOf_getLsbD]
    have hrk : r.mask = s.w.cur.mask := hp.2.1
    constructor
    · rintro ⟨x, hx, hxf, hxk⟩
      obtain ⟨n, hn⟩ := List.mem_iff_getElem?.1 hx
      by_cases h1 : n = i
      · subst h1
        rw [hati] at hn
        obtain rfl := Option.some.inj hn
        have hk : (s.w.cur.mask &&& v).getLsbD k = true := hxk
        rw [BitVec.getLsbD_and, Bool.and_eq_true] at hk
        exact ⟨r, List.mem_iff_getElem?.2 ⟨run, hr⟩, by simp [hp.1, hst], by rw [hrk]; exact hk.1⟩
      · by_cases h2 : n = run
        · subst h2
          rw [hatr] at hn
          obtain rfl := Option.some.inj hn
          have hk : (s.w.cur.mask &&& ~~~v).getLsbD k = true := hxk
          rw [BitVec.getLsbD_and, Bool.and_eq_true] at hk
          exact ⟨r, List.mem_iff_getElem?.2 ⟨n, hr⟩, by simp [hp.1, hst], by rw [hrk]; exact hk.1⟩
        · exact ⟨x, List.mem_iff_getElem?.2 ⟨n, hother n h1 h2 ▸ hn⟩, hxf, hxk⟩
    · rintro ⟨x, hx, hxf, hxk⟩
      obtain ⟨n, hn⟩ := List.mem_iff_getElem?.1 hx
      by_cases h2 : n = run
      · subst h2
        rw [hr] at hn
        obtain rfl := Option.some.inj hn
        rw [hrk] at hxk
        have hlt : k < 32 := by by_contra hge; simp [BitVec.getLsbD_of_ge _ k (Nat.le_of_not_lt hge)] at hxk
        by_cases hv : v.getLsbD k = true
        · refine ⟨new, List.mem_iff_getElem?.2 ⟨i, hati⟩, by simp [hnew, Entry.joining], ?_⟩
          show (s.w.cur.mask &&& v).getLsbD k = true
          rw [BitVec.getLsbD_and, hxk, hv]; rfl
        · refine ⟨_, List.mem_iff_getElem?.2 ⟨n, hatr⟩, hxf, ?_⟩
          show (s.w.cur.mask &&& ~~~v).getLsbD k = true
          rw [BitVec.getLsbD_and, BitVec.getLsbD_not, hxk]
          simp only [hlt, hv, decide_true, Bool.not_false, Bool.and_self]
      · have h1 : n ≠ i := by
          rintro rfl
          have : ps[n] = x := by simpa [hi] using hn
          simp [this] at hif; exact hxf hif
        exact ⟨x, List.mem_iff_getElem?.2 ⟨n, (hother n h1 h2).trans hn⟩, hxf, hxk⟩
  · obtain ⟨n, hn⟩ := List.mem_iff_getElem?.1 hx
    by_cases h1 : n = i
    · subst h1
      rw [hati] at hn
      obtain rfl := Option.some.inj hn
      exact .inl rfl
    · by_cases h2 : n = run
      · subst h2
        rw [hatr] at hn
        obtain rfl := Option.some.inj hn
        simp [Entry.waitsAt, hp.1, hst] at hh
      · rw [hother n h1 h2] at hn
        obtain ⟨y, hy, hq⟩ := forall₂_mem_right hps (List.mem_iff_getElem?.2 ⟨n, hn⟩)
        exact .inr ⟨y, hy, by rw [← waitsAt_past hq]; exact hh, hq.2.1.symm⟩
  · obtain ⟨n, hn⟩ := List.mem_iff_getElem?.1 hy
    obtain ⟨x, hx, hq⟩ := forall₂_getElem? hps hn
    have hyst : y.st = .waitJoin := ((waitsAt_iff ..).1 hh).1
    have h2 : n ≠ run := by
      rintro rfl
      rw [hcur] at hn
      obtain rfl := Option.some.inj hn
      simp [hst] at hyst
    have h1 : n ≠ i := by
      rintro rfl
      have : ps[n] = x := by simpa [hi] using hx
      simp [this, hq.1, hyst] at hif
    exact ⟨x, List.mem_iff_getElem?.2 ⟨n, (hother n h1 h2).trans hx⟩, by rw [waitsAt_past hq]; exact hh, hq.2.1⟩

/-- RJOIN with room for its split: the lanes of Mx arrive, and the joins are tried (R25, R108). -/
theorem joinAt_arrives (s : State) (m : MReg) (len : Nat) (hrun : s.w.runIdx.isSome = true)
    (hroom : s.w.cur.mask &&& s.w.mask m = 0 ∨ s.w.cur.mask &&& ~~~s.w.mask m = 0 ∨ (s.w.used < 7 ∧ ∃ e ∈ s.w.paths, e.st = .free)) :
    ∃ ps, joinAt s m len = tryJoins (arriveWith s (s.advance len) m ps) ∧ Arrived s (s.w.mask m) ps := by
  obtain ⟨run, hrun⟩ := Option.isSome_iff_exists.1 hrun
  have hps := (advance_past s len false true).1
  unfold joinAt
  simp only [hrun, Option.getD_some]
  by_cases hin : s.w.cur.mask &&& s.w.mask m = 0
  · rw [if_pos hin]
    exact ⟨_, rfl, arrived_outside s _ len hps hin⟩
  · rw [if_neg hin]
    by_cases hout : s.w.cur.mask &&& ~~~s.w.mask m = 0
    · rw [if_pos hout]
      exact ⟨_, rfl, arrived_whole s _ len s.order run hps hrun hout⟩
    · obtain ⟨hused, hfree⟩ := (hroom.resolve_left hin).resolve_left hout
      rw [if_neg hout, if_neg (Nat.not_le.2 hused)]
      have hidx : ∃ i, (s.advance len).w.paths.findIdx? (·.st == .free) = some i := by
        rw [findIdx_free_congr hps fun _ _ h => h.st_eq, ← Option.isSome_iff_exists, List.findIdx?_isSome]
        simpa [List.any_eq_true] using hfree
      obtain ⟨i, hi⟩ := hidx
      simp only [hi]
      exact ⟨_, rfl, arrived_split s _ len (s.order) run i (s.advance len).w.cur hps hrun hi⟩

/-- Where the path has moved on, and then entries and the order count change, nothing else does. -/
theorem Moved.regrouped {P : List Entry → List Entry → Prop} {s a t : State} (h : Moved P s a)
    (k : t = { a with w := { a.w with paths := t.w.paths }, order := t.order }) : Regrouped s t := by
  obtain ⟨-, hdue, ha⟩ := h
  obtain ⟨ps, o, rfl⟩ : ∃ ps o, t = { a with w := { a.w with paths := ps }, order := o } := ⟨_, _, k⟩
  exact ⟨trivial, hdue, by rw [ha]⟩

/-- What RJOIN changes outside the path table is the order count (R25). -/
theorem joined_regrouped (s : State) (m : MReg) (len : Nat) (ps : List Entry) :
    Regrouped s (tryJoins (arriveWith s (s.advance len) m ps)) :=
  (advance_past s len false true).regrouped (tryJoins_spec (arriveWith s (s.advance len) m ps)).1.1

/-- RJOIN keeps the live lanes; the lanes of Mx wait while one is missing, and go on together when none is (R25). -/
theorem joined_spec (s : State) (m : MReg) (len : Nat) (ps : List Entry) (h : Arrived s (s.w.mask m) ps) :
    let t := tryJoins (arriveWith s (s.advance len) m ps)
    let pc := s.w.cur.pc
    let v := s.w.mask m
    let inside := s.w.cur.mask &&& v
    let here := fun (e : Entry) => e.st = .waitJoin ∧ e.wait = .join ∧ e.pc = pc
    let missing := fun k => v.getLsbD k = true ∧ s.w.live.getLsbD k = true ∧ s.w.cur.mask.getLsbD k = false ∧
      ∀ e ∈ s.w.paths, here e → e.mask.getLsbD k = false
    t.w.live = s.w.live ∧
    (inside ≠ 0 → (∃ k, k < 32 ∧ missing k) → ∃ e ∈ t.w.paths, here e ∧ inside &&& ~~~e.mask = 0 ∧ e.joinMask = v) ∧
    (inside ≠ 0 → (∀ k, k < 32 → ¬ missing k) → (∀ e ∈ t.w.paths, ¬ here e) ∧
      ∃ e ∈ t.w.paths, (e.st = .run ∨ e.st = .ready) ∧ e.pc = pc + BitVec.ofNat 64 (joinLen s.t pc) ∧ inside &&& ~~~e.mask = 0) := by
  intro t pc v inside here missing
  obtain ⟨hlive, hfrom, hto, hnew⟩ := h
  obtain ⟨htried, hwait, hgo⟩ := tryJoins_spec (arriveWith s (s.advance len) m ps)
  have hhere (e : Entry) : here e ↔ e.waitsAt pc .join = true := by rw [waitsAt_iff]; simp only [here]; tauto
  have hu : (arriveWith s (s.advance len) m ps).w.paths = rejoin pc v ps := rfl
  have hut : (arriveWith s (s.advance len) m ps).t = s.t := by
    show (s.advance len).t = s.t
    rw [(advance_past s len false true).2.2]
  have hjoins : joinsAt (rejoin pc v ps) pc = (joinsAt ps pc).map fun x => { x with joinMask := v } := joinsAt_rejoin ..
  have hdone (hi : inside ≠ 0) : joinDone (rejoin pc v ps) pc ↔ ∀ k, k < 32 → ¬ missing k := by
    obtain ⟨x, hx, hxh, hxm⟩ := hnew hi
    rw [joinDone_rejoin pc v ps (List.ne_nil_of_mem (List.mem_filter.2 ⟨hx, hxh⟩)), hlive]
    constructor
    · rintro h k - ⟨hv, hl, hc, hno⟩
      obtain ⟨y, hy, hyh, hyk⟩ := h k hv hl
      rcases hfrom y hy hyh with hm | ⟨z, hz, hzh, hzm⟩
      · rw [hm, BitVec.getLsbD_and, hc] at hyk; simp at hyk
      · rw [← hzm, hno z hz ((hhere z).2 hzh)] at hyk; simp at hyk
    · intro h k hv hl
      have hk : k < 32 := by by_contra hge; simp [BitVec.getLsbD_of_ge v k (by omega)] at hv
      by_cases hc : s.w.cur.mask.getLsbD k = true
      · refine ⟨x, hx, hxh, ?_⟩
        rw [hxm, BitVec.getLsbD_and, hc, hv]; rfl
      · by_contra hno
        refine h k hk ⟨hv, hl, by simpa using hc, fun e he hh => ?_⟩
        obtain ⟨y, hy, hyh, hym⟩ := hto e he ((hhere e).1 hh)
        by_contra hb
        exact hno ⟨y, hy, hyh, by rw [hym]; simpa using hb⟩
  refine ⟨?_, fun hi hmiss => ?_, fun hi hmiss => ?_⟩
  · have := htried.2.1
    rw [hu, liveOf_rejoin, hlive] at this
    exact this
  · have hnot : ¬ joinDone (arriveWith s (s.advance len) m ps).w.paths pc := by
      rw [hu, hdone hi]
      exact fun h => hmiss.elim fun k hk => h k hk.1 hk.2
    have hstay := hwait pc hnot
    rw [hu, hjoins] at hstay
    obtain ⟨x, hx, hxh, hxm⟩ := hnew hi
    have hmem : ({ x with joinMask := v } : Entry) ∈ joinsAt t.w.paths pc := by
      rw [hstay]
      exact List.mem_map.2 ⟨x, List.mem_filter.2 ⟨hx, hxh⟩, rfl⟩
    obtain ⟨hmem, -⟩ := List.mem_filter.1 hmem
    refine ⟨_, hmem, (hhere _).2 hxh, ?_, rfl⟩
    rw [sub_mask_iff]
    intro k hk
    show x.mask.getLsbD k = true
    rw [hxm]; exact hk
  · have hd : joinDone (arriveWith s (s.advance len) m ps).w.paths pc := by rw [hu, hdone hi]; exact hmiss
    obtain ⟨x, hx, hxh, hxm⟩ := hnew hi
    have hxj : ({ x with joinMask := v } : Entry) ∈ joinsAt (rejoin pc v ps) pc := by
      rw [hjoins]
      exact List.mem_map.2 ⟨x, List.mem_filter.2 ⟨hx, hxh⟩, rfl⟩
    obtain ⟨hnil, e, he, hst, hpc, hmask⟩ := hgo pc hd (List.ne_nil_of_mem hxj)
    refine ⟨fun y hy hh => ?_, e, he, hst, by rw [hpc, hut], ?_⟩
    · exact List.filter_eq_nil_iff.1 hnil y hy ((hhere y).1 hh)
    · rw [sub_mask_iff]
      intro k hk
      rw [hmask, unionOf_getLsbD]
      exact ⟨_, hxj, by show x.mask.getLsbD k = true; rw [hxm]; exact hk⟩

/-! YIELD. -/

/-- The oldest of some entries. -/
def oldestOf (a : Entry) (es : List Entry) : Entry := es.foldl (fun a x => if x.age < a.age then x else a) a

theorem oldestOf_le (es : List Entry) (a : Entry) : ∀ x ∈ a :: es, (oldestOf a es).age ≤ x.age := by
  induction es generalizing a with
  | nil => simp [oldestOf]
  | cons y es ih =>
    have hsel : (if y.age < a.age then y else a).age ≤ a.age ∧ (if y.age < a.age then y else a).age ≤ y.age := by
      split <;> omega
    have hmin : ∀ x ∈ (if y.age < a.age then y else a) :: es, (oldestOf a (y :: es)).age ≤ x.age := ih _
    have hhead := hmin _ (List.mem_cons_self ..)
    intro x hx
    rcases List.mem_cons.1 hx with rfl | hx
    · exact hhead.trans hsel.1
    · rcases List.mem_cons.1 hx with rfl | hx
      · exact hhead.trans hsel.2
      · exact hmin x (List.mem_cons_of_mem _ hx)

theorem oldestOf_map (g : Entry → Entry) (hage : ∀ e, (g e).age = e.age) (es : List Entry) (a : Entry) :
    oldestOf (g a) (es.map g) = g (oldestOf a es) := by
  induction es generalizing a with
  | nil => rfl
  | cons y es ih =>
    show oldestOf (if (g y).age < (g a).age then g y else g a) (es.map g) = g (oldestOf (if y.age < a.age then y else a) es)
    rw [hage, hage, ← ih]
    congr 1
    split <;> rfl

theorem oldestReady_eq (w : Wave) : w.oldestReady = match w.paths.filter (·.st == .ready) with
    | [] => none
    | e :: es => w.paths.findIdx? fun x => x.st == .ready && x.age == (oldestOf e es).age := rfl

theorem oldestReady_exists {w : Wave} {k : Nat} (h : w.oldestReady = some k) : ∃ b, w.paths[k]? = some b := by
  rw [oldestReady_eq] at h
  cases hf : w.paths.filter (·.st == .ready) with
  | nil => simp [hf] at h
  | cons a es =>
    simp only [hf] at h
    exact ⟨_, List.getElem?_eq_getElem (List.findIdx?_eq_some_iff_getElem.1 h).1⟩

/-- The oldest READY entry (R22). -/
theorem oldestReady_spec {w : Wave} {k : Nat} {b : Entry} (h : w.oldestReady = some k) (hb : w.paths[k]? = some b) :
    b.st = .ready ∧ ∀ e ∈ w.paths, e.st = .ready → b.age ≤ e.age := by
  rw [oldestReady_eq] at h
  cases hf : w.paths.filter (·.st == .ready) with
  | nil => simp [hf] at h
  | cons a es =>
    simp only [hf] at h
    obtain ⟨hlt, hp, -⟩ := List.findIdx?_eq_some_iff_getElem.1 h
    obtain rfl : w.paths[k] = b := (List.getElem?_eq_some_iff.1 hb).2
    rw [Bool.and_eq_true, beq_iff_eq, beq_iff_eq] at hp
    refine ⟨hp.1, fun e he hr => ?_⟩
    rw [hp.2]
    exact oldestOf_le es a e (hf ▸ List.mem_filter.2 ⟨he, by simp [hr]⟩)

theorem oldestReady_none {w : Wave} (h : ∀ e ∈ w.paths, e.st ≠ .ready) : w.oldestReady = none := by
  have hf : w.paths.filter (·.st == .ready) = [] := List.filter_eq_nil_iff.2 fun e he => by simpa using h e he
  rw [oldestReady_eq, hf]

/-- Which entry is the oldest READY one depends on states and ages alone. -/
theorem oldestReady_map {w v : Wave} (g : Entry → Entry) (h : v.paths = w.paths.map g) (hst : ∀ e, (g e).st = e.st)
    (hage : ∀ e, (g e).age = e.age) : v.oldestReady = w.oldestReady := by
  have hready : (fun e : Entry => e.st == .ready) ∘ g = fun e => e.st == .ready := funext fun e => by simp [hst]
  rw [oldestReady_eq, oldestReady_eq, h, List.filter_map, hready]
  cases hf : w.paths.filter (·.st == .ready) with
  | nil => rfl
  | cons a es =>
    rw [List.map_cons]
    dsimp only
    rw [oldestOf_map g hage, List.findIdx?_map]
    congr 1
    funext e
    simp [hst, hage]

/-- Rotation: the running entry becomes READY, the oldest READY entry runs, and the others stay (R28). -/
theorem rotate_spec {w : Wave} {i k : Nat} {a b : Entry} (stamp : Nat) (hi : w.runIdx = some i) (ha : w.paths[i]? = some a)
    (hk : w.oldestReady = some k) (hb : w.paths[k]? = some b) :
    w.rotate stamp = { w with paths := (w.rotate stamp).paths } ∧ (w.rotate stamp).live = w.live ∧
    (w.rotate stamp).paths[i]? = some { a with st := .ready, age := stamp, starve := 0, fair := 0 } ∧
    (w.rotate stamp).paths[k]? = some { b with st := .run, fair := 0, starve := 0 } ∧
    ∀ n, n ≠ i → n ≠ k → (w.rotate stamp).paths[n]? = w.paths[n]? := by
  have har : a.st = .run := by
    obtain ⟨hcur, hst⟩ := runIdx_some hi
    obtain rfl := Option.some.inj (hcur.symm.trans ha)
    exact hst
  have hbr := (oldestReady_spec hk hb).1
  have hne : i ≠ k := by
    rintro rfl
    obtain rfl := Option.some.inj (ha.symm.trans hb)
    simp [har] at hbr
  have e : w.rotate stamp = { w with paths := (w.paths.modify i fun e => { e with st := .ready, age := stamp, starve := 0, fair := 0 }).modify k fun e =>
      { e with st := .run, fair := 0, starve := 0 } } := by
    simp only [Wave.rotate, hi, hk]
  rw [e]
  refine ⟨rfl, ?_, ?_, ?_, fun n h1 h2 => ?_⟩
  · show liveOf ((w.paths.modify i _).modify k _) = liveOf w.paths
    rw [liveOf_modify, liveOf_modify]
    · intro x hx
      obtain rfl := Option.some.inj (ha.symm.trans hx)
      exact ⟨by simp [har], by simp, rfl⟩
    · intro x hx
      simp only [List.getElem?_modify, if_neg hne, hb, Option.map_eq_map, Option.map_some] at hx
      obtain rfl := Option.some.inj hx
      exact ⟨by simp [hbr], by simp, rfl⟩
  · show ((w.paths.modify i _).modify k _)[i]? = _
    simp [Ne.symm hne, ha]
  · show ((w.paths.modify i _).modify k _)[k]? = _
    simp [hne, hb]
  · show ((w.paths.modify i _).modify k _)[n]? = _
    simp [Ne.symm h1, Ne.symm h2]

/-- YIELD with a READY entry: the path moves on, and then rotates (R28, R109). -/
theorem yieldAt_ready (s : State) (len k : Nat) (h : s.w.oldestReady = some k) :
    yieldAt s len = { s.advance len with w := (s.advance len).w.rotate (s.advance len).order, order := (s.advance len).order + 1 } := by
  simp only [yieldAt, h, Option.isNone_some, Bool.false_eq_true, if_false]

/-- YIELD alone acts as NOP (R111). -/
theorem yieldAt_alone (s : State) (len : Nat) (h : s.w.oldestReady = none) : yieldAt s len = s.advance len (fair := false) := by
  simp only [yieldAt, h, Option.isNone_none, if_true]

theorem yieldAt_spec (s : State) (len : Nat) (hrun : s.w.runIdx.isSome = true) :
    let t := yieldAt s len
    Regrouped s t ∧ t.w.live = s.w.live ∧
      ((∀ e ∈ s.w.paths, e.st ≠ .ready) → Past len s t ∧ t.w.paths.map (·.fair) = s.w.paths.map (·.fair)) ∧
      ∀ i a k b, s.w.runIdx = some i → s.w.paths[i]? = some a → s.w.oldestReady = some k → s.w.paths[k]? = some b →
        b.st = .ready ∧ (∀ e ∈ s.w.paths, e.st = .ready → b.age ≤ e.age) ∧
        (∃ q, t.w.paths[i]? = some q ∧ q.st = .ready ∧ q.pc = a.pc + BitVec.ofNat 64 len ∧ q.mask = a.mask) ∧
        ∃ q, t.w.paths[k]? = some q ∧ q.st = .run ∧ q.pc = b.pc ∧ q.mask = b.mask := by
  intro t
  cases hold : s.w.oldestReady with
  | none =>
    have ht : t = s.advance len (fair := false) := yieldAt_alone s len hold
    have hpast : Past len s t := ht ▸ advance_past s len false false
    obtain ⟨g, hg, hspec⟩ := advance_paths s len false false
    refine ⟨hpast.regrouped rfl, liveOf_past hpast.1, fun _ => ⟨hpast, ?_⟩, fun i a k b _ _ hk => by simp at hk⟩
    rw [ht, hg, List.map_map]
    refine List.map_congr_left fun e _ => ?_
    obtain ⟨m, n, hm, he⟩ := hspec e
    show (g e).fair = e.fair
    rw [he]; exact hm rfl
  | some k =>
    have ht : t = { s.advance len with w := (s.advance len).w.rotate (s.advance len).order, order := (s.advance len).order + 1 } :=
      yieldAt_ready s len k hold
    clear_value t
    subst ht
    have hpast := advance_past s len false true
    obtain ⟨g, hg, hspec⟩ := advance_paths s len false true
    have hgst (e : Entry) : (g e).st = e.st := by
      obtain ⟨m, n, -, he⟩ := hspec e
      rw [he]; by_cases h : e.st = .run <;> simp [h, Entry.past]
    have hgage (e : Entry) : (g e).age = e.age := by
      obtain ⟨m, n, -, he⟩ := hspec e
      rw [he]; by_cases h : e.st = .run <;> simp [h, Entry.past]
    have hold' : (s.advance len).w.oldestReady = some k := (oldestReady_map g hg hgst hgage).trans hold
    obtain ⟨i, hi⟩ := Option.isSome_iff_exists.1 hrun
    have hi' : (s.advance len).w.runIdx = some i := (runIdx_congr hpast.1 fun _ _ h => h.st_eq).trans hi
    obtain ⟨b, hb⟩ := oldestReady_exists hold
    obtain ⟨b', hb', hpb⟩ := forall₂_getElem? hpast.1 hb
    obtain ⟨a', ha', hpa⟩ := forall₂_getElem? hpast.1 (runIdx_some hi).1
    obtain ⟨hframe, hlive, hati, hatk, -⟩ := rotate_spec (s.advance len).order hi' ha' hold' hb'
    obtain ⟨hready, hmin⟩ := oldestReady_spec hold hb
    refine ⟨?_, ?_, fun hno => ?_, fun i2 a2 k2 b2 h1 h2 h3 h4 => ?_⟩
    · refine hpast.regrouped ?_
      conv_lhs => rw [hframe]
    · exact hlive.trans (liveOf_past hpast.1)
    · rw [oldestReady_none hno] at hold; cases hold
    · obtain rfl := Option.some.inj (hi.symm.trans h1)
      obtain rfl := Option.some.inj h3
      obtain rfl := Option.some.inj (hb.symm.trans h4)
      obtain rfl := Option.some.inj ((runIdx_some hi).1.symm.trans h2)
      refine ⟨hready, hmin, ⟨_, hati, rfl, ?_, hpa.2.1⟩, ⟨_, hatk, rfl, ?_, hpb.2.1⟩⟩
      · have := hpa.2.2.2.2.2
        rw [if_pos (runIdx_some hi).2] at this
        exact this.1
      · have := hpb.2.2.2.2.2
        rw [if_neg (by simp [hready])] at this
        exact this.1

theorem joinsAndYields : Claims.JoinsAndYields := by
  intro s m len j y hjy pc v inside here missing hrun
  have hj : exec j s = .next (joinAt s m len) := by
    rcases hjy with ⟨rfl, -, rfl⟩ | ⟨rfl, -, rfl⟩ <;> rfl
  have hy : exec y s = .next (yieldAt s len) := by
    rcases hjy with ⟨-, rfl, rfl⟩ | ⟨-, rfl, rfl⟩ <;> rfl
  refine ⟨fun hroom => ?_, fun hi ho hused => ⟨_, hj, ?_⟩, ⟨_, hy, yieldAt_spec s len hrun⟩⟩
  · obtain ⟨ps, hps, harr⟩ := joinAt_arrives s m len hrun hroom
    exact ⟨_, hj.trans (by rw [hps]), joined_regrouped s m len ps, joined_spec s m len ps harr⟩
  · have hfull : joinAt s m len = pathFull s := by
      simp only [inside, v] at hi ho
      simp only [joinAt, hi, ho, hused, if_false, if_true]
    rw [hfull]
    obtain ⟨hr, -, hlanes, hlive, -⟩ := pathFull_spec s
    exact ⟨hr, hlive, hlanes⟩

/-- Settles O8: a split by its free entry, RJOIN by what arrives and by the joins then tried, YIELD by the rotation. -/
theorem pathsDivergeAndJoin : Obligations.PathsDivergeAndJoin := ⟨divergence, joinsAndYields⟩

end Sys2Proof.Machine
end

section
/-! PROOFS. Team barriers: entries that wait at a barrier go on, and what completing barriers leaves as it was (R30, R34). -/

namespace Sys2Proof.Machine

/-! One wave passes a barrier. -/

theorem atBar_iff (n : Nat) (e : Entry) : e.atBar n = true ↔ e.st = .waitJoin ∧ e.wait = .bar n := by
  simp [Entry.atBar]

theorem waitsAt_bar {n : Nat} {e : Entry} (h : e.atBar n = true) : e.waitsAt e.pc (.bar n) = true := by
  rw [waitsAt_iff]; exact ⟨((atBar_iff ..).1 h).1, rfl, ((atBar_iff ..).1 h).2⟩

theorem atBar_of_waitsAt {n : Nat} {pc : W64} {e : Entry} (h : e.waitsAt pc (.bar n) = true) : e.atBar n = true := by
  rw [waitsAt_iff] at h; exact (atBar_iff ..).2 ⟨h.1, h.2.2⟩

/-- An entry that is RUN or READY. -/
def Entry.going (e : Entry) : Prop := e.st = .run ∨ e.st = .ready

theorem Entry.going.not_atBar {e : Entry} (h : e.going) (n : Nat) : e.atBar n = false := by
  rcases h with h | h <;> simp [Entry.atBar, h]

/-- `w'` is `w` but that some entries that waited at barrier `n` have gone on. -/
def BarPassed (n : Nat) (w w' : Wave) : Prop :=
  w' = { w with paths := w'.paths } ∧ w'.live = w.live ∧ (∀ x ∈ w.paths, x.atBar n = false → x ∈ w'.paths) ∧
  ∀ x ∈ w'.paths, x ∈ w.paths ∨ x = {} ∨ x.going

theorem BarPassed.refl (n : Nat) (w : Wave) : BarPassed n w w := ⟨rfl, rfl, fun _ h _ => h, fun _ h => .inl h⟩

theorem BarPassed.trans {n : Nat} {u v w : Wave} (h : BarPassed n u v) (k : BarPassed n v w) : BarPassed n u w := by
  obtain ⟨he, hl, hk, hm⟩ := h
  obtain ⟨ke, kl, kk, km⟩ := k
  refine ⟨by rw [ke, he], kl.trans hl, fun x hx hb => kk x (hk x hx hb) hb, fun x hx => ?_⟩
  rcases km x hx with h | h
  · exact hm x h
  · exact .inr h

/-- Entries at one BAR merge and go on; none waits there any more. -/
theorem mergeAt_bar (w : Wave) (n len stamp : Nat) (pc : W64) :
    BarPassed n w (w.mergeAt pc (.bar n) len stamp) ∧
    (∀ x ∈ (w.mergeAt pc (.bar n) len stamp).paths, x.waitsAt pc (.bar n) = false) ∧
    (∀ x ∈ w.paths, x.waitsAt pc (.bar n) = false → x ∈ (w.mergeAt pc (.bar n) len stamp).paths) ∧
    (∀ x ∈ w.paths, x.waitsAt pc (.bar n) = true → ∃ e ∈ (w.mergeAt pc (.bar n) len stamp).paths, e.going ∧ x.mask &&& ~~~e.mask = 0) := by
  obtain ⟨hframe, hnone, hsome⟩ := mergeAt_spec w pc (.bar n) len stamp
  by_cases hex : ∃ x ∈ w.paths, x.waitsAt pc (.bar n) = true
  · obtain ⟨e, hst, -, hmask, hm⟩ := hsome hex
    refine ⟨⟨hframe, hm.live (fun x hx => ?_) (by rcases hst with h | h <;> simp [h]) hmask, fun x hx hb => hm.mem_of hx ?_, fun x hx => ?_⟩,
      fun x hx => ?_, fun x hx hw => hm.mem_of hx hw,
      fun x hx hw => ⟨e, hm.2, hst, (sub_mask_iff ..).2 fun k hk => ?_⟩⟩
    · rw [waitsAt_iff] at hx; simp [hx.1]
    · by_contra h
      rw [Bool.not_eq_false] at h
      rw [atBar_of_waitsAt h] at hb; cases hb
    · rcases hm.mem hx with h | h | rfl
      · exact .inl h.1
      · exact .inr (.inl h)
      · exact .inr (.inr hst)
    · rcases hm.mem hx with h | rfl | rfl
      · exact h.2
      · rfl
      · exact waitsAt_false_of_going hst ..
    · rw [hmask, unionOf_getLsbD]
      exact ⟨x, List.mem_filter.2 ⟨hx, hw⟩, hk⟩
  · have hno : ∀ x ∈ w.paths, x.waitsAt pc (.bar n) = false := fun x hx => by simpa using fun h => hex ⟨x, hx, h⟩
    rw [hnone hno]
    exact ⟨.refl n w, hno, fun x hx _ => hx, fun x hx hw => (hex ⟨x, hx, hw⟩).elim⟩

theorem foldl_mergeAt_bar (n stamp : Nat) (pcs : List W64) (w : Wave) :
    let w' := pcs.foldl (fun w pc => w.mergeAt pc (.bar n) 4 stamp) w
    BarPassed n w w' ∧ (∀ pc ∈ pcs, ∀ x ∈ w'.paths, x.waitsAt pc (.bar n) = false) ∧
    (∀ pc ∈ pcs, ∀ x ∈ w.paths, x.waitsAt pc (.bar n) = true → ∃ e ∈ w'.paths, e.going ∧ x.mask &&& ~~~e.mask = 0) := by
  induction pcs generalizing w with
  | nil => exact ⟨.refl n w, by simp, by simp⟩
  | cons q pcs ih =>
    obtain ⟨hone, hclear, hstay, hgone⟩ := mergeAt_bar w n 4 stamp q
    obtain ⟨htail, hclears, hgoes⟩ := ih (w.mergeAt q (.bar n) 4 stamp)
    refine ⟨hone.trans htail, fun pc hpc x hx => ?_, fun pc hpc x hx hw => ?_⟩
    · rcases List.mem_cons.1 hpc with rfl | hpc
      · rcases htail.2.2.2 x hx with h | rfl | h
        · exact hclear x h
        · rfl
        · exact waitsAt_false_of_going h ..
      · exact hclears pc hpc x hx
    · by_cases hq : x.waitsAt q (.bar n) = true
      · obtain ⟨e, he, hg, hm⟩ := hgone x hx hq
        exact ⟨e, htail.2.2.1 e he (hg.not_atBar n), hg, hm⟩
      · have hpc' : pc ∈ pcs := (List.mem_cons.1 hpc).resolve_left fun h => hq (h ▸ hw)
        exact hgoes pc hpc' x (hstay x hx (by simpa using hq)) hw

/-- Every entry that waits at barrier `n` goes on, and the others stay (R34). -/
theorem passBar_spec (n stamp : Nat) (w : Wave) :
    BarPassed n w (w.passBar n stamp) ∧ (∀ x ∈ (w.passBar n stamp).paths, x.atBar n = false) ∧
    (∀ x ∈ w.paths, x.atBar n = true → ∃ e ∈ (w.passBar n stamp).paths, e.going ∧ x.mask &&& ~~~e.mask = 0) ∧
    ((∀ x ∈ w.paths, x.atBar n = false) → w.passBar n stamp = w) := by
  obtain ⟨hpass, hclear, hgo⟩ := foldl_mergeAt_bar n stamp (((w.paths.filter (Entry.atBar n)).map (·.pc)).eraseDups) w
  have hpc {x : Entry} (hx : x ∈ w.paths) (hb : x.atBar n = true) : x.pc ∈ ((w.paths.filter (Entry.atBar n)).map (·.pc)).eraseDups := by
    rw [mem_eraseDups]; exact List.mem_map.2 ⟨x, List.mem_filter.2 ⟨hx, hb⟩, rfl⟩
  refine ⟨hpass, fun x hx => ?_, fun x hx hb => hgo x.pc (hpc hx hb) x hx (waitsAt_bar hb), fun hno => ?_⟩
  · rcases hpass.2.2.2 x hx with h | rfl | h
    · by_contra hb
      rw [Bool.not_eq_false] at hb
      have := hclear x.pc (hpc h hb) x hx
      rw [waitsAt_bar hb] at this; cases this
    · rfl
    · exact h.not_atBar n
  · have : w.paths.filter (Entry.atBar n) = [] := List.filter_eq_nil_iff.2 fun x hx => by simp [hno x hx]
    unfold Wave.passBar
    rw [this]; rfl

/-! What a wave keeps. -/

/-- `w'` is `w` but for entries that have gone on in its path tables, its counted arrivals, and what its umbra is told. -/
def Wave.Left (w w' : Wave) : Prop :=
  w' = { w with paths := w'.paths, frame := w'.frame, arrivals := w'.arrivals, umbra := w'.umbra } ∧ w'.live = w.live ∧
  w'.frame.isSome = w.frame.isSome

theorem Wave.Left.refl (w : Wave) : w.Left w := ⟨rfl, rfl, rfl⟩

theorem Wave.Left.trans {u v w : Wave} (h : u.Left v) (k : v.Left w) : u.Left w := by
  obtain ⟨he, hl, hf⟩ := h
  obtain ⟨ke, kl, kf⟩ := k
  exact ⟨by rw [ke, he], kl.trans hl, kf.trans hf⟩

theorem noteFrom_eq (w v : Wave) : w.noteFrom v = { v with umbra := (w.noteFrom v).umbra } := by
  unfold Wave.noteFrom; split <;> rfl

theorem inFrame_eq (w : Wave) (g : Wave → Wave) :
    w.inFrame g = { w with frame := w.frame.map fun f => { f with paths := (g w.behind).paths } } := by
  unfold Wave.inFrame
  cases h : w.frame with
  | none => show w = { w with frame := none }; rw [← h]
  | some f => rfl

/-- A wave that leaves barrier `n`: its path table and its interrupted one pass it, and its arrival is no longer counted. -/
theorem leaveBar_eq (w : Wave) (n stamp : Nat) :
    (w.leaveBar n stamp).paths = (w.passBar n stamp).paths ∧
    (w.leaveBar n stamp).frame = w.frame.map (fun f => { f with paths := ((w.passBar n stamp).behind.passBar n stamp).paths }) ∧
    (w.leaveBar n stamp).arrivals = w.arrivals.filter (· != n) ∧ w.Left (w.leaveBar n stamp) := by
  obtain ⟨⟨hpass, hlive, -⟩, -⟩ := passBar_spec n stamp w
  obtain ⟨ps, hps⟩ : ∃ ps, w.passBar n stamp = { w with paths := ps } := ⟨_, hpass⟩
  unfold Wave.leaveBar
  rw [hps] at hlive ⊢
  rw [noteFrom_eq, inFrame_eq]
  exact ⟨rfl, rfl, rfl, rfl, hlive, by simp⟩

/-! All waves of a team. -/

/-- The step of `tryBars` at barrier `n`. -/
def barStep (s : State) (n : Nat) : State :=
  let ws := s.waves.filter fun w => !w.ended
  let waiting := ws.any (·.waitsBar n)
  if waiting && ws.all (fun w => w.arrived n) then
    { s with w := s.w.leaveBar n s.order, order := s.order + 1
             t := { s.t with waves := s.t.waves.map fun w => w.leaveBar n s.order } }
  else s

theorem tryBars_eq (s : State) : tryBars s = (List.range 16).foldl barStep s := rfl

/-- What completing barriers changes: the waves of the team in hand, as `Wave.Left` says, and the count of orders. -/
def BarsTried (s t : State) : Prop :=
  t = { s with w := t.w, t := { s.t with waves := t.t.waves }, order := t.order } ∧ s.w.Left t.w ∧
  List.Forall₂ Wave.Left s.t.waves t.t.waves

theorem forall₂_left_refl (ws : List Wave) : List.Forall₂ Wave.Left ws ws := List.forall₂_same.2 fun w _ => .refl w

theorem BarsTried.refl (s : State) : BarsTried s s := ⟨rfl, .refl _, forall₂_left_refl _⟩

theorem forall₂_left_trans {us vs ws : List Wave} (h : List.Forall₂ Wave.Left us vs) (k : List.Forall₂ Wave.Left vs ws) :
    List.Forall₂ Wave.Left us ws := by
  induction h generalizing ws with
  | nil => exact k
  | cons hd _ ih =>
    cases k with
    | cons hk htl => exact .cons (hd.trans hk) (ih htl)

theorem BarsTried.trans {s t u : State} (h : BarsTried s t) (k : BarsTried t u) : BarsTried s u := by
  obtain ⟨he, hw, hl⟩ := h
  obtain ⟨ke, kw, kl⟩ := k
  exact ⟨by rw [ke, he], hw.trans kw, forall₂_left_trans hl kl⟩

theorem barStep_tried (s : State) (n : Nat) : BarsTried s (barStep s n) := by
  unfold barStep
  dsimp only
  split
  · exact ⟨rfl, (leaveBar_eq s.w n s.order).2.2.2, List.forall₂_map_right_iff.2 (List.forall₂_same.2 fun w _ => (leaveBar_eq w n s.order).2.2.2)⟩
  · exact .refl s

theorem foldl_barStep_tried (ns : List Nat) (s : State) : BarsTried s (ns.foldl barStep s) := by
  induction ns generalizing s with
  | nil => exact .refl s
  | cons n ns ih => exact (barStep_tried s n).trans (ih _)

theorem tryBars_tried (s : State) : BarsTried s (tryBars s) := tryBars_eq s ▸ foldl_barStep_tried _ s

end Sys2Proof.Machine
end

section
/-! PROOFS. Traps that a wave outside its handler takes (R344), and masks given by a test of lane numbers. -/

namespace Sys2Proof.Machine

/-! Masks. -/

theorem maskOf_getLsbD (p : Nat → Bool) (i : Nat) : (maskOf p).getLsbD i = (decide (i < 32) && p i) := by
  have hsum (n : Nat) : (List.range n).foldl (fun a i => if p i then a + 2 ^ i else a) 0 < 2 ^ n ∧
      ∀ i, ((List.range n).foldl (fun a i => if p i then a + 2 ^ i else a) 0).testBit i = (decide (i < n) && p i) := by
    induction n with
    | zero => simp
    | succ n ih =>
      rw [List.range_succ, List.foldl_append]
      generalize (List.range n).foldl (fun a i => if p i then a + 2 ^ i else a) 0 = a at ih
      obtain ⟨hlt, hbit⟩ := ih
      rw [List.foldl_cons, List.foldl_nil]
      split
      · rename_i hp
        refine ⟨by rw [pow_succ]; omega, fun i => ?_⟩
        rw [Nat.add_comm]
        rcases lt_trichotomy i n with h | rfl | h
        · rw [Nat.testBit_two_pow_add_gt h, hbit, decide_eq_true h, decide_eq_true (by omega : i < n + 1)]
        · rw [Nat.testBit_two_pow_add_eq, hbit, hp]; simp
        · rw [Nat.testBit_lt_two_pow (by calc 2 ^ n + a < 2 ^ (n + 1) := by rw [pow_succ]; omega
                                             _ ≤ 2 ^ i := Nat.pow_le_pow_right (by decide) h)]
          simp [show ¬ i < n + 1 by omega]
      · rename_i hp
        refine ⟨by rw [pow_succ]; omega, fun i => ?_⟩
        rw [hbit]
        by_cases h : i = n
        · subst h; simp [hp]
        · simp only [show i < n + 1 ↔ i < n by omega]
  unfold maskOf
  rw [BitVec.getLsbD_ofNat, (hsum 32).2]
  cases decide (i < 32) <;> rfl

/-- A mask is that of its own lanes. -/
theorem maskOf_self (m : W32) : maskOf m.getLsbD = m := by
  refine mask_ext fun k => ?_
  rw [maskOf_getLsbD, Bool.and_eq_true, decide_eq_true_eq]
  refine and_iff_right_of_imp fun h => ?_
  by_contra hge
  simp [BitVec.getLsbD_of_ge m k (by omega)] at h

theorem mem_lanesOf (m : W32) (i : Nat) : i ∈ lanesOf m ↔ m.getLsbD i = true := by
  unfold lanesOf
  rw [List.mem_filter, List.mem_range]
  refine and_iff_right_of_imp fun h => ?_
  by_contra hge
  simp [BitVec.getLsbD_of_ge m i (by omega)] at h

/-! Traps. -/

/-- The path table of a handler: one running entry with the live lanes. -/
def handlerPaths (vec : W64) (live : W32) : List Entry :=
  ({ st := .run, pc := vec, mask := live, region := vec } : Entry) :: List.replicate 7 {}

theorem liveOf_handlerPaths (vec : W64) (live : W32) : liveOf (handlerPaths vec live) = live := by
  refine mask_ext fun k => ?_
  rw [liveOf_getLsbD]
  simp [handlerPaths]

theorem lacks_of_slotOf {t : Team} {p : W64} (h : (t.slotOf p).isSome = true) : t.lacks p = false := by
  obtain ⟨x, hx⟩ := Option.isSome_iff_exists.1 h
  simp [Team.lacks, hx]

/-- A trap that the entry `idx` takes, where the trap vector names landed code and the wave is not in its handler (R344). -/
theorem takeTrapOf_eq (s : State) (tr : Trap) (idx : Nat) (cl : Option Clause) (body : Option Body) (h : CanTrap s) :
    ∃ f : Frame, f.paths = s.w.paths ∧ f.latches = s.w.lanes.map (·.latch) ∧ f.trapped = idx ∧
      takeTrapOf s tr idx cl body = { s with
        w := { s.w with
          xtpc := tr.pc, xtreg := (s.w.paths.getD idx {}).region, xtcause := BitVec.ofNat 64 (tr.cause + tr.detail * 2 ^ 16)
          xtlanes := tr.lanes, xtmask := (s.w.paths.getD idx {}).mask, xtaddr := tr.addr
          xtcls := BitVec.ofNat 64 ((cl.map (·.hdr)).getD 0)
          frame := some f, xtdst := none, inHandler := true, paths := handlerPaths s.t.xtvec s.w.live }
        granted := false, stalled := false } := by
  obtain ⟨hin, hvec, hslot⟩ := h
  have hcl : ((cl.map fun c => { c with ext := none }).map (·.hdr)) = cl.map (·.hdr) := by cases cl <;> rfl
  have hvec' : (s.t.xtvec == 0) = false := by simpa using hvec
  unfold takeTrapOf
  simp only [hin, hvec', lacks_of_slotOf hslot, Bool.false_eq_true, if_false, hcl]
  exact ⟨_, rfl, rfl, rfl, rfl⟩

/-- A trap of the running entry is taken (R344). -/
theorem takeTrap_taken (s : State) (tr : Trap) (h : CanTrap s) :
    TrapTaken tr.cause tr.detail tr.lanes tr.addr tr.pc s (takeTrap s tr) := by
  obtain ⟨f, hpaths, hlatches, htrapped, he⟩ := takeTrapOf_eq s tr (s.w.runIdx.getD 0) s.w.cur.clause s.w.cur.body h
  refine ⟨f, hpaths, hlatches, htrapped, he.trans ?_⟩
  rw [htrapped]; rfl

/-- A wave that has taken a trap runs its handler in its live lanes. -/
theorem TrapTaken.handler {cause detail : Nat} {lanes : W32} {addr pc : W64} {s t : State} (h : TrapTaken cause detail lanes addr pc s t) :
    t.w.inHandler = true ∧ t.w.xtcause = BitVec.ofNat 64 (cause + detail * 2 ^ 16) ∧ t.w.xtlanes = lanes ∧ t.w.xtaddr = addr ∧ t.w.xtpc = pc ∧
    t.w.live = s.w.live ∧ t.w.cur.pc = s.t.xtvec ∧ t.w.cur.mask = s.w.live ∧ t.w.lanes = s.w.lanes ∧ t.mem = s.mem ∧ t.granted = false := by
  obtain ⟨f, -, -, -, rfl⟩ := h
  exact ⟨rfl, rfl, rfl, rfl, rfl, liveOf_handlerPaths s.t.xtvec s.w.live, rfl, rfl, rfl, rfl, rfl⟩

end Sys2Proof.Machine
end

section
/-! PROOFS. EXIT and REFORM (R26, R31, R65, R110, R114). -/

namespace Sys2Proof.Machine

/-! EXIT. -/

/-- The lanes that leave are no longer live, and the others are (R26). -/
theorem exitLanes_live (w : Wave) (m : W32) : (w.exitLanes m).live = w.live &&& ~~~m := by
  refine mask_ext fun k => ?_
  rw [live_eq_liveOf, live_eq_liveOf, liveOf_getLsbD, BitVec.getLsbD_and, Bool.and_eq_true, liveOf_getLsbD]
  constructor
  · rintro ⟨e, he, hst, hk⟩
    obtain ⟨x, hx, rfl⟩ := List.mem_map.1 he
    split at hst
    · exact absurd rfl hst
    · rename_i hne
      rw [if_neg hne] at hk
      change (x.mask &&& ~~~m).getLsbD k = true at hk
      rw [BitVec.getLsbD_and, Bool.and_eq_true] at hk
      exact ⟨⟨x, hx, hst, hk.1⟩, hk.2⟩
  · rintro ⟨⟨x, hx, hst, hk⟩, hm⟩
    have hkm : (x.mask &&& ~~~m).getLsbD k = true := by rw [BitVec.getLsbD_and, hk, hm]; rfl
    have hne : x.mask &&& ~~~m ≠ 0 := fun h => by rw [h] at hkm; simp at hkm
    exact ⟨_, List.mem_map.2 ⟨x, hx, rfl⟩, by rw [if_neg hne]; exact hst, by rw [if_neg hne]; exact hkm⟩

/-- The accesses in flight after lanes have left: their pending loads are discarded, and nothing else (R26). -/
theorem exitLanes_pend (w : Wave) (m : W32) :
    List.Forall₂ (fun p p' => p'.flag = p.flag ∧ p'.load = p.load ∧ p'.writes = p.writes.filter (fun x => x.scalar || !m.getLsbD x.lane) ∧
      p'.atoms.length = p.atoms.length) w.pend (w.exitLanes m).pend :=
  List.forall₂_map_right_iff.2 (List.forall₂_same.2 fun _ _ => ⟨rfl, rfl, rfl, List.length_map ..⟩)

/-- `t` is `s` but for what joins and barriers change in the waves of the team in hand, and the live lanes are those of `s`. -/
def Settled (s t : State) : Prop :=
  t = { s with w := { s.w with paths := t.w.paths, frame := t.w.frame, arrivals := t.w.arrivals, umbra := t.w.umbra }
               t := { s.t with waves := t.t.waves }, order := t.order } ∧ t.w.live = s.w.live ∧ t.w.frame.isSome = s.w.frame.isSome

/-- Joins and then barriers tried. -/
theorem tryBars_tryJoins_settled (s : State) : Settled s (tryBars (tryJoins s)) := by
  obtain ⟨hj, hlive, -⟩ := (tryJoins_spec s).1
  obtain ⟨hb, ⟨hw, hlive', hframe⟩, -⟩ := tryBars_tried (tryJoins s)
  obtain ⟨ps, o, hjs⟩ : ∃ ps o, tryJoins s = { s with w := { s.w with paths := ps }, order := o } := ⟨_, _, hj⟩
  refine ⟨?_, hlive'.trans hlive, hframe.trans (by rw [hjs])⟩
  generalize tryBars (tryJoins s) = t at hb hw
  rw [hjs] at hb hw
  obtain ⟨ws, o', ht⟩ : ∃ ws o', t = { s with w := t.w, t := { s.t with waves := ws }, order := o' } := ⟨_, _, hb⟩
  rw [ht]
  conv_lhs => rw [hw]

theorem tryBars_settled (s : State) : Settled s (tryBars s) := by
  obtain ⟨hb, ⟨hw, hlive, hframe⟩, -⟩ := tryBars_tried s
  refine ⟨?_, hlive, hframe⟩
  conv_lhs => rw [hb, hw]

/-- The wave that has no live lane ends, and its loop, its frame and its handler with it (R26). -/
theorem endIfEmpty_spec (s : State) :
    (endIfEmpty s).w.live = s.w.live ∧
    ((endIfEmpty s).w.live = 0 → (endIfEmpty s).w.ended = true ∧ .teamEnd s.t.id ∈ (endIfEmpty s).due ∧ (endIfEmpty s).w.mloop = none ∧
      (endIfEmpty s).w.frame = none ∧ (endIfEmpty s).w.inHandler = false) ∧
    ((endIfEmpty s).w.live ≠ 0 → endIfEmpty s = s) ∧
    endIfEmpty s = { s with w := { s.w with ended := (endIfEmpty s).w.ended, mloop := (endIfEmpty s).w.mloop, frame := (endIfEmpty s).w.frame
                                            inHandler := (endIfEmpty s).w.inHandler }, due := (endIfEmpty s).due } := by
  unfold endIfEmpty
  by_cases h : s.w.live = 0
  · rw [if_pos h]
    exact ⟨rfl, fun _ => ⟨rfl, by simp, rfl, rfl, rfl⟩, fun hne => (hne h).elim, rfl⟩
  · rw [if_neg h]
    exact ⟨rfl, fun h0 => (h h0).elim, fun _ => rfl, rfl⟩

theorem illop_detail_five : (BitVec.ofNat 64 (ILLOP + 5 * 2 ^ 16) : W64) = 1 + 5 * 2 ^ 16 := by decide

theorem lanesExit : Claims.LanesExit := by
  intro s hread hdef rest
  refine ⟨fun hlast => ?_, fun hlast hrest htrap => ?_⟩
  · have hexec : exec .exit s = .next (endIfEmpty (tryBars (tryJoins { s.advance 4 with w := (s.advance 4).w.exitLanes s.w.acting }))) := by
      show execExit s = _
      have hno : ¬ (s.w.cur.pc.toNat % 4096 = 4092 ∧ s.w.cur.mask &&& ~~~s.w.acting ≠ 0) := fun h => hlast.elim (· h.1) h.2
      simp only [execExit, hread, hdef, List.isEmpty_nil, Bool.not_true, Bool.false_eq_true, if_false, if_neg hno]
    obtain ⟨hpaths, -, hpast⟩ := advance_past s 4 false true
    have hlive : ((s.advance 4).w.exitLanes s.w.acting).live = s.w.live &&& ~~~s.w.acting := by
      rw [exitLanes_live, live_eq_liveOf, liveOf_past hpaths, live_eq_liveOf]
    clear hpaths
    obtain ⟨ps, due, ha⟩ : ∃ ps due, s.advance 4 = { s with
        w := { s.w with paths := ps, issued := s.w.issued + 1, cmpOk := false }, granted := false, stalled := false, due } := ⟨_, _, hpast⟩
    rw [ha] at hexec hlive
    have hpend := exitLanes_pend { s.w with paths := ps, issued := s.w.issued + 1, cmpOk := false } s.w.acting
    set b : State := { s with
      w := ({ s.w with paths := ps, issued := s.w.issued + 1, cmpOk := false } : Wave).exitLanes s.w.acting
      granted := false, stalled := false, due } with hb
    obtain ⟨hset, hsetLive, hframe⟩ := tryBars_tryJoins_settled b
    obtain ⟨qs, fr, ar, um, ws, o, hd⟩ : ∃ qs fr ar um ws o, tryBars (tryJoins b) = { b with
        w := { b.w with paths := qs, frame := fr, arrivals := ar, umbra := um }, t := { b.t with waves := ws }, order := o } :=
      ⟨_, _, _, _, _, _, hset⟩
    obtain ⟨hendLive, hended, hstays, hend⟩ := endIfEmpty_spec (tryBars (tryJoins b))
    refine ⟨_, hexec, hendLive.trans (hsetLive.trans hlive), fun h0 => ?_, fun h0 => ?_, ?_, ?_⟩
    · obtain ⟨h1, h2, h3, h4, h5⟩ := hended h0
      rw [hd] at h2
      exact ⟨h1, by rw [hd]; exact h2, h3, h4, h5⟩
    · rw [hstays h0, hd]
      refine ⟨rfl, rfl, rfl, fun hn => ?_⟩
      rw [hd] at hframe
      have : b.w.frame.isSome = false := by simp [hb, Wave.exitLanes, hn]
      exact Option.isSome_eq_false_iff.1 (hframe.trans this) |> Option.isNone_iff_eq_none.1
    · rw [hend, hd]; exact hpend
    · obtain ⟨en, ml, fr', ih, due', he⟩ : ∃ en ml fr' ih due', endIfEmpty (tryBars (tryJoins b)) = { tryBars (tryJoins b) with
          w := { (tryBars (tryJoins b)).w with ended := en, mloop := ml, frame := fr', inHandler := ih }, due := due' } := ⟨_, _, _, _, _, hend⟩
      rw [he, hd]; rfl
  · set b : State := { s with w := s.w.exitLanes s.w.acting } with hb
    obtain ⟨hset, hsetLive, -⟩ := tryBars_tryJoins_settled b
    obtain ⟨qs, fr, ar, um, ws, o, hd⟩ : ∃ qs fr ar um ws o, tryBars (tryJoins b) = { b with
        w := { b.w with paths := qs, frame := fr, arrivals := ar, umbra := um }, t := { b.t with waves := ws }, order := o } :=
      ⟨_, _, _, _, _, _, hset⟩
    have hexec : exec .exit s = .next (takeTrap (tryBars (tryJoins b)) { cause := ILLOP, detail := 5, lanes := rest, pc := s.w.issuePc
                                                                         next := (tryBars (tryJoins b)).w.cur.pc + 4 }) := by
      show execExit s = _
      have hyes : s.w.cur.pc.toNat % 4096 = 4092 ∧ s.w.cur.mask &&& ~~~s.w.acting ≠ 0 := ⟨hlast, hrest⟩
      simp only [execExit, hread, hdef, List.isEmpty_nil, Bool.not_true, Bool.false_eq_true, if_false, if_pos hyes]
      rfl
    have hvec : (tryBars (tryJoins b)).t.xtvec = s.t.xtvec := by rw [hd]
    have hbw : b.w = s.w.exitLanes s.w.acting := rfl
    have hlanes : (tryBars (tryJoins b)).w.lanes = s.w.lanes := by rw [hd]; show b.w.lanes = _; rw [hbw]; rfl
    have hmem : (tryBars (tryJoins b)).mem = s.mem := by rw [hd]
    have hcan : CanTrap (tryBars (tryJoins b)) := by rw [hd]; exact htrap
    obtain ⟨h1, h2, h3, -, h4, h5, h6, -, h7, h8, -⟩ := (takeTrap_taken _ { cause := ILLOP, detail := 5, lanes := rest, pc := s.w.issuePc
                                                                            next := (tryBars (tryJoins b)).w.cur.pc + 4 } hcan).handler
    refine ⟨_, hexec, h1, h2.trans illop_detail_five, h3, h4, ?_, ?_, ?_, ?_⟩
    · rw [h5, hsetLive, hbw, exitLanes_live]
    · exact h6.trans hvec
    · exact h7.trans hlanes
    · exact h8.trans hmem

/-! REFORM. -/

/-- The number of threads in the bins. -/
def binned (bins : List Bin) : Nat := (bins.map fun b => b.threads.length).sum

/-- A thread lies in the bin of its key. -/
def FiledAt (bins : List Bin) (key : W64) (th : W32 × List W32 × Nat) : Prop := ∃ x ∈ bins, x.key = key ∧ th ∈ x.threads

/-- The bins with one thread more, in the bin numbered `b` or in a new one. -/
def fileOne (bins : List Bin) (b : Nat) (key : W64) (carry : Nat) (th : W32 × List W32 × Nat) : List Bin :=
  if b < bins.length then bins.modify b fun x => { x with threads := x.threads ++ [th], carry } else bins ++ [{ key, threads := [th], carry }]

theorem binned_modify (bins : List Bin) (b carry : Nat) (th : W32 × List W32 × Nat) (h : b < bins.length) :
    binned (bins.modify b fun x => { x with threads := x.threads ++ [th], carry }) = binned bins + 1 := by
  induction bins generalizing b with
  | nil => simp at h
  | cons x xs ih =>
    cases b with
    | zero => simp [binned]; omega
    | succ b =>
      have := ih b (by simpa using h)
      simp only [binned, List.modify_succ_cons, List.map_cons, List.sum_cons] at this ⊢
      omega

/-- Filing one lane: it lies in the bin of its key, and what the bins held stays (R31). -/
theorem fileOne_spec (bins : List Bin) (key : W64) (carry b : Nat) (th : W32 × List W32 × Nat) (h : binFor bins key = some b) :
    binned (fileOne bins b key carry th) = binned bins + 1 ∧ FiledAt (fileOne bins b key carry th) key th ∧
    ∀ k y, FiledAt bins k y → FiledAt (fileOne bins b key carry th) k y := by
  unfold fileOne
  by_cases hb : b < bins.length
  · rw [if_pos hb]
    have hkey : bins[b].key = key := by
      unfold binFor at h
      split at h
      · rename_i i hi
        split at h
        · obtain rfl := Option.some.inj h
          simpa using (List.findIdx?_eq_some_iff_getElem.1 hi).2.1
        · cases h
      · split at h
        · obtain rfl := Option.some.inj h; omega
        · cases h
    have hat : (bins.modify b fun x => { x with threads := x.threads ++ [th], carry })[b]? =
        some { bins[b] with threads := bins[b].threads ++ [th], carry } := by simp [hb]
    refine ⟨binned_modify bins b carry th hb, ⟨_, List.mem_iff_getElem?.2 ⟨b, hat⟩, hkey, by simp⟩, fun k y ⟨x, hx, hk, hy⟩ => ?_⟩
    obtain ⟨n, hn⟩ := List.mem_iff_getElem?.1 hx
    by_cases hnb : n = b
    · subst hnb
      obtain rfl : bins[n] = x := (List.getElem?_eq_some_iff.1 hn).2
      exact ⟨_, List.mem_iff_getElem?.2 ⟨n, hat⟩, hk, List.mem_append_left _ hy⟩
    · exact ⟨x, List.mem_iff_getElem?.2 ⟨n, by simp [Ne.symm hnb, hn]⟩, hk, hy⟩
  · rw [if_neg hb]
    exact ⟨by simp [binned], ⟨_, List.mem_append_right _ (List.mem_singleton_self _), rfl, by simp⟩,
      fun k y ⟨x, hx, hk, hy⟩ => ⟨x, List.mem_append_left _ hx, hk, hy⟩⟩

/-- What filing lanes does: a first part of them is filed, in the bins of their keys, and the mask says which (R31). -/
theorem fileLanes_spec (w : Wave) (base : W64) (carry stamp : Nat) (ls : List Nat) (bins : List Bin) (hls : ∀ i ∈ ls, i < 32) :
    ∃ k, k ≤ ls.length ∧ binned (fileLanes w base carry stamp ls bins).1 = binned bins + k ∧
      (∀ i, (fileLanes w base carry stamp ls bins).2.getLsbD i = true ↔ i ∈ ls.take k) ∧
      (∀ i ∈ ls.take k, FiledAt (fileLanes w base carry stamp ls bins).1 (base + (((w.lane i).reg 0).toNat % 4096 : Nat))
        ((w.lane i).tid, (List.range carry).map (w.lane i).reg, stamp)) ∧
      ∀ key y, FiledAt bins key y → FiledAt (fileLanes w base carry stamp ls bins).1 key y := by
  induction ls generalizing bins with
  | nil => exact ⟨0, le_rfl, rfl, by simp [fileLanes], by simp, fun _ _ h => h⟩
  | cons i ls ih =>
    unfold fileLanes
    dsimp only
    cases hb : binFor bins (base + (((w.lane i).reg 0).toNat % 4096 : Nat)) with
    | none => exact ⟨0, Nat.zero_le _, rfl, by simp, by simp, fun _ _ h => h⟩
    | some b =>
      dsimp only
      set th := ((w.lane i).tid, (List.range carry).map (w.lane i).reg, stamp) with hth
      obtain ⟨hone, hin, hkeep⟩ := fileOne_spec bins _ carry b th hb
      obtain ⟨k, hk, hsum, hmask, hfiled, hrest⟩ := ih (fileOne bins b (base + (((w.lane i).reg 0).toNat % 4096 : Nat)) carry th)
        fun j hj => hls j (List.mem_cons_of_mem _ hj)
      have hi := hls i (List.mem_cons_self ..)
      refine ⟨k + 1, Nat.succ_le_succ hk, by rw [← fileOne, hsum, hone]; omega, fun j => ?_, fun j hj => ?_, fun key y h => hrest key y (hkeep key y h)⟩
      · rw [← fileOne, BitVec.getLsbD_or, Bool.or_eq_true, hmask, List.take_succ_cons, List.mem_cons, or_comm]
        have : (BitVec.ofNat 32 (2 ^ i)).getLsbD j = true ↔ j = i := by
          rw [BitVec.getLsbD_ofNat, Nat.testBit_two_pow]
          by_cases h : i = j
          · subst h; simp [hi]
          · simp [h, Ne.symm h]
        rw [this]
      · rw [List.take_succ_cons] at hj
        rcases List.mem_cons.1 hj with rfl | hj
        · exact hrest _ _ hin
        · exact hfiled j hj

/-- The lanes that find bins are all the acting ones exactly where the mask says so. -/
theorem take_lanesOf_all {act : W32} {k : Nat} (hk : k ≤ (lanesOf act).length)
    (h : ∀ i, act.getLsbD i = true ↔ i ∈ (lanesOf act).take k) : k = (lanesOf act).length := by
  by_contra hne
  have hlt : k < (lanesOf act).length := by omega
  have hmem : (lanesOf act)[k] ∈ (lanesOf act).take k := (h _).1 ((mem_lanesOf ..).1 (List.getElem_mem hlt))
  have hnodup : (lanesOf act).Nodup := List.nodup_range.filter _
  obtain ⟨n, hn, he⟩ := List.mem_take_iff_getElem.1 hmem
  have := (List.Nodup.getElem_inj_iff hnodup).1 he
  omega

/-- The state with the bins of the team in hand as given. -/
def State.toBins (s : State) (bins : List Bin) : State := { s with t := { s.t with bins } }

/-- The last lanes of the wave leave behind the instruction. -/
def State.allLeave (u : State) : State := { u.advance 4 with w := (u.advance 4).w.exitLanes (u.advance 4).w.live }

/-- REFORM where its checks pass: lanes are filed, and the wave ends or stalls (R114). -/
theorem execReform_files (s : State) (carry : BitVec 12) (bins : List Bin) (m : W32) (hread : s.copiesReading = false) (hdef : s.w.deferred = [])
    (hused : s.w.used ≤ 1) (hhold : ∀ l ∈ s.w.lanes, l.holding = false) (hhems : s.w.hems = []) (htwin : s.t.twin = false)
    (hflags : ∀ n ∈ s.w.f, n = 0) (hblocked : s.w.cur.blocked = none)
    (hgood : ∀ i, s.w.acting.getLsbD i = true → ((s.w.lane i).reg 0).toNat % 2 = 0 ∧ ((s.w.lane i).reg 0).toNat < 4096)
    (hfile : fileLanes s.w (BitVec.ofNat 64 (s.w.cur.pc.toNat / 4096 * 4096)) carry.toNat s.t.opps (lanesOf s.w.acting) s.t.bins = (bins, m)) :
    execReform carry s = if m = s.w.acting then .next (endIfEmpty (tryBars (s.toBins bins).allLeave))
      else .next ((s.toBins bins).heldBack.onCur fun e => { e with blocked := some { pc := e.pc, mask := m } }) := by
  have hstop : (1 < s.w.used || s.w.lanes.any (·.holding) || !s.w.hems.isEmpty || s.t.twin) = false := by
    have : s.w.lanes.any (·.holding) = false := by simpa [List.any_eq_false] using hhold
    simp [this, hhems, htwin, Nat.not_lt.2 hused]
  have hflags' : s.w.f.any (· != 0) = false := by simpa [List.any_eq_false] using hflags
  have hls : ((lanesOf s.w.acting).filter fun i => !(0 : W32).getLsbD i) = lanesOf s.w.acting := List.filter_eq_self.2 (by simp)
  have hwrong : ((lanesOf s.w.acting).filter fun i => ((s.w.lane i).reg 0).toNat % 2 = 1 || ((s.w.lane i).reg 0).toNat / 4096 ≠ 0) = [] :=
    List.filter_eq_nil_iff.2 fun i hi => by
      obtain ⟨h1, h2⟩ := hgood i ((mem_lanesOf ..).1 hi)
      simp [h1, Nat.div_eq_of_lt h2]
  have hmask : maskOf (fun i => s.w.acting.getLsbD i) = s.w.acting := maskOf_self _
  simp only [execReform, hblocked, hread, hdef, hstop, hflags', hls, List.isEmpty_nil, Bool.not_true, Bool.false_eq_true, if_false]
  rw [if_neg (fun h => h.2 hwrong), hmask, hfile]
  have hor : (0 : W32) ||| m = m := BitVec.zero_or
  rw [hor]
  rfl

theorem allLeave_spec (u : State) :
    u.allLeave.w.live = 0 ∧ u.allLeave.t = u.t ∧ u.allLeave.w.lanes = u.w.lanes ∧ u.allLeave.mem = u.mem := by
  have ha := (advance_past u 4 false true).2.2
  refine ⟨(exitLanes_live ..).trans (BitVec.and_not_self _), ?_, ?_, ?_⟩
  · show (u.advance 4).t = u.t; rw [ha]
  · show (u.advance 4).w.lanes = u.w.lanes; rw [ha]
  · show (u.advance 4).mem = u.mem; rw [ha]

/-- A wave whose last lanes leave has ended (R26); its registers, the bins and memory are as before. -/
theorem lastLanesLeave (u : State) :
    let t := endIfEmpty (tryBars u.allLeave)
    t.t.bins = u.t.bins ∧ t.w.live = 0 ∧ t.w.ended = true ∧ .teamEnd u.t.id ∈ t.due ∧ t.w.lanes = u.w.lanes ∧ t.mem = u.mem := by
  obtain ⟨hlive, hbt, hbl, hbm⟩ := allLeave_spec u
  generalize u.allLeave = b at hlive hbt hbl hbm ⊢
  obtain ⟨hset, hsetLive, -⟩ := tryBars_settled b
  generalize tryBars b = d at hset hsetLive ⊢
  obtain ⟨hendLive, hended, -, hend⟩ := endIfEmpty_spec d
  generalize endIfEmpty d = e at hendLive hended hend ⊢
  obtain ⟨hen, hdue, -⟩ := hended (hendLive.trans (hsetLive.trans hlive))
  refine ⟨?_, hendLive.trans (hsetLive.trans hlive), hen, ?_, ?_, ?_⟩
  · rw [hend, hset, ← hbt]
  · rw [hset, hbt] at hdue; exact hdue
  · rw [hend, hset, ← hbl]
  · rw [hend, hset, ← hbm]

/-- The running entry after a change of it. -/
theorem cur_onCur {w : Wave} (f : Entry → Entry) (hf : ∀ e, e.st = .run → (f e).st = .run) (h : w.runIdx.isSome = true) :
    (w.onCur f).cur = f w.cur := by
  obtain ⟨i, hi⟩ := Option.isSome_iff_exists.1 h
  have hst := (runIdx_some hi).2
  have hall : List.Forall₂ (fun e e' => e'.st = e.st ∧ (e.st = .run → e' = f e)) w.paths (w.onCur f).paths := by
    refine List.forall₂_map_right_iff.2 (List.forall₂_same.2 fun e _ => ?_)
    by_cases hr : e.st = .run
    · rw [if_pos hr]; exact ⟨(hf e hr).trans hr.symm, fun _ => rfl⟩
    · rw [if_neg hr]; exact ⟨rfl, fun h => (hr h).elim⟩
  exact (cur_of_forall₂ hall (fun _ _ h => h.1) ⟨rfl, fun h => by cases h⟩).2 hst

/-- A change of the running entry that keeps its use and its lanes keeps the live lanes. -/
theorem live_onCur {w : Wave} (f : Entry → Entry) (hst : ∀ e, e.st = .run → (f e).st ≠ .free) (hm : ∀ e, (f e).mask = e.mask) :
    (w.onCur f).live = w.live := by
  refine liveOf_congr (List.forall₂_map_right_iff.2 (List.forall₂_same.2 fun e _ => ?_))
  by_cases hr : e.st = .run
  · rw [if_pos hr]; exact .inr ⟨hst e hr, by simp [hr], hm e⟩
  · rw [if_neg hr]
    by_cases hf : e.st = .free
    · exact .inl ⟨hf, hf⟩
    · exact .inr ⟨hf, hf, rfl⟩

theorem reformFiles : Claims.ReformFiles := by
  intro s carry bins m hread hdef hused hhold hhems htwin hflags hblocked hgood hfile
  have hexec := execReform_files s carry bins m hread hdef hused hhold hhems htwin hflags hblocked hgood hfile
  refine ⟨fun hm => ?_, fun hm => ?_⟩
  · obtain ⟨k, hk, hsum, hmask, hfiled, -⟩ := fileLanes_spec s.w (BitVec.ofNat 64 (s.w.cur.pc.toNat / 4096 * 4096)) carry.toNat s.t.opps
      (lanesOf s.w.acting) s.t.bins fun i hi => List.mem_range.1 (List.mem_filter.1 hi).1
    rw [hfile] at hsum hmask hfiled
    subst hm
    rw [take_lanesOf_all hk hmask] at hsum hfiled
    obtain ⟨hbins, hlive, hended, hdue, hlanes, hmem⟩ := lastLanesLeave (s.toBins bins)
    rw [if_pos rfl] at hexec
    refine ⟨_, hexec, hbins, hlive, hended, hdue, hsum, fun i hi _ => ?_, hlanes, hmem⟩
    obtain ⟨x, hx, hkey, hth⟩ := hfiled i (by rw [List.take_length]; exact (mem_lanesOf ..).2 hi)
    refine ⟨x, hx, _, hth, ?_, rfl, rfl⟩
    rw [hkey, Nat.mod_eq_of_lt (hgood i hi).2, BitVec.ofNat_add]; rfl
  · rw [if_neg hm] at hexec
    refine ⟨_, hexec, rfl, live_onCur (w := { s.w with held := true }) _ (fun e h => by simp [h]) (fun _ => rfl), rfl, rfl, fun hrun => ?_, rfl, rfl⟩
    have hcur := cur_onCur (w := { s.w with held := true }) (fun e => { e with blocked := some { pc := e.pc, mask := m } }) (fun e h => h) hrun
    exact congrArg (fun e => e.blocked.map (·.mask)) hcur

/-- Settles O9: EXIT and REFORM move on, lanes leave, joins and barriers are tried, and an empty wave ends; bins are filled lane by lane. -/
theorem exitAndReform : Obligations.ExitAndReform := ⟨lanesExit, reformFiles⟩

end Sys2Proof.Machine
end

section
/-! PROOFS. A grant spent: the instruction at the program counter, and what the checks of its place answer (R10, R62 to R66, R73, R88, R246,
R347, R378 to R382). -/

namespace Sys2Proof.Machine

/-! The step around a spent grant. -/

/-- With nothing due, a wave that holds a grant spends it, and its leader's trap waits for its umbra. -/
theorem step_granted {s : State} (hdue : s.due = []) (hg : s.granted = true) (hu : s.under = false) : step s = tickOut (issueStep s) := by
  unfold step
  rw [hdue]
  dsimp only
  unfold plainStep
  rw [if_pos hg, hu]
  rfl

/-- What a spent grant comes to, where it meets no page under migration. -/
theorem issueStep_next {s t : State} (h : spendGrant s = .next t) (hmet : ¬ ((leadTrap s t).waits = true ∧ s.waits = false)) :
    issueStep s = .next (leadTrap s t) := by
  unfold issueStep
  rw [h]
  refine if_neg fun hb => hmet ?_
  rw [Bool.and_eq_true, Bool.not_eq_true'] at hb
  exact hb

/-- A spent grant that meets one is held (R312). -/
theorem issueStep_met {s t : State} (h : spendGrant s = .next t) (hmet : (leadTrap s t).waits = true ∧ s.waits = false) :
    issueStep s = .next s.heldBack := by
  unfold issueStep
  rw [h]
  refine if_pos ?_
  rw [Bool.and_eq_true, Bool.not_eq_true']
  exact hmet

/-- A trap and the team's end concern only leaders: a step that is neither stands. -/
theorem leadTrap_of_not_trapping {s t : State} (h : s.w.umbra = none ∨ t.hand ≠ s.hand ∨ trapping s t = false) : leadTrap s t = t := by
  unfold leadTrap
  split
  · rfl
  · next hu =>
    rw [if_neg fun hb => ?_]
    rw [Bool.and_eq_true, beq_iff_eq] at hb
    rcases h with h | h | h
    · rw [h] at hu; cases hu
    · exact h hb.1
    · rw [h] at hb; exact absurd hb.2 (by simp)

/-- A step that leaves the handler and the team as they are takes no trap. -/
theorem trapping_of_same {s t : State} (hin : t.w.inHandler = s.w.inHandler) (hend : t.t.ending = s.t.ending) : trapping s t = false := by
  unfold trapping
  rw [hin, hend]
  cases s.w.inHandler <;> cases s.t.ending <;> rfl

/-- A step that holds the wave back changes the grant and marks of the wave alone. -/
theorem step_of_held {s t : State} (hdue : s.due = []) (hg : s.granted = true) (hu : s.under = false) (h : spendGrant s = .next t)
    (hin : t.w.inHandler = s.w.inHandler) (hend : t.t.ending = s.t.ending) (hw : t.waits = s.waits) : step s = .next t.tick := by
  have hlead := leadTrap_of_not_trapping (.inr (.inr (trapping_of_same hin hend)))
  have hmet : ¬ ((leadTrap s t).waits = true ∧ s.waits = false) := by
    rw [hlead, hw]; exact fun hb => Bool.noConfusion (hb.1.symm.trans hb.2)
  rw [step_granted hdue hg hu, issueStep_next h hmet, hlead]
  rfl

/-! A leader's trap (R382). -/

theorem noteFrom_fields (w v : Wave) : (w.noteFrom v).lanes = v.lanes ∧ (w.noteFrom v).s = v.s ∧
    ∀ y, (w.noteFrom v).umbra = some y → ∃ x, v.umbra = some x ∧ y.lanes = x.lanes ∧ y.s = x.s := by
  unfold Wave.noteFrom
  split
  · refine ⟨rfl, rfl, fun y hy => ?_⟩
    obtain ⟨x, hx, rfl⟩ := Option.map_eq_some_iff.1 hy
    exact ⟨x, hx, rfl, rfl⟩
  · exact ⟨rfl, rfl, fun y hy => ⟨y, hy, rfl, rfl⟩⟩

/-- What a trap taken together leaves: the memory that the umbra's part of it leaves, and each wave its own registers. -/
theorem trapTogether_keeps (s t v : State) :
    (trapTogether s t v).mem = v.mem ∧ (trapTogether s t v).waits = v.waits ∧ (trapTogether s t v).w.lanes = t.w.lanes ∧
    (trapTogether s t v).w.s = t.w.s ∧ ∀ y, (trapTogether s t v).w.umbra = some y → y.lanes = v.w.lanes ∧ y.s = v.w.s := by
  have hbecome : ∀ {o : Option Umbra} {x : Umbra}, o.map (·.become v.w) = some x → x.lanes = v.w.lanes ∧ x.s = v.w.s := by
    intro o x hx
    obtain ⟨u, -, rfl⟩ := Option.map_eq_some_iff.1 hx
    exact ⟨rfl, rfl⟩
  have hnote : ∀ w : Wave, w.lanes = t.w.lanes → w.s = t.w.s → w.umbra = t.w.umbra.map (·.become v.w) →
      ({ v with w := s.w.noteFrom w } : State).mem = v.mem ∧ ({ v with w := s.w.noteFrom w } : State).waits = v.waits ∧
      (s.w.noteFrom w).lanes = t.w.lanes ∧ (s.w.noteFrom w).s = t.w.s ∧
      ∀ y, (s.w.noteFrom w).umbra = some y → y.lanes = v.w.lanes ∧ y.s = v.w.s := by
    intro w hl hs hum
    obtain ⟨h1, h2, h3⟩ := noteFrom_fields s.w w
    refine ⟨rfl, rfl, h1.trans hl, h2.trans hs, fun y hy => ?_⟩
    obtain ⟨x, hx, hxl, hxs⟩ := h3 y hy
    rw [hum] at hx
    rw [hxl, hxs]
    exact hbecome hx
  unfold trapTogether
  dsimp only
  split
  · split
    · refine ⟨rfl, rfl, rfl, rfl, fun y hy => ?_⟩
      obtain ⟨x, hx, rfl⟩ := Option.map_eq_some_iff.1 hy
      have hxv : x.lanes = v.w.lanes ∧ x.s = v.w.s := hbecome hx
      exact hxv
    · exact hnote _ rfl rfl rfl
  · exact hnote _ rfl rfl rfl

/-- The comparison of a leader's trap with its umbra's, field by field. -/
theorem sameTrap_iff (s t x : State) (u : Umbra) :
    sameTrap s t x u = true ↔ x.w.inHandler = t.w.inHandler ∧ x.t.ending = t.t.ending ∧ x.w.xtcause = t.w.xtcause ∧
      x.w.xtlanes = t.w.xtlanes ∧ x.w.xtpc = t.w.xtpc ∧
      ∀ i, s.t.fetch s.w.cur.pc = some (.ok i) → Instr.ownRegs i = true ∨ Instr.fields i s.w = Instr.fields i (s.w.under u) := by
  unfold sameTrap
  simp only [Bool.and_eq_true, beq_iff_eq, and_assoc]
  split
  · next i hf =>
    rw [hf]
    simp only [Bool.or_eq_true, beq_iff_eq, Option.some.injEq, Except.ok.injEq]
    simp
  · next hf =>
    have : ∀ i, s.t.fetch s.w.cur.pc ≠ some (.ok i) := hf
    simp [this]

/-- A leader's trap: entered with its umbra, awaited, or a mismatch (R382). -/
theorem leadTrap_trapping {s t : State} {v : Umbra} (hv : s.w.umbra = some v) (hhand : t.hand = s.hand) (htrap : trapping s t = true) :
    leadTrap s t = if s.w.lagging then s.heldBack
      else match spendGrant { s with w := s.w.under v } with
        | .next x => if sameTrap s t x v then trapTogether s t x else umbraMismatch s (s.w.runIdx.getD 0) s.w.cur.region
        | _ => umbraMismatch s (s.w.runIdx.getD 0) s.w.cur.region := by
  unfold leadTrap
  rw [hv]
  exact if_pos (by rw [hhand, htrap]; simp)

theorem lagging_of_umbra {w : Wave} {v : Umbra} (hv : w.umbra = some v) : w.lagging = true ↔ v.trail ≠ [] := by
  simp [Wave.lagging, hv]

/-- A trap that a spent grant comes to is entered as R378, R380 and R382 say. -/
theorem trapEnters_of_spendGrant {s t : State} (hdue : s.due = []) (hg : s.granted = true) (hu : s.under = false)
    (h : spendGrant s = .next t) (hhand : t.hand = s.hand) (htrap : trapping s t = true) (hmet : ¬ (t.waits = true ∧ s.waits = false)) :
    Claims.TrapEnters s t := by
  have hstep : ∀ {x : State}, leadTrap s t = x → ¬ (x.waits = true ∧ s.waits = false) → step s = .next x.tick := by
    intro x hx hm
    subst hx
    rw [step_granted hdue hg hu, issueStep_next h hm]
    rfl
  have hsame : ∀ {x : State}, x.waits = s.waits → ¬ (x.waits = true ∧ s.waits = false) := by
    intro x hx hb; rw [hx] at hb; exact Bool.noConfusion (hb.1.symm.trans hb.2)
  refine ⟨fun hnone => hstep (leadTrap_of_not_trapping (.inl hnone)) hmet, fun v hv => ?_⟩
  have hlead := leadTrap_trapping hv hhand htrap
  refine ⟨fun hlag => ?_, fun hcaught => ⟨fun x ⟨hx, hsx⟩ hw => ?_, fun hdiff hw => ?_⟩⟩
  · rw [if_pos ((lagging_of_umbra hv).2 hlag)] at hlead
    exact hstep hlead (hsame rfl)
  · rw [if_neg (fun hl => (lagging_of_umbra hv).1 hl hcaught), hx] at hlead
    dsimp only at hlead
    rw [if_pos ((sameTrap_iff s t x v).2 hsx)] at hlead
    obtain ⟨hmem, hwaits, hlanes, hs, hum⟩ := trapTogether_keeps s t x
    exact ⟨hstep hlead (hsame (hwaits.trans hw)), hmem, hlanes, hs, fun y _ hy => hum y hy⟩
  · rw [if_neg (fun hl => (lagging_of_umbra hv).1 hl hcaught)] at hlead
    refine hstep (hlead.trans ?_) (hsame hw)
    split
    · next x hx => exact if_neg fun hs => hdiff x ⟨hx, (sameTrap_iff s t x v).1 hs⟩
    · rfl

/-! The step is the instruction. -/

/-- A leader's outcome leaves behind what its umbra will follow (R378). -/
theorem leadOut_next_led {i : Instr} {u t : State} (hhand : t.hand = u.hand) (hum : u.w.umbra.isSome = true) :
    leadOut i u (.next t) = .next { t with w := { t.w with
      umbra := t.w.umbra.map fun v => { v with trail := ((u.w.umbra.map (·.trail)).getD []) ++ u.w.trailOf t.w i } } } := by
  obtain ⟨v, hv⟩ := Option.isSome_iff_exists.1 hum
  unfold leadOut
  rw [hv]
  dsimp only
  cases ht : t.w.umbra with
  | some y => rw [if_pos (by simp [hhand])]; rfl
  | none =>
    rw [if_neg (by simp)]
    refine congrArg Host.Outcome.next ?_
    show t = { t with w := { t.w with umbra := none } }
    rw [← ht]

theorem leadOut_next_plain {i : Instr} {u t : State} (h : u.w.umbra = none ∨ t.hand ≠ u.hand) : leadOut i u (.next t) = .next t := by
  unfold leadOut
  rcases h with h | h
  · rw [h]
  · split
    · next heq _ => obtain rfl := Host.Outcome.next.inj heq; rw [if_neg (by simp [h])]
    · rfl

/-- Where issue comes to an instruction, the step is that instruction (R62, R73). -/
theorem stepIs_of_preIssue {s u : State} {i : Instr} (hdue : s.due = []) (hg : s.granted = true) (hu : s.under = false)
    (hpre : preIssue s = .run i u) (hum : u.w.umbra = s.w.umbra) (hhand : u.hand = s.hand) : Claims.StepIs s u i := by
  have hspend : spendGrant s = leadOut i u (exec i u) := by unfold spendGrant; rw [hpre]
  have hstep := step_granted hdue hg hu
  have hplain : ∀ {t : State}, spendGrant s = .next t → leadTrap s t = t →
      (t.waits = true ∧ s.waits = false → step s = .next s.heldBack.tick) ∧ (¬ (t.waits = true ∧ s.waits = false) → step s = .next t.tick) := by
    intro t ht hl
    refine ⟨fun hm => ?_, fun hm => ?_⟩
    · rw [hstep, issueStep_met ht (hl.symm ▸ hm)]; rfl
    · rw [hstep, issueStep_next ht (hl.symm ▸ hm), hl]; rfl
  refine ⟨fun f hf => ?_, fun r hr => ?_, fun t ht => ⟨fun hn => ?_, fun _ hne => ?_, fun hsome heq => ?_⟩⟩
  · rw [hstep]; unfold issueStep; rw [hspend, hf]; rfl
  · rw [hstep]; unfold issueStep; rw [hspend, hr]; rfl
  · exact hplain (by rw [hspend, ht, leadOut_next_plain (.inl (hum.trans hn))]) (leadTrap_of_not_trapping (.inl hn))
  · exact hplain (by rw [hspend, ht, leadOut_next_plain (.inr (by rw [hhand]; exact hne))]) (leadTrap_of_not_trapping (.inr (.inl hne)))
  · have hled := leadOut_next_led (i := i) (heq.trans hhand.symm) (hum ▸ hsome)
    rw [hum] at hled
    have hspend' := (hspend.trans (congrArg (leadOut i u) ht)).trans hled
    exact ⟨fun hnot => hplain hspend' (leadTrap_of_not_trapping (.inr (.inr hnot))),
      fun htrap hm => trapEnters_of_spendGrant hdue hg hu hspend' heq htrap hm⟩

/-! From the grant to the checks (R347). -/

/-- No retry waits, and no report is due: the wave stands at its program counter, in landed code. -/
structure Ready (s : State) : Prop where
  loop : ∀ l, s.w.mloop = some l → l.retryDue = false
  running : s.w.runIdx.isSome = true
  free : s.w.stallsLeader = false
  reports : s.w.reports = [] ∨ s.w.inHandler = true ∨ s.w.ext.isSome = true
  landed : (s.t.slotOf s.w.cur.pc).isSome = true

theorem slotOf_isSome_of_half {t : Team} {p : W64} {h : Nat} (hh : t.half p = some h) : (t.slotOf p).isSome = true := by
  unfold Team.half at hh
  cases hs : t.slotOf p with
  | none => rw [hs] at hh; cases hh
  | some x => rfl

theorem filter_retry_none {w : Wave} (h : ∀ l, w.mloop = some l → l.retryDue = false) : w.mloop.filter (·.retryDue) = none := by
  cases hm : w.mloop with
  | none => rfl
  | some l => simp [Option.filter, h l hm]

theorem preIssue_held {s : State} (hloop : ∀ l, s.w.mloop = some l → l.retryDue = false) (hst : s.w.stallsLeader = true) :
    preIssue s = .done (.next s.heldBack) := by
  unfold preIssue
  rw [filter_retry_none hloop]
  dsimp only
  rw [if_pos (by rw [hst]; simp)]

theorem preIssue_ready {s : State} (h : Ready s) :
    preIssue s = match s.w.cur.clause with
      | none => preHeader s
      | some c => if atBoundary s then preHeader (s.onCur fun e => { e with clause := none }) else preInstr s c := by
  obtain ⟨hloop, hrun, hfree, hrep, hland⟩ := h
  have hnone : s.w.runIdx.isNone = false := by rw [← Option.not_isSome, hrun]; rfl
  have hnoslot : (s.t.slotOf s.w.cur.pc).isNone = false := by rw [← Option.not_isSome, hland]; rfl
  have hreport : (!s.w.inHandler && !s.w.reports.isEmpty && !s.w.midway) = false := by
    rcases hrep with h | h | h
    · simp [h]
    · simp [h]
    · simp [Wave.midway, h]
  unfold preIssue
  rw [filter_retry_none hloop]
  dsimp only
  rw [hnone, hfree, hreport, hnoslot]
  rfl

/-- The word that decodes at a landed pointer. -/
theorem fetch_eq {t : Team} {pc : W64} {h : Nat} (hh : t.half pc = some h) :
    t.fetch pc = some (decodeHalves h (if pc.toNat % 4096 ≤ 4092 then t.half (pc + 2) else none)) := by
  unfold Team.fetch
  rw [hh]
  rfl

/-- The buffer holds nothing. -/
theorem buffered_eq_zero {w : Wave} : w.buffered = 0 ↔ ∀ p ∈ w.pend, p.held = false := by
  simp [Wave.buffered, List.filter_eq_nil_iff]

/-- An instruction inside a clause that the checks of its place let through comes to what may hold it. -/
theorem preInstr_passes {s : State} {c : Clause} {i : Instr} {h : Nat} (hh : s.t.half s.w.cur.pc = some h)
    (hi : s.t.fetch s.w.cur.pc = some (.ok i)) (hhdr : s.t.isHeader s.w.cur.pc = false) (hcount : c.count < 32) (hext : ∀ p, i ≠ .ext p)
    (hmis : misplaced s i (if h % 2 = 0 then 2 else 4) = false) (himm : immBad i c.ext = false) (hn : (Instr.uses i).beyond s.t.n = false)
    (hwrong : wrongHere s i c = false) (hlatch : (Instr.uses i).latch = true → c.lw = true) (hcap : capsuleIll s i = false) :
    preInstr s c = preExec s i := by
  have hl : ((Instr.uses i).latch && !c.lw) = false := by
    cases h1 : (Instr.uses i).latch with
    | false => rfl
    | true => simp [hlatch h1]
  unfold preInstr
  dsimp only
  rw [hhdr, hi, hh]
  dsimp only
  rw [hmis, himm, hn, hwrong, hl, hcap, if_neg (Nat.not_le.2 hcount)]
  cases i with
  | ext p => exact absurd rfl (hext p)
  | _ => rfl

theorem preInstr_ext {s : State} {c : Clause} {p : BitVec 25} (hi : s.t.fetch s.w.cur.pc = some (.ok (.ext p)))
    (hhdr : s.t.isHeader s.w.cur.pc = false) (hcount : c.count < 32) (hext : c.ext = none) (hend : s.w.cur.pc.toNat % 4096 ≠ 4092) :
    preInstr s c = .run (.ext p) s := by
  unfold preInstr
  dsimp only
  rw [hhdr, hi, hext, if_neg (Nat.not_le.2 hcount)]
  dsimp only
  rw [if_neg hend]
  rfl

theorem preHeader_runs {s : State} {i : Instr} (hi : s.t.fetch s.w.cur.pc = some (.ok i)) (hhdr : s.t.isHeader s.w.cur.pc = true)
    (hnext : s.t.isHeader (s.w.cur.pc + 4) = false) (hend : s.w.cur.pc.toNat % 4096 ≠ 4092) :
    preHeader s = if s.w.buffered != 0 && !Instr.ownOnly i then .done (.next s.waitHeld) else .run i s := by
  unfold preHeader
  dsimp only
  rw [hhdr, hnext, hi]
  simp only [Bool.not_true, Bool.or_false, decide_eq_true_eq, if_neg hend, Bool.false_eq_true, if_false]

end Sys2Proof.Machine
end

section
/-! PROOFS. The step runs the decoded instruction (R62, R65, R73), or raises what its checks say (R10, R13, R36, R66, R88, R246). -/

namespace Sys2Proof.Machine

/-! What may hold an instruction before it acts (R156, R237, R379, R380). -/

/-- Not held by the comparison buffer: it holds nothing, or the instruction acts on the wave's registers alone, or is a plain store outside a
capsule body (R379, R380). -/
def freeOfBuffer (w : Wave) (i : Instr) : Prop :=
  (Instr.ownOnly i = true ∨ ∀ p ∈ w.pend, p.held = false) ∨ (Instr.plainStore i = true ∧ w.cur.body = none)

theorem freeOfBuffer_iff (w : Wave) (i : Instr) :
    freeOfBuffer w i ↔ (w.buffered != 0 && !Instr.ownOnly i && !(Instr.plainStore i && w.cur.body.isNone)) = false := by
  rw [freeOfBuffer, ← buffered_eq_zero]
  by_cases h : w.buffered = 0
  · simp [h]
  · cases h1 : Instr.ownOnly i
    · simp [h]
    · simp

theorem aloneAtHeader_iff (w : Wave) (i : Instr) :
    (Instr.ownOnly i = true ∨ ∀ p ∈ w.pend, p.held = false) ↔ (w.buffered != 0 && !Instr.ownOnly i) = false := by
  rw [← buffered_eq_zero]
  by_cases h : w.buffered = 0
  · simp [h]
  · simp [h]

section
variable {s : State} {i : Instr} (hinert : inert s i = false) (hmark : ∀ n, (Instr.mark i).bind s.w.mark = some n → s.w.f.getD n 0 < 63)
include hinert hmark

/-- A flag that counts the operation has room: the buffer and what follows it decide. -/
theorem preExec_counted : preExec s i =
    if s.w.buffered != 0 && !Instr.ownOnly i && !(Instr.plainStore i && s.w.cur.body.isNone) then .done (.next s.waitHeld)
    else if Instr.nonRepeatable i && s.copiesReading then .done (.next s.heldBack)
    else if Instr.nonRepeatable i && !s.w.deferred.isEmpty then .done (.next (takeDeferred s fun _ => true))
    else if consumers s.w i != 0 then
      .done (.next (if s.w.lagging then s.heldBack else contain s 36 (consumers s.w i) 0 s.w.issuePc))
    else if s.w.mustCompare i then .done (.next { s.heldBack with w := { s.heldBack.w with cmpWait := true } })
    else .run i s := by
  have hroom : (match (Instr.mark i).bind s.w.mark with | some n => decide (63 ≤ s.w.f.getD n 0) | none => false) = false := by
    cases hb : (Instr.mark i).bind s.w.mark with
    | none => rfl
    | some n => exact decide_eq_false (Nat.not_le.2 (hmark n hb))
  unfold preExec
  dsimp only
  rw [hinert, if_neg Bool.false_ne_true, if_neg]
  intro h
  exact Bool.false_ne_true (hroom.symm.trans h)

theorem preExec_buffered (h : ¬ freeOfBuffer s.w i) : preExec s i = .done (.next s.waitHeld) := by
  rw [preExec_counted hinert hmark, if_pos (by rw [freeOfBuffer_iff] at h; exact Bool.eq_true_of_not_eq_false h)]

theorem preExec_free (h : freeOfBuffer s.w i) (hrep : Instr.nonRepeatable i = true → s.copiesReading = false ∧ s.w.deferred = [])
    (hclean : consumers s.w i = 0) :
    preExec s i = if s.w.mustCompare i then .done (.next { s.heldBack with w := { s.heldBack.w with cmpWait := true } }) else .run i s := by
  rw [preExec_counted hinert hmark, (freeOfBuffer_iff s.w i).1 h, hclean]
  cases hn : Instr.nonRepeatable i with
  | false => rfl
  | true => rw [(hrep hn).1, (hrep hn).2]; rfl

end

/-! O54. -/

/-- The state at a clause boundary: the clause that ends is forgotten. -/
def State.outside (s : State) : State :=
  { s with w := { s.w with paths := s.w.paths.map fun e => if e.st = .run then { e with clause := none } else e } }

theorem outside_cur_pc {s : State} (hrun : s.w.runIdx.isSome = true) : s.outside.w.cur.pc = s.w.cur.pc := by
  show (s.w.onCur fun e => { e with clause := none }).cur.pc = _
  rw [cur_onCur (fun e => { e with clause := none }) (fun _ h => h) hrun]

/-- Where issue ends with the wave held, the step only holds it. -/
theorem step_of_preIssue_held {s t : State} (hdue : s.due = []) (hg : s.granted = true) (hu : s.under = false)
    (h : preIssue s = .done (.next t)) (hin : t.w.inHandler = s.w.inHandler) (hend : t.t.ending = s.t.ending) (hw : t.waits = s.waits) :
    step s = .next t.tick :=
  step_of_held hdue hg hu (by unfold spendGrant; rw [h]) hin hend hw

/-- Settles O54: by the order of the checks at issue (R347), each of which its hypothesis passes. -/
theorem stepRunsDecoded : Obligations.StepRunsDecoded := by
  intro s i h hdue hg hu
  have held := fun {t : State} => step_of_preIssue_held (t := t) hdue hg hu
  have runs := fun {u : State} => stepIs_of_preIssue (i := i) (u := u) hdue hg hu
  refine ⟨fun l hl hretry htest => ?_, fun hloop hrun => ⟨fun hst => held (preIssue_held hloop hst) rfl rfl rfl, fun hst hrep => ?_⟩⟩
  · refine held ?_ rfl rfl rfl
    unfold preIssue
    rw [hl, Option.filter_some, if_pos hretry]
    dsimp only
    rw [if_pos htest]
  · intro pc alone hh hdec
    have hpre := preIssue_ready ⟨hloop, hrun, hst, hrep, slotOf_isSome_of_half hh⟩
    have hi : s.t.fetch s.w.cur.pc = some (.ok i) := (fetch_eq hh).trans (congrArg some hdec)
    refine ⟨fun c hc hb hhdr hcount => ⟨fun ⟨p, hp⟩ hext hend => ?_, fun hext hmis himm hn hwrong hlatch hcap hinert hmark => ?_⟩,
      fun hhdr hnext hend => ⟨fun hc => ?_, fun hc hb halone => ?_⟩⟩
    · rw [hc] at hpre
      dsimp only at hpre
      rw [hb, if_neg Bool.false_ne_true] at hpre
      exact runs (hpre.trans (by subst hp; exact preInstr_ext hi hhdr hcount hext hend)) rfl rfl
    · rw [hc] at hpre
      dsimp only at hpre
      rw [hb, if_neg Bool.false_ne_true, preInstr_passes hh hi hhdr hcount hext hmis himm hn hwrong hlatch hcap] at hpre
      refine ⟨fun hnot => ?_, fun hfree hnr hclean => ?_⟩
      · exact held (hpre.trans (preExec_buffered hinert hmark hnot)) rfl rfl rfl
      · have hfreed := preExec_free hinert hmark hfree hnr hclean
        refine ⟨fun hm => ?_, fun hm => ?_⟩
        · rw [hm, if_neg Bool.false_ne_true] at hfreed
          exact runs (hpre.trans hfreed) rfl rfl
        · rw [hm, if_pos rfl] at hfreed
          exact held (hpre.trans hfreed) rfl rfl rfl
    · rw [hc] at hpre
      dsimp only at hpre
      rw [preHeader_runs hi hhdr hnext hend] at hpre
      refine ⟨fun hnot => ?_, fun halone => ?_⟩
      · rw [if_pos (Bool.eq_true_of_not_eq_false fun hf => hnot ((aloneAtHeader_iff s.w i).2 hf))] at hpre
        exact held hpre rfl rfl rfl
      · rw [(aloneAtHeader_iff s.w i).1 halone, if_neg Bool.false_ne_true] at hpre
        exact runs hpre rfl rfl
    · obtain ⟨c, hc⟩ := Option.ne_none_iff_exists'.1 hc
      rw [hc] at hpre
      dsimp only at hpre
      have hpc := outside_cur_pc hrun
      have hout : preHeader s.outside = .run i s.outside := by
        refine (preHeader_runs (by rw [hpc]; exact hi) (by rw [hpc]; exact hhdr) (by rw [hpc]; exact hnext) (by rw [hpc]; exact hend)).trans ?_
        exact if_neg fun ht => Bool.false_ne_true (((aloneAtHeader_iff s.w i).1 halone).symm.trans ht)
      rw [hb, if_pos rfl] at hpre
      exact runs (hpre.trans hout) rfl rfl

/-! O55. -/

/-- A decode-precise cause of a wave that can take it is raised (R348). -/
theorem decodeTrap_raises {s : State} {cause len : Nat} {x : Option Instr} (hdue : s.due = []) (hg : s.granted = true) (hu : s.under = false)
    (hcan : CanTrap s) (hpre : preIssue s = decodeTrap s cause len x) :
    ∃ t, TrapTaken cause 0 s.w.cur.mask 0 s.w.issuePc s t ∧ Claims.TrapEnters s t := by
  obtain ⟨tr, hcause, hdetail, hlanes, haddr, hpc, hd⟩ : ∃ tr : Trap, tr.cause = cause ∧ tr.detail = 0 ∧ tr.lanes = s.w.cur.mask ∧
      tr.addr = 0 ∧ tr.pc = s.w.issuePc ∧ decodeTrap s cause len x = .done (.next (takeTrap s tr)) := ⟨_, rfl, rfl, rfl, rfl, rfl, rfl⟩
  have htaken := takeTrap_taken s tr hcan
  rw [hcause, hdetail, hlanes, haddr, hpc] at htaken
  rw [hd] at hpre
  generalize takeTrap s tr = t at hpre htaken
  have hin : t.w.inHandler = true := htaken.handler.1
  refine ⟨t, htaken, trapEnters_of_spendGrant hdue hg hu (by unfold spendGrant; rw [hpre]) ?_ ?_ ?_⟩
  · obtain ⟨f, -, -, -, rfl⟩ := htaken; rfl
  · unfold trapping; rw [hin, hcan.1]; rfl
  · obtain ⟨f, -, -, -, rfl⟩ := htaken
    exact fun hb => Bool.noConfusion (hb.1.symm.trans hb.2)

/-- Where the word at the pointer is none that an instruction in a clause can be, ILLOP (R64 to R66, R88). -/
theorem preInstr_illegal {s : State} {c : Clause}
    (h : s.t.isHeader s.w.cur.pc = true ∨ 32 ≤ c.count ∨ ∃ e, s.t.fetch s.w.cur.pc = some (.error e)) :
    ∃ len, preInstr s c = decodeTrap s 1 len := by
  unfold preInstr
  dsimp only
  split
  · exact ⟨_, rfl⟩
  · next hhdr =>
    split
    · exact ⟨_, rfl⟩
    · next hcount =>
      obtain ⟨e, he⟩ := (h.resolve_left hhdr).resolve_left hcount
      rw [he]
      exact ⟨_, rfl⟩

/-- An EXT under an EXT, or with no room behind it (R73). -/
theorem preInstr_ext_illegal {s : State} {c : Clause} {p : BitVec 25} (hi : s.t.fetch s.w.cur.pc = some (.ok (.ext p)))
    (hhdr : s.t.isHeader s.w.cur.pc = false) (hcount : c.count < 32) (h : c.ext.isSome = true ∨ s.w.cur.pc.toNat % 4096 = 4092) :
    ∃ len, preInstr s c = decodeTrap s 1 len := by
  unfold preInstr
  dsimp only
  rw [hhdr, hi, if_neg (Nat.not_le.2 hcount)]
  dsimp only
  cases he : c.ext.isSome with
  | true => exact ⟨_, rfl⟩
  | false => rw [if_pos (h.resolve_left (by simp [he]))]; exact ⟨_, rfl⟩

/-- The checks of an instruction inside a clause, in their order (R10, R13, R36, R66, R73, R246). -/
theorem preInstr_checks {s : State} {c : Clause} {i : Instr} {h : Nat} (hh : s.t.half s.w.cur.pc = some h)
    (hi : s.t.fetch s.w.cur.pc = some (.ok i)) (hhdr : s.t.isHeader s.w.cur.pc = false) (hcount : c.count < 32) (hext : ∀ p, i ≠ .ext p) :
    let len := if h % 2 = 0 then 2 else 4
    preInstr s c = if misplaced s i len || immBad i c.ext || (Instr.uses i).beyond s.t.n || wrongHere s i c then decodeTrap s 1 len i
      else if (Instr.uses i).latch && !c.lw then decodeTrap s 2 len i
      else if capsuleIll s i then decodeTrap s 3 len i else preExec s i := by
  have hsplit : ∀ {a b : Bool} {x y : Pre}, (if a then x else if b then x else y) = if a || b then x else y := by
    intro a b x y; cases a <;> rfl
  unfold preInstr
  dsimp only
  rw [hhdr, hi, hh, if_neg (Nat.not_le.2 hcount)]
  cases i with
  | ext p => exact absurd rfl (hext p)
  | _ => exact hsplit

/-- Settles O55: the first check that fails raises its cause at the instruction, before any effect. -/
theorem issueChecks : Obligations.IssueChecks := by
  intro s h hdue hg hu hloop hrun hst hrep hcan pc d len raises hh
  have hpre := preIssue_ready ⟨hloop, hrun, hst, .inl hrep, slotOf_isSome_of_half hh⟩
  have hf : s.t.fetch s.w.cur.pc = some d := fetch_eq hh
  have raise : ∀ {cause n : Nat} {x : Option Instr}, preIssue s = decodeTrap s cause n x → raises cause :=
    fun hp => decodeTrap_raises hdue hg hu hcan hp
  refine ⟨fun c hc hb => ?_, fun hc hbad => ?_⟩
  · rw [hc] at hpre
    dsimp only at hpre
    rw [hb, if_neg Bool.false_ne_true] at hpre
    refine ⟨fun hill => ?_, fun hhdr hcount i hd => ⟨fun ⟨p, hp⟩ hill => ?_, fun hext => ?_⟩⟩
    · obtain ⟨n, hn⟩ := preInstr_illegal (s := s) (c := c) (hill.imp_right (Or.imp_right fun ⟨e, he⟩ => ⟨e, hf.trans (congrArg some he)⟩))
      exact raise (hpre.trans hn)
    · subst hp
      obtain ⟨n, hn⟩ := preInstr_ext_illegal (hf.trans (congrArg some hd)) hhdr hcount hill
      exact raise (hpre.trans hn)
    · have hchecks := hpre.trans (preInstr_checks hh (hf.trans (congrArg some hd)) hhdr hcount hext)
      refine ⟨fun hbad => ?_, fun hok hlatch hlw => ?_, fun hok hlatch hcap => ?_⟩
      · exact raise (hchecks.trans (if_pos hbad))
      · refine raise (hchecks.trans ((if_neg fun hb => Bool.false_ne_true (hok.symm.trans hb)).trans (if_pos ?_)))
        rw [hlatch, hlw]; rfl
      · refine raise (hchecks.trans ((if_neg fun hb => Bool.false_ne_true (hok.symm.trans hb)).trans ((if_neg ?_).trans (if_pos hcap))))
        rw [Bool.and_eq_true]
        exact fun ⟨h1, h2⟩ => by rw [hlatch h1] at h2; cases h2
  · rw [hc] at hpre
    dsimp only at hpre
    refine raise (n := 4) (x := none) (hpre.trans ?_)
    unfold preHeader
    dsimp only
    by_cases hhdr : s.t.isHeader s.w.cur.pc = true
    · rw [hhdr]
      refine (if_neg (by simp)).trans (if_pos ?_)
      rw [Bool.or_eq_true, decide_eq_true_eq]
      exact hbad.resolve_left (by rw [hhdr]; simp)
    · exact if_pos (by simpa using hhdr)

end Sys2Proof.Machine
end

section
/-! PROOFS. Special registers, time, counters and service calls (R18 to R21, R262 to R267, R349, R351). -/

namespace Sys2Proof.Machine

/-! A non-repeatable instruction, and a blocked one. -/

theorem EntryPast.of_fresh {len : Nat} {e e' : Entry} (h : EntryPast len (if e.st = .run then { e with fresh := true } else e) e') :
    EntryPast len e e' := by
  by_cases hr : e.st = .run
  · rw [if_pos hr] at h; exact h
  · rw [if_neg hr] at h; exact h

/-- Past an instruction behind which the next header is a region entry (R35). -/
theorem advanceNR_past (s : State) : Past 4 s s.advanceNR := by
  obtain ⟨hpaths, hdue, hrest⟩ := advance_past (s.onCur fun e => { e with fresh := true }) 4 false true
  refine ⟨?_, hdue, ?_⟩
  · exact (List.forall₂_map_left_iff.1 hpaths).imp fun _ _ h => h.of_fresh
  · show (s.onCur fun e => { e with fresh := true }).advance 4 = _
    rw [hrest]; rfl

/-- What blocking leaves of an entry: the running one is blocked, the counts differ. -/
def EntryBlocked (b : Blocked) (e e' : Entry) : Prop :=
  e'.st = e.st ∧ e'.mask = e.mask ∧ e'.pc = e.pc ∧ e'.region = e.region ∧ e'.clause = e.clause ∧ (e.st = .run → e'.blocked = some b)

theorem block_entries (s : State) (b : Blocked) (starve : Bool) :
    List.Forall₂ (EntryBlocked b) s.w.paths (s.block b starve).w.paths := by
  obtain ⟨-, hcount⟩ := count_spec (s.onCur fun e => { e with blocked := some b }) true starve
  obtain ⟨-, g, hpaths, hg⟩ := countOpp_spec (s.onCur fun e => { e with blocked := some b }).w true starve
  show List.Forall₂ _ s.w.paths ((s.onCur fun e => { e with blocked := some b }).count true starve).w.paths
  rw [hcount]
  show List.Forall₂ _ s.w.paths ((s.onCur fun e => { e with blocked := some b }).w.countOpp true starve).paths
  rw [hpaths]
  refine List.forall₂_map_right_iff.2 (List.forall₂_map_right_iff.2 (List.forall₂_same.2 fun e _ => ?_))
  by_cases hr : e.st = .run
  · rw [if_pos hr]
    obtain ⟨m, n, h⟩ := hg { e with blocked := some b }
    rw [h]; exact ⟨rfl, rfl, rfl, rfl, rfl, fun _ => rfl⟩
  · rw [if_neg hr]
    obtain ⟨m, n, h⟩ := hg e
    rw [h]; exact ⟨rfl, rfl, rfl, rfl, rfl, fun h => absurd h hr⟩

/-- A blocked instruction waits (R183). -/
theorem block_waits (s : State) (b : Blocked) (starve : Bool := true) : Waits s (s.block b starve) := by
  obtain ⟨hdue, hcount⟩ := count_spec (s.onCur fun e => { e with blocked := some b }) true starve
  obtain ⟨hw, -⟩ := countOpp_spec (s.onCur fun e => { e with blocked := some b }).w true starve
  refine ⟨(block_entries s b starve).imp fun _ _ ⟨h1, h2, h3, h4, h5, _⟩ => ⟨h1, h2, h3, h4, h5⟩, hdue, ?_⟩
  show { (s.onCur fun e => { e with blocked := some b }).count true starve with stalled := true } = _
  unfold State.block
  rw [hcount, hw]; rfl

/-- The running entry is blocked as asked. -/
theorem block_cur (s : State) (b : Blocked) (starve : Bool := true) (h : s.w.runIdx.isSome = true) : (s.block b starve).w.cur.blocked = some b := by
  obtain ⟨i, hi⟩ := Option.isSome_iff_exists.1 h
  have hb := block_entries s b starve
  obtain ⟨hlt, hcur⟩ := List.getElem?_eq_some_iff.1 (runIdx_some hi).1
  have hidx := runIdx_congr hb fun _ _ h => h.1
  obtain ⟨hlt', hcur'⟩ := List.getElem?_eq_some_iff.1 (runIdx_some (hidx.trans hi)).1
  have := (List.forall₂_iff_get.1 hb).2 i hlt hlt'
  simp only [List.get_eq_getElem, hcur, hcur'] at this
  exact this.2.2.2.2.2 (runIdx_some hi).2

/-- ILLOP at execution, of a wave that can take it. -/
theorem illop_taken {s : State} (h : CanTrap s) (detail : Nat) (addr : W64) (len : Nat) :
    TrapTaken 1 detail s.w.cur.mask addr s.w.issuePc s (illop s detail addr len) := takeTrap_taken s _ h

/-! MOVX (R262). -/

theorem movxR_reads {s : State} {c : SReg} {x : Fin 64} {v : W64} (hx : debugOff s x.val = false) (hv : readX s x.val = v) :
    ScalarRuns (.movxR c x) s c v := by
  refine ⟨_, ?_, advance_past { s with w := s.w.setS c v } 4 false true⟩
  show execMovxR c x s = _
  unfold execMovxR
  rw [hx, hv]; rfl

theorem movxW_writes {s u : State} {a : SReg} {x : Fin 64} (hx : debugOff s x.val = false) (hu : writeX s x.val (s.w.sreg a) = u) :
    Runs (.movxW x a) s (Past 4 u) := by
  refine ⟨_, ?_, advance_past u 4 false true⟩
  show execMovxW x a s = _
  unfold execMovxW
  rw [hx, hu]; rfl

theorem movx_debugOff {s : State} (c a : SReg) {x : Fin 64} (hx : debugOff s x.val = true) (hcan : CanTrap s) :
    Runs (.movxR c x) s (TrapTaken 1 0 s.w.cur.mask 0 s.w.issuePc s) ∧ Runs (.movxW x a) s (TrapTaken 1 0 s.w.cur.mask 0 s.w.issuePc s) := by
  refine ⟨⟨_, ?_, illop_taken hcan 0 0 4⟩, ⟨_, ?_, illop_taken hcan 0 0 4⟩⟩
  · show execMovxR c x s = _
    unfold execMovxR
    rw [if_pos hx]
  · show execMovxW x a s = _
    unfold execMovxW
    rw [if_pos hx]

/-- XSINJ is there exactly in debug mode (R18, R393). -/
theorem debugOff_thirty (s : State) : debugOff s 30 = false ↔ ∃ p, s.part s.t.part = some p ∧ p.debug = true := by
  unfold debugOff
  cases s.part s.t.part <;> simp

/-- The word of a loop's status: its high half and its low 17 bits, zeros between. -/
theorem seam_word (v : W64) :
    let x := BitVec.ofNat 64 (v.toNat / 2 ^ 32 * 2 ^ 32 + v.toNat % 2 ^ 17)
    x.extractLsb' 32 32 = v.extractLsb' 32 32 ∧ x.extractLsb' 0 17 = v.extractLsb' 0 17 ∧ x.extractLsb' 17 15 = 0 := by
  have hlt := v.isLt
  have hx : (BitVec.ofNat 64 (v.toNat / 2 ^ 32 * 2 ^ 32 + v.toNat % 2 ^ 17)).toNat = v.toNat / 2 ^ 32 * 2 ^ 32 + v.toNat % 2 ^ 17 := by
    rw [BitVec.toNat_ofNat, Nat.mod_eq_of_lt]; omega
  refine ⟨?_, ?_, ?_⟩
  · apply BitVec.eq_of_toNat_eq
    rw [BitVec.extractLsb'_toNat, BitVec.extractLsb'_toNat, hx, Nat.shiftRight_eq_div_pow, Nat.shiftRight_eq_div_pow]
    omega
  · apply BitVec.eq_of_toNat_eq
    rw [BitVec.extractLsb'_toNat, BitVec.extractLsb'_toNat, hx, Nat.shiftRight_zero, Nat.shiftRight_zero]
    omega
  · apply BitVec.eq_of_toNat_eq
    rw [BitVec.extractLsb'_toNat, hx, Nat.shiftRight_eq_div_pow]
    show _ = 0
    omega

/-- A word of two halves. -/
theorem two_halves (a b : Nat) :
    let x := BitVec.ofNat 64 (a % 2 ^ 32 * 2 ^ 32 + b % 2 ^ 32)
    x.extractLsb' 32 32 = BitVec.ofNat 32 a ∧ x.extractLsb' 0 32 = BitVec.ofNat 32 b := by
  have hx : (BitVec.ofNat 64 (a % 2 ^ 32 * 2 ^ 32 + b % 2 ^ 32)).toNat = a % 2 ^ 32 * 2 ^ 32 + b % 2 ^ 32 := by
    rw [BitVec.toNat_ofNat, Nat.mod_eq_of_lt]; omega
  refine ⟨?_, ?_⟩
  · apply BitVec.eq_of_toNat_eq
    rw [BitVec.extractLsb'_toNat, hx, BitVec.toNat_ofNat, Nat.shiftRight_eq_div_pow]
    omega
  · apply BitVec.eq_of_toNat_eq
    rw [BitVec.extractLsb'_toNat, hx, BitVec.toNat_ofNat, Nat.shiftRight_zero]
    omega

/-- XSEAMST outside a loop: OPEN, LIMIT and COUNT read 0 (R224). -/
theorem seamStatus_noLoop {s : State} (h : s.w.mloop = none) :
    (seamStatus s).extractLsb' 32 32 = s.t.xseamst.extractLsb' 32 32 ∧ (seamStatus s).extractLsb' 0 17 = s.t.xseamst.extractLsb' 0 17 ∧
    (seamStatus s).extractLsb' 17 15 = 0 := by
  unfold seamStatus
  rw [h]
  exact seam_word s.t.xseamst

/-- XQUOTA: the card's allowance above what is committed (R263). -/
theorem quotaWord_of_launch {s : State} {l : Launch} (h : s.launch = some l) :
    (quotaWord s).extractLsb' 32 32 = BitVec.ofNat 32 (cardWord l.card 8) ∧ (quotaWord s).extractLsb' 0 32 = BitVec.ofNat 32 l.used := by
  unfold quotaWord
  rw [h]
  exact two_halves _ _

/-- DUTY lies between 10 and 100 (R421). -/
theorem dutyNow_bounds (k : Core) : 10 ≤ (BitVec.ofNat 64 k.dutyNow).toNat ∧ (BitVec.ofNat 64 k.dutyNow).toNat ≤ 100 := by
  rw [BitVec.toNat_ofNat]
  unfold Core.dutyNow
  omega

theorem systemRegisters : Claims.SystemRegisters := by
  intro s c a v lanes reads wave team dbg
  have hdbg := debugOff_thirty s
  refine ⟨?_, fun n => ?_, fun n => ?_, fun hloop => ?_, ?_, fun l hl => ?_, fun hd => ?_, fun hd hcan => ?_, ?_, ?_, ?_, ?_, ?_, ?_, ?_,
    fun n => ?_, fun n => ?_⟩
  · exact List.forall_iff_forall_mem.1 ⟨movxR_reads rfl rfl, movxR_reads rfl rfl, movxR_reads rfl rfl, movxR_reads rfl rfl, movxR_reads rfl rfl,
      movxR_reads rfl rfl, movxR_reads rfl rfl, movxR_reads rfl rfl, movxR_reads rfl rfl, movxR_reads rfl rfl, movxR_reads rfl rfl,
      movxR_reads rfl rfl, movxR_reads rfl rfl, movxR_reads rfl rfl⟩
  · fin_cases n <;> exact ⟨movxR_reads rfl rfl, movxR_reads rfl rfl⟩
  · fin_cases n <;> exact ⟨movxR_reads rfl rfl, movxR_reads rfl rfl⟩
  · exact ⟨_, movxR_reads rfl rfl, seamStatus_noLoop hloop⟩
  · exact ⟨_, movxR_reads rfl rfl, dutyNow_bounds s.c⟩
  · exact ⟨_, movxR_reads rfl rfl, quotaWord_of_launch hl⟩
  · exact ⟨movxR_reads (hdbg.2 hd) rfl, movxW_writes (hdbg.2 hd) rfl⟩
  · exact movx_debugOff c a (Bool.eq_true_of_not_eq_false fun h => hd (hdbg.1 h)) hcan
  · exact movxW_writes rfl rfl
  · exact movxW_writes rfl rfl
  · exact movxW_writes rfl rfl
  · exact movxW_writes rfl rfl
  · exact movxW_writes rfl rfl
  · exact movxW_writes rfl rfl
  · exact movxW_writes rfl rfl
  · fin_cases n <;> exact ⟨movxW_writes rfl rfl, movxW_writes rfl rfl⟩
  · fin_cases n <;> exact ⟨movxW_writes rfl rfl, movxW_writes rfl rfl⟩

/-! Time, counters and services. -/

theorem perfq_reads {s : State} {c : SReg} {n : Fin 64} {v : Nat}
    (hv : (match n.val with
      | 0 => s.w.issued
      | 1 => s.w.granted
      | 10 => s.t.residentNs + (if s.t.resident then s.now - s.t.since else 0)
      | k => s.t.perf.getD k 0) = v) : ScalarRuns (.perfq c n) s c (BitVec.ofNat 64 v) := by
  subst hv
  exact ⟨_, rfl, advance_past _ 4 false true⟩

/-- The code of a TRAPI as the model reads it (R266). -/
theorem trapi_code (h l : BitVec 6) : h.toNat * 64 + l.toNat = (h ++ l).toNat := by
  have := l.isLt
  rw [BitVec.toNat_append, ← Nat.shiftLeft_add_eq_or_of_lt (by omega), Nat.shiftLeft_eq]

/-- A service call's answer in S63 (R351). -/
theorem service_answers (s : State) (v : W64) :
    Past 4 { s with w := { s.w with s := s.w.s.set (63 : SReg).val v, spoison := s.w.spoison.filter (· != (63 : SReg).val) } }
      (State.advanceNR { s with w := s.w.setS 63 v }) := advanceNR_past _

theorem execTrapi_service {s : State} {h l : BitVec 6} (hact : s.w.acting ≠ 0) (hcode : 3840 ≤ (h ++ l).toNat) :
    execTrapi h l s = if (h ++ l).toNat < 3842 then
        match s.w.cur.blocked with
        | some b => if b.done then .next (State.advanceNR { s with w := s.w.setS 63 (BitVec.ofNat 64 b.num) }) else .next (s.block b)
        | none => .next (s.block { pc := s.w.cur.pc, key := some (3, (h ++ l).toNat) })
      else .next (State.advanceNR { s with w := s.w.setS 63 (BitVec.allOnes 64) }) := by
  unfold execTrapi
  dsimp only
  rw [trapi_code, if_neg hact, if_neg (Nat.not_lt.2 hcode)]
  rfl

/-- MOVX.DST in a handler records the destination's registers by lane (R349). -/
theorem movxDst_records {s : State} {g : Fin 64} {f : Frame} {n : Nat} (hin : s.w.inHandler = true) (hf : s.w.frame = some f)
    (hn : f.dst = .none ∧ n = 0 ∨ (∃ d, f.dst = .regs d n) ∨ (∃ m, f.dst = .mask m) ∧ n = 1) (hal : n ≠ 0 → g.val % n = 0)
    (hfit : g.val + n ≤ s.t.n) :
    execMovxDst g s = .next (State.advance { s with
      w := { s.w with xtdst := some (n, (List.range 32).map fun i => (List.range n).map fun k => (s.w.lane i).reg (g.val + k)) } } 4) := by
  have hgood : ¬ (((n != 0 && g.val % n != 0) || decide (s.t.n < g.val + n)) = true) := by
    rw [Bool.or_eq_true, Bool.and_eq_true, bne_iff_ne, bne_iff_ne, decide_eq_true_eq]
    rintro (⟨h1, h2⟩ | h)
    · exact h2 (hal h1)
    · omega
  unfold execMovxDst
  rw [hin, if_pos rfl, hf]
  dsimp only
  rcases hn with ⟨h, rfl⟩ | ⟨d, h⟩ | ⟨⟨m, h⟩, rfl⟩ <;> rw [h] <;> exact if_neg hgood

theorem timeCountersServices : Claims.TimeCountersServices := by
  intro s c h l g b code
  refine ⟨⟨_, rfl, advance_past _ 4 false true⟩, perfq_reads rfl, perfq_reads rfl, ?_, fun hres => ?_, fun hcan => ?_,
    fun f n hin hf hn hal hfit => ?_, fun hact => ?_, fun hact => ⟨fun hcode => ?_, fun hlo hhi => ⟨fun hb hrun => ?_, fun hb hdone => ?_, fun hb hdone => ?_⟩⟩⟩
  · exact List.forall_iff_forall_mem.1 ⟨perfq_reads rfl, perfq_reads rfl, perfq_reads rfl, perfq_reads rfl, perfq_reads rfl,
      perfq_reads rfl, perfq_reads rfl, perfq_reads rfl, perfq_reads rfl⟩
  · exact perfq_reads (by show s.t.residentNs + _ = _; rw [if_pos hres])
  · refine ⟨_, ?_, illop_taken hcan 7 0 4⟩
    show execMovxDst g s = _
    unfold execMovxDst
    rw [hcan.1]; rfl
  · exact ⟨_, movxDst_records hin hf hn hal hfit, advance_past _ 4 false true⟩
  · refine ⟨_, ?_, advanceNR_past s⟩
    show execTrapi h l s = _
    unfold execTrapi
    dsimp only
    rw [if_pos hact]
  · exact ⟨_, (execTrapi_service hact (by omega)).trans (if_neg (by omega)), service_answers s _⟩
  · refine ⟨_, ((execTrapi_service hact hlo).trans (if_pos hhi)).trans (by rw [hb]), block_waits .., ?_⟩
    rw [block_cur _ _ _ hrun]; rfl
  · exact ⟨_, ((execTrapi_service hact hlo).trans (if_pos hhi)).trans (by rw [hb]; dsimp only; rw [hdone]; rfl), block_waits ..⟩
  · exact ⟨_, ((execTrapi_service hact hlo).trans (if_pos hhi)).trans (by rw [hb]; dsimp only; rw [hdone]; rfl), service_answers s _⟩

/-- Settles O26: each register by its number, and the services by the code of the call. -/
theorem systemInstructions : Obligations.SystemInstructions := ⟨systemRegisters, timeCountersServices⟩

end Sys2Proof.Machine
end

section
/-! PROOFS. What the writes below the lanes leave as it was: memory at HOME with its watches and events, the caches, and the atomics in flight. -/

namespace Sys2Proof.Machine

theorem foldl_side {β : Type} {f : State → β → State} (hf : ∀ s b, SideOnly s (f s b)) (l : List β) (s : State) : SideOnly s (l.foldl f s) := by
  induction l generalizing s with
  | nil => exact .refl s
  | cons b l ih => exact (hf s b).trans (ih _)

/-! Dies, partitions and their events. -/

theorem setDie_side (s : State) (d : Die) : SideOnly s (s.setDie d) := .of_parts rfl rfl

/-- `p` stands for `q`, and keeps its scopes that have not completed. -/
def Part.KeepsOpen (q p : Part) : Prop :=
  p.num = q.num ∧ ∀ n : Nat, ((q.scopes[n]?).getD ({} : FScope)).done = false → (p.scopes[n]?).getD ({} : FScope) = (q.scopes[n]?).getD {}

theorem keepsOpen_of_scopes {q p : Part} (hn : p.num = q.num) (hs : p.scopes = q.scopes) : q.KeepsOpen p :=
  ⟨hn, fun n _ => by rw [hs]⟩

theorem Part.KeepsOpen.of_scopes {q p x : Part} (h : q.KeepsOpen p) (hn : x.num = p.num) (hs : x.scopes = p.scopes) : q.KeepsOpen x :=
  ⟨hn.trans h.1, fun n hopen => by rw [hs]; exact h.2 n hopen⟩

/-- An entry that has been posted gives back only a scope that has completed (R323). -/
theorem giveBack_keepsOpen (e : Event) (q : Part) : q.KeepsOpen (e.giveBack q) := by
  unfold Event.giveBack
  cases e.free with
  | none => exact keepsOpen_of_scopes rfl rfl
  | some x =>
    refine ⟨rfl, fun n hopen => ?_⟩
    show ((q.scopes.modify x.1 fun f => if f.serial = x.2 ∧ f.done then {} else f)[n]?).getD {} = _
    rw [List.getElem?_modify]
    cases hf : q.scopes[n]? with
    | none => rfl
    | some f =>
      rw [hf] at hopen
      have hopen' : f.done = false := hopen
      show (if x.1 = n then _ else _) = _
      split
      · exact if_neg fun h => Bool.false_ne_true (hopen'.symm.trans h.2)
      · rfl

theorem part_setPart (s : State) (p : Part) (m : Nat) : (s.setPart p).part m = if m = p.num then (s.part m).map fun _ => p else s.part m := by
  unfold State.setPart State.part
  dsimp only
  induction s.parts with
  | nil => simp
  | cons x xs ih =>
    rw [List.map_cons]
    by_cases hx : x.num = m
    · rw [List.find?_cons_of_pos (a := x) (by rw [hx]; exact beq_self_eq_true _)]
      by_cases hp : m = p.num
      · rw [if_pos hp, if_pos (hx.trans hp), List.find?_cons_of_pos (by rw [← hp]; exact beq_self_eq_true _)]; rfl
      · rw [if_neg hp, if_neg fun h => hp (hx.symm.trans h), List.find?_cons_of_pos (by rw [hx]; exact beq_self_eq_true _)]
    · rw [List.find?_cons_of_neg (a := x) (by rw [beq_iff_eq]; exact hx), ← ih]
      refine List.find?_cons_of_neg ?_
      rw [beq_iff_eq]
      split
      · next h => exact fun h' => hx (h.trans h')
      · exact hx

theorem part_num {s : State} {n : Nat} {q : Part} (h : s.part n = some q) : q.num = n := eq_of_beq (List.find?_some h :)

theorem setPart_side {s : State} {p q : Part} {n : Nat} (hq : s.part n = some q) (hk : q.KeepsOpen p) : SideOnly s (s.setPart p) := by
  refine ⟨fun part m hopen => ?_, rfl⟩
  have hpn : p.num = n := hk.1.trans (part_num hq)
  unfold State.scope at hopen ⊢
  rw [part_setPart, hpn]
  by_cases h : part = n
  · subst h
    rw [hq] at hopen
    rw [if_pos rfl, hq]
    exact hk.2 m hopen
  · rw [if_neg h]

theorem postNow_side {s : State} {p q : Part} {n : Nat} (e : Event) (hq : s.part n = some q) (hn : p.num = q.num) (hs : p.scopes = q.scopes) :
    SideOnly s (postNow s p e) := by
  have hk : q.KeepsOpen (e.giveBack p) := by
    obtain ⟨h1, h2⟩ := giveBack_keepsOpen e p
    exact ⟨h1.trans hn, fun n hopen => by rw [← hs] at hopen ⊢; exact h2 n hopen⟩
  unfold postNow
  dsimp only
  generalize writeBytes s.mem (hostAddr _) _ = m
  generalize poisonWrite s.memPoison (hostAddr _) 32 _ = x
  exact SideOnly.trans (t := { s with mem := m, memPoison := x }) (.of_parts rfl rfl)
    (setPart_side (s := { s with mem := m, memPoison := x }) (p := { e.giveBack p with evprod := p.evprod + 1 }) hq (hk.of_scopes rfl rfl))

theorem lostEntry_scopes (s : State) (p : Part) (rest : List Event) : (lostEntry s p rest).num = p.num ∧ (lostEntry s p rest).scopes = p.scopes := by
  unfold lostEntry
  split <;> exact ⟨rfl, rfl⟩

theorem ite_side {s t u : State} {c : Prop} [Decidable c] (ht : SideOnly s t) (hu : SideOnly s u) : SideOnly s (if c then t else u) := by
  split
  · exact ht
  · exact hu

theorem drainEvents_side (part n : Nat) (s : State) : SideOnly s (drainEvents s part n) := by
  induction n generalizing s with
  | zero => exact .refl s
  | succ n ih =>
    unfold drainEvents
    split
    · exact .refl s
    · next p hp =>
      split
      · split
        · next e rest _ =>
          obtain ⟨hn, hs⟩ := lostEntry_scopes s p rest
          exact (postNow_side e hp hn hs).trans (ih _)
        · exact .refl s
      · exact .refl s

theorem postEvent_side (s : State) (part type detail data : Nat) (free : Option (Nat × Nat)) : SideOnly s (postEvent s part type detail data free) := by
  unfold postEvent
  split
  · exact .refl s
  · next p hp =>
    dsimp only
    split
    · exact .refl s
    · split
      · refine SideOnly.trans ?_ (drainEvents_side ..)
        exact setPart_side hp (keepsOpen_of_scopes rfl rfl)
      · exact setPart_side hp ((giveBack_keepsOpen ..).of_scopes rfl rfl)

theorem watchOne_side (s : State) (part i : Nat) (atomic : Bool) (pa : Nat) (who : Writer) : SideOnly s (watchOne s part i atomic pa who) := by
  unfold watchOne
  split
  · exact .refl s
  · next p hp =>
    have hset {x : List (Option Nat × Nat)} : SideOnly s (s.setPart { p with hwatchAt := x }) := setPart_side hp (keepsOpen_of_scopes rfl rfl)
    exact ite_side (ite_side (hset.trans (postEvent_side ..)) hset) (.refl s)

theorem watchAll_side (s : State) (atomic : Bool) (pa : Nat) (who : Writer) : SideOnly s (watchAll s atomic pa who) := by
  unfold watchAll
  split
  · exact .refl s
  · exact foldl_side (fun _ _ => watchOne_side ..) _ _

/-! Messages and writes at HOME. -/

theorem transmit_side (s : State) (m : RemoteMsg) : SideOnly s (transmit s m) := by
  unfold transmit
  split
  · exact .refl s
  · dsimp only
    split
    · exact .of_parts rfl rfl
    · exact .refl s

theorem sendRemote_side (s : State) (die pa : Nat) (req : RemoteReq) : SideOnly s (sendRemote s die pa req) := by
  unfold sendRemote
  dsimp only
  refine SideOnly.trans ?_ (transmit_side ..)
  exact .of_parts rfl rfl

theorem sendWrite_side (s : State) (die pa : Nat) (d : List (Byte × Bool)) : SideOnly s (sendWrite s die pa d) := by
  unfold sendWrite
  split
  · exact sendRemote_side ..
  · exact .refl s

theorem homePut_side (who : Writer) (s : State) (pa : Nat) (d : List PByte) : SideOnly s (homePut who s pa d) :=
  SideOnly.trans (t := { s with mem := writeBytes s.mem pa (bytesOf d), memPoison := _, lastWriter := _ }) (.of_parts rfl rfl) (sendWrite_side ..)

theorem lostEvent_side (s : State) (pa die : Nat) : SideOnly s (lostEvent s pa die) := by
  unfold lostEvent
  split
  · exact postEvent_side ..
  · exact .refl s

theorem homeRuns_side (s : State) (pa : Nat) (runs : List (Nat × List PByte)) (atomic : Bool) (who : Writer) :
    SideOnly s (homeRuns s pa runs atomic who) := by
  unfold homeRuns
  split
  · exact .refl s
  · split
    · exact lostEvent_side ..
    · exact (foldl_side (fun _ _ => homePut_side ..) _ _).trans (watchAll_side ..)

theorem homeWrite_side (s : State) (pa : Nat) (d : List PByte) (atomic : Bool) (who : Writer) : SideOnly s (homeWrite s pa d atomic who) :=
  homeRuns_side ..

theorem waitMoving_side (s : State) (space va d : Nat) : SideOnly s (waitMoving s space va d) := waitWalk_side ..

theorem dieWrite_side (s : State) (space : Nat) (p : W64) (d : List PByte) (atomic : Bool) (who : Writer) (die : Nat) :
    SideOnly s (dieWrite s space p d atomic who die) := by
  unfold dieWrite
  refine foldl_side (fun s c => ?_) _ _
  dsimp only
  split
  · exact (waitMoving_side ..).trans (homeWrite_side ..)
  · exact waitMoving_side ..

theorem setHomeWord_side (s : State) (p : W64) (i v : Nat) : SideOnly s (setHomeWord s p i v) := dieWrite_side ..

/-! The caches. -/

theorem portLeaf_side (s : State) (id : CoreId) (space va : Nat) : SideOnly s (portLeaf s id space va).1 := by
  unfold portLeaf
  dsimp only
  split
  · exact .refl s
  · split
    · exact setCore_side ..
    · split
      · exact (setCore_side ..).trans (setDie_side ..)
      · exact .refl s

theorem portServe_side (s : State) (id : CoreId) (space va : Nat) : SideOnly s (portServe s id space va).1 := by
  have h := portLeaf_side s id space va
  unfold portServe
  split <;> exact h.of_eq ‹_›

theorem reportMalformed_side (s : State) (space va : Nat) : SideOnly s (reportMalformed s space va) := addFault_side ..

/-- A line written home at its physical address, and its clean copy kept. -/
theorem lineHome_side (s : State) (id : CoreId) (y : Line) (pa : Nat) :
    SideOnly s ((homeRuns s pa y.dirtyRuns false (.lane id.die id.core)).setDie
      { (homeRuns s pa y.dirtyRuns false (.lane id.die id.core)).die id.die with
        cc := setLine ((homeRuns s pa y.dirtyRuns false (.lane id.die id.core)).die id.die).cc y.clean }) :=
  (homeRuns_side ..).trans (setDie_side ..)

theorem toHome_side (s : State) (id : CoreId) (y : Line) : SideOnly s (toHome s id y) := by
  have h := portServe_side s id y.space (lineVa y.line)
  unfold toHome
  dsimp only
  split
  · exact (h.of_eq ‹_›).trans ((waitRoute_side ..).trans (lineHome_side _ id y _))
  · exact (h.of_eq ‹_›).trans ((waitRoute_side ..).trans (lineHome_side _ id y _))
  · next u pa heq => exact (h.of_eq heq).trans (SideOnly.trans (t := { u with waits := true }) (.of_parts rfl rfl) (lineHome_side _ id y _))
  · exact (h.of_eq ‹_›).trans (reportMalformed_side ..)
  · exact h.of_eq ‹_›

theorem ccTrim_side (s : State) (die : Nat) (x : Line) : SideOnly s (ccTrim s die x) := by
  unfold ccTrim
  dsimp only
  split
  · exact .refl s
  · split
    · exact (toHome_side ..).trans (setDie_side ..)
    · exact setDie_side ..

theorem ccPut_side (s : State) (die : Nat) (x : Line) : SideOnly s (ccPut s die x) := (setDie_side ..).trans (ccTrim_side ..)

theorem toCc_side (s : State) (id : CoreId) (x : Line) : SideOnly s (toCc s id x) := ccPut_side ..

/-- A core's copies of a line are dropped, the constellation's dirty one written home. -/
def State.dropCopies (u : State) (k : Core) (id : CoreId) (space ln : Nat) : State :=
  let v := u.setCore { k with l1 := k.l1.filter fun x => !(x.space == space && x.line == ln) }
  match findLine (v.die id.die).cc space ln ((v.die id.die).consId id.core) with
  | none => v
  | some y =>
    let z := if y.isDirty then toHome v id y else v
    z.setDie { z.die id.die with
      cc := (z.die id.die).cc.filter fun x => !(x.space == space && x.line == ln && x.cons == (v.die id.die).consId id.core) }

theorem dropCopies_side (u : State) (k : Core) (id : CoreId) (space ln : Nat) : SideOnly u (u.dropCopies k id space ln) := by
  unfold State.dropCopies
  dsimp only
  have hv := setCore_side u { k with l1 := k.l1.filter fun x => !(x.space == space && x.line == ln) }
  generalize u.setCore { k with l1 := k.l1.filter fun x => !(x.space == space && x.line == ln) } = v at hv ⊢
  split
  · exact hv
  · next y _ =>
    have hz : SideOnly u (if y.isDirty then toHome v id y else v) := ite_side (hv.trans (toHome_side ..)) hv
    exact hz.trans (setDie_side ..)

theorem dropLine_eq (s : State) (id : CoreId) (space ln : Nat) : ∃ u, SideOnly s u ∧ dropLine s id space ln = u.dropCopies (s.core id) id space ln := by
  unfold dropLine
  dsimp only
  cases findLine (s.core id).l1 space ln 0 with
  | none => exact ⟨s, .refl s, rfl⟩
  | some x => exact ⟨if x.isDirty then toCc s id x else s, ite_side (toCc_side ..) (.refl s), rfl⟩

theorem dropLine_side (s : State) (id : CoreId) (space ln : Nat) : SideOnly s (dropLine s id space ln) := by
  obtain ⟨u, hu, h⟩ := dropLine_eq s id space ln
  rw [h]
  exact hu.trans (dropCopies_side ..)

theorem flushLine_side (s : State) (p : W64) : SideOnly s (flushLine s p) := dropLine_side ..

theorem l1Back_side (s : State) (id : CoreId) (space : Nat) : SideOnly s (l1Back s id space) :=
  (foldl_side (fun _ _ => toCc_side ..) _ _).trans (setCore_side ..)

theorem ccBack_side (s : State) (id : CoreId) (space : Nat) : SideOnly s (ccBack s id space) := foldl_side (fun _ _ => toHome_side ..) _ _

theorem releaseCaches_side (s : State) (id : CoreId) (space : Nat) (sc : Scope) : SideOnly s (releaseCaches s id space sc) := by
  cases sc with
  | wave | team => exact .refl s
  | gang | const => exact l1Back_side ..
  | _ => exact (l1Back_side ..).trans (ccBack_side ..)

theorem release_side (s : State) (sc : Scope) : SideOnly s (s.release sc) := releaseCaches_side ..

theorem renewL1_side (s : State) (id : CoreId) (space : Nat) : SideOnly s (renewL1 s id space) := setCore_side ..
theorem renewCc_side (s : State) (id : CoreId) (space : Nat) : SideOnly s (renewCc s id space) := (renewL1_side ..).trans (setDie_side ..)

/-! Atomics in flight. -/

/-- `w'` is `w` but for sticky flags, stamps and accesses in flight. -/
def Wave.SettledFrom (w w' : Wave) : Prop := w' = { w with flg := w'.flg, al1 := w'.al1, acc := w'.acc, pend := w'.pend }

theorem Wave.SettledFrom.refl (w : Wave) : w.SettledFrom w := rfl

theorem Wave.SettledFrom.trans {u v w : Wave} (h : u.SettledFrom v) (k : v.SettledFrom w) : u.SettledFrom w := by
  unfold Wave.SettledFrom at *; rw [k, h]

theorem SideOnly.settledFrom {s t : State} (h : SideOnly s t) : s.w.SettledFrom t.w := by rw [h.w]; exact .refl _

theorem acquire_settled (s : State) (sc : Scope) : s.w.SettledFrom (s.acquire sc).w := by
  have hl1 := (renewL1_side s s.coreId s.t.space).w
  have hcc := (renewCc_side s s.coreId s.t.space).w
  cases sc with
  | wave | team => exact .refl _
  | gang | const =>
    show s.w.SettledFrom { (renewL1 s s.coreId s.t.space).w with al1 := _ }
    rw [hl1]; rfl
  | _ =>
    show s.w.SettledFrom { (renewCc s s.coreId s.t.space).w with al1 := _, acc := _ }
    rw [hcc]; rfl

theorem modTeam_w (s : State) (id : Nat) (f : Team → Team) : (s.modTeam id f).w = s.w := by
  unfold State.modTeam; split <;> rfl

theorem atomAt_w (s : State) (q : AtomReq) (die core : Nat) : (atomAt s q die core).1.w = s.w := by
  unfold atomAt
  dsimp only
  split
  · next sp _ =>
    have hw := waitMoving_side s sp (pAddr q.addr) die
    generalize waitMoving s sp (pAddr q.addr) die = u at hw ⊢
    split
    · exact hw.w
    · split
      · split
        · exact (hw.trans (lostEvent_side ..)).w
        · exact hw.w
      · exact (hw.trans (homeWrite_side ..)).w
  · split
    · rfl
    · exact modTeam_w ..

theorem dropAtom_side (s : State) (place : Place) (p : W64) : SideOnly s (dropAtom s place p) := by
  unfold dropAtom
  split
  · exact dropLine_side ..
  · exact .refl s

theorem remoteFlags_w (s : State) (x : Exc) : (remoteFlags s x).w = s.w := by
  unfold remoteFlags
  split <;> rfl

theorem foldl_settled {α β : Type} {f : State × α → β → State × α} (hf : ∀ (a : State × α) (b : β), a.1.w.SettledFrom (f a b).1.w) (l : List β) (a : State × α) :
    a.1.w.SettledFrom (l.foldl f a).1.w := by
  induction l generalizing a with
  | nil => exact .refl _
  | cons b l ih => exact (hf a b).trans (ih _)

/-- One atomic performed, its flags raised. -/
def atomStep (p : Pend) (die core : Nat) (a : State × List RegWrite) (q : AtomReq) : State × List RegWrite :=
  let r := atomAt (dropAtom a.1 q.place q.addr) q die core
  (if p.load then { r.1 with w := r.1.w.raise (BitVec.ofNat 32 (2 ^ q.lane)) fun i => if i = q.lane then r.2.2.2 else {} }
    else remoteFlags r.1 r.2.2.2, a.2 ++ atomWrites q r.2.1 r.2.2.1)

/-- The state before the atomics of an access are performed: an acquire's stamps. -/
def State.acquired (s : State) (p : Pend) : State := if p.order = .acq ∨ p.order = .ar then s.acquire p.scope else s

theorem performAtoms_eq (s : State) (p : Pend) :
    (performAtoms s p).1 = (p.atoms.foldl (atomStep p (s.acquired p).t.die (s.acquired p).t.core) (s.acquired p, p.writes)).1 := by
  unfold performAtoms
  dsimp only
  refine congrArg Prod.fst (congrArg (fun f => p.atoms.foldl f _) (funext fun a => funext fun q => ?_))
  unfold atomStep State.acquired
  generalize atomAt (dropAtom a.1 q.place q.addr) q _ _ = r
  obtain ⟨u, old, bad, exc⟩ := r
  rfl

theorem atomStep_settled (p : Pend) (die core : Nat) (a : State × List RegWrite) (q : AtomReq) : a.1.w.SettledFrom (atomStep p die core a q).1.w := by
  have hat := (atomAt_w (dropAtom a.1 q.place q.addr) q die core).trans (dropAtom_side ..).w
  unfold atomStep
  generalize atomAt (dropAtom a.1 q.place q.addr) q die core = r at hat
  rw [← hat]
  dsimp only
  split
  · rfl
  · rw [Wave.SettledFrom, remoteFlags_w]

theorem performAtoms_settled (s : State) (p : Pend) : s.w.SettledFrom (performAtoms s p).1.w := by
  rw [performAtoms_eq]
  refine Wave.SettledFrom.trans ?_ (foldl_settled (atomStep_settled p _ _) _ _)
  unfold State.acquired
  dsimp only
  split
  · exact acquire_settled ..
  · exact .refl _

/-- One access in flight settled. -/
def settleStep (a : State × List Pend) (p : Pend) : State × List Pend :=
  if p.atoms.isEmpty then (a.1, a.2 ++ [p]) else ((performAtoms a.1 p).1, a.2 ++ [(performAtoms a.1 p).2])

theorem settleStep_settled (a : State × List Pend) (p : Pend) : a.1.w.SettledFrom (settleStep a p).1.w := by
  unfold settleStep
  by_cases h : p.atoms.isEmpty = true
  · rw [if_pos h]; exact .refl _
  · rw [if_neg h]
    dsimp only
    exact performAtoms_settled a.1 p

theorem settleAtoms_eq (s : State) : settleAtoms s =
    { (s.w.pend.foldl settleStep (s, [])).1 with
      w := { (s.w.pend.foldl settleStep (s, [])).1.w with pend := (s.w.pend.foldl settleStep (s, [])).2 } } := by
  unfold settleAtoms settleStep
  rfl

/-- Performing what is in flight leaves the wave but for its flags, stamps and accesses. -/
theorem settleAtoms_settled (s : State) : s.w.SettledFrom (settleAtoms s).w := by
  rw [settleAtoms_eq]
  have h := foldl_settled settleStep_settled s.w.pend (s, [])
  generalize s.w.pend.foldl settleStep (s, []) = r at h ⊢
  exact h.trans rfl

theorem settleAtoms_paths (s : State) : (settleAtoms s).w.paths = s.w.paths := by rw [settleAtoms_settled s]
theorem settleAtoms_s (s : State) : (settleAtoms s).w.s = s.w.s := by rw [settleAtoms_settled s]

end Sys2Proof.Machine
end

section
/-! PROOFS. Team barriers (R30, R34, R184): what completing one barrier leaves of the others, and BAR. -/

namespace Sys2Proof.Machine

/-! What barrier `n` sees of a wave, over the completion of another barrier. -/

/-- A wave as barrier `n` sees it is the same in `w'`: its arrival, and the entries that wait there. -/
def KeptFor (n : Nat) (w w' : Wave) : Prop :=
  w'.ended = w.ended ∧ w'.arrived n = w.arrived n ∧ ∀ x : Entry, x.atBar n = true → (x ∈ w'.paths ↔ x ∈ w.paths)

theorem KeptFor.refl (n : Nat) (w : Wave) : KeptFor n w w := ⟨rfl, rfl, fun _ _ => Iff.rfl⟩

theorem KeptFor.trans {n : Nat} {u v w : Wave} (h : KeptFor n u v) (k : KeptFor n v w) : KeptFor n u w :=
  ⟨k.1.trans h.1, k.2.1.trans h.2.1, fun x hx => (k.2.2 x hx).trans (h.2.2 x hx)⟩

theorem allAtBar_iff {w : Wave} {n : Nat} : w.allAtBar n = true ↔ ∀ e ∈ w.paths, e.st = .free ∨ e.atBar n = true := by
  simp [Wave.allAtBar, List.all_eq_true]

theorem atBar_ne {m n : Nat} (h : m ≠ n) {e : Entry} (he : e.atBar n = true) : e.atBar m = false := by
  rw [atBar_iff] at he
  simp [Entry.atBar, he.2, Ne.symm h]

theorem free_not_atBar {n : Nat} {e : Entry} (h : e.st = .free) : e.atBar n = false := by simp [Entry.atBar, h]

/-- Where all wait at barrier `n`, passing another changes nothing. -/
theorem passBar_of_allAtBar {m n : Nat} (hmn : m ≠ n) {w : Wave} (stamp : Nat) (h : w.allAtBar n = true) : w.passBar m stamp = w :=
  (passBar_spec m stamp w).2.2.2 fun x hx => ((allAtBar_iff.1 h) x hx).elim free_not_atBar (atBar_ne hmn)

/-- The clipping of an entry to the live lanes that `Wave.behind` does. -/
def Entry.clip (live : W32) (e : Entry) : Entry := if e.mask &&& live = 0 then {} else { e with mask := e.mask &&& live }

theorem behind_paths {w : Wave} {f : Frame} (h : w.frame = some f) : w.behind.paths = f.paths.map (Entry.clip w.live) := by
  unfold Wave.behind; rw [h]; rfl

theorem behind_of_no_frame {w : Wave} (h : w.frame = none) : w.behind = w := by unfold Wave.behind; rw [h]

theorem clip_st {live : W32} {e : Entry} (h : e.mask &&& live ≠ 0) :
    (e.clip live).st = e.st ∧ (e.clip live).wait = e.wait ∧ (e.clip live).mask = e.mask &&& live := by
  unfold Entry.clip; rw [if_neg h]; exact ⟨rfl, rfl, rfl⟩

theorem clip_free_or_atBar {live : W32} {n : Nat} {e : Entry} (h : e.mask &&& live ≠ 0) :
    ((e.clip live).st = .free ∨ (e.clip live).atBar n = true) ↔ (e.st = .free ∨ e.atBar n = true) := by
  obtain ⟨hst, hw, -⟩ := clip_st h
  rw [atBar_iff, atBar_iff, hst, hw]

/-- A path table whose entries are clipped already. -/
theorem clipped_iff {live : W32} {ps : List Entry} {e : Entry} (h : e ∈ ps.map (Entry.clip live)) : e = {} ∨ e.mask &&& live ≠ 0 := by
  obtain ⟨x, -, rfl⟩ := List.mem_map.1 h
  by_cases hx : x.mask &&& live = 0
  · left; unfold Entry.clip; rw [if_pos hx]
  · right; rw [(clip_st hx).2.2, BitVec.and_assoc, BitVec.and_self]; exact hx

/-- An entry that takes over the lanes of one that has live lanes has live lanes. -/
theorem live_of_sub {a b live : W32} (h : a &&& ~~~b = 0) (ha : a &&& live ≠ 0) : b &&& live ≠ 0 := by
  refine fun hb => ha ((mask_eq_zero_iff _).2 fun k => ?_)
  have hk := (mask_eq_zero_iff _).1 hb k
  have hs := (sub_mask_iff ..).1 h k
  rw [BitVec.getLsbD_and] at hk ⊢
  revert hk hs
  cases a.getLsbD k <;> cases b.getLsbD k <;> cases live.getLsbD k <;> simp

theorem going_not_arrived {n : Nat} {e : Entry} (h : e.going) : ¬ (e.st = .free ∨ e.atBar n = true) := by
  rw [h.not_atBar n]
  rcases h with h | h <;> simp [h]

/-- Whether all wait at barrier `n` is the same after another barrier has been passed; the interrupted table stays clipped. -/
theorem passBar_allAtBar {m n : Nat} (hmn : m ≠ n) (stamp : Nat) (w : Wave) : (w.passBar m stamp).allAtBar n = w.allAtBar n := by
  obtain ⟨⟨-, -, hkeep, -⟩, -, hgo, -⟩ := passBar_spec m stamp w
  rw [Bool.eq_iff_iff]
  refine ⟨fun h => ?_, fun h => by rw [passBar_of_allAtBar hmn stamp h]; exact h⟩
  rw [allAtBar_iff] at h ⊢
  intro x hx
  cases hb : x.atBar m with
  | true =>
    obtain ⟨e, he, hg, -⟩ := hgo x hx hb
    exact (going_not_arrived hg (h e he)).elim
  | false => exact h x (hkeep x hx hb)

theorem passBar_clipped {m n : Nat} (hmn : m ≠ n) (stamp : Nat) {w : Wave} {live : W32} {ps : List Entry}
    (hw : w.paths = ps.map (Entry.clip live)) :
    (∀ e ∈ (w.passBar m stamp).paths.map (Entry.clip live), e.st = .free ∨ e.atBar n = true) ↔ w.allAtBar n = true := by
  obtain ⟨⟨-, -, hkeep, -⟩, -, hgo, -⟩ := passBar_spec m stamp w
  have hclip : ∀ x ∈ w.paths, x = {} ∨ x.mask &&& live ≠ 0 := fun x hx => clipped_iff (by rw [hw] at hx; exact hx)
  rw [List.forall_mem_map, allAtBar_iff]
  refine ⟨fun h x hx => ?_, fun h x hx => ?_⟩
  · rcases hclip x hx with rfl | hlive
    · exact .inl rfl
    · cases hb : x.atBar m with
      | true =>
        obtain ⟨e, he, hg, hsub⟩ := hgo x hx hb
        exact (going_not_arrived hg ((clip_free_or_atBar (live_of_sub hsub hlive)).1 (h e he))).elim
      | false => exact (clip_free_or_atBar hlive).1 (h x (hkeep x hx hb))
  · rw [passBar_of_allAtBar hmn stamp (allAtBar_iff.2 h)] at hx
    rcases hclip x hx with rfl | hlive
    · left; simp [Entry.clip]
    · exact (clip_free_or_atBar hlive).2 (h x hx)

/-- Leaving barrier `m` changes nothing that another barrier sees of a wave. -/
theorem leaveBar_keeps {m n : Nat} (hmn : m ≠ n) (stamp : Nat) (w : Wave) : KeptFor n w (w.leaveBar m stamp) := by
  obtain ⟨hpaths, hframe, harr, ⟨hleft, hlive, hsome⟩⟩ := leaveBar_eq w m stamp
  obtain ⟨⟨hpass, hplive, hkeep, hmem⟩, -⟩ := passBar_spec m stamp w
  have hall : (w.leaveBar m stamp).allAtBar n = w.allAtBar n := by
    rw [← passBar_allAtBar hmn stamp w]; unfold Wave.allAtBar; rw [hpaths]
  have hcount : (w.leaveBar m stamp).arrivals.contains n = w.arrivals.contains n := by
    rw [harr, Bool.eq_iff_iff]; simp [Ne.symm hmn]
  have hbehind : (w.leaveBar m stamp).behind.allAtBar n = w.behind.allAtBar n := by
    cases hf : w.frame with
    | none =>
      rw [hf] at hframe
      rw [behind_of_no_frame hframe, behind_of_no_frame hf, hall]
    | some f =>
      rw [hf] at hframe
      have hpf : (w.passBar m stamp).frame = some f := by rw [hpass]; exact hf
      have hb : ((w.passBar m stamp).behind).paths = f.paths.map (Entry.clip w.live) := by rw [behind_paths hpf, hplive]
      have hbb : w.behind.allAtBar n = (w.passBar m stamp).behind.allAtBar n := by unfold Wave.allAtBar; rw [hb, behind_paths hf]
      rw [hbb, Bool.eq_iff_iff, ← passBar_clipped hmn stamp hb, allAtBar_iff, behind_paths hframe, hlive]
  refine ⟨by rw [hleft], ?_, fun x hx => ?_⟩
  · unfold Wave.arrived; rw [hall, hcount, hbehind]
  · rw [hpaths]
    refine ⟨fun h => ?_, fun h => hkeep x h (atBar_ne hmn hx)⟩
    rcases hmem x h with h | rfl | h
    · exact h
    · cases hx
    · rw [h.not_atBar n] at hx; cases hx

/-! All waves, over the completion of other barriers. -/

/-- Every wave of the team in hand is as it was for barrier `n`. -/
def AllKeptFor (n : Nat) (s t : State) : Prop := KeptFor n s.w t.w ∧ List.Forall₂ (KeptFor n) s.t.waves t.t.waves

theorem AllKeptFor.refl (n : Nat) (s : State) : AllKeptFor n s s := ⟨.refl n _, List.forall₂_same.2 fun w _ => .refl n w⟩

theorem forall₂_kept_trans {n : Nat} {us vs ws : List Wave} (h : List.Forall₂ (KeptFor n) us vs) (k : List.Forall₂ (KeptFor n) vs ws) :
    List.Forall₂ (KeptFor n) us ws := by
  induction h generalizing ws with
  | nil => exact k
  | cons hd _ ih =>
    cases k with
    | cons hk htl => exact .cons (hd.trans hk) (ih htl)

theorem barStep_keeps {m n : Nat} (hmn : m ≠ n) (s : State) : AllKeptFor n s (barStep s m) := by
  unfold barStep
  dsimp only
  split
  · exact ⟨leaveBar_keeps hmn _ _, List.forall₂_map_right_iff.2 (List.forall₂_same.2 fun w _ => leaveBar_keeps hmn _ w)⟩
  · exact .refl n s

theorem foldl_barStep_keeps {n : Nat} (ms : List Nat) (h : n ∉ ms) (s : State) : AllKeptFor n s (ms.foldl barStep s) := by
  induction ms generalizing s with
  | nil => exact .refl n s
  | cons m ms ih =>
    rw [List.mem_cons, not_or] at h
    obtain ⟨hw, hws⟩ := barStep_keeps (Ne.symm h.1) s
    obtain ⟨hw', hws'⟩ := ih h.2 (barStep s m)
    exact ⟨hw.trans hw', forall₂_kept_trans hws hws'⟩

/-- A barrier is tried once, between the others. -/
theorem tryBars_split {n : Nat} (h : n < 16) (s : State) :
    ∃ u, AllKeptFor n s u ∧ AllKeptFor n (barStep u n) (tryBars s) := by
  obtain ⟨as, bs, hsplit⟩ := List.append_of_mem (List.mem_range.2 h)
  have hnodup : (as ++ n :: bs).Nodup := hsplit ▸ List.nodup_range
  have ⟨hna, hnb⟩ : n ∉ as ∧ n ∉ bs := by
    have := List.nodup_middle.1 hnodup
    rw [List.nodup_cons, List.mem_append, not_or] at this
    exact this.1
  refine ⟨as.foldl barStep s, foldl_barStep_keeps as hna s, ?_⟩
  rw [tryBars_eq, hsplit, List.foldl_append, List.foldl_cons]
  exact foldl_barStep_keeps bs hnb _

/-- Every live wave of the team in hand has arrived at barrier `n`. -/
def AllArrived (n : Nat) (s : State) : Prop :=
  (s.w.ended = false → s.w.arrived n = true) ∧ ∀ w ∈ s.t.waves, w.ended = true ∨ w.arrived n = true

theorem AllKeptFor.arrived_iff {n : Nat} {s t : State} (h : AllKeptFor n s t) : AllArrived n t ↔ AllArrived n s := by
  obtain ⟨⟨hend, harr, -⟩, hws⟩ := h
  unfold AllArrived
  rw [hend, harr]
  refine and_congr_right fun _ => ⟨fun h w hw => ?_, fun h w hw => ?_⟩
  · obtain ⟨v, hv, hk⟩ := forall₂_mem_left hws hw
    rw [← hk.1, ← hk.2.1]; exact h v hv
  · obtain ⟨v, hv, hk⟩ := forall₂_mem_right hws hw
    rw [hk.1, hk.2.1]; exact h v hv

theorem waves_all_arrived {n : Nat} {s : State} :
    (s.waves.filter (fun w => !w.ended)).all (fun w => w.arrived n) = true ↔ AllArrived n s := by
  unfold AllArrived State.waves
  simp only [List.all_eq_true, List.mem_filter, Bool.not_eq_true', and_imp, List.forall_mem_cons]
  refine and_congr_right fun _ => forall₂_congr fun w _ => ?_
  cases w.ended <;> simp

/-- A barrier that some live wave has not reached keeps everyone (R34). -/
theorem barStep_waits {n : Nat} {s : State} (h : ¬ AllArrived n s) : barStep s n = s := by
  unfold barStep
  dsimp only
  refine if_neg fun hb => h (waves_all_arrived.1 ?_)
  rw [Bool.and_eq_true] at hb
  exact hb.2

theorem leaveBar_clear (w : Wave) (n stamp : Nat) : ∀ x ∈ (w.leaveBar n stamp).paths, x.atBar n = false := by
  rw [(leaveBar_eq w n stamp).1]; exact (passBar_spec n stamp w).2.1

/-- A barrier that every live wave has reached, one of them with the running wave's entry, lets all go (R34). -/
theorem barStep_opens {n : Nat} {s : State} (hend : s.w.ended = false) (hat : ∃ x ∈ s.w.paths, x.atBar n = true) (h : AllArrived n s) :
    (∀ x ∈ (barStep s n).w.paths, x.atBar n = false) ∧ ∀ w ∈ (barStep s n).t.waves, ∀ x ∈ w.paths, x.atBar n = false := by
  have hwait : (s.waves.filter fun w => !w.ended).any (·.waitsBar n) = true := by
    refine List.any_eq_true.2 ⟨s.w, List.mem_filter.2 ⟨List.mem_cons_self .., by rw [hend]; rfl⟩, ?_⟩
    obtain ⟨x, hx, hb⟩ := hat
    unfold Wave.waitsBar
    rw [List.any_eq_true.2 ⟨x, hx, hb⟩]; rfl
  have hstep : barStep s n = { s with w := s.w.leaveBar n s.order, order := s.order + 1
                                      t := { s.t with waves := s.t.waves.map fun w => w.leaveBar n s.order } } := by
    unfold barStep
    dsimp only
    rw [hwait, waves_all_arrived.2 h]; rfl
  rw [hstep]
  refine ⟨leaveBar_clear _ n _, fun w hw => ?_⟩
  obtain ⟨v, -, rfl⟩ := List.mem_map.1 hw
  exact leaveBar_clear v n _

/-! BAR. -/

/-- The entry of a path that comes to BAR `n` at `pc`. -/
def Entry.toBar (n : Nat) (pc : W64) (age : Nat) (e : Entry) : Entry :=
  { e with st := .waitJoin, wait := .bar n, pc, clause := none, age }

/-- The state in which the running entry of `u` waits at BAR `n`, before the barrier is tried. -/
def State.atBar (u : State) (n : Nat) : State :=
  { u.advanceNR.onCur (Entry.toBar n u.w.cur.pc u.advanceNR.order) with order := u.advanceNR.order + 1 }

/-- An entry beside BAR `n`: the running one waits there. -/
def EntryToBar (n : Nat) (pc : W64) (e e' : Entry) : Prop :=
  e'.mask = e.mask ∧ if e.st = .run then e'.st = .waitJoin ∧ e'.wait = .bar n ∧ e'.pc = pc else e'.st = e.st ∧ e'.wait = e.wait

theorem atBar_spec (u : State) (n : Nat) :
    List.Forall₂ (EntryToBar n u.w.cur.pc) u.w.paths (u.atBar n).w.paths ∧
    ∃ ps due, u.atBar n = { u with w := { u.w with paths := ps, issued := u.w.issued + 1, cmpOk := false }
                                   granted := false, stalled := false, due, order := u.order + 1 } := by
  obtain ⟨hpaths, -, hrest⟩ := advanceNR_past u
  refine ⟨List.forall₂_map_right_iff.2 (hpaths.imp fun e e' h => ?_), ?_⟩
  · obtain ⟨hst, hmask, -, hwait, -, -⟩ := h
    unfold EntryToBar
    by_cases hr : e.st = .run
    · rw [if_pos hr, if_pos (hst.trans hr)]; exact ⟨hmask, rfl, rfl, rfl⟩
    · rw [if_neg hr, if_neg (fun h => hr (hst.symm.trans h))]; exact ⟨hmask, hst, hwait⟩
  · obtain ⟨ps, due, h⟩ : ∃ ps due, u.advanceNR = { u with
        w := { u.w with paths := ps, issued := u.w.issued + 1, cmpOk := false }
        granted := false, stalled := false, due } := ⟨_, _, hrest⟩
    refine ⟨ps.map fun e => if e.st = .run then e.toBar n u.w.cur.pc u.order else e, due, ?_⟩
    unfold State.atBar
    rw [h]; rfl

theorem atBar_live (u : State) (n : Nat) : (u.atBar n).w.live = u.w.live := by
  refine liveOf_congr ((atBar_spec u n).1.imp fun e e' ⟨hmask, h⟩ => ?_)
  by_cases hr : e.st = .run
  · rw [if_pos hr] at h; exact .inr ⟨by rw [h.1]; decide, by rw [hr]; decide, hmask⟩
  · rw [if_neg hr] at h
    by_cases hf : e.st = .free
    · exact .inl ⟨h.1.trans hf, hf⟩
    · exact .inr ⟨by rw [h.1]; exact hf, hf, hmask⟩

/-- Whether the wave has arrived, once its running entry waits at the BAR (R30, R34, R358). -/
theorem atBar_arrived (u : State) (n : Nat) (hrun : u.w.runIdx.isSome = true) :
    (u.atBar n).w.arrived n = true ↔ (∀ e ∈ u.w.paths, e.st = .free ∨ e.st = .run ∨ e.st = .waitJoin ∧ e.wait = .bar n) ∨
      u.w.behind.allAtBar n = true ∨ n ∈ u.w.arrivals := by
  obtain ⟨hpaths, ps, due, heq⟩ := atBar_spec u n
  have hone : ∀ e e', EntryToBar n u.w.cur.pc e e' →
      ((e'.st = .free ∨ e'.atBar n = true) ↔ (e.st = .free ∨ e.st = .run ∨ e.st = .waitJoin ∧ e.wait = .bar n)) := by
    rintro e e' ⟨-, h⟩
    rw [atBar_iff]
    by_cases hr : e.st = .run
    · rw [if_pos hr] at h; simp [h.1, h.2.1, hr]
    · rw [if_neg hr] at h; simp [h.1, h.2, hr]
  have hall : (u.atBar n).w.allAtBar n = true ↔ ∀ e ∈ u.w.paths, e.st = .free ∨ e.st = .run ∨ e.st = .waitJoin ∧ e.wait = .bar n := by
    rw [allAtBar_iff]
    refine ⟨fun h e he => ?_, fun h e' he' => ?_⟩
    · obtain ⟨e', he', hk⟩ := forall₂_mem_left hpaths he
      exact (hone e e' hk).1 (h e' he')
    · obtain ⟨e, he, hk⟩ := forall₂_mem_right hpaths he'
      exact (hone e e' hk).2 (h e he)
  have harr : (u.atBar n).w.arrivals = u.w.arrivals := by rw [heq]
  have hframe : (u.atBar n).w.frame = u.w.frame := by rw [heq]
  have hbehind : (u.atBar n).w.behind.allAtBar n = true ∨ (u.atBar n).w.allAtBar n = true ↔
      u.w.behind.allAtBar n = true ∨ (u.atBar n).w.allAtBar n = true := by
    cases hf : u.w.frame with
    | none =>
      have hno : u.w.allAtBar n ≠ true := by
        obtain ⟨i, hi⟩ := Option.isSome_iff_exists.1 hrun
        intro h
        have hcur := (allAtBar_iff.1 h) u.w.cur (List.mem_of_getElem? (runIdx_some hi).1)
        rw [atBar_iff, (runIdx_some hi).2] at hcur
        simp at hcur
      rw [behind_of_no_frame (hframe.trans hf), behind_of_no_frame hf]
      simp [hno]
    | some f =>
      have : (u.atBar n).w.behind.paths = u.w.behind.paths := by rw [behind_paths (hframe.trans hf), behind_paths hf, atBar_live]
      unfold Wave.allAtBar; rw [this]
  unfold Wave.arrived
  rw [Bool.or_eq_true, Bool.or_eq_true, harr, List.contains_iff_mem, ← hall]
  tauto

/-- The entry that has come to the BAR waits there, with its lanes (R34). -/
theorem atBar_here (u : State) (n : Nat) (hrun : u.w.runIdx.isSome = true) :
    ∃ e ∈ (u.atBar n).w.paths, e.atBar n = true ∧ e.pc = u.w.cur.pc ∧ e.mask = u.w.cur.mask := by
  obtain ⟨i, hi⟩ := Option.isSome_iff_exists.1 hrun
  obtain ⟨hcur, hst⟩ := runIdx_some hi
  obtain ⟨e, he, hmask, h⟩ := forall₂_mem_left (atBar_spec u n).1 (List.mem_of_getElem? hcur)
  rw [if_pos hst] at h
  exact ⟨e, he, (atBar_iff ..).2 ⟨h.1, h.2.1⟩, h.2.2, hmask⟩

/-- BAR after its entry has come to wait: it waits on, or everyone goes on (R34, R184). -/
theorem tryBars_atBar {v : State} {n : Nat} (hn : n < 16) (hend : v.w.ended = false) {e : Entry} (he : e ∈ v.w.paths) (hat : e.atBar n = true) :
    (¬ AllArrived n v → e ∈ (tryBars v).w.paths) ∧
    (AllArrived n v → (∀ x ∈ (tryBars v).w.paths, x.atBar n = false) ∧ ∀ w ∈ (tryBars v).t.waves, ∀ x ∈ w.paths, x.atBar n = false) := by
  obtain ⟨m, hbefore, hafter⟩ := tryBars_split hn v
  refine ⟨fun hno => ?_, fun hall => ?_⟩
  · rw [barStep_waits (fun h => hno (hbefore.arrived_iff.1 h))] at hafter
    exact (hafter.1.2.2 e hat).2 ((hbefore.1.2.2 e hat).2 he)
  · obtain ⟨hclear, hclears⟩ := barStep_opens (hbefore.1.1.trans hend) ⟨e, (hbefore.1.2.2 e hat).2 he, hat⟩ (hbefore.arrived_iff.2 hall)
    refine ⟨fun x hx => ?_, fun w hw x hx => ?_⟩
    · by_contra hb
      rw [Bool.not_eq_false] at hb
      exact Bool.noConfusion (hb.symm.trans (hclear x ((hafter.1.2.2 x hb).1 hx)))
    · by_contra hb
      rw [Bool.not_eq_false] at hb
      obtain ⟨w', hw', hk⟩ := forall₂_mem_right hafter.2 hw
      exact Bool.noConfusion (hb.symm.trans (hclears w' hw' x ((hk.2.2 x hb).1 hx)))

theorem teamBarrier : Claims.TeamBarrier := by
  intro s n hn hrun u here mine own all
  have hurun : u.w.runIdx.isSome = true := by
    show (u.w.paths.findIdx? _).isSome = true
    rw [settleAtoms_paths]; exact hrun
  have hhere : ∀ e : Entry, here e ↔ e.atBar n.val = true := fun e => (atBar_iff ..).symm
  have harr := atBar_arrived u n hurun
  have hlive := atBar_live u n
  obtain ⟨e, he, hat, hpc, hmask⟩ := atBar_here u n hurun
  obtain ⟨-, ps, due, hv⟩ := atBar_spec u n
  have hexec : exec (.bar n) s = .next (tryBars (u.atBar n)) := rfl
  refine ⟨_, hexec, ?_⟩
  clear hexec
  generalize u.atBar n = v at harr hlive he hv ⊢
  obtain ⟨ht, ⟨hw, hleft, -⟩, -⟩ := tryBars_tried v
  have hgo := fun hend => tryBars_atBar hn hend he hat
  generalize tryBars v = t at ht hw hleft hgo ⊢
  have hall : all ↔ v.w.ended = false ∧ AllArrived n.val v := by
    show own ∧ u.w.ended = false ∧ _ ↔ _
    have hown : own ↔ v.w.arrived n.val = true := harr.symm
    have hvend : v.w.ended = u.w.ended := by rw [hv]
    have hvt : v.t = u.t := by rw [hv]
    unfold AllArrived
    rw [hown, hvend, hvt]
    tauto
  refine ⟨hleft.trans hlive, ?_, ?_, ?_, ?_, ?_, ?_, ?_, fun hno hend => ?_, fun ha => ?_⟩
  · rw [hw, hv]
  · rw [hw, hv]
  · rw [hw, hv]
  · rw [hw, hv]
  · rw [ht, hv]
  · rw [hw, hv]
  · rw [hw, hv]
  · have hvend : v.w.ended = false := by rw [hv]; exact hend
    exact ⟨e, (hgo hvend).1 (fun h => hno (hall.2 ⟨hvend, h⟩)), (hhere e).2 hat, hpc, hmask⟩
  · obtain ⟨hvend, h⟩ := hall.1 ha
    obtain ⟨h1, h2⟩ := (hgo hvend).2 h
    refine ⟨fun x hx hh => ?_, fun w hw _ x hx hh => ?_⟩
    · exact Bool.noConfusion (((hhere x).1 hh).symm.trans (h1 x hx))
    · exact Bool.noConfusion (((hhere x).1 hh).symm.trans (h2 w hw x hx))

/-! Traps of the running entry at its region entry (R153). -/

/-- The whole running entry parks at its region entry: its lanes are in the entry named. -/
theorem parkLanes_whole {s : State} (hrun : s.w.runIdx.isSome = true) (hbody : s.w.cur.body = none) (waits : List PageWait) :
    ∃ ps i b, parkLanes s s.w.cur.mask waits = ({ s with w := { s.w with paths := ps } }, i, b) ∧
      ∃ e, ps[i]? = some e ∧ e.st = .parked ∧ e.pc = s.w.cur.region ∧ e.region = s.w.cur.region ∧ s.w.cur.mask &&& ~~~e.mask = 0 := by
  obtain ⟨r, hr⟩ := Option.isSome_iff_exists.1 hrun
  obtain ⟨hcur, hst⟩ := runIdx_some hr
  have hpark : s.w.cur.parkAt = s.w.cur.region := by unfold Entry.parkAt; rw [hbody]
  have hsub : ∀ m : W32, s.w.cur.mask &&& ~~~(m ||| s.w.cur.mask) = 0 := fun m => by
    rw [sub_mask_iff]; intro k hk; rw [BitVec.getLsbD_or, hk, Bool.or_true]
  unfold parkLanes
  dsimp only
  rw [hbody, hr, hpark, BitVec.and_self]
  simp only [beq_self_eq_true, Bool.true_or, if_true, Option.isSome_none, Bool.false_eq_true, if_false, Option.getD_some]
  cases hi : s.w.paths.findIdx? fun x => x.st == .parked && x.region == s.w.cur.region with
  | some i =>
    obtain ⟨hlt, hp, -⟩ := List.findIdx?_eq_some_iff_getElem.1 hi
    refine ⟨_, _, _, rfl, ?_⟩
    rw [Bool.and_eq_true, beq_iff_eq, beq_iff_eq] at hp
    simp only [List.getElem?_map, List.getElem?_modify, List.getElem?_eq_getElem hlt, if_true]
    exact ⟨_, rfl, rfl, rfl, rfl, hsub _⟩
  | none =>
    refine ⟨_, _, _, rfl, ?_⟩
    simp only [List.getElem?_modify, hcur, if_true]
    exact ⟨_, rfl, rfl, rfl, rfl, hsub _⟩

/-- A region-precise trap of the whole running entry, outside a capsule body. -/
theorem trapRegion_taken {s : State} (hcan : CanTrap s) (hrun : s.w.runIdx.isSome = true) (hbody : s.w.cur.body = none)
    (cause detail : Nat) (addr : W64) (dst : TrapDst := .none) (dstLatch : Bool := false) :
    RegionTrapTaken cause detail s.w.cur.mask addr s.w.issuePc (trapRegion s cause detail addr dst dstLatch) := by
  obtain ⟨ps, i, b, hpark, e, he, hst, hpc, hregion, hmask⟩ := parkLanes_whole hrun hbody []
  have heq : trapRegion s cause detail addr dst dstLatch = takeTrapOf { s with w := { s.w with paths := ps } }
      { cause, detail, lanes := s.w.cur.mask, addr, pc := s.w.issuePc, next := s.w.cur.pc + 4, dst, dstLatch } i s.w.cur.clause s.w.cur.body := by
    unfold trapRegion
    dsimp only
    rw [if_neg (by rw [hcan.1]; exact Bool.false_ne_true), hpark]
  obtain ⟨f, hpaths, -, htrapped, htake⟩ := takeTrapOf_eq { s with w := { s.w with paths := ps } }
    { cause, detail, lanes := s.w.cur.mask, addr, pc := s.w.issuePc, next := s.w.cur.pc + 4, dst, dstLatch } i s.w.cur.clause s.w.cur.body hcan
  rw [heq, htake]
  have hget : ps.getD i {} = e := by rw [List.getD_eq_getElem?_getD, he]; rfl
  refine ⟨rfl, rfl, rfl, rfl, rfl, rfl, rfl, f, rfl, e, ?_, hst, ?_, hmask⟩
  · rw [hpaths, htrapped]; exact he
  · show e.pc = (ps.getD i {}).region
    rw [hget, hpc, hregion]

/-! Barrier objects (R185 to R187). -/

theorem handle_passes {k : HKind} {s : State} {h : W64} (hk : k ≠ .const ∨ constCheck s h = none) :
    (if k = .const then constCheck s h else none) = none := by
  rcases hk with hk | hk
  · exact if_neg hk
  · rw [hk]; exact ite_self _

/-- Past a non-repeatable instruction, as a frame over the state whose next header is fresh. -/
theorem advanceNR_past_fresh (s : State) :
    Past 4 { s with w := { s.w with paths := s.w.paths.map fun e => if e.st = .run then { e with fresh := true } else e } } s.advanceNR :=
  advance_past (s.onCur fun e => { e with fresh := true }) 4 false true

/-- The object after the arrival that BARA counts: the release first, then the count, or the next phase (R186). -/
def baraStored (k : HKind) (p : W64) (v : State) : State :=
  let r := (v.release (HKind.scope k)).escape
  let n := homeWord r p 2 + 1
  if n = homeWord v p 0 then setHomeWord (setHomeWord r p 1 (homeWord v p 1 + 1)) p 2 0 else setHomeWord r p 2 n

/-- The phase answered, and noted with the object. -/
def State.answered (m : State) (c : SReg) (p : W64) (phase : Nat) : State :=
  { m with w := { m.w.setS c (BitVec.ofNat 64 phase) with bara := (p, phase) :: (m.w.setS c (BitVec.ofNat 64 phase)).bara.filter (·.1 != p) } }

theorem answered_past (m : State) (c : SReg) (p : W64) (phase : Nat) :
    Past 4 { m with w := { m.w with
      s := m.w.s.set c.val (BitVec.ofNat 64 phase), spoison := m.w.spoison.filter (· != c.val)
      bara := (p, phase) :: m.w.bara.filter (·.1 != p)
      paths := m.w.paths.map fun e => if e.st = .run then { e with fresh := true } else e } } (m.answered c p phase).advanceNR :=
  advanceNR_past_fresh (m.answered c p phase)

/-- BARA at an object whose line the core has given up, after its checks (R186). -/
def baraAt (k : HKind) (c : SReg) (p : W64) (v : State) : State :=
  if homeWord v p 0 % 2 ^ 32 = 0 ∨ 2 ^ 32 ≤ homeWord v p 0 then boundTrap v 6 p
  else if v.w.bara.any fun x => x.1 == p && homeWord v p 1 ≤ x.2 then v.block { pc := v.w.cur.pc }
  else ((baraStored k p v).answered c p (homeWord v p 1)).advanceNR

theorem execBara_open {s u : State} {k : HKind} {c b a : SReg} (hopen : AccessOpen (s.w.sreg a) 64 (wantObject true) (settleAtoms s) u)
    (hk : k ≠ .const ∨ constCheck (settleAtoms s) (s.w.sreg b) = none) :
    execBara k c b a s = .next (baraAt k c (s.w.sreg a) (flushLine u (s.w.sreg a))) := by
  have hs : (settleAtoms s).w.sreg b = s.w.sreg b := by unfold Wave.sreg; rw [settleAtoms_s]
  rw [← hs] at hk
  unfold execBara
  dsimp only
  generalize settleAtoms s = x at hopen hk ⊢
  rw [handle_passes hk]
  exact congrArg Host.Outcome.next (hopen _)

/-- BARW at an object whose line the core has given up, after its checks (R187). -/
def barwAt (k : HKind) (b : SReg) (p : W64) (v : State) : State :=
  if (v.w.sreg b).toNat < homeWord v p 1 then (v.acquire (HKind.scope k)).advanceNR else v.block { pc := v.w.cur.pc }

theorem execBarw_open {s u : State} {k : HKind} {c b a : SReg} (hopen : AccessOpen (s.w.sreg a) 64 (wantObject false) (settleAtoms s) u)
    (hk : k ≠ .const ∨ constCheck (settleAtoms s) (s.w.sreg c) = none) :
    execBarw k c b a s = .next (barwAt k b (s.w.sreg a) (flushLine u (s.w.sreg a))) := by
  have hs : (settleAtoms s).w.sreg c = s.w.sreg c := by unfold Wave.sreg; rw [settleAtoms_s]
  rw [← hs] at hk
  unfold execBarw
  dsimp only
  generalize settleAtoms s = x at hopen hk ⊢
  rw [handle_passes hk]
  exact congrArg Host.Outcome.next (hopen _)

theorem repeats_iff {xs : List (W64 × Nat)} {p : W64} {phase : Nat} :
    (xs.any fun x => x.1 == p && decide (phase ≤ x.2)) = true ↔ ∃ x ∈ xs, x.1 = p ∧ phase ≤ x.2 := by
  simp [List.any_eq_true]

/-- EXPECTED in its range (R185). -/
theorem expected_ok {n : Nat} (h0 : 0 < n) (h : n < 2 ^ 32) : ¬ (n % 2 ^ 32 = 0 ∨ 2 ^ 32 ≤ n) := by omega

section
variable {k : HKind} {c : SReg} {p : W64} {v : State}

theorem baraAt_counts (h0 : 0 < homeWord v p 0) (h1 : homeWord v p 0 < 2 ^ 32) (hr : ¬ ∃ x ∈ v.w.bara, x.1 = p ∧ homeWord v p 1 ≤ x.2) :
    baraAt k c p v = ((baraStored k p v).answered c p (homeWord v p 1)).advanceNR := by
  unfold baraAt
  rw [if_neg (expected_ok h0 h1), if_neg fun h => hr (repeats_iff.1 h)]

theorem baraAt_repeats (h0 : 0 < homeWord v p 0) (h1 : homeWord v p 0 < 2 ^ 32) (hr : ∃ x ∈ v.w.bara, x.1 = p ∧ homeWord v p 1 ≤ x.2) :
    baraAt k c p v = v.block { pc := v.w.cur.pc } := by
  unfold baraAt
  rw [if_neg (expected_ok h0 h1), if_pos (repeats_iff.2 hr)]

theorem baraAt_bound (h : homeWord v p 0 = 0 ∨ 2 ^ 32 ≤ homeWord v p 0) : baraAt k c p v = boundTrap v 6 p := by
  unfold baraAt
  rw [if_pos (h.imp_left fun h => by rw [h]; rfl)]

theorem barwAt_passes {b : SReg} (h : (v.w.sreg b).toNat < homeWord v p 1) : barwAt k b p v = (v.acquire (HKind.scope k)).advanceNR := if_pos h

theorem barwAt_blocks {b : SReg} (h : homeWord v p 1 ≤ (v.w.sreg b).toNat) : barwAt k b p v = v.block { pc := v.w.cur.pc } :=
  if_neg (Nat.not_lt.2 h)

end

theorem objectBarriers : Claims.ObjectBarriers := by
  intro s u k c b a p v expected phase r n repeats
  refine ⟨fun hopen hk => ?_, fun hopen hk => ?_⟩
  · have hx : exec (.bara k c b a) s = .next (baraAt k c p v) := execBara_open hopen hk
    refine ⟨fun h0 h1 hr => ?_, fun h0 h1 hr => ?_, fun hbad hcan hrun hbody => ?_⟩
    · intro m
      exact ⟨_, hx.trans (congrArg Host.Outcome.next (baraAt_counts h0 h1 hr)), answered_past m c p phase⟩
    · exact ⟨_, hx.trans (congrArg Host.Outcome.next (baraAt_repeats h0 h1 hr)), block_waits ..⟩
    · exact ⟨_, hx.trans (congrArg Host.Outcome.next (baraAt_bound hbad)), trapRegion_taken hcan hrun hbody 33 6 p⟩
  · have hx : exec (.barw k c b a) s = .next (barwAt k b p v) := execBarw_open hopen hk
    refine ⟨fun h => ?_, fun h => ?_⟩
    · exact ⟨_, hx.trans (congrArg Host.Outcome.next (barwAt_blocks h)), block_waits ..⟩
    · exact ⟨_, hx.trans (congrArg Host.Outcome.next (barwAt_passes h)), advanceNR_past_fresh (v.acquire (HKind.scope k))⟩

/-- Settles O16: a barrier is tried between the others, which change nothing that it sees; the objects by their words at HOME. -/
theorem barriers : Obligations.Barriers := ⟨teamBarrier, objectBarriers⟩

end Sys2Proof.Machine
end

section
/-! PROOFS. Capsule records and the lanes that hold them (R38, R248 to R250): one lane changed, the masks that answer, the lock words read at HOME. -/

namespace Sys2Proof.Machine

/-! One lane of a wave. -/

/-- The lanes of a wave as they stand after reset: all 32, each at its number. -/
def LanesStand (ls : List Lane) : Prop := ls.length = 32 ∧ ∀ (n : Nat) (x : Lane), ls[n]? = some x → x.id = n

/-- The lanes with lane `i` changed by `f`. -/
def atLane (i : Nat) (f : Lane → Lane) (ls : List Lane) : List Lane :=
  ls.map fun l => if (BitVec.ofNat 32 (2 ^ i)).getLsbD l.id then f l else l

theorem onLanes_one (w : Wave) (i : Nat) (f : Lane → Lane) : (w.onLanes (BitVec.ofNat 32 (2 ^ i)) f).lanes = atLane i f w.lanes := rfl

theorem oneBit_getLsbD {i n : Nat} (hi : i < 32) : (BitVec.ofNat 32 (2 ^ i)).getLsbD n = decide (n = i) := by
  rw [BitVec.getLsbD_ofNat, Nat.testBit_two_pow]
  by_cases h : i = n
  · subst h; simp [hi]
  · simp [h, Ne.symm h]

section
variable {i : Nat} {f : Lane → Lane} {ls : List Lane} (hi : i < 32) (hls : LanesStand ls)
include hi hls

theorem atLane_get (n : Nat) : (atLane i f ls)[n]? = if n = i then ls[n]?.map f else ls[n]? := by
  unfold atLane
  rw [List.getElem?_map]
  cases hn : ls[n]? with
  | none => simp
  | some x =>
    rw [Option.map_some, oneBit_getLsbD hi, hls.2 n x hn]
    by_cases h : n = i <;> simp [h]

theorem atLane_stand (hf : ∀ l, (f l).id = l.id) : LanesStand (atLane i f ls) := by
  refine ⟨(List.length_map ..).trans hls.1, fun n x hx => ?_⟩
  rw [atLane_get hi hls] at hx
  split at hx
  · obtain ⟨y, hy, rfl⟩ := Option.map_eq_some_iff.1 hx
    rw [hf]; exact hls.2 n y hy
  · exact hls.2 n x hx

end

section
variable {i : Nat} {f : Lane → Lane} {w v : Wave} (hi : i < 32) (hw : LanesStand w.lanes) (hv : v.lanes = atLane i f w.lanes)
include hi hw hv

theorem lane_other (n : Nat) (h : n ≠ i) : v.lane n = w.lane n := by
  unfold Wave.lane
  rw [List.getD_eq_getElem?_getD, List.getD_eq_getElem?_getD, hv, atLane_get hi hw, if_neg h]

theorem lane_same : v.lane i = f (w.lane i) := by
  unfold Wave.lane
  rw [List.getD_eq_getElem?_getD, List.getD_eq_getElem?_getD, hv, atLane_get hi hw, if_pos rfl, List.getElem?_eq_getElem (hw.1.symm ▸ hi)]
  rfl

end

/-- One lane changed twice. -/
theorem atLane_atLane {i : Nat} (f g : Lane → Lane) (ls : List Lane) (hf : ∀ l, (f l).id = l.id) :
    atLane i g (atLane i f ls) = atLane i (g ∘ f) ls := by
  unfold atLane
  rw [List.map_map]
  refine List.map_congr_left fun l _ => ?_
  by_cases h : (BitVec.ofNat 32 (2 ^ i)).getLsbD l.id = true
  · simp only [Function.comp, if_pos h, hf]
  · simp only [Function.comp, if_neg h]

/-! The masks that answer (R248). -/

/-- One of the masks of an answer. -/
def setBit (m k i : Nat) (w : Wave) (j : Nat) : Wave :=
  w.setMask ⟨(m + j) % 16, Nat.mod_lt _ (by decide)⟩
    (if j = k then w.m.getD ((m + j) % 16) 0 ||| BitVec.ofNat 32 (2 ^ i) else w.m.getD ((m + j) % 16) 0 &&& ~~~BitVec.ofNat 32 (2 ^ i))

theorem setBits_succ (w : Wave) (m n k i : Nat) : setBits w m (n + 1) k i = setBit m k i (setBits w m n k i) n := by
  unfold setBits
  rw [List.range_succ, List.foldl_append]
  rfl

theorem setBit_frame (m k i : Nat) (w : Wave) (j : Nat) : setBit m k i w j = { w with m := (setBit m k i w j).m } := by
  unfold setBit Wave.setMask; split <;> rfl

theorem setBits_frame (w : Wave) (m n k i : Nat) : setBits w m n k i = { w with m := (setBits w m n k i).m } := by
  induction n with
  | zero => rfl
  | succ n ih =>
    rw [setBits_succ, setBit_frame]
    generalize setBits w m n k i = v at ih ⊢
    rw [ih]

theorem setBits_lanes (w : Wave) (m n k i : Nat) : (setBits w m n k i).lanes = w.lanes := by rw [setBits_frame]

theorem setBit_length (m k i : Nat) (w : Wave) (j : Nat) : (setBit m k i w j).m.length = w.m.length := by
  unfold setBit Wave.setMask
  split
  · rfl
  · exact List.length_set

theorem setBits_length (w : Wave) (m n k i : Nat) : (setBits w m n k i).m.length = w.m.length := by
  induction n with
  | zero => rfl
  | succ n ih => rw [setBits_succ, setBit_length, ih]

theorem setBit_other {m k i j q : Nat} (w : Wave) (h : q ≠ (m + j) % 16) : (setBit m k i w j).m.getD q 0 = w.m.getD q 0 := by
  unfold setBit Wave.setMask
  split
  · rfl
  · simp only [List.getD_eq_getElem?_getD, List.getElem?_set_ne (Ne.symm h)]

theorem setBit_same {m k i j q : Nat} (hi : i < 32) (w : Wave) (h : q = (m + j) % 16) (h0 : q ≠ 0) (h15 : q ≠ 15) (hlen : q < w.m.length) :
    ((setBit m k i w j).m.getD q 0).getLsbD i = decide (j = k) := by
  subst h
  unfold setBit Wave.setMask
  rw [if_neg (not_or.2 ⟨h0, h15⟩)]
  simp only [List.getD_eq_getElem?_getD, List.getElem?_set_self hlen, Option.getD_some]
  by_cases hj : j = k
  · rw [if_pos hj, BitVec.getLsbD_or, oneBit_getLsbD hi]; simp [hj]
  · rw [if_neg hj, BitVec.getLsbD_and, BitVec.getLsbD_not, oneBit_getLsbD hi]; simp [hj]

/-- The lane's bit is 1 in the mask of the answer and 0 in the others (R248). -/
theorem setBits_bits {w : Wave} {m n k i : Nat} (hi : i < 32) (hn : n ≤ 16) :
    ∀ j q, j < n → q = (m + j) % 16 → q ≠ 0 → q ≠ 15 → q < w.m.length → ((setBits w m n k i).m.getD q 0).getLsbD i = decide (j = k) := by
  induction n with
  | zero => intro j q h; omega
  | succ n ih =>
    intro j q hj hq h0 h15 hlen
    rw [setBits_succ]
    by_cases h : j = n
    · subst h
      exact setBit_same hi _ hq h0 h15 (by rw [setBits_length]; exact hlen)
    · rw [setBit_other _ (by omega)]
      exact ih (by omega) j q (by omega) hq h0 h15 hlen

/-- The same as the wave `v` shows it, whose masks the answer has changed. -/
theorem answer_bits {w u v : Wave} {m n k i : Nat} (hi : i < 32) (hn : n ≤ 16) (hv : v = setBits u m n k i) (hu : u.m = w.m) :
    ∀ j q, j < n → q = (m + j) % 16 → q ≠ 0 → q ≠ 15 → q < w.m.length → (v.m.getD q 0).getLsbD i = decide (j = k) := by
  subst hv
  rw [← hu]
  exact setBits_bits hi hn

/-! Lock words at HOME. -/

/-- Where what is read at HOME is the same: memory and its poison, the translations of the spaces, the packages lost, and the team in hand. -/
def HomeSame (s t : State) : Prop := t.mem = s.mem ∧ t.memPoison = s.memPoison ∧ t.spaces = s.spaces ∧ t.lost = s.lost ∧ t.t = s.t

theorem homeWord_congr {s t : State} (h : HomeSame s t) (p : W64) (i : Nat) : homeWord t p i = homeWord s p i := by
  obtain ⟨hm, hp, hs, hl, ht⟩ := h
  have hroot : ∀ n, t.root n = s.root n := fun n => by unfold State.root State.space; rw [hs]
  have haddr : ∀ sp q d, homeAddr t sp q d = homeAddr s sp q d := fun sp q d => by unfold homeAddr homeServe; rw [hm, hroot]
  have hread : ∀ a n, homeRead t a n = homeRead s a n := fun a n => by unfold homeRead isLost; rw [hm, hp, hl]
  have hdie : ∀ sp q n d, dieRead t sp q n d = dieRead s sp q n d := fun sp q n d => by
    unfold dieRead
    simp only [haddr, hread]
  unfold homeWord
  rw [hdie, ht]

theorem setCore_homeSame (s : State) (k : Core) : HomeSame s (s.setCore k) := by
  unfold State.setCore
  split
  · exact ⟨rfl, rfl, rfl, rfl, rfl⟩
  · split <;> exact ⟨rfl, rfl, rfl, rfl, rfl⟩

/-- An acquire reads what it read (R295). -/
theorem acquire_homeSame (s : State) (sc : Scope) : HomeSame s (s.acquire sc) := by
  have hl1 : HomeSame s (renewL1 s s.coreId s.t.space) := setCore_homeSame ..
  have hcc : HomeSame s (renewCc s s.coreId s.t.space) := hl1
  cases sc with
  | wave | team => exact ⟨rfl, rfl, rfl, rfl, rfl⟩
  | gang | const => exact hl1
  | _ => exact hcc

/-! CAPB, one lane (R248). -/

/-- A lane that has acquired its record. -/
def Lane.acquired (l : Lane) (p box : W64) (pkg : Bool) : Lane :=
  { l with holding := true, capPtr := p, capStep := 0, capPkg := pkg, adopted := false, displaced := false, held := [], mail := box }

/-- The words of a record that a lane acquires, at HOME: owner, resume address, checkpoint, mailbox and time (R245). -/
def acquiredRecord (s : State) (g i : Nat) : State :=
  let p := groupPtr s.w i g 0
  let a := setHomeWord s p 0 (mkLock (capId s.t s.w.num i) 0 1 (lockAdopt (homeWord s p 0)))
  let a := setHomeWord a p 1 (a.w.cur.pc + 4).toNat
  let a := dieWrite a a.t.space (p + 16) (kBytes (a.w.lane i)) true (.lane a.t.die a.t.core) a.t.die
  setHomeWord (setHomeWord a p 6 (groupPtr s.w i g 1).toNat) p 7 a.now

theorem acquiredRecord_side (s : State) (g i : Nat) : SideOnly s (acquiredRecord s g i) := by
  unfold acquiredRecord
  exact (setHomeWord_side ..).trans ((setHomeWord_side ..).trans ((dieWrite_side ..).trans ((setHomeWord_side ..).trans (setHomeWord_side ..))))

theorem acquireOne_w_free {pkg : Bool} {m g i : Nat} {s : State} (hfree : lockState (homeWord s (groupPtr s.w i g 0) 0) = 0)
    (hroom : tableUse s s.coreId < 64) :
    (acquireOne pkg m g s i).w = setBits (s.w.onLanes (BitVec.ofNat 32 (2 ^ i)) (·.acquired (groupPtr s.w i g 0) (groupPtr s.w i g 1) pkg)) m 3 0 i := by
  have hw := (acquiredRecord_side s g i).w
  have heq : (acquireOne pkg m g s i).w =
      setBits ((acquiredRecord s g i).w.onLanes (BitVec.ofNat 32 (2 ^ i)) (·.acquired (groupPtr s.w i g 0) (groupPtr s.w i g 1) pkg)) m 3 0 i := by
    unfold acquireOne
    dsimp only
    rw [if_pos ⟨hfree, hroom⟩]
    rfl
  rw [heq, hw]

theorem acquireOne_held {pkg : Bool} {m g i : Nat} {s : State}
    (h : lockState (homeWord s (groupPtr s.w i g 0) 0) ≠ 0 ∨ 64 ≤ tableUse s s.coreId) :
    acquireOne pkg m g s i = { s with w := setBits s.w m 3 (if adoptable s (groupPtr s.w i g 0) then 1 else 2) i } := by
  unfold acquireOne
  dsimp only
  rw [if_neg (fun hb => h.elim (fun h => h hb.1) fun h => absurd hb.2 (Nat.not_lt.2 h))]

/-! A commit, one lane (R249, R363). -/

/-- A lane whose record another owner has taken. -/
def Lane.lose (l : Lane) : Lane := { l with held := [], reserved := none, displaced := true }

/-- A lane after a step committed. -/
def Lane.stepped (l : Lane) : Lane := { l with held := [], capStep := l.capStep + 1 }

theorem performHeld_side (s : State) (xs : List HeldStore) : SideOnly s (performHeld s xs) := by
  refine foldl_side (fun s h => ?_) xs s
  have hspan : SideOnly s (performHeld.flushSpan s s.coreId s.t.space h.ptr h.data.length) := by
    unfold performHeld.flushSpan
    exact ite_side ((dropLine_side ..).trans (dropLine_side ..)) (dropLine_side ..)
  exact hspan.trans (dieWrite_side ..)

theorem putMessage_w (s : State) (p : W64) (b : Box) (d : List PByte) (who : CoreId) : (putMessage s p b d who).w = s.w := by
  have h : SideOnly s (setHomeWord (dieWrite (flushLine s (slotPtr p b b.sent)) (flushLine s (slotPtr p b b.sent)).t.space (slotPtr p b b.sent) d true
      (.lane (flushLine s (slotPtr p b b.sent)).t.die (flushLine s (slotPtr p b b.sent)).t.core) (flushLine s (slotPtr p b b.sent)).t.die) p 1
      ((b.sent + 1) % 2 ^ 64)) := (flushLine_side ..).trans ((dieWrite_side ..).trans (setHomeWord_side ..))
  unfold putMessage
  exact h.w

theorem sendResult_w (s : State) (i adopt : Nat) : (sendResult s i adopt).w = s.w := by
  unfold sendResult
  dsimp only
  split
  · rfl
  · rw [putMessage_w]
    exact (release_side ..).w

/-- The state in which a committing lane reads its record: its own copy of the line gone, and an acquire (R274). -/
def commitSeen (s : State) (i : Nat) : State := (flushLine s (s.w.lane i).capPtr).acquire (capScope (s.w.lane i).capPkg)

theorem acquire_lanes (s : State) (sc : Scope) : (s.acquire sc).w.lanes = s.w.lanes := by rw [acquire_settled s sc]
theorem acquire_num (s : State) (sc : Scope) : (s.acquire sc).w.num = s.w.num := by rw [acquire_settled s sc]

theorem commitSeen_spec (s : State) (i : Nat) : (commitSeen s i).w.lanes = s.w.lanes ∧ (commitSeen s i).w.num = s.w.num ∧ (commitSeen s i).t = s.t ∧
    homeWord (commitSeen s i) (s.w.lane i).capPtr 0 = homeWord (flushLine s (s.w.lane i).capPtr) (s.w.lane i).capPtr 0 := by
  have hf := flushLine_side s (s.w.lane i).capPtr
  have ha := acquire_homeSame (flushLine s (s.w.lane i).capPtr) (capScope (s.w.lane i).capPkg)
  refine ⟨?_, ?_, ha.2.2.2.2.trans hf.t, homeWord_congr ha _ _⟩
  · exact (acquire_lanes ..).trans (congrArg Wave.lanes hf.w)
  · exact (acquire_num ..).trans (congrArg Wave.num hf.w)

/-- The lock word is another's (R363). -/
def commitRefused (s : State) (i : Nat) : Prop :=
  let v := homeWord (commitSeen s i) (s.w.lane i).capPtr 0
  lockOwner v ≠ capId (commitSeen s i).t (commitSeen s i).w.num i ∨ lockStep v ≠ (s.w.lane i).capStep % 256

theorem commitRefused_iff (s : State) (i : Nat) : commitRefused s i ↔
    lockOwner (homeWord (flushLine s (s.w.lane i).capPtr) (s.w.lane i).capPtr 0) ≠ capId s.t s.w.num i ∨
      lockStep (homeWord (flushLine s (s.w.lane i).capPtr) (s.w.lane i).capPtr 0) ≠ (s.w.lane i).capStep % 256 := by
  obtain ⟨-, hnum, ht, hword⟩ := commitSeen_spec s i
  unfold commitRefused
  rw [hnum, ht, hword]

theorem commitOne_refused {cape : Bool} {s : State} {i : Nat} (h : commitRefused s i) : commitOne cape s i = (commitSeen s i).modLane i Lane.lose := by
  unfold commitOne
  exact if_pos h

theorem setHomeWord_lanes (s : State) (p : W64) (j v : Nat) : (setHomeWord s p j v).w.lanes = s.w.lanes :=
  congrArg Wave.lanes (setHomeWord_side ..).w

theorem modLane_lanes (s : State) (i : Nat) (f : Lane → Lane) : (s.modLane i f).w.lanes = atLane i f s.w.lanes := rfl

/-- The lane after a commit that stands: it counts its step; at CAPE the record goes, or the adopter's message is out (R249, R251). -/
def Lane.committed (cape : Bool) (adopted : Bool) (l : Lane) : Lane :=
  if cape then if adopted then { l.stepped with reserved := none } else l.stepped.release else l.stepped

theorem committed_spec (cape : Bool) (l : Lane) : (l.committed cape l.adopted).held = [] ∧ (l.committed cape l.adopted).capStep = l.capStep + 1 ∧
    (l.committed cape l.adopted).g = l.g ∧ (l.committed cape l.adopted).k = l.k ∧
    (cape = true → l.adopted = false → (l.committed cape l.adopted).holding = false) ∧
    (cape = false → (l.committed cape l.adopted).holding = l.holding) := by
  unfold Lane.committed
  cases cape with
  | false => exact ⟨rfl, rfl, rfl, rfl, fun h => Bool.noConfusion h, fun _ => rfl⟩
  | true =>
    cases hl : l.adopted with
    | false => exact ⟨rfl, rfl, rfl, rfl, fun _ _ => rfl, fun h => Bool.noConfusion h⟩
    | true => exact ⟨rfl, rfl, rfl, rfl, fun _ h => Bool.noConfusion h, fun h => Bool.noConfusion h⟩

theorem commitOne_taken {cape : Bool} {s : State} {i : Nat} (h : ¬ commitRefused s i) :
    (commitOne cape s i).w.lanes = atLane i (Lane.committed cape (s.w.lane i).adopted) s.w.lanes := by
  have hseen := (commitSeen_spec s i).1
  unfold commitOne
  extract_lets l p seen v id freed held kept timed moved counted sent let_go next
  have hno : ¬ (lockOwner v ≠ id ∨ lockStep v ≠ l.capStep % 256) := h
  rw [if_neg hno]
  have hmoved : counted.w.lanes = atLane i Lane.stepped s.w.lanes := by
    have h1 : timed.w = freed.w := ((performHeld_side freed l.held).trans ((dieWrite_side ..).trans (setHomeWord_side ..))).w
    have h2 : freed.w = seen.w := (release_side ..).w
    show (timed.modLane i Lane.stepped).w.lanes = _
    rw [modLane_lanes, h1, h2]
    exact congrArg _ hseen
  have hstep : ∀ f : Lane → Lane, atLane i f (atLane i Lane.stepped s.w.lanes) = atLane i (f ∘ Lane.stepped) s.w.lanes :=
    fun f => atLane_atLane _ f _ fun _ => rfl
  cases cape with
  | false =>
    rw [if_neg Bool.false_ne_true, setHomeWord_lanes, setHomeWord_lanes, hmoved]; rfl
  | true =>
    rw [if_pos rfl]
    have hgo : let_go.w.lanes = sent.w.lanes := setHomeWord_lanes ..
    cases had : l.adopted with
    | false =>
      have hs : sent = counted := if_neg (by rw [had]; exact Bool.false_ne_true)
      show (let_go.modLane i Lane.release).w.lanes = _
      rw [modLane_lanes, hgo, hs, hmoved, hstep]; rfl
    | true =>
      have hs : sent = _ := if_pos had
      show let_go.w.lanes = _
      rw [hgo, hs, modLane_lanes, sendResult_w, hmoved, hstep]; rfl

/-! An adoption, one lane (R250). -/

theorem setReg_k_frame (l : Lane) (j : Nat) (v : W32) : (l.setReg (96 + j) v).id = l.id ∧ (l.setReg (96 + j) v).g = l.g := by
  unfold Lane.setReg
  rw [if_neg (by omega)]
  exact ⟨rfl, rfl⟩

theorem setK_frame (l : Lane) (j : Nat) (bs : List PByte) : (l.setK j bs).id = l.id ∧ (l.setK j bs).g = l.g := by
  unfold Lane.setK
  dsimp only
  split <;> exact setReg_k_frame ..

/-- A lane with the checkpoint of a record in its K registers. -/
def Lane.loaded (l : Lane) (ck : List PByte) : Lane := (List.range 8).foldl (fun l k => l.setK k ((ck.drop (4 * k)).take 4)) l

theorem loaded_frame (l : Lane) (ck : List PByte) : (l.loaded ck).id = l.id ∧ (l.loaded ck).g = l.g := by
  unfold Lane.loaded
  generalize List.range 8 = ks
  induction ks generalizing l with
  | nil => exact ⟨rfl, rfl⟩
  | cons k ks ih =>
    obtain ⟨h1, h2⟩ := ih (l.setK k ((ck.drop (4 * k)).take 4))
    obtain ⟨h3, h4⟩ := setK_frame l k ((ck.drop (4 * k)).take 4)
    exact ⟨h1.trans h3, h2.trans h4⟩

/-- A lane that has adopted its record, whose lock word was `v` and whose origin is `o`. -/
def Lane.adopts (l : Lane) (ck : List PByte) (p : W64) (pkg : Bool) (v : Nat) (o : Nat × Nat) : Lane :=
  { l.loaded ck with holding := true, adopted := true, displaced := false, held := [], capPtr := p, capPkg := pkg
                     capStep := lockStep v, capBase := o.2, capFrom := o.1 }

theorem adoptOne_w (pkg : Bool) (m g : Nat) (s : State) (i : Nat) : ∃ ck, (adoptOne pkg m g s i).w =
    setBits (s.w.onLanes (BitVec.ofNat 32 (2 ^ i)) fun l => l.adopts ck (groupPtr s.w i g 0) pkg (homeWord s (groupPtr s.w i g 0) 0)
      (capOrigin s (boxKey s (groupPtr s.w i g 0)) (homeWord s (groupPtr s.w i g 0) 0))) m 2 0 i := by
  unfold adoptOne
  extract_lets p v pa o noted owned timed ck moved
  have hw : timed.w = s.w := ((setHomeWord_side noted ..).trans (setHomeWord_side ..)).w
  have hmoved : moved.w = timed.w.onLanes (BitVec.ofNat 32 (2 ^ i)) fun l => l.adopts ck p pkg v o := rfl
  refine ⟨ck, ?_⟩
  show setBits moved.w m 2 0 i = _
  rw [hmoved, hw]

/-- Settles O37: by what each lane's part writes at HOME, in its lane and in the masks. -/
theorem capsuleLanes : Obligations.CapsuleLanes := by
  intro s pkg cape m g i hi hlen hids p v bits rest l mine b d
  have hls : LanesStand s.w.lanes := ⟨hlen, hids⟩
  refine ⟨fun hfree hroom => ?_, fun hheld => ?_, fun href => ?_, fun hown hstep => ?_, ?_⟩
  · have hw : b.w = _ := acquireOne_w_free hfree hroom
    have hlanes : b.w.lanes = atLane i (·.acquired p (groupPtr s.w i g 1) pkg) s.w.lanes := by rw [hw, setBits_lanes]; rfl
    have hsame := lane_same hi hls hlanes
    refine ⟨?_, lane_other hi hls hlanes, ?_⟩
    · exact answer_bits hi (by decide) hw rfl
    · rw [hsame]; exact ⟨rfl, rfl, rfl, rfl, rfl, rfl, rfl, rfl, rfl, rfl⟩
  · have hb : b = _ := acquireOne_held hheld
    refine ⟨?_, ?_, ?_⟩
    · exact answer_bits hi (by decide) (congrArg State.w hb) rfl
    · rw [hb]; exact setBits_lanes ..
    · rw [hb]
  · have hd : d = _ := commitOne_refused ((commitRefused_iff s i).2 href)
    have hlanes : d.w.lanes = atLane i Lane.lose s.w.lanes := by rw [hd, modLane_lanes, (commitSeen_spec s i).1]
    refine ⟨lane_other hi hls hlanes, ?_⟩
    rw [lane_same hi hls hlanes]; exact ⟨rfl, rfl, rfl, rfl⟩
  · have hlanes : d.w.lanes = _ := commitOne_taken (fun h => ((commitRefused_iff s i).1 h).elim (fun h => h hown) fun h => h hstep)
    have hsame := lane_same hi hls hlanes
    refine ⟨lane_other hi hls hlanes, ?_⟩
    rw [hsame]
    exact committed_spec cape l
  · obtain ⟨ck, hw⟩ := adoptOne_w pkg m g s i
    intro e
    have hlanes : e.w.lanes = atLane i (fun l => l.adopts ck p pkg v (capOrigin s (boxKey s p) v)) s.w.lanes := by
      show (adoptOne pkg m g s i).w.lanes = _
      rw [hw, setBits_lanes]; rfl
    have hsame := lane_same hi hls hlanes
    refine ⟨?_, lane_other hi hls hlanes, ?_⟩
    · exact answer_bits hi (by decide) hw rfl
    · rw [hsame]; exact ⟨rfl, rfl, rfl, rfl, rfl, rfl, (loaded_frame ..).2⟩

end Sys2Proof.Machine
end

section
/-! PROOFS. CAPB, CSTEP, CAPE, CAPADOPT and CAPQ on the wave (R38, R245 to R252): the checks of every lane, what the lanes' parts leave of the
wave, and the paths. -/

namespace Sys2Proof.Machine

/-! What the lanes' parts leave of the wave. -/

/-- `w'` is `w` but for its lanes, its masks and its stamps. -/
def Wave.LanesOnly (w w' : Wave) : Prop := w' = { w with lanes := w'.lanes, m := w'.m, al1 := w'.al1, acc := w'.acc }

theorem Wave.LanesOnly.refl (w : Wave) : w.LanesOnly w := rfl

theorem Wave.LanesOnly.trans {u v w : Wave} (h : u.LanesOnly v) (k : v.LanesOnly w) : u.LanesOnly w := by
  unfold Wave.LanesOnly at *; rw [k, h]

theorem Wave.LanesOnly.paths {w w' : Wave} (h : w.LanesOnly w') : w'.paths = w.paths := by rw [h]

theorem SideOnly.lanesOnly {s t : State} (h : SideOnly s t) : s.w.LanesOnly t.w := by rw [h.w]; exact .refl _

theorem acquire_lanesOnly (s : State) (sc : Scope) : s.w.LanesOnly (s.acquire sc).w := by
  have hl1 := (renewL1_side s s.coreId s.t.space).w
  have hcc := (renewCc_side s s.coreId s.t.space).w
  cases sc with
  | wave | team => exact .refl _
  | gang | const =>
    show s.w.LanesOnly { (renewL1 s s.coreId s.t.space).w with al1 := _ }
    rw [hl1]; rfl
  | _ =>
    show s.w.LanesOnly { (renewCc s s.coreId s.t.space).w with al1 := _, acc := _ }
    rw [hcc]; rfl

theorem ite_lanesOnly {c : Prop} [Decidable c] {w : Wave} {s t : State} (hs : w.LanesOnly s.w) (ht : w.LanesOnly t.w) :
    w.LanesOnly (if c then s else t).w := by
  split
  · exact hs
  · exact ht

theorem modLane_lanesOnly (s : State) (i : Nat) (f : Lane → Lane) : s.w.LanesOnly (s.modLane i f).w := rfl

theorem foldl_lanesOnly {β : Type} {f : State → β → State} (hf : ∀ (s : State) (b : β), s.w.LanesOnly (f s b).w) (l : List β) (s : State) :
    s.w.LanesOnly (l.foldl f s).w := by
  induction l generalizing s with
  | nil => exact .refl _
  | cons b l ih => exact (hf s b).trans (ih _)

theorem acquireOne_lanesOnly (pkg : Bool) (m g : Nat) (s : State) (i : Nat) : s.w.LanesOnly (acquireOne pkg m g s i).w := by
  by_cases h : lockState (homeWord s (groupPtr s.w i g 0) 0) = 0 ∧ tableUse s s.coreId < 64
  · rw [acquireOne_w_free h.1 h.2]
    exact Wave.LanesOnly.trans (v := s.w.onLanes _ _) rfl (by rw [setBits_frame]; rfl)
  · rw [acquireOne_held (by rw [not_and_or, Nat.not_lt] at h; exact h)]
    show s.w.LanesOnly (setBits ..)
    rw [setBits_frame]; rfl

theorem adoptOne_lanesOnly (pkg : Bool) (m g : Nat) (s : State) (i : Nat) : s.w.LanesOnly (adoptOne pkg m g s i).w := by
  obtain ⟨ck, h⟩ := adoptOne_w pkg m g s i
  rw [h]
  exact Wave.LanesOnly.trans (v := s.w.onLanes _ _) rfl (by rw [setBits_frame]; rfl)

theorem commitOne_lanesOnly (cape : Bool) (s : State) (i : Nat) : s.w.LanesOnly (commitOne cape s i).w := by
  have hflush := (flushLine_side s (s.w.lane i).capPtr).lanesOnly
  unfold commitOne
  extract_lets l p seen v id freed held kept timed moved counted sent let_go next
  have hseen : s.w.LanesOnly seen.w := hflush.trans (acquire_lanesOnly ..)
  have hfreed : seen.w.LanesOnly freed.w := (release_side ..).lanesOnly
  have htimed : freed.w.LanesOnly timed.w := ((performHeld_side freed l.held).trans ((dieWrite_side ..).trans (setHomeWord_side ..))).lanesOnly
  have hmoved : timed.w.LanesOnly moved.w := modLane_lanesOnly timed i _
  have hcounted : s.w.LanesOnly counted.w := ((hseen.trans hfreed).trans htimed).trans hmoved
  have hsent : counted.w.LanesOnly sent.w := ite_lanesOnly (by
    refine Wave.LanesOnly.trans ?_ (modLane_lanesOnly ..)
    rw [sendResult_w]; exact .refl _) (.refl _)
  have hgo : s.w.LanesOnly let_go.w := (hcounted.trans hsent).trans (setHomeWord_side ..).lanesOnly
  have hnext : s.w.LanesOnly next.w := hcounted.trans (setHomeWord_side ..).lanesOnly
  clear_value let_go next seen
  exact ite_lanesOnly (hseen.trans (modLane_lanesOnly ..))
    (ite_lanesOnly (ite_lanesOnly hgo (hgo.trans (modLane_lanesOnly ..))) (hnext.trans (setHomeWord_side ..).lanesOnly))

theorem sextantAdd_w (s : State) (die i j k n : Nat) : (sextantAdd s die i j k n).w = s.w := by
  unfold sextantAdd
  dsimp only
  split <;> rfl

theorem takeMessage_w (s : State) (p : W64) (b : Box) : (takeMessage s p b).1.w = s.w := by
  unfold takeMessage
  extract_lets d noted key old sent
  have hnoted : noted.w = s.w := (setHomeWord_side ..).w
  have hsent : sent.w = noted.w := rfl
  clear_value noted sent old
  cases old with
  | nil => exact hsent.trans hnoted
  | cons i tl =>
    dsimp only
    split
    · exact ((sextantAdd_w ..).trans hsent).trans hnoted
    · exact hsent.trans hnoted

theorem receiveOne_lanesOnly (s : State) (i : Nat) : s.w.LanesOnly (receiveOne s i).w := by
  have hflush := (flushLine_side s (s.w.lane i).mail).lanesOnly
  unfold receiveOne
  extract_lets l seen key
  split
  · exact hflush
  · next b _ =>
    split
    · exact hflush
    · extract_lets at_
      have hat : s.w.LanesOnly at_.w := hflush.trans (flushLine_side ..).lanesOnly
      split
      next t d heq =>
      have ht : t.w = at_.w := (congrArg (fun r => r.1.w) heq).symm.trans (takeMessage_w ..)
      have htake : s.w.LanesOnly t.w := by rw [ht]; exact hat
      exact (htake.trans (acquire_lanesOnly ..)).trans (modLane_lanesOnly ..)

theorem adoptNone_lanesOnly (m : Nat) (s : State) (ls : List Nat) : s.w.LanesOnly (adoptNone m s ls).w := by
  show s.w.LanesOnly (ls.foldl (fun w i => setBits w m 2 1 i) s.w)
  generalize s.w = w
  induction ls generalizing w with
  | nil => exact .refl _
  | cons i ls ih =>
    have hone : w.LanesOnly (setBits w m 2 1 i) := by rw [setBits_frame]; rfl
    exact hone.trans (ih _)

/-! The checks of every lane (R152, R248). -/

theorem pageState_side (s : State) (id : CoreId) (space va : Nat) : SideOnly s (pageState s id space va).1 := by
  unfold pageState
  dsimp only
  split
  · exact .refl s
  · split
    · exact setCore_side ..
    · exact .refl s

theorem checkPage_side (s : State) (id : CoreId) (space va : Nat) (write : Bool) : SideOnly s (checkPage s id space va write).1 := by
  have h := pageState_side s id space va
  unfold checkPage
  split
  · exact h.of_eq ‹_›
  · exact h.of_eq ‹_›
  · split
    · exact h.of_eq ‹_›
    · split <;> exact h.of_eq ‹_›

theorem checkGlobal_side (s : State) (id : CoreId) (space : Nat) (p : W64) (n : Nat) (q : Want) : SideOnly s (checkGlobal s id space p n q).1 := by
  have hd := descOf_side s id space (pObj p)
  unfold checkGlobal
  split
  · exact .refl s
  · split
    next u x heq =>
    have hu : SideOnly s u := hd.of_eq heq
    have hp := checkPage_side u id space (pAddr p) q.write
    split
    · exact hu
    · split
      · exact hu.trans (hp.of_eq ‹_›)
      · split
        · exact hu.trans (hp.of_eq ‹_›)
        · exact (hu.trans (hp.of_eq ‹_›)).trans (checkPage_side ..)

theorem globalAcc_spec (s : State) (lane : Nat) (p : W64) (n : Nat) (q : Want) (watch : Bool) :
    SideOnly s (globalAcc s lane p n q watch).1 ∧ (globalAcc s lane p n q watch).2.lane = lane := by
  have h := checkGlobal_side s s.coreId s.t.space p n q
  unfold globalAcc
  split
  exact ⟨h.of_eq ‹_›, rfl⟩

theorem limitsAcc_side (s : State) (p : W64) (n : Nat) (q : Want) : SideOnly s (limitsAcc s p n q).1 := by
  have h := descOf_side s s.coreId s.t.space (pObj p)
  unfold limitsAcc
  split
  exact h.of_eq ‹_›

theorem capAcc_spec (mail : Bool) (g : Nat) (s : State) (i : Nat) : SideOnly s (capAcc mail g s i).1 ∧ (capAcc mail g s i).2.lane = i := by
  obtain ⟨hrec, hlane⟩ := globalAcc_spec s i (groupPtr s.w i g 0) 64 (wantObject true) true
  unfold capAcc
  extract_lets rec_ box want shown
  split
  next u a heq =>
  have hu : SideOnly s u := hrec.of_eq heq
  have ha : a.lane = i := (congrArg (fun r => r.2.lane) heq).symm.trans hlane
  split
  · exact ⟨hu, ha⟩
  · have hbox := (globalAcc_spec u i box 64 want true).1
    split
    next v b heq' =>
    have hv : SideOnly s v := hu.trans (hbox.of_eq heq')
    split
    · exact ⟨hv, rfl⟩
    · have hf : SideOnly s (flushLine v box) := hv.trans (flushLine_side ..)
      dsimp only
      split
      · exact ⟨hf, rfl⟩
      · next x _ =>
        have hl := limitsAcc_side (flushLine v box) box (64 + 16 * x.cap) want
        refine ⟨hf.trans hl, ?_⟩
        dsimp only
        split
        · rfl
        · exact ha

theorem eachLane_spec {f : State → Nat → State × Acc} (hf : ∀ s i, SideOnly s (f s i).1 ∧ (f s i).2.lane = i) (ls : List Nat) (s : State) :
    SideOnly s (eachLane s ls f).1 ∧ (eachLane s ls f).2.map (·.lane) = ls := by
  induction ls generalizing s with
  | nil => exact ⟨.refl s, rfl⟩
  | cons i ls ih =>
    obtain ⟨h1, h2⟩ := hf s i
    obtain ⟨h3, h4⟩ := ih (f s i).1
    unfold eachLane
    exact ⟨h1.trans h3, by rw [List.map_cons]; exact List.cons_eq_cons.2 ⟨h2, h4⟩⟩

/-- Accesses that all pass, one for each lane of a set: no lane is stopped, and all of them perform. -/
theorem accMask_pass {xs : List Acc} {act : W32} (hgood : ∀ a ∈ xs, a.bad = none) (hl : xs.map (·.lane) = lanesOf act) :
    accMask xs (fun a => a.bad.isSome) = 0 ∧ accMask xs (fun a => a.bad.isNone) = act := by
  constructor
  · refine mask_ext fun i => ?_
    unfold accMask
    rw [maskOf_getLsbD]
    have hnone : xs.any (fun a => a.lane == i && a.bad.isSome) = false :=
      List.any_eq_false.2 fun a ha => by rw [hgood a ha]; simp
    rw [hnone, Bool.and_false]; simp
  · refine mask_ext fun i => ?_
    unfold accMask
    rw [maskOf_getLsbD]
    have hmem : i ∈ xs.map (·.lane) ↔ act.getLsbD i = true := by rw [hl]; exact mem_lanesOf ..
    rw [← hmem, List.mem_map]
    simp only [List.any_eq_true, Bool.and_eq_true, beq_iff_eq]
    refine ⟨fun ⟨_, a, ha, hai, _⟩ => ⟨a, ha, hai⟩, fun ⟨a, ha, hai⟩ => ⟨?_, a, ha, hai, by rw [hgood a ha]; rfl⟩⟩
    have := hmem.1 (List.mem_map.2 ⟨a, ha, hai⟩)
    exact decide_eq_true (List.mem_range.1 (List.mem_filter.1 ((mem_lanesOf ..).2 this)).1)

/-- The lines of the records, at their homes. -/
def recordsHome (xs : List Acc) (s : State) : State :=
  xs.foldl (fun k x => flushLine (waitMoving k k.t.space (pAddr x.addr) k.t.die) x.addr) s

theorem recordsHome_side (xs : List Acc) (s : State) : SideOnly s (recordsHome xs s) :=
  foldl_side (fun _ _ => (waitMoving_side ..).trans (flushLine_side ..)) xs s

theorem filter_pass {xs : List Acc} (hgood : ∀ a ∈ xs, a.bad = none) : xs.filter (·.bad.isNone) = xs :=
  List.filter_eq_self.2 fun a ha => by rw [hgood a ha]; rfl

theorem watchOnly_pass {xs : List Acc} (hgood : ∀ a ∈ xs, a.bad = none) : watchOnly xs = true :=
  List.all_eq_true.2 fun a ha => by rw [hgood a ha]; rfl

/-- Where every lane's checks pass, all lanes perform (R248, R250). -/
theorem capGuard_pass {s : State} {xs : List Acc} {act : W32} (hgood : ∀ a ∈ xs, a.bad = none) (hl : xs.map (·.lane) = lanesOf act)
    (perform : W32 → State → State) (adv : State → State) (enter : Option Body) :
    capGuard s xs perform adv enter = adv (perform act (recordsHome xs s)) := by
  obtain ⟨hbad, hok⟩ := accMask_pass hgood hl
  unfold capGuard
  rw [watchOnly_pass hgood, if_pos rfl, filter_pass hgood]
  unfold accessFinish
  dsimp only
  rw [hbad, hok, if_pos rfl]
  rfl

/-! Paths. -/

/-- A path-table entry beside an instruction, with the body that R246 counts; it is blocked no longer. -/
theorem advance_entries (s : State) (len : Nat) (lw fair : Bool) :
    List.Forall₂ (fun e e' : Entry => e'.st = e.st ∧ (e.st = .run → e'.pc = e.pc + BitVec.ofNat 64 len ∧
      (e'.body = e.body.map fun b => { b with count := b.count + 1 }) ∧ e'.blocked = none)) s.w.paths (s.advance len lw fair).w.paths := by
  unfold State.advance
  extract_lets w
  obtain ⟨-, hs⟩ := count_spec { s with w := { w with issued := w.issued + 1, cmpOk := false }, stalled := false } fair true
  obtain ⟨-, g, hg, hp⟩ := countOpp_spec { w with issued := w.issued + 1, cmpOk := false } fair true
  rw [hs]
  simp only [hg]
  show List.Forall₂ _ s.w.paths (w.paths.map g)
  refine List.forall₂_map_right_iff.2 (List.forall₂_map_right_iff.2 (List.forall₂_same.2 fun e _ => ?_))
  by_cases hr : e.st = .run
  · rw [if_pos hr]
    obtain ⟨m, n, h⟩ := hp { e with
      pc := e.pc + BitVec.ofNat 64 len
      clause := e.clause.map fun c => { c with count := c.count + 1, ext := none, lw := c.lw || lw }
      body := e.body.map fun b => { b with count := b.count + 1 }
      blocked := none, only := none }
    rw [h]
    exact ⟨rfl, fun _ => ⟨rfl, rfl, rfl⟩⟩
  · rw [if_neg hr]
    obtain ⟨m, n, h⟩ := hp e
    rw [h]
    exact ⟨rfl, fun h => absurd h hr⟩

theorem runIdx_of_paths {w w' : Wave} (h : w'.paths = w.paths) : w'.runIdx = w.runIdx := by unfold Wave.runIdx; rw [h]
theorem cur_of_paths {w w' : Wave} (h : w'.paths = w.paths) : w'.cur = w.cur := by unfold Wave.cur; rw [h]

/-- An instruction that has issued is blocked no longer (R183). -/
theorem advance_unblocked (s : State) (len : Nat) (lw fair : Bool) : (s.advance len lw fair).w.cur.blocked = none := by
  have hents := advance_entries s len lw fair
  cases hrun : s.w.runIdx with
  | none => rw [cur_of_no_run ((runIdx_congr hents fun _ _ h => h.1).trans hrun)]
  | some i => exact ((cur_of_forall₂ hents (fun _ _ h => h.1) ⟨rfl, fun h => nomatch h⟩).2 (runIdx_some hrun).2).2.2

/-- The running entry behind a non-repeatable instruction. -/
theorem advanceNR_cur {s : State} (hrun : s.w.runIdx.isSome = true) :
    s.advanceNR.w.runIdx.isSome = true ∧ s.advanceNR.w.cur.pc = s.w.cur.pc + 4 ∧ s.advanceNR.w.cur.mask = s.w.cur.mask ∧
    s.advanceNR.w.cur.body = s.w.cur.body.map fun b => { b with count := b.count + 1 } := by
  have hpast := (advanceNR_past s).1
  have hents := advance_entries (s.onCur fun e => { e with fresh := true }) 4 false true
  have hfresh : (s.onCur fun e => { e with fresh := true }).w.cur = { s.w.cur with fresh := true } :=
    cur_onCur (w := s.w) (fun e => { e with fresh := true }) (fun _ h => h) hrun
  have hidx : s.advanceNR.w.runIdx = s.w.runIdx := runIdx_congr hpast fun _ _ h => h.st_eq
  obtain ⟨i, hi⟩ := Option.isSome_iff_exists.1 hrun
  have hst : s.w.cur.st = .run := (runIdx_some hi).2
  have hcur := cur_of_forall₂ hents (fun _ _ h => h.1) ⟨rfl, fun h => nomatch h⟩
  have hmask := (cur_of_forall₂ hpast (fun _ _ h => h.st_eq) (entryPast_empty 4)).2.1
  obtain ⟨hpc, hbody, -⟩ := hcur.2 (by rw [hfresh]; exact hst)
  rw [hfresh] at hpc hbody
  exact ⟨by rw [hidx]; exact hrun, hpc, hmask, hbody⟩

/-- A change of the running entry that keeps what `Past` speaks of. -/
theorem Past.onCur {len : Nat} {s t : State} (h : Past len s t) {f : Entry → Entry}
    (hf : ∀ e, (f e).st = e.st ∧ (f e).mask = e.mask ∧ (f e).region = e.region ∧ (f e).wait = e.wait ∧ (f e).parks = e.parks ∧
      (f e).pc = e.pc ∧ (f e).clause = e.clause) : Past len s (t.onCur f) := by
  obtain ⟨hpaths, hdue, hrest⟩ := h
  refine ⟨List.forall₂_map_right_iff.2 (hpaths.imp fun e e' he => ?_), hdue, ?_⟩
  · by_cases hr : e'.st = .run
    · rw [if_pos hr]
      obtain ⟨h1, h2, h3, h4, h5, h6, h7⟩ := hf e'
      unfold EntryPast at he ⊢
      rw [h1, h2, h3, h4, h5, h6, h7]; exact he
    · rw [if_neg hr]; exact he
  · conv_lhs => rw [hrest]
    rfl

/-- The paths of a state whose running entry begins a new region. -/
def State.regionAt (s : State) (target : W64) : State :=
  { s with w := { s.w with paths := s.w.paths.map fun x => if x.st = .run then { x with region := target } else x } }

/-- The running entry goes on at a target that is its region entry. -/
theorem jumped_regionAt (s : State) (target : W64) {f : Entry → Entry}
    (hf : ∀ e, (f e).st = e.st ∧ (f e).mask = e.mask ∧ (f e).region = target ∧ (f e).wait = e.wait ∧ (f e).parks = e.parks ∧
      (f e).pc = target ∧ (f e).clause = none) : Jumped target (s.regionAt target) (s.advanceNR.onCur f) := by
  obtain ⟨hpaths, hdue, hrest⟩ := advanceNR_past s
  refine ⟨List.forall₂_map_right_iff.2 (List.forall₂_map_left_iff.2 (hpaths.imp fun e e' he => ?_)), hdue, ?_⟩
  · obtain ⟨h1, h2, h3, h4, h5, h6⟩ := he
    by_cases hr : e.st = .run
    · obtain ⟨k1, k2, k3, k4, k5, k6, k7⟩ := hf e'
      rw [if_pos hr, if_pos (h1.trans hr)]
      refine ⟨k1.trans h1, k2.trans h2, k3, k4.trans h4, k5.trans h5, ?_⟩
      rw [if_pos hr]; exact ⟨k6, k7⟩
    · rw [if_neg hr] at h6
      rw [if_neg hr, if_neg fun h => hr (h1.symm.trans h)]
      refine ⟨h1, h2, h3, h4, h5, ?_⟩
      rw [if_neg hr]; exact h6
  · obtain ⟨ps, due, h⟩ : ∃ ps due, s.advanceNR = { s with
        w := { s.w with paths := ps, issued := s.w.issued + 1, cmpOk := false }
        granted := false, stalled := false, due } := ⟨_, _, hrest⟩
    rw [h]; rfl

theorem onCur_onCur (s : State) (f g : Entry → Entry) (hf : ∀ e, (f e).st = e.st) : (s.onCur f).onCur g = s.onCur (g ∘ f) := by
  unfold State.onCur Wave.onCur
  simp only [List.map_map]
  refine congrArg (fun ps => { s with w := { s.w with paths := ps } }) (List.map_congr_left fun e _ => ?_)
  by_cases hr : e.st = .run
  · simp only [Function.comp, if_pos hr, hf]
  · simp only [Function.comp, if_neg hr]

end Sys2Proof.Machine
end

section
/-! PROOFS. O36: CAPB, CSTEP, CAPE, CAPADOPT and CAPQ on the wave (R38, R245 to R252). -/

namespace Sys2Proof.Machine

/-! CAPB (R248). -/

/-- What CAPB leaves before the entry goes on: every lane's record tried, and the acquire. -/
def tried (pkg : Bool) (m g : Nat) (lanes : List Nat) (s : State) : State :=
  let k := (lanes.foldl (acquireOne pkg m g) s).acquire (capScope pkg)
  if anyHolding k.w then k.escape else k

theorem tried_lanesOnly (pkg : Bool) (m g : Nat) (lanes : List Nat) (s : State) : s.w.LanesOnly (tried pkg m g lanes s).w := by
  have h : s.w.LanesOnly ((lanes.foldl (acquireOne pkg m g) s).acquire (capScope pkg)).w :=
    (foldl_lanesOnly (fun s i => acquireOne_lanesOnly pkg m g s i) lanes s).trans (acquire_lanesOnly ..)
  exact ite_lanesOnly (t := (lanes.foldl (acquireOne pkg m g) s).acquire (capScope pkg)) h h

/-- The running entry enters a body behind its instruction. -/
theorem entered_past {s : State} (hrun : s.w.runIdx.isSome = true) (b : Body) :
    Past 4 s (s.advanceNR.onCur fun e => { e with body := some b }) ∧
    (s.advanceNR.onCur fun e => { e with body := some b }).w.cur.body = some b := by
  refine ⟨(advanceNR_past s).onCur fun _ => ⟨rfl, rfl, rfl, rfl, rfl, rfl, rfl⟩, ?_⟩
  exact congrArg Entry.body (cur_onCur (w := s.advanceNR.w) (fun e => { e with body := some b }) (fun _ h => h) (advanceNR_cur hrun).1)

/-- The wave's paths, after the checks of every lane. -/
theorem allPass_spec {f : State → Nat → State × Acc} (hf : ∀ s i, SideOnly s (f s i).1 ∧ (f s i).2.lane = i) {ls : List Nat} {s u : State}
    {xs : List Acc} (h : AllPass f ls s u xs) : SideOnly s u ∧ xs.map (·.lane) = ls := by
  have hspec := eachLane_spec hf ls s
  rw [h.1] at hspec; exact hspec

theorem capb_passes {s v : State} {pkg : Bool} {m g : Fin 64} {xs : List Acc} (hrun : s.w.runIdx.isSome = true)
    (hheld : anyHolding s.w = false) (hpass : AllPass (capAcc true g.val) (lanesOf (settleAtoms s).w.acting) (settleAtoms s) v xs) :
    Runs (.capb pkg m g) s fun t => Past 4 (tried pkg m.val g.val (lanesOf (settleAtoms s).w.acting) (recordsHome xs v)) t ∧
      ∃ b, t.w.cur.body = some b ∧ b.pkg = pkg ∧ b.resume = s.w.cur.pc + 4 ∧ b.steps = 0 ∧ b.count = 0 := by
  obtain ⟨hside, hlanes⟩ := allPass_spec (capAcc_spec true g.val) hpass
  obtain ⟨heq, hgood⟩ := hpass
  have hpaths : v.w.paths = s.w.paths := by rw [hside.w, settleAtoms_paths]
  have hkpaths : (tried pkg m.val g.val (lanesOf (settleAtoms s).w.acting) (recordsHome xs v)).w.paths = s.w.paths := by
    rw [(tried_lanesOnly ..).paths, (recordsHome_side ..).w, hpaths]
  obtain ⟨hpast, hbody⟩ := entered_past (s := tried pkg m.val g.val (lanesOf (settleAtoms s).w.acting) (recordsHome xs v))
    (by rw [runIdx_of_paths hkpaths]; exact hrun) { pkg, resume := v.w.cur.pc + 4 }
  refine ⟨_, ?_, hpast, _, hbody, rfl, by rw [cur_of_paths hpaths], rfl, rfl⟩
  show execCapb pkg m g s = _
  unfold execCapb
  rw [if_neg (by rw [hheld]; exact Bool.false_ne_true)]
  dsimp only
  rw [heq, capGuard_pass hgood hlanes]
  rfl

/-! CSTEP (R249). -/

theorem commits_lanesOnly (cape : Bool) (ls : List Nat) (s : State) : s.w.LanesOnly (ls.foldl (commitOne cape) s).w :=
  foldl_lanesOnly (fun s i => commitOne_lanesOnly cape s i) ls s

theorem cstep_steps {s : State} (hrun : s.w.runIdx.isSome = true) :
    Runs .cstep s fun t => Past 4 ((committers (settleAtoms s).w).foldl (commitOne false) (settleAtoms s)) t ∧
      ∀ x, s.w.cur.body = some x → ∃ y, t.w.cur.body = some y ∧ y.steps = x.steps + 1 ∧ y.stgs = 0 ∧ y.resume = s.w.cur.pc + 4 ∧
        y.count = x.count + 1 ∧ y.base = y.count := by
  have hpaths := (commits_lanesOnly false (committers (settleAtoms s).w) (settleAtoms s)).paths.trans (settleAtoms_paths s)
  generalize hk : (committers (settleAtoms s).w).foldl (commitOne false) (settleAtoms s) = k at hpaths
  obtain ⟨hrun', hpc, -, hbody⟩ := advanceNR_cur (s := k) (by rw [runIdx_of_paths hpaths]; exact hrun)
  rw [cur_of_paths hpaths] at hpc hbody
  refine ⟨_, congrArg (fun k : State => Host.Outcome.next (k.advanceNR.onCur _)) hk, (advanceNR_past k).onCur fun _ => ⟨rfl, rfl, rfl, rfl, rfl, rfl, rfl⟩, ?_⟩
  intro x hx
  have hcur := congrArg Entry.body (cur_onCur (w := k.advanceNR.w) (fun e => { e with body := e.body.map fun b =>
    { b with steps := b.steps + 1, stgs := 0, resume := e.pc, base := b.count } }) (fun _ h => h) hrun')
  simp only [hbody, hx, hpc, Option.map_some] at hcur
  exact ⟨_, hcur, rfl, rfl, rfl, rfl, rfl⟩

/-! CAPE (R249). -/

theorem onLanes_none (s : State) (f : Lane → Lane) : { s with w := s.w.onLanes 0 f } = s := by
  have h : s.w.lanes.map (fun l => if (0 : W32).getLsbD l.id then f l else l) = s.w.lanes :=
    (List.map_congr_left fun l _ => by simp).trans (List.map_id _)
  unfold Wave.onLanes
  rw [h]

/-- A change of lanes that keeps what they hold keeps the holders. -/
theorem holders_onLanes (w : Wave) (act : W32) (f : Lane → Lane) (hf : ∀ l, (f l).holding = l.holding ∧ (f l).displaced = l.displaced) :
    (w.onLanes act f).holders = w.holders := by
  unfold Wave.holders
  refine congrArg maskOf (funext fun i => ?_)
  show (match (w.lanes.map fun l => if act.getLsbD l.id then f l else l)[i]? with | some l => l.holding && !l.displaced | none => false) = _
  rw [List.getElem?_map]
  cases w.lanes[i]? with
  | none => rfl
  | some l =>
    dsimp only [Option.map_some]
    split
    · rw [(hf l).1, (hf l).2]
    · rfl

/-- The mailbox of a lane's record. -/
def returnBox (s : State) (i : Nat) : W64 := BitVec.ofNat 64 (homeWord (flushLine s (s.w.lane i).capPtr) (s.w.lane i).capPtr 6)

set_option smartUnfolding false in
/-- A lane that has its slot already, or needs none. -/
theorem reserveAll_skip {s : State} {i : Nat} (ls : List Nat) (h : ¬ ((s.w.lane i).adopted ∧ (s.w.lane i).reserved.isNone)) :
    reserveAll s (i :: ls) = reserveAll s ls := if_neg h

set_option smartUnfolding false in
/-- A lane that reserves its slot. -/
theorem reserveAll_take {s k : State} {i : Nat} {ls : List Nat} (hc : (s.w.lane i).adopted ∧ (s.w.lane i).reserved.isNone)
    (h : reserveAll s (i :: ls) = .all k) : 
    reserveAll ((flushLine s (returnBox s i)).modLane i fun l =>
            { l with reserved := some (boxKey (flushLine s (returnBox s i)) (returnBox s i)) }) ls = .all k := by
  replace h := (if_pos hc).symm.trans h
  rw [← returnBox] at h
  generalize flushLine s (returnBox s i) = u at h ⊢
  cases hb : readBox u (returnBox s i) with
  | none => rw [hb] at h; cases h
  | some b =>
    rw [hb] at h
    dsimp only at h
    split at h
    · exact h
    · cases h

/-- Where no lane has adopted its record, no slot is to be reserved. -/
theorem reserveAll_none {s : State} {ls : List Nat} (h : ∀ i ∈ ls, (s.w.lane i).adopted = false) : reserveAll s ls = .all s := by
  induction ls with
  | nil => rfl
  | cons i ls ih =>
    have hi : ¬ ((s.w.lane i).adopted ∧ (s.w.lane i).reserved.isNone) := by
      rw [h i List.mem_cons_self]; exact fun h => Bool.false_ne_true h.1
    exact (reserveAll_skip ls hi).trans (ih fun j hj => h j (List.mem_cons_of_mem _ hj))

/-- Reserving slots leaves the paths and the holders. -/
theorem reserveAll_keeps {ls : List Nat} {s k : State} (h : reserveAll s ls = .all k) :
    k.w.paths = s.w.paths ∧ k.w.holders = s.w.holders := by
  induction ls generalizing s with
  | nil => cases h; exact ⟨rfl, rfl⟩
  | cons i ls ih =>
    by_cases hc : (s.w.lane i).adopted ∧ (s.w.lane i).reserved.isNone
    · obtain ⟨hpaths, hholders⟩ := ih (reserveAll_take hc h)
      have hw : (flushLine s (returnBox s i)).w = s.w := (flushLine_side ..).w
      generalize boxKey _ _ = key at hpaths hholders
      generalize flushLine s (returnBox s i) = u at hw hpaths hholders
      rw [← hw]
      exact ⟨hpaths, hholders.trans (holders_onLanes u.w _ _ fun _ => ⟨rfl, rfl⟩)⟩
    · exact ih ((reserveAll_skip ls hc).symm.trans h)

theorem committers_congr {w w' : Wave} (hp : w'.paths = w.paths) (hh : w'.holders = w.holders) : committers w' = committers w := by
  unfold committers; rw [cur_of_paths hp, hh]

/-- Displaced lanes take their messages; the entry passes CAPE when none is owed (R249). -/
def awaitMail (s : State) : State :=
  if (owed ((owed s.w).foldl receiveOne s).w).isEmpty then passCape ((owed s.w).foldl receiveOne s)
  else capWaits ((owed s.w).foldl receiveOne s)

/-- With no lane that leaves, CAPE is the wait for messages. -/
theorem finishCape_stays {s : State} (h : leavers s.w = 0) : finishCape s = awaitMail s := by
  have hs : { s with w := s.w.onLanes (leavers s.w) Lane.release } = s := by rw [h]; exact onLanes_none ..
  refine (if_neg (not_not.2 h)).trans ?_
  show awaitMail { s with w := s.w.onLanes (leavers s.w) Lane.release } = awaitMail s
  rw [hs]

/-- The state whose leaving lanes have let their capsules go. -/
def State.letGo (s : State) : State := { s with w := s.w.onLanes (leavers s.w) Lane.release }

/-- An entry that leaves its body for `p` (R249). -/
def Entry.leaves (p : W64) (x : Entry) : Entry :=
  { x with pc := p, region := p, fresh := false, clause := none, body := none, blocked := none }

/-- All lanes of the entry leave for XCAPRET (R249). -/
theorem finishCape_leaves {s : State} (hout : leavers s.w ≠ 0) (hrest : s.w.cur.mask &&& ~~~leavers s.w = 0) (h0 : s.w.xcapret.getLsbD 0 = false)
    (hlacks : s.t.lacks s.w.xcapret = false) (hh : s.t.isHeader s.w.xcapret = true) :
    finishCape s = (passCape s.letGo).onCur (Entry.leaves s.w.xcapret) := by
  have hslot := slotOf_isSome_of_isHeader hh
  refine (if_pos hout).trans <| (if_neg ?_).trans <| (if_neg ?_).trans <| (if_neg ?_).trans <| (if_neg ?_).trans <| (if_neg ?_).trans <| if_pos hrest
  · exact Bool.eq_false_iff.1 h0
  · intro h
    have hnone : (s.t.slotOf s.w.xcapret).isNone = true := h.1
    rw [Option.isNone_iff_eq_none.1 hnone] at hslot
    cases hslot
  · exact Bool.eq_false_iff.1 hlacks
  · intro h
    have hno : (!s.t.isHeader s.w.xcapret) = true := h
    rw [hh] at hno
    cases hno
  · exact fun h => h.1 hrest

theorem receives_lanesOnly (ls : List Nat) (s : State) : s.w.LanesOnly (ls.foldl receiveOne s).w :=
  foldl_lanesOnly receiveOne_lanesOnly ls s

/-- What CAPE does once the slots are reserved, or are not. -/
def Reserved.goOn (r : Reserved) : Out :=
  match r with
  | .bad s p => .next (boundTrap s 8 p)
  | .full s => .next (s.block { pc := s.w.cur.pc })
  | .all s => .next (finishCape ((committers s.w).foldl (commitOne true) s))

/-- CAPE that has not made its commits reserves the slots first. -/
theorem execCape_reserves {s : State} (hnew : ∀ b, s.w.cur.blocked = some b → b.done = false) :
    execCape s = (reserveAll (settleAtoms s) (committers (settleAtoms s).w)).goOn := by
  refine (if_neg fun h => ?_).trans (by unfold Reserved.goOn; rfl)
  rw [cur_of_paths (settleAtoms_paths s)] at h
  cases hb : s.w.cur.blocked with
  | none => rw [hb] at h; cases h
  | some b =>
    rw [hb] at h
    exact Bool.false_ne_true ((hnew b hb).symm.trans h)

/-- A lane of the committers is a lane of the entry. -/
theorem mem_committers {w : Wave} {i : Nat} (h : i ∈ committers w) : i < 32 ∧ w.cur.mask.getLsbD i = true := by
  have hbit := (mem_lanesOf ..).1 h
  rw [BitVec.getLsbD_and, Bool.and_eq_true] at hbit
  exact ⟨List.mem_range.1 (List.mem_filter.1 h).1, hbit.1⟩

theorem passCape_past {s : State} (hrun : s.w.runIdx.isSome = true) : Past 4 s (passCape s) ∧ (passCape s).w.cur.body = none :=
  ⟨(advanceNR_past s).onCur fun _ => ⟨rfl, rfl, rfl, rfl, rfl, rfl, rfl⟩,
    congrArg Entry.body (cur_onCur (w := s.advanceNR.w) (fun e => { e with body := none }) (fun _ h => h) (advanceNR_cur hrun).1)⟩

theorem capWaits_waits {s : State} (hrun : s.w.runIdx.isSome = true) : Waits { s with order := s.order + 1 } (capWaits s) ∧
    (capWaits s).w.cur.blocked.map (·.mails) = some ((owed s.w).map fun i => boxKey s (s.w.lane i).mail) ∧
    (capWaits s).w.cur.blocked.map (·.done) = some true := by
  unfold capWaits
  extract_lets mails order
  obtain ⟨hents, hdue, hrest⟩ := block_waits s { pc := s.w.cur.pc, done := true, order, mails }
  have hcur := block_cur s { pc := s.w.cur.pc, done := true, order, mails } true hrun
  refine ⟨⟨hents, hdue, congrArg (fun k : State => { k with order := s.order + 1 }) hrest⟩, ?_, ?_⟩
  · exact congrArg (Option.map (·.mails)) hcur
  · exact congrArg (Option.map (·.done)) hcur

/-- CAPE where no lane of the entry has adopted its record and none is to leave: the commits, then the messages (R249). -/
theorem cape_stays {s : State} (hrun : s.w.runIdx.isSome = true) (hnew : ∀ b, s.w.cur.blocked = some b → b.done = false)
    (hown : ∀ i, i < 32 → s.w.cur.mask.getLsbD i = true → ((settleAtoms s).w.lane i).adopted = false)
    (hstay : leavers ((committers (settleAtoms s).w).foldl (commitOne true) (settleAtoms s)).w = 0) :
    let k := (committers (settleAtoms s).w).foldl (commitOne true) (settleAtoms s)
    let r := (owed k.w).foldl receiveOne k
    (owed r.w = [] → Runs .cape s fun t => Past 4 r t ∧ t.w.cur.body = none) ∧
    (owed r.w ≠ [] → Runs .cape s fun t => Waits { r with order := r.order + 1 } t ∧
      t.w.cur.blocked.map (·.mails) = some ((owed r.w).map fun i => boxKey r (r.w.lane i).mail) ∧
      t.w.cur.blocked.map (·.done) = some true) := by
  intro k r
  have hall : reserveAll (settleAtoms s) (committers (settleAtoms s).w) = .all (settleAtoms s) := reserveAll_none fun i hi => by
    obtain ⟨hlt, hbit⟩ := mem_committers hi
    rw [cur_of_paths (settleAtoms_paths s)] at hbit
    exact hown i hlt hbit
  have hexec : execCape s = .next (awaitMail k) := (execCape_reserves hnew).trans <| (congrArg Reserved.goOn hall).trans (congrArg Host.Outcome.next (finishCape_stays hstay))
  have hpaths : r.w.paths = s.w.paths :=
    ((receives_lanesOnly (owed k.w) k).paths.trans (commits_lanesOnly true _ _).paths).trans (settleAtoms_paths s)
  have hr : r.w.runIdx.isSome = true := by rw [runIdx_of_paths hpaths]; exact hrun
  exact ⟨fun h => ⟨passCape r, hexec.trans (congrArg Host.Outcome.next (if_pos (List.isEmpty_iff.2 h))), passCape_past hr⟩,
    fun h => ⟨capWaits r, hexec.trans (congrArg Host.Outcome.next (if_neg fun he => h (List.isEmpty_iff.1 he))), capWaits_waits hr⟩⟩

/-- CAPE whose commits let all lanes of the entry leave for XCAPRET (R249). -/
theorem cape_leaves {s k : State} (hrun : s.w.runIdx.isSome = true) (hnew : ∀ b, s.w.cur.blocked = some b → b.done = false)
    (hk : reserveAll (settleAtoms s) (committers (settleAtoms s).w) = .all k) :
    let e := (committers (settleAtoms s).w).foldl (commitOne true) k
    leavers e.w ≠ 0 → e.w.cur.mask &&& ~~~leavers e.w = 0 → e.w.xcapret.getLsbD 0 = false → e.t.lacks e.w.xcapret = false →
    e.t.isHeader e.w.xcapret = true →
    Runs .cape s fun t => Jumped e.w.xcapret (e.letGo.regionAt e.w.xcapret) t ∧ t.w.cur.body = none := by
  intro e hout hrest h0 hlacks hh
  obtain ⟨hpaths, hholders⟩ := reserveAll_keeps hk
  have he : (committers k.w).foldl (commitOne true) k = e := by rw [committers_congr hpaths hholders]
  have hexec : execCape s = .next (finishCape ((committers k.w).foldl (commitOne true) k)) :=
    (execCape_reserves hnew).trans (congrArg Reserved.goOn hk)
  rw [he, finishCape_leaves hout hrest h0 hlacks hh] at hexec
  have hepaths : e.letGo.w.paths = s.w.paths :=
    ((commits_lanesOnly true _ _).paths.trans hpaths).trans (settleAtoms_paths s)
  have hrun' : e.letGo.advanceNR.w.runIdx.isSome = true := (advanceNR_cur (by rw [runIdx_of_paths hepaths]; exact hrun)).1
  have hone : (passCape e.letGo).onCur (Entry.leaves e.w.xcapret) = e.letGo.advanceNR.onCur (Entry.leaves e.w.xcapret) :=
    onCur_onCur e.letGo.advanceNR _ _ fun _ => rfl
  rw [hone] at hexec
  exact ⟨_, hexec, jumped_regionAt e.letGo e.w.xcapret fun _ => ⟨rfl, rfl, rfl, rfl, rfl, rfl, rfl⟩,
    congrArg Entry.body (cur_onCur (w := e.letGo.advanceNR.w) (Entry.leaves e.w.xcapret) (fun _ h => h) hrun')⟩

/-! CAPADOPT (R250). -/

/-- The records' lines, written back. -/
def recordsFlushed (xs : List Acc) (s : State) : State := xs.foldl (fun k x => flushLine k x.addr) s

theorem recordsFlushed_side (xs : List Acc) (s : State) : SideOnly s (recordsFlushed xs s) :=
  foldl_side (fun _ _ => flushLine_side ..) xs s

/-- What CAPADOPT leaves before the entry goes on: the lanes of `got` adopted, the others none. -/
def adopted (pkg : Bool) (m g : Nat) (lanes got : List Nat) (s : State) : State :=
  let k := (got.foldl (adoptOne pkg m g) s).acquire (capScope pkg)
  adoptNone m (if got = [] then k else k.escape) (lanes.filter fun i => !got.contains i)

theorem adopted_lanesOnly (pkg : Bool) (m g : Nat) (lanes got : List Nat) (s : State) : s.w.LanesOnly (adopted pkg m g lanes got s).w := by
  have hk : s.w.LanesOnly ((got.foldl (adoptOne pkg m g) s).acquire (capScope pkg)).w :=
    (foldl_lanesOnly (fun s i => adoptOne_lanesOnly pkg m g s i) got s).trans (acquire_lanesOnly ..)
  have hesc : s.w.LanesOnly (if got = [] then (got.foldl (adoptOne pkg m g) s).acquire (capScope pkg)
      else ((got.foldl (adoptOne pkg m g) s).acquire (capScope pkg)).escape).w := ite_lanesOnly hk hk
  exact hesc.trans (adoptNone_lanesOnly ..)

/-- The lanes that adopt nothing are those outside the mask of the adopters. -/
theorem adopted_eq (pkg : Bool) (m g : Nat) (act : W32) (got : List Nat) (s : State) : adopted pkg m g (lanesOf act) got s =
    adoptNone m (if got.isEmpty then (got.foldl (adoptOne pkg m g) s).acquire (capScope pkg)
      else ((got.foldl (adoptOne pkg m g) s).acquire (capScope pkg)).escape)
      ((lanesOf act).filter fun i => !(maskOf got.contains).getLsbD i) := by
  have hfilter : ((lanesOf act).filter fun i => !(maskOf got.contains).getLsbD i) = (lanesOf act).filter fun i => !got.contains i := by
    refine List.filter_congr fun i hi => ?_
    rw [maskOf_getLsbD, decide_eq_true (List.mem_range.1 (List.mem_filter.1 hi).1), Bool.true_and]
  rw [hfilter]
  cases got <;> rfl

/-- An entry of adopters, in body state at the resume address (R250). -/
def Entry.adopts (r : W64) (step : Nat) (pkg : Bool) (x : Entry) : Entry :=
  { x with pc := r, region := r, fresh := false, clause := none, body := some { steps := step, pkg, resume := r } }

theorem adoptSplit_none (r : W64) (step : Nat) (pkg : Bool) (s : State) : adoptSplit r step pkg (maskOf [].contains) s = s := by
  unfold adoptSplit
  exact if_pos (by decide)

/-- All lanes of the entry adopt: the entry itself goes to the resume address. -/
theorem adoptSplit_all {r : W64} {step : Nat} {pkg : Bool} {out : W32} {s : State} (hout : out ≠ 0) (hall : s.w.cur.mask &&& ~~~out = 0) :
    adoptSplit r step pkg out s = s.onCur (Entry.adopts r step pkg) := (if_neg hout).trans (if_pos hall)

/-- The entry of adopters goes to the resume address, which is its region entry, in body state. -/
theorem adopts_jumped {s : State} (hrun : s.advanceNR.w.runIdx.isSome = true) (r : W64) (step : Nat) (pkg : Bool) :
    Jumped r (s.regionAt r) (s.advanceNR.onCur (Entry.adopts r step pkg)) ∧
    (s.advanceNR.onCur (Entry.adopts r step pkg)).w.cur.body = some { steps := step, pkg, resume := r } :=
  ⟨jumped_regionAt s r fun _ => ⟨rfl, rfl, rfl, rfl, rfl, rfl, rfl⟩,
    congrArg Entry.body (cur_onCur (w := s.advanceNR.w) (Entry.adopts r step pkg) (fun _ h => h) hrun)⟩

/-- Adopters are lanes of the list. -/
theorem mem_adopters {s : State} {g r room i : Nat} {ls seen : List Nat} (h : i ∈ adopters s g r room ls seen) : i ∈ ls := by
  induction ls generalizing room seen with
  | nil => cases h
  | cons j ls ih =>
    unfold adopters at h
    dsimp only at h
    split at h
    · rcases List.mem_cons.1 h with rfl | h
      · exact List.mem_cons_self
      · exact List.mem_cons_of_mem _ (ih h)
    · exact List.mem_cons_of_mem _ (ih h)

/-- A mask of some lanes below 32 is not empty. -/
theorem maskOf_contains_ne_zero {ls : List Nat} {i : Nat} (hi : i ∈ ls) (hlt : i < 32) : maskOf ls.contains ≠ 0 := by
  intro h
  have hbit := maskOf_getLsbD ls.contains i
  rw [h, decide_eq_true hlt, List.contains_iff_mem.2 hi] at hbit
  simp at hbit

section
variable {s v : State} {pkg : Bool} {m g : Fin 64} {xs : List Acc} (hheld : anyHolding s.w = false)
  (hpass : AllPass (capAcc false g.val) (lanesOf (settleAtoms s).w.acting) (settleAtoms s) v xs)
include hheld hpass

/-- CAPADOPT in lanes none of which finds a record to adopt (R250). -/
theorem capadopt_none (hno : ∀ i ∈ lanesOf (settleAtoms s).w.acting,
      adoptable (recordsFlushed xs v) (groupPtr (recordsFlushed xs v).w i g.val 0) = false) :
    Runs (.capadopt pkg m g) s (Past 4 ((adoptNone m.val (recordsHome xs (recordsFlushed xs v))
      (lanesOf (settleAtoms s).w.acting)).acquire (capScope pkg))) := by
  obtain ⟨-, hlanes⟩ := allPass_spec (capAcc_spec false g.val) hpass
  obtain ⟨heq, hgood⟩ := hpass
  refine ⟨_, (if_neg (by rw [hheld]; exact Bool.false_ne_true)).trans ?_, advanceNR_past _⟩
  dsimp only
  rw [heq]
  dsimp only
  rw [filter_pass hgood, hlanes, watchOnly_pass hgood, if_pos rfl]
  have hfind : (lanesOf (settleAtoms s).w.acting).find? (fun i => adoptable (recordsFlushed xs v) (groupPtr (recordsFlushed xs v).w i g.val 0)) = none :=
    List.find?_eq_none.2 fun i hi => by rw [hno i hi]; exact Bool.false_ne_true
  unfold recordsFlushed at hfind
  rw [hfind]
  dsimp only
  rw [capGuard_pass hgood hlanes]
  rfl

/-- CAPADOPT whose lowest lane with a record to adopt is `low`: the adopters of that record's resume address adopt (R250). -/
theorem execCapadopt_some {low : Nat} (hlow : (lanesOf (settleAtoms s).w.acting).find?
      (fun i => adoptable (recordsFlushed xs v) (groupPtr (recordsFlushed xs v).w i g.val 0)) = some low) :
    let r := recordsFlushed xs v
    let at_ : W64 := BitVec.ofNat 64 (homeWord r (groupPtr r.w low g.val 0) 1)
    let got := adopters r g.val at_.toNat (64 - tableUse r r.coreId) (lanesOf (settleAtoms s).w.acting) []
    at_.getLsbD 0 = false → r.t.lacks at_ = false → r.t.isHeader at_ = true → (got ≠ [] → r.w.cur.mask &&& ~~~maskOf got.contains = 0) →
    execCapadopt pkg m g s = .next (adoptSplit at_ (lockStep (homeWord r (groupPtr r.w low g.val 0) 0)) pkg (maskOf got.contains)
      (adopted pkg m.val g.val (lanesOf (settleAtoms s).w.acting) got (recordsHome xs r)).advanceNR) := by
  intro r at_ got h0 hlacks hh hfit
  obtain ⟨-, hlanes⟩ := allPass_spec (capAcc_spec false g.val) hpass
  obtain ⟨heq, hgood⟩ := hpass
  have hslot := slotOf_isSome_of_isHeader hh
  refine (if_neg (by rw [hheld]; exact Bool.false_ne_true)).trans ?_
  dsimp only
  rw [heq]
  dsimp only
  rw [filter_pass hgood, hlanes, watchOnly_pass hgood, if_pos rfl]
  unfold recordsFlushed at hlow
  rw [hlow]
  dsimp only
  refine (if_neg (Bool.eq_false_iff.1 hlacks)).trans <| (if_neg ?_).trans <| (if_neg ?_).trans <| (if_neg ?_).trans ?_
  · intro h
    have hnone : (r.t.slotOf at_).isNone = true := h
    rw [Option.isNone_iff_eq_none.1 hnone] at hslot
    cases hslot
  · intro h
    have hno : (at_.getLsbD 0 || !r.t.isHeader at_) = true := h
    rw [h0, hh] at hno
    cases hno
  · exact fun h => h.2.1 (hfit h.1)
  · refine congrArg Host.Outcome.next ((capGuard_pass hgood hlanes _ _ _).trans ?_)
    have hwhole : (xs.all fun a => a.bad.isNone) = true := List.all_eq_true.2 fun a ha => by rw [hgood a ha]; rfl
    rw [adopted_eq, if_pos hwhole]
    rfl

/-- CAPADOPT where a lane finds a record (R250): the entry passes when none adopts, and goes to the resume address when all of its lanes do. -/
theorem capadopt_some {low : Nat} (hrun : s.w.runIdx.isSome = true) (hlow : (lanesOf (settleAtoms s).w.acting).find?
      (fun i => adoptable (recordsFlushed xs v) (groupPtr (recordsFlushed xs v).w i g.val 0)) = some low) :
    let r := recordsFlushed xs v
    let at_ : W64 := BitVec.ofNat 64 (homeWord r (groupPtr r.w low g.val 0) 1)
    let got := adopters r g.val at_.toNat (64 - tableUse r r.coreId) (lanesOf (settleAtoms s).w.acting) []
    let e := adopted pkg m.val g.val (lanesOf (settleAtoms s).w.acting) got (recordsHome xs r)
    at_.getLsbD 0 = false → r.t.lacks at_ = false → r.t.isHeader at_ = true →
    (got = [] → Runs (.capadopt pkg m g) s (Past 4 e)) ∧
    (got ≠ [] → r.w.cur.mask &&& ~~~maskOf got.contains = 0 → Runs (.capadopt pkg m g) s fun t => Jumped at_ (e.regionAt at_) t ∧
      ∃ b, t.w.cur.body = some b ∧ b.pkg = pkg ∧ b.resume = at_ ∧ b.steps = lockStep (homeWord r (groupPtr r.w low g.val 0) 0) ∧
        b.count = 0) := by
  intro r at_ got e h0 hlacks hh
  have hexec := execCapadopt_some (pkg := pkg) (m := m) hheld hpass hlow h0 hlacks hh
  have hvpaths : v.w.paths = s.w.paths := by rw [(allPass_spec (capAcc_spec false g.val) hpass).1.w, settleAtoms_paths]
  have hepaths : e.w.paths = r.w.paths := (adopted_lanesOnly ..).paths.trans (congrArg Wave.paths (recordsHome_side ..).w)
  have hrpaths : r.w.paths = s.w.paths := (congrArg Wave.paths (recordsFlushed_side ..).w).trans hvpaths
  obtain ⟨hrun', -, hmask, -⟩ := advanceNR_cur (s := e) (by rw [runIdx_of_paths (hepaths.trans hrpaths)]; exact hrun)
  constructor
  · intro hgot
    refine ⟨_, hexec fun h => absurd hgot h, ?_⟩
    have hnone := adoptSplit_none at_ (lockStep (homeWord r (groupPtr r.w low g.val 0) 0)) pkg e.advanceNR
    rw [← hgot] at hnone
    exact Eq.symm hnone ▸ advanceNR_past e
  · intro hgot hall
    obtain ⟨i, hi⟩ := List.exists_mem_of_ne_nil got hgot
    have hlt : i < 32 := List.mem_range.1 (List.mem_filter.1 (mem_adopters hi)).1
    have hsplit := adoptSplit_all (r := at_) (step := lockStep (homeWord r (groupPtr r.w low g.val 0) 0)) (pkg := pkg) (s := e.advanceNR)
      (maskOf_contains_ne_zero hi hlt) (by rw [hmask, cur_of_paths hepaths]; exact hall)
    obtain ⟨hjump, hbody⟩ := adopts_jumped hrun' at_ (lockStep (homeWord r (groupPtr r.w low g.val 0) 0)) pkg
    exact ⟨_, (hexec fun _ => hall).trans (congrArg Host.Outcome.next hsplit), hjump, _, hbody, rfl, rfl, rfl, rfl⟩

end

/-! The obligation. -/

/-- Settles O36: each instruction's lanes leave the path table, and its own change of the running entry stands beside an ordinary step. -/
theorem capsuleInstructions : Obligations.CapsuleInstructions := by
  unfold Obligations.CapsuleInstructions
  intro s v pkg m g c a xs u lanes home pc bodyIs hrun
  refine ⟨?_, ?_, ?_, ?_, ?_, ?_⟩
  · intro hheld hcan
    exact ⟨⟨_, if_pos hheld, illop_taken hcan 7 0 4⟩, ⟨_, if_pos hheld, illop_taken hcan 7 0 4⟩⟩
  · exact fun hheld hpass => capb_passes hrun hheld hpass
  · exact cstep_steps hrun
  · intro k hnew
    refine ⟨fun hown hstay => cape_stays hrun hnew hown hstay, fun k hk => ?_, fun k hk => cape_leaves hrun hnew hk⟩
    exact ⟨_, (execCape_reserves hnew).trans (congrArg Reserved.goOn hk), block_waits k _⟩
  · exact fun hheld hpass => ⟨fun hno => capadopt_none hheld hpass hno, fun low hlow => capadopt_some hheld hpass hrun hlow⟩
  · intro hopen k
    exact ⟨_, congrArg Host.Outcome.next (hopen _), advance_past ..⟩

end Sys2Proof.Machine
end

section
/-! PROOFS. Events of the wave in hand: its team, the wave itself, and what an event changes of it; starvation and deadlock reports
(R28 to R30). -/

namespace Sys2Proof.Machine

/-! The wave in hand. -/

section
variable {s : State} {w : WaveId} (hh : s.hand = some w) (hw : s.waveId = w)
include hh hw

theorem inHand_team : (s.hand.isSome && s.t.id == w.team) = true := by
  rw [hh, ← hw]
  exact beq_self_eq_true _

theorem modWave_inHand (f : Wave → Wave) : s.modWave w f = { s with w := f s.w } :=
  (if_pos (inHand_team hh hw)).trans (if_pos (hw ▸ rfl))

/-- Another wave of the team in hand. -/
theorem modWave_other {n : Nat} (hn : s.w.num ≠ n) (f : Wave → Wave) :
    s.modWave ⟨w.team, n⟩ f = { s with t := { s.t with waves := s.t.waves.map fun v => if v.num = n then f v else v } } :=
  (if_pos (inHand_team hh hw)).trans (if_neg hn)

theorem modTeam_inHand (f : Team → Team) : s.modTeam w.team f = { s with t := f s.t } := if_pos (inHand_team hh hw)

theorem team_inHand : s.team w.team = some { s.t with waves := s.w :: s.t.waves } := if_pos (inHand_team hh hw)

theorem wave_inHand : s.wave w = some s.w := by
  unfold State.wave
  rw [team_inHand hh hw]
  exact List.find?_cons_of_pos (p := fun v : Wave => v.num == w.wave) (by rw [← hw]; exact beq_self_eq_true _)

omit hw in
theorem withWave_inHand (f : State → State) : s.withWave w f = f s := if_pos hh

end

/-! Fairness (R28). -/

theorem noteFrom_unpaired {w v : Wave} (h : v.umbra = none) : (w.noteFrom v).umbra = none := by
  cases hu : (w.noteFrom v).umbra with
  | none => rfl
  | some y =>
    obtain ⟨x, hx, -⟩ := (noteFrom_fields w v).2.2 y hu
    rw [h] at hx; cases hx

theorem rotate_frame (w : Wave) (stamp : Nat) : w.rotate stamp = { w with paths := (w.rotate stamp).paths } := by
  unfold Wave.rotate
  cases w.runIdx <;> cases w.oldestReady <;> rfl

theorem pathsUmbra_frame {w v x : Wave} {ps : List Entry} {u : Option Umbra} (hv : v = { w with paths := ps }) (hx : x = { v with umbra := u }) :
    x = { w with paths := x.paths, umbra := x.umbra } := by subst hv hx; rfl

theorem fairness_rotates {s : State} {w : WaveId} (hh : s.hand = some w) (hw : s.waveId = w) (hdue : s.w.fairDue = true)
    (hrep : s.w.reports = []) (hext : s.w.ext = none) : Runs (.fairnessIntervalExpiry w) s fun t =>
      t = { s with w := { s.w with paths := t.w.paths, umbra := t.w.umbra }, order := s.order + 1 } ∧
      (s.w.umbra = none → t.w.umbra = none) ∧
      ∀ i a k b, s.w.runIdx = some i → s.w.paths[i]? = some a → s.w.oldestReady = some k → s.w.paths[k]? = some b →
        (∃ q, t.w.paths[i]? = some q ∧ q.st = .ready ∧ q.pc = a.pc ∧ q.mask = a.mask ∧ q.clause = a.clause) ∧
        (∃ q, t.w.paths[k]? = some q ∧ q.st = .run ∧ q.pc = b.pc ∧ q.mask = b.mask ∧ q.clause = b.clause) ∧
        ∀ n, n ≠ i → n ≠ k → t.w.paths[n]? = s.w.paths[n]? := by
  have hexec : execFairnessIntervalExpiry w s = .next { s with w := s.w.noteFrom (s.w.rotate s.order), order := s.order + 1 } := by
    unfold execFairnessIntervalExpiry
    rw [modWave_inHand hh hw, if_pos (by rw [hdue, hrep, hext]; rfl)]
  have hnote := noteFrom_eq s.w (s.w.rotate s.order)
  have hpaths : (s.w.noteFrom (s.w.rotate s.order)).paths = (s.w.rotate s.order).paths := by rw [hnote]
  refine ⟨_, hexec, ?_, fun h => noteFrom_unpaired (by rw [rotate_frame]; exact h), fun i a k b hi ha hk hb => ?_⟩
  · exact congrArg (fun v : Wave => { s with w := v, order := s.order + 1 }) (pathsUmbra_frame (rotate_frame ..) hnote)
  · obtain ⟨-, -, h1, h2, h3⟩ := rotate_spec s.order hi ha hk hb
    rw [hpaths]
    exact ⟨⟨_, h1, rfl, rfl, rfl, rfl⟩, ⟨_, h2, rfl, rfl, rfl, rfl⟩, h3⟩

/-! Starvation (R29). -/

/-- A report of an entry's starvation. -/
def starvedReport (w : Wave) (e : Entry) : Wave := w.report { cause := 48, detail := 0, pc := w.issuePc, lanes := e.mask }

theorem report_frame (w : Wave) (r : Report) : w.report r = { w with reports := (w.report r).reports } := rfl

theorem starvedReports_frame (es : List Entry) (w : Wave) :
    es.foldl starvedReport w = { w with reports := (es.foldl starvedReport w).reports } := by
  induction es generalizing w with
  | nil => rfl
  | cons e es ih => exact (ih (starvedReport w e)).trans rfl

/-- The last of the reports stands: those before it merge into it. -/
theorem starvedReports_mem {es : List Entry} {e : Entry} (h : es.getLast? = some e) (w : Wave) :
    { cause := 48, detail := 0, pc := w.issuePc, lanes := e.mask : Report } ∈ (es.foldl starvedReport w).reports := by
  obtain ⟨es', rfl⟩ := List.getLast?_eq_some_iff.1 h
  rw [List.foldl_append]
  have hpc : (es'.foldl starvedReport w).issuePc = w.issuePc := by rw [starvedReports_frame]; rfl
  rw [← hpc]
  exact report_mem ..

/-- A starvation count that has reached the limit becomes 0. -/
def Entry.unstarved (limit : Nat) (e : Entry) : Entry := if e.starved limit then { e with starve := 0 } else e

theorem onCounted_frameless {w : Wave} (h : w.frame = none) (g : Entry → Entry) : w.onCounted g = { w with paths := w.paths.map g } := by
  unfold Wave.onCounted; rw [h]

theorem onCounted_framed {w : Wave} {f : Frame} (h : w.frame = some f) (g : Entry → Entry) :
    w.onCounted g = { w with frame := some { f with paths := f.paths.map g } } := by
  unfold Wave.onCounted; rw [h]

theorem counted_frameless {w : Wave} (h : w.frame = none) : w.counted = w.paths := by unfold Wave.counted; rw [h]
theorem counted_framed {w : Wave} {f : Frame} (h : w.frame = some f) : w.counted = f.paths := by unfold Wave.counted; rw [h]

theorem onCounted_spec (w : Wave) (g : Entry → Entry) : w.onCounted g = { w with paths := (w.onCounted g).paths, frame := (w.onCounted g).frame } ∧
    (w.onCounted g).counted = w.counted.map g ∧ (w.frame.isSome = true → (w.onCounted g).paths = w.paths) := by
  cases h : w.frame with
  | none =>
    rw [onCounted_frameless h]
    exact ⟨rfl, (counted_frameless (w := { w with paths := w.paths.map g }) h).trans (congrArg (List.map g) (counted_frameless h).symm), fun h' => nomatch h'⟩
  | some f =>
    rw [onCounted_framed h]
    exact ⟨rfl, (counted_framed (w := { w with frame := some { f with paths := f.paths.map g } }) rfl).trans (congrArg (List.map g) (counted_framed h).symm), fun _ => rfl⟩

theorem onCounted_self {w : Wave} {g : Entry → Entry} (h : ∀ e ∈ w.counted, g e = e) : w.onCounted g = w := by
  have hmap : w.counted.map g = w.counted := (List.map_congr_left h).trans (List.map_id _)
  cases hf : w.frame with
  | none =>
    rw [counted_frameless hf] at hmap
    rw [onCounted_frameless hf, hmap]
  | some f =>
    rw [counted_framed hf] at hmap
    rw [onCounted_framed hf, hmap, ← hf]

theorem reportsPathsFrame_frame {w v x : Wave} {rs : List Report} {ps : List Entry} {f : Option Frame} (hv : v = { w with reports := rs })
    (hx : x = { v with paths := ps, frame := f }) : x = { w with reports := x.reports, paths := x.paths, frame := x.frame } := by
  subst hv hx; rfl

theorem execHangSib_eq {s : State} {w : WaveId} (hh : s.hand = some w) (hw : s.waveId = w) :
    execHangSib w s = .next { s with w := (s.w.starved.foldl starvedReport s.w).onCounted (Entry.unstarved (hangLimit s.w)) } :=
  congrArg Host.Outcome.next (modWave_inHand hh hw _)

theorem hangSib_reports {s : State} {w : WaveId} (hh : s.hand = some w) (hw : s.waveId = w) {e : Entry} (he : s.w.starved.getLast? = some e) :
    Runs (.hangSib w) s fun t => t = { s with w := { s.w with reports := t.w.reports, paths := t.w.paths, frame := t.w.frame } } ∧
      t.w.counted = s.w.counted.map (fun x => if x.starved (hangLimit s.w) then { x with starve := 0 } else x) ∧
      (s.w.frame.isSome = true → t.w.paths = s.w.paths) ∧
      ∃ r ∈ t.w.reports, r.cause = 48 ∧ r.detail = 0 ∧ r.lanes = e.mask ∧ r.pc = s.w.issuePc := by
  have hrep := starvedReports_frame s.w.starved s.w
  have hmem := starvedReports_mem he s.w
  generalize hv : s.w.starved.foldl starvedReport s.w = v at hrep hmem
  obtain ⟨hframe, hcounted, hkeep⟩ := onCounted_spec v (Entry.unstarved (hangLimit s.w))
  have hexec := execHangSib_eq hh hw
  rw [hv] at hexec
  refine ⟨_, hexec, ?_, ?_, ?_, { cause := 48, detail := 0, pc := s.w.issuePc, lanes := e.mask }, ?_, rfl, rfl, rfl, rfl⟩
  · exact congrArg (fun v : Wave => { s with w := v }) (reportsPathsFrame_frame hrep hframe)
  · refine hcounted.trans ?_
    rw [hrep]; rfl
  · intro hf
    rw [hkeep (by rw [hrep]; exact hf), hrep]
  · rw [hframe]; exact hmem

theorem hangSib_none {s : State} {w : WaveId} (hh : s.hand = some w) (hw : s.waveId = w) (hno : s.w.starved = []) :
    RunsTo (.hangSib w) s s := by
  refine (execHangSib_eq hh hw).trans ?_
  rw [hno]
  have hself : s.w.onCounted (Entry.unstarved (hangLimit s.w)) = s.w := onCounted_self fun e he => if_neg (List.filter_eq_nil_iff.1 hno e he)
  exact congrArg (fun v : Wave => Host.Outcome.next { s with w := v }) hself

/-! Deadlocks (R30). -/

/-- Changes of other waves of the team in hand leave all but these waves. -/
theorem foldl_modWave_others {β : Type} (id : β → WaveId) (f : β → Wave → Wave) (xs : List β) (s : State) (hh : s.hand.isSome = true)
    (hxs : ∀ x ∈ xs, (id x).team = s.t.id ∧ s.w.num ≠ (id x).wave) :
    ∃ ws, xs.foldl (fun s x => s.modWave (id x) (f x)) s = { s with t := { s.t with waves := ws } } := by
  induction xs generalizing s with
  | nil => exact ⟨s.t.waves, rfl⟩
  | cons x xs ih =>
    obtain ⟨hteam, hnum⟩ := hxs x List.mem_cons_self
    have hone : s.modWave (id x) (f x) =
        { s with t := { s.t with waves := s.t.waves.map fun v => if v.num = (id x).wave then f x v else v } } :=
      (if_pos (by rw [hh, hteam]; exact beq_self_eq_true _)).trans (if_neg hnum)
    rw [List.foldl_cons, hone]
    obtain ⟨ws, hws⟩ := ih { s with t := { s.t with waves := s.t.waves.map fun v => if v.num = (id x).wave then f x v else v } } hh
      fun y hy => hxs y (List.mem_cons_of_mem _ hy)
    exact ⟨ws, hws⟩

/-- One change of the wave in hand, then changes of others of its team. -/
theorem foldl_modWave_first {β : Type} {s : State} {w : WaveId} (hh : s.hand = some w) (hw : s.waveId = w) (id : β → WaveId) (f : β → Wave → Wave)
    (hnum : ∀ b v, (f b v).num = v.num) {x : β} {xs : List β} (hx : id x = w) (hxs : ∀ y ∈ xs, (id y).team = s.t.id ∧ s.w.num ≠ (id y).wave) :
    ∃ ws, (x :: xs).foldl (fun s x => s.modWave (id x) (f x)) s = { s with w := f x s.w, t := { s.t with waves := ws } } := by
  rw [List.foldl_cons, hx, modWave_inHand hh hw]
  obtain ⟨ws, hws⟩ := foldl_modWave_others id f xs { s with w := f x s.w } (by rw [hh]; rfl) fun y hy => by rw [hnum]; exact hxs y hy
  exact ⟨ws, hws⟩

theorem spoolReport_frame (role n : Nat) (w : Wave) :
    spoolReport role n w = { w with paths := (spoolReport role n w).paths, reports := (spoolReport role n w).reports } := by
  unfold spoolReport
  dsimp only
  split <;> rfl

/-- What the report of a spool's deadlock tells its wave; a push on the spool is given up. -/
theorem spoolReport_spec (role n : Nat) (w : Wave) : ∃ r ∈ (spoolReport role n w).reports, r.cause = 49 ∧
    (role = 1 → r.detail = n ∧ (spoolReport role n w).cur.blocked = none) ∧ (role ≠ 1 → r.detail = n + 16) := by
  unfold spoolReport
  extract_lets pc lanes w'
  refine ⟨_, report_mem w' _, rfl, fun h => ⟨?_, ?_⟩, fun h => ?_⟩
  · dsimp only; rw [if_pos h]; rfl
  · show w'.cur.blocked = none
    have hw' : w' = w.onCur fun e => { e with blocked := none } := if_pos h
    rw [hw']
    cases hrun : w.runIdx with
    | none =>
      have hidx : (w.onCur fun e => { e with blocked := none }).runIdx = none := by
        rw [← hrun]
        exact runIdx_congr (w := w) (List.forall₂_map_right_iff.2 (List.forall₂_same.2 fun e _ => rfl))
          fun e e' h => by rw [← h]; split <;> rfl
      rw [cur_of_no_run hidx]
    | some i => exact congrArg Entry.blocked (cur_onCur (fun e => { e with blocked := none }) (fun _ h => h) (by rw [hrun]; rfl))
  · dsimp only; rw [if_neg h]

section
variable {s : State} {w : WaveId} (hh : s.hand = some w) (hw : s.waveId = w) (hothers : ∀ v ∈ s.t.waves, v.num ≠ w.wave)
  (hlive : s.w.ended = false)
include hh hw hothers hlive

theorem spoolDl_reports {n : Nat} (hdead : spoolDeadlock s { s.t with waves := s.w :: s.t.waves } n = true)
    (hnew : s.t.reported.contains (false, n) = false) (hteam : (s.t.spools.getD n {}).gang = false) :
    let t : Team := { s.t with waves := s.w :: s.t.waves }
    Runs (.spoolDl w.team n) s fun v => v.t.reported = (false, n) :: s.t.reported ∧ v.mem = s.mem ∧
      v.w.lanes = s.w.lanes ∧ ∃ r ∈ v.w.reports, r.cause = 49 ∧
        (spoolRole s t n [t.id] t s.w = 1 → r.detail = n ∧ v.w.cur.blocked = none) ∧ (spoolRole s t n [t.id] t s.w ≠ 1 → r.detail = n + 16) := by
  intro t
  have hts : spoolTeams s t n = [t] := if_neg (by show ¬ (s.t.spools.getD n {}).gang = true; rw [hteam]; exact Bool.false_ne_true)
  let rest : List (WaveId × Nat) := (s.t.waves.filter fun v => !v.ended).map fun v => (⟨t.id, v.num⟩, spoolRole s t n [t.id] t v)
  have hwaves : spoolWaves s t n = (⟨t.id, s.w.num⟩, spoolRole s t n [t.id] t s.w) :: rest := by
    unfold spoolWaves
    rw [hts]
    show List.map _ ((s.w :: s.t.waves).filter fun v => !v.ended) ++ [] = _
    rw [List.filter_cons_of_pos (by rw [hlive]; rfl), List.append_nil]
    rfl
  have hrest : ∀ y ∈ rest, y.1.team = s.t.id ∧ s.w.num ≠ y.1.wave := fun y hy => by
    obtain ⟨v, hv, rfl⟩ := List.mem_map.1 hy
    exact ⟨rfl, fun h => hothers v (List.mem_filter.1 hv).1 (h.symm.trans (congrArg WaveId.wave hw))⟩
  obtain ⟨ws, hfold⟩ := foldl_modWave_first hh hw (fun x : WaveId × Nat => x.1) (fun x => spoolReport x.2 n)
    (fun b v => by rw [spoolReport_frame]) (x := (⟨t.id, s.w.num⟩, spoolRole s t n [t.id] t s.w)) hw hrest
  obtain ⟨r, hr, hspec⟩ := spoolReport_spec (spoolRole s t n [t.id] t s.w) n s.w
  let v : State := { s with w := spoolReport (spoolRole s t n [t.id] t s.w) n s.w, t := { s.t with waves := ws } }
  have hexec : execSpoolDl w.team n s = .next (v.modTeam w.team fun t => { t with reported := (false, n) :: t.reported }) := by
    unfold execSpoolDl
    rw [team_inHand hh hw]
    dsimp only
    rw [hdead, if_neg (by decide), hnew, if_neg Bool.false_ne_true, hwaves, hfold]
  have hvid : v.waveId = w := by rw [← hw]; exact congrArg (WaveId.mk s.t.id) (by show (spoolReport ..).num = _; rw [spoolReport_frame])
  rw [modTeam_inHand (s := v) hh hvid] at hexec
  exact ⟨_, hexec, rfl, rfl, by show (spoolReport ..).lanes = _; rw [spoolReport_frame], r, hr, hspec⟩

theorem barrierDeadlock_reports {n : Nat} (hdead : barDeadlock { s.t with waves := s.w :: s.t.waves } n = true)
    (hnew : s.t.reported.contains (true, n) = false) (hstuck : barStuck n s.w = true) :
    Runs (.barrierDeadlock w.team n) s fun v => v.t.reported = (true, n) :: s.t.reported ∧ v.mem = s.mem ∧
      v.w.paths = s.w.paths ∧ ∃ r ∈ v.w.reports, r.cause = 48 ∧ r.detail = 2 ∧ r.lanes = missingLanes n s.w := by
  let told (v : Wave) : Wave := v.report { cause := 48, detail := 2, pc := barPc v, lanes := missingLanes n v }
  let rest : List Nat := (s.t.waves.filter fun v => !v.ended && barStuck n v).map (·.num)
  have hids : ((s.w :: s.t.waves).filter fun v => !v.ended && barStuck n v).map (·.num) = s.w.num :: rest := by
    rw [List.filter_cons_of_pos (by rw [hlive, hstuck]; rfl)]; rfl
  have hrest : ∀ y ∈ rest, w.team = s.t.id ∧ s.w.num ≠ y := fun y hy => by
    obtain ⟨v, hv, rfl⟩ := List.mem_map.1 hy
    exact ⟨(congrArg WaveId.team hw).symm, fun h => hothers v (List.mem_filter.1 hv).1 (h.symm.trans (congrArg WaveId.wave hw))⟩
  obtain ⟨ws, hfold⟩ := foldl_modWave_first hh hw (fun m : Nat => ⟨w.team, m⟩) (fun _ => told) (fun _ _ => rfl) (x := s.w.num)
    (by rw [← hw]; rfl) hrest
  let v : State := { s with w := told s.w, t := { s.t with waves := ws } }
  have hexec : execBarrierDeadlock w.team n s = .next (v.modTeam w.team fun t => { t with reported := (true, n) :: t.reported }) := by
    unfold execBarrierDeadlock
    rw [team_inHand hh hw]
    dsimp only
    rw [hdead, if_neg (by decide), hnew, if_neg Bool.false_ne_true, hids, hfold]
  rw [modTeam_inHand (s := v) hh hw] at hexec
  exact ⟨_, hexec, rfl, rfl, rfl, _, report_mem .., rfl, rfl, rfl⟩

end

end Sys2Proof.Machine
end

section
/-! PROOFS. O39: fairness, starvation and deadlock reports, and blocked instructions that go on or time out (R28 to R30, R183). -/

namespace Sys2Proof.Machine

/-! Reports taken as traps (R347). -/

theorem takeReport_inHandler {s : State} (h : s.w.inHandler = true) : takeReport s = s := by
  unfold takeReport; rw [if_pos h]

theorem trapEntry_alone {s : State} {w : WaveId} (hh : s.hand = some w) (hu : s.w.umbra = none) :
    execTrapEntry w s = .next (if s.w.midway then s else takeReport s) := by
  have hlag : s.w.lagging = false := by unfold Wave.lagging; rw [hu]
  unfold execTrapEntry
  rw [withWave_inHand hh, hlag, Bool.false_or]
  unfold leadReport
  rw [hu]; rfl

/-- A report that does not name the next instruction is taken in the running entry (R347). -/
theorem takeReport_taken {s : State} {r : Report} {rest : List Report} (hr : s.w.reports = r :: rest) (ha : r.async = false) (hcan : CanTrap s)
    (hrun : s.w.runIdx.isSome = true) :
    TrapTaken r.cause r.detail r.lanes 0 r.pc { s with w := { s.w with reports := rest } } (takeReport s) := by
  have htake : s.w.takeable = some r := by
    unfold Wave.takeable
    rw [hr]
    exact List.find?_cons_of_pos (by rw [ha]; rfl)
  have hpick : s.w.pick = s.w := if_pos hrun
  have herase : s.w.reports.erase r = rest := by rw [hr, List.erase_cons_head]
  obtain ⟨i, hi⟩ := Option.isSome_iff_exists.1 hrun
  have hcur : s.w.paths.getD i {} = s.w.cur := by rw [List.getD_eq_getElem?_getD, (runIdx_some hi).1]; rfl
  unfold takeReport
  rw [if_neg (by rw [hcan.1]; exact Bool.false_ne_true), htake]
  dsimp only
  rw [hpick, herase]
  have hrep : Wave.reporter { s.w with reports := rest } r = i := by
    show (s.w.runIdx.or _).getD 0 = i
    rw [hi]; rfl
  rw [hrep, hcur, ha, Bool.false_and, if_neg (by rw [Bool.false_and]; exact Bool.false_ne_true), if_neg Bool.false_ne_true]
  obtain ⟨f, hpaths, hlatches, htrapped, he⟩ := takeTrapOf_eq { s with w := { s.w with reports := rest } }
    { cause := r.cause, detail := r.detail, lanes := r.lanes, pc := r.pc, next := r.pc + BitVec.ofNat 64 (s.t.instrLen r.pc),
      nr := r.cause == 49 && (s.w.cur.blocked.map (·.done)).getD false } i s.w.cur.clause s.w.cur.body hcan
  refine ⟨f, hpaths, hlatches, htrapped.trans ?_, he.trans ?_⟩
  · show i = s.w.runIdx.getD 0
    rw [hi]; rfl
  · rw [htrapped]; rfl

/-! Blocked instructions (R183). -/

/-- What the evaluation of a blocked instruction leaves: nothing, where it stays blocked. -/
def reissued (s : State) (o : Out) : State :=
  match o with
  | .next u => if u.stalled && u.w.cur.blocked.isSome then s else { u with granted := s.granted }
  | _ => s

theorem leadOut_alone {s : State} (hu : s.w.umbra = none) (i : Instr) (o : Out) : leadOut i s o = o := by
  unfold leadOut
  rw [hu]
  cases o <;> rfl

section
variable {s : State} {b : Blocked} (hb : s.w.cur.blocked = some b) (hu : s.w.umbra = none)
include hb hu

omit hb in
/-- An instruction without an umbra is evaluated as it is. -/
theorem reblock_alone (o : Out) : (match (match blockedIn s.t s.w with | some i => leadOut i s o | none => o) with
    | .next u => if u.stalled && u.w.cur.blocked.isSome then s else { u with granted := s.granted }
    | _ => s) = reissued s o := by
  have hlead : (match blockedIn s.t s.w with | some i => leadOut i s o | none => o) = o := by
    cases blockedIn s.t s.w with
    | none => rfl
    | some i => exact leadOut_alone hu i o
  rw [hlead]
  unfold reissued
  rfl

/-- The wait in which a wave is blocked is evaluated as the instruction that it is (R183). -/
theorem reblock_eq : (∀ hi lo, s.t.fetch b.pc = some (.ok (.waitf hi lo)) → reblock s = reissued s (execWaitf hi lo s)) ∧
    (∀ abs a, s.t.fetch b.pc = some (.ok (.sleept abs a)) → reblock s = reissued s (execSleept abs a s)) ∧
    (∀ c a n, s.t.fetch b.pc = some (.ok (.spop c a n)) → reblock s = reissued s (execSpop c a n s)) ∧
    (∀ c a p, s.t.fetch b.pc = some (.ok (.mrecv c a p)) → reblock s = reissued s (execMrecv c a p s)) ∧
    (∀ tmo c a p, s.t.fetch b.pc = some (.ok (.fswait tmo c a p)) → reblock s = reissued s (execFswait tmo c a p s)) := by
  unfold reblock
  rw [hb]
  dsimp only
  refine ⟨fun _ _ hf => ?_, fun _ _ hf => ?_, fun _ _ _ hf => ?_, fun _ _ _ hf => ?_, fun _ _ _ _ hf => ?_⟩ <;>
    (rw [hf]; exact reblock_alone hu _)

end

/-- A blocked instruction that issues goes on; the grant is that of the wave before. -/
theorem reissued_issues {s u : State} (h : u.stalled = false) : reissued s (.next u) = { u with granted := s.granted } := by
  refine if_neg ?_
  rw [h, Bool.false_and]
  exact Bool.false_ne_true

theorem reissued_waits {s u : State} (h : u.stalled = true) (hb : u.w.cur.blocked.isSome = true) : reissued s (.next u) = s := by
  refine if_pos ?_
  rw [h, hb]; rfl

theorem advance_issues (s : State) (len : Nat) (lw fair : Bool) : (s.advance len lw fair).stalled = false ∧ (s.advance len lw fair).granted = false ∧
    (s.advance len lw fair).waits = s.waits := by
  obtain ⟨-, -, h⟩ := advance_past s len lw fair
  rw [h]; exact ⟨rfl, rfl, rfl⟩

theorem regrant {u : State} {g : Bool} (h : u.granted = false) : ({ { u with granted := g } with granted := false } : State) = u := by
  cases u
  cases h
  rfl

/-- A blocked instruction that issues as an ordinary step. -/
theorem reissued_past {s k : State} (len : Nat) : (reissued s (.next (k.advance len))).granted = s.granted ∧
    Past len k { reissued s (.next (k.advance len)) with granted := false } ∧ (reissued s (.next (k.advance len))).waits = k.waits := by
  obtain ⟨hst, hgr, hw⟩ := advance_issues k len false true
  rw [reissued_issues hst]
  refine ⟨rfl, ?_, hw⟩
  rw [regrant hgr]
  exact advance_past k len false true

/-! Deadlines (R183, R189, R193, R197, R257). -/

/-- The state once Meridian time has reached a deadline (R420). -/
def State.late (s : State) (d : Nat) : State := { s with clock := max s.clock (3 * d) }

theorem late_now (s : State) (d : Nat) : d ≤ (s.late d).now := by
  have h : 3 * d ≤ max s.clock (3 * d) := Nat.le_max_right ..
  exact (Nat.le_div_iff_mul_le (by decide)).2 (by rw [Nat.mul_comm]; exact h)

section
variable {s : State} {w : WaveId} {b : Blocked} {i : Instr} (hh : s.hand = some w) (hw : s.waveId = w) (hb : s.w.cur.blocked = some b)
  (hf : s.t.fetch b.pc = some (.ok i)) (hres : s.t.resident = true)
include hh hw

include hres in
theorem evalBlocked_inHand : evalBlocked s w = reblock s := by
  unfold evalBlocked
  rw [team_inHand hh hw]
  dsimp only
  rw [if_pos hres]
  exact withWave_inHand hh reblock

include hb hf hres in
theorem timeout_inHand {kind : Instr → Bool} (hk : kind i = true) {d : Nat} (hd : b.deadline = some d) :
    timeout s w kind = reblock (s.late d) := by
  have hin : blockedIn { s.t with waves := s.w :: s.t.waves } s.w = some i := by
    unfold blockedIn
    rw [hb]
    show (match s.t.fetch b.pc with | some (.ok i) => some i | _ => none) = some i
    rw [hf]
  have hof : timeoutOf s w kind = some d := by
    unfold timeoutOf
    rw [team_inHand hh hw, wave_inHand hh hw]
    dsimp only
    rw [hin]
    dsimp only
    rw [if_pos hk, hb]
    exact hd
  unfold timeout
  rw [hof]
  exact evalBlocked_inHand (s := s.late d) hh hw hres

end

theorem takeBack_kept {s t : State} (h : t.waits = s.waits) : takeBack s (.next t) = .next t := by
  refine if_neg ?_
  rw [h]
  cases s.waits <;> decide

theorem deadlineOf_blocked {s : State} {b : Blocked} {d : Nat} (hb : s.w.cur.blocked = some b) (hd : b.deadline = some d) (new : Nat) :
    deadlineOf s new = d := by
  unfold deadlineOf
  rw [hb]
  show (b.deadline).getD new = d
  rw [hd]; rfl

theorem ctlStatus_timedOut (v : W64) : (ctlStatus v 3).extractLsb' 56 8 = 3 := by
  refine BitVec.eq_of_toNat_eq ?_
  rw [BitVec.extractLsb'_toNat, Nat.shiftRight_eq_div_pow]
  unfold ctlStatus
  rw [BitVec.toNat_ofNat]
  have hlt : v.toNat % 2 ^ 56 < 2 ^ 56 := Nat.mod_lt _ (by decide)
  generalize v.toNat % 2 ^ 56 = x at hlt
  show (x + 3 * 2 ^ 56) % 2 ^ 64 / 2 ^ 56 % 2 ^ 8 = 3
  omega

/-- What an instruction that answers a status alone leaves (R191): the answer in flight on its flag. -/
theorem statusOnly_spec (s : State) (b : SReg) (st : Nat) :
    (statusOnly s b st).clock = s.clock ∧ (statusOnly s b st).mem = s.mem ∧ (statusOnly s b st).t = s.t ∧ (statusOnly s b st).waits = s.waits ∧
    (statusOnly s b st).stalled = false ∧ (statusOnly s b st).w.cur.blocked = none ∧
    ∃ q, lastPend (statusOnly s b st) = some q ∧ q.flag = s.w.mark false ∧
      ∃ x ∈ q.writes, x.scalar = true ∧ x.reg = b.val ∧ x.val = ctlStatus (s.w.sreg b) st := by
  unfold statusOnly
  obtain ⟨-, -, h⟩ := advanceNR_past (s.launchPend
    { flag := s.w.mark false, load := true, writes := [{ scalar := true, reg := b.val, val := ctlStatus (s.w.sreg b) st }] })
  refine ⟨?_, ?_, ?_, ?_, ?_, advance_unblocked .., ?_⟩
  · rw [h]; rfl
  · rw [h]; rfl
  · rw [h]; rfl
  · rw [h]; rfl
  · rw [h]
  · unfold lastPend
    rw [h]
    exact ⟨_, List.getLast?_concat, rfl, _, List.mem_singleton_self _, rfl, rfl, rfl⟩

/-! WAITF (R188). -/

theorem waitf_named (hi lo : BitVec 6) (n : Nat) : (if n < 6 then lo.getLsbD n else hi.getLsbD (n - 6)) = (hi ++ lo).getLsbD n :=
  BitVec.getLsbD_append.symm

theorem waitf_any (hi lo : BitVec 6) (f : List Nat) :
    ((List.range 12).any fun n => (if n < 6 then lo.getLsbD n else hi.getLsbD (n - 6)) && f.getD n 0 != 0) = true ↔
      ∃ n, n < 12 ∧ (hi ++ lo).getLsbD n = true ∧ f.getD n 0 ≠ 0 := by
  simp only [List.any_eq_true, List.mem_range, waitf_named, Bool.and_eq_true, bne_iff_ne]

theorem waitf_passes {hi lo : BitVec 6} {s : State} (h : ∀ n, n < 12 → (hi ++ lo).getLsbD n = true → s.w.f.getD n 0 = 0) :
    execWaitf hi lo s = .next (s.advance 4) :=
  if_neg fun hany => by
    obtain ⟨n, hn, hbit, hf⟩ := (waitf_any ..).1 hany
    exact hf (h n hn hbit)

theorem waitf_blocks {hi lo : BitVec 6} {s : State} (h : ∃ n, n < 12 ∧ (hi ++ lo).getLsbD n = true ∧ s.w.f.getD n 0 ≠ 0) :
    execWaitf hi lo s = .next (s.block { pc := s.w.cur.pc }) := if_pos ((waitf_any ..).2 h)

/-! Waits that end at their deadlines. -/

theorem settleAtoms_idle {s : State} (h : s.w.pend = []) : settleAtoms s = s := by
  unfold settleAtoms
  rw [h]
  show { s with w := { s.w with pend := [] } } = s
  rw [← h]

theorem runs_of_blocked {w : Wave} {b : Blocked} (h : w.cur.blocked = some b) : w.runIdx.isSome = true := by
  cases hrun : w.runIdx with
  | none => rw [cur_of_no_run hrun] at h; cases h
  | some i => rfl

section
variable {s : State} {b : Blocked} {d : Nat} (hb : s.w.cur.blocked = some b) (hd : b.deadline = some d)
include hb hd

theorem sleept_wakes (abs : Bool) (a : SReg) : execSleept abs a (s.late d) = .next ((s.late d).advance 4) := by
  refine if_pos ?_
  rw [deadlineOf_blocked (s := s.late d) hb hd]
  exact late_now s d

omit hb in
theorem deadlinePast_late {c : Nat} (hc : c ≠ 0) (new : Nat) {u : State} (hu : u.w.cur.blocked = some b) (hnow : u.now = (s.late d).now) :
    deadlinePast u (if c = 0 then none else some (deadlineOf u new)) = true := by
  rw [if_neg hc, deadlineOf_blocked hu hd]
  exact decide_eq_true (by rw [hnow]; exact late_now s d)

theorem spop_timesOut {c a : SReg} {n : Fin 64} {p : Spool} (hpend : s.w.pend = []) (htmo : ctlTmo (s.w.sreg a) ≠ 0)
    (hp : s.t.spools[n.val]? = some p) (hempty : p.tail ≤ p.head) (hok : popBad s (s.w.sreg a) n.val = false) :
    execSpop c a n (s.late d) = .next (statusOnly (s.late d) a 3) := by
  have hget : s.t.spools.getD n.val {} = p := by rw [List.getD_eq_getElem?_getD, hp]; rfl
  unfold execSpop
  rw [settleAtoms_idle (s := s.late d) hpend]
  refine (if_neg ?_).trans <| (if_neg ?_).trans <| if_pos ?_
  · exact Bool.eq_false_iff.1 hok
  · intro h
    have hlt : (s.t.spools.getD n.val {}).head < (s.t.spools.getD n.val {}).tail := h.1
    rw [hget] at hlt
    exact absurd hempty (Nat.not_le.2 hlt)
  · exact deadlinePast_late hd htmo _ hb rfl

theorem mrecv_timesOut {c a p : SReg} {u : State} {x : Box} (htmo : ctlTmo (s.w.sreg a) ≠ 0)
    (hopen : BoxOpen false (s.w.sreg p) (settleAtoms (s.late d)) u x) (huw : u.w = s.w) (hclock : u.clock = (s.late d).clock)
    (hempty : x.held = 0) : execMrecv c a p (s.late d) = .next (statusOnly u a 3) := by
  refine congrArg Host.Outcome.next ((hopen _).trans ((if_neg ?_).trans (if_pos ?_)))
  · rw [hempty]; exact fun h => absurd h.1 (Nat.lt_irrefl 0)
  · rw [huw]
    exact deadlinePast_late hd htmo _ (by rw [huw]; exact hb) (congrArg (· / 3) hclock)

theorem fswait_timesOut {tmo : Bool} {c a p : SReg} {n : Nat} (hn : namedScope s (s.w.sreg p) = some n) (hkey : b.key = some (scopeKey s.t.part n))
    (hdone : b.done = false) (hopen : (s.scope s.t.part n).done = false) : execFswait tmo c a p (s.late d) =
      .next ({ s.late d with w := s.w.setS c (s.scope s.t.part n).word }.advance 4) := by
  have hn' : namedScope (s.late d) ((s.late d).w.sreg p) = some n := hn
  have hb' : (s.late d).w.cur.blocked = some b := hb
  unfold execFswait
  dsimp only
  rw [hn']
  dsimp only
  rw [hb']
  dsimp only
  have hkey' : b.key = some (scopeKey (s.late d).t.part n) := hkey
  rw [if_pos hkey']
  dsimp only
  refine (if_neg ?_).trans <| (if_neg ?_).trans <| if_pos ?_
  · rw [hdone]; exact Bool.false_ne_true
  · intro h
    exact Bool.false_ne_true (hopen.symm.trans h.1)
  · rw [hd]
    exact decide_eq_true (late_now s d)

end

/-! The obligation. -/

section
variable {s : State} {w : WaveId} {b : Blocked} {i : Instr} (hh : s.hand = some w) (hw : s.waveId = w) (hb : s.w.cur.blocked = some b)
  (hf : s.t.fetch b.pc = some (.ok i)) (hres : s.t.resident = true) (hu : s.w.umbra = none)
include hh hw hb hf hres hu

/-- A WAITF that is blocked (R188). -/
theorem waitf_reevaluated {hi lo : BitVec 6} (hi' : i = .waitf hi lo) :
    ((∀ n, n < 12 → (hi ++ lo).getLsbD n = true → s.w.f.getD n 0 = 0) →
      Runs (.blockedReevaluation w) s fun t => t.granted = s.granted ∧ Past 4 s { t with granted := false }) ∧
    ((∃ n, n < 12 ∧ (hi ++ lo).getLsbD n = true ∧ s.w.f.getD n 0 ≠ 0) → RunsTo (.blockedReevaluation w) s s) := by
  have heval : evalBlocked s w = reissued s (execWaitf hi lo s) :=
    (evalBlocked_inHand hh hw hres).trans ((reblock_eq hb hu).1 hi lo (hi' ▸ hf))
  constructor
  · intro h
    rw [waitf_passes h] at heval
    obtain ⟨hgr, hpast, -⟩ := reissued_past (s := s) (k := s) 4
    exact ⟨_, congrArg Host.Outcome.next heval, hgr, hpast⟩
  · intro h
    rw [waitf_blocks h, reissued_waits rfl (by rw [block_cur s _ true (runs_of_blocked hb)]; rfl)] at heval
    exact congrArg Host.Outcome.next heval

variable {d : Nat} (hd : b.deadline = some d)
include hd

omit hu in
/-- A deadline at which the instruction issues. -/
theorem timeout_issues {kind : Instr → Bool} (hk : kind i = true) {o : State} (hexec : reblock (s.late d) = reissued (s.late d) (.next o))
    (hst : o.stalled = false) (hwaits : o.waits = s.waits) :
    takeBack s (.next (timeout s w kind)) = .next { o with granted := s.granted } := by
  rw [timeout_inHand hh hw hb hf hres hk hd, hexec, reissued_issues hst]
  exact takeBack_kept hwaits

theorem sleept_times {abs : Bool} {a : SReg} (hi : i = .sleept abs a) :
    Runs (.sleeptWake w) s fun t => t.granted = s.granted ∧ Past 4 (s.late d) { t with granted := false } := by
  have hexec := (reblock_eq (s := s.late d) hb hu).2.1 abs a (hi ▸ hf)
  rw [sleept_wakes hb hd] at hexec
  obtain ⟨hst, hgr, hwaits⟩ := advance_issues (s.late d) 4 false true
  refine ⟨_, timeout_issues hh hw hb hf hres hd (by subst hi; rfl) hexec hst hwaits, rfl, ?_⟩
  rw [regrant hgr]
  exact advance_past ..

theorem spop_times {c a : SReg} {n : Fin 64} {p : Spool} (hi : i = .spop c a n) (hpend : s.w.pend = []) (htmo : ctlTmo (s.w.sreg a) ≠ 0)
    (hp : s.t.spools[n.val]? = some p) (hempty : p.tail ≤ p.head) (hok : popBad s (s.w.sreg a) n.val = false) :
    Runs (.spopTimeout w) s fun t => t.clock = (s.late d).clock ∧ t.t.spools = s.t.spools ∧ t.w.cur.blocked = none ∧
      ∃ q, lastPend t = some q ∧ q.flag = s.w.mark false ∧ ∃ x ∈ q.writes, x.scalar = true ∧ x.reg = a.val ∧
        x.val.extractLsb' 56 8 = 3 := by
  have hexec := (reblock_eq (s := s.late d) hb hu).2.2.1 c a n (hi ▸ hf)
  rw [spop_timesOut hb hd hpend htmo hp hempty hok] at hexec
  obtain ⟨hclock, -, hteam, hwaits, hst, hblk, q, hq, hflag, x', hx, hscalar, hreg, hval⟩ := statusOnly_spec (s.late d) a 3
  exact ⟨_, timeout_issues hh hw hb hf hres hd (by subst hi; rfl) hexec hst hwaits, hclock, congrArg Team.spools hteam, hblk, q, hq, hflag,
    x', hx, hscalar, hreg, hval ▸ ctlStatus_timedOut _⟩

theorem mrecv_times {c a p : SReg} {u : State} {x : Box} (hi : i = .mrecv c a p) (htmo : ctlTmo (s.w.sreg a) ≠ 0)
    (hopen : BoxOpen false (s.w.sreg p) (settleAtoms (s.late d)) u x) (huw : u.w = s.w) (hclock : u.clock = (s.late d).clock)
    (hwaits : u.waits = s.waits) (hempty : x.held = 0) :
    Runs (.mrecvTimeout w) s fun t => t.clock = u.clock ∧ t.mem = u.mem ∧
      ∃ q, lastPend t = some q ∧ q.flag = s.w.mark false ∧ ∃ y ∈ q.writes, y.scalar = true ∧ y.reg = a.val ∧
        y.val.extractLsb' 56 8 = 3 := by
  have hexec := (reblock_eq (s := s.late d) hb hu).2.2.2.1 c a p (hi ▸ hf)
  rw [mrecv_timesOut hb hd htmo hopen huw hclock hempty] at hexec
  obtain ⟨hclk, hmem, -, hkept, hst, -, q, hq, hflag, x', hx, hscalar, hreg, hval⟩ := statusOnly_spec u a 3
  exact ⟨_, timeout_issues hh hw hb hf hres hd (by subst hi; rfl) hexec hst (hkept.trans hwaits), hclk, hmem, q, hq, hflag.trans (by rw [huw]),
    x', hx, hscalar, hreg, hval ▸ ctlStatus_timedOut _⟩

theorem fswait_times {tmo : Bool} {c a p : SReg} {n : Nat} (hi : i = .fswait tmo c a p) (hn : namedScope s (s.w.sreg p) = some n)
    (hkey : b.key = some (scopeKey s.t.part n)) (hdone : b.done = false) (hopen : (s.scope s.t.part n).done = false) :
    Runs (.fswaitTimeout w) s fun t => t.granted = s.granted ∧
      Past 4 { s.late d with w := s.w.setS c (s.scope s.t.part n).word } { t with granted := false } := by
  have hexec := (reblock_eq (s := s.late d) hb hu).2.2.2.2 tmo c a p (hi ▸ hf)
  rw [fswait_timesOut hb hd hn hkey hdone hopen] at hexec
  obtain ⟨hst, hgr, hwaits⟩ := advance_issues { s.late d with w := s.w.setS c (s.scope s.t.part n).word } 4 false true
  refine ⟨_, timeout_issues hh hw hb hf hres hd (by subst hi; rfl) hexec hst hwaits, rfl, ?_⟩
  rw [regrant hgr]
  exact advance_past ..

end

/-- Settles O39: each event is one change of the wave in hand, and a blocked instruction that goes on is that instruction's own meaning. -/
theorem progressEvents : Obligations.ProgressEvents := by
  unfold Obligations.ProgressEvents
  intro s u w hh hw
  refine ⟨fairness_rotates hh hw, fun e he => hangSib_reports hh hw he, hangSib_none hh hw, ?_, ?_, ?_, ?_, ?_⟩
  · intro hothers t
    exact ⟨fun n hdead hnew hgang hlive => spoolDl_reports hh hw hothers hlive hdead hnew hgang,
      fun n hdead hnew hstuck hlive => barrierDeadlock_reports hh hw hothers hlive hdead hnew hstuck⟩
  · intro hin hu
    refine (trapEntry_alone hh hu).trans (congrArg Host.Outcome.next ?_)
    rw [takeReport_inHandler hin, ite_self]
  · intro r rest hr ha hcan hmid hrun hu
    exact ⟨_, (trapEntry_alone hh hu).trans (congrArg Host.Outcome.next (if_neg (Bool.eq_false_iff.1 hmid))), takeReport_taken hr ha hcan hrun⟩
  · intro hres
    refine congrArg Host.Outcome.next ?_
    unfold evalBlocked
    rw [team_inHand hh hw]
    exact if_neg (Bool.eq_false_iff.1 hres)
  · intro b i hb hf hres hu
    refine ⟨fun hi lo hi' => waitf_reevaluated hh hw hb hf hres hu hi', fun d hd => ⟨?_, ?_, ?_, ?_⟩⟩
    · exact fun abs a hi => sleept_times hh hw hb hf hres hu hd hi
    · exact fun c a n p hi hpend htmo hp hempty hok => spop_times hh hw hb hf hres hu hd hi hpend htmo hp hempty hok
    · exact fun c a p x hi _ htmo hopen huw hclock hwaits hempty => mrecv_times hh hw hb hf hres hu hd hi htmo hopen huw hclock hwaits hempty
    · exact fun tmo c a p n hi hn hkey hdone hopen => fswait_times hh hw hb hf hres hu hd hi hn hkey hdone hopen

end Sys2Proof.Machine
end

section
/-! PROOFS. O40 fails: a hem that unwinds at a second mismatch marks the capsule records of its lanes STALLED (R38), which is a write to
memory, where the claim on umbra mismatches keeps every byte of memory. -/

namespace Sys2Proof.Machine

/-! Writes at HOME without partitions: no watch and no event. -/

theorem watchAll_noParts {s : State} (h : s.parts = []) (atomic : Bool) (pa : Nat) (who : Writer) : watchAll s atomic pa who = s := by
  have hnone : (ownerDie pa).bind s.partOfDie = none := by
    unfold State.partOfDie
    rw [h]
    cases ownerDie pa <;> rfl
  unfold watchAll
  rw [hnone]

/-- A write in its own package (R271). -/
theorem homeWrite_alone {s : State} (hparts : s.parts = []) (hlost : s.lost = []) (hdomain : s.domain = []) (pa : Nat) (d : List PByte)
    (atomic : Bool) (who : Writer) : homeWrite s pa d atomic who = { s with
      mem := writeBytes s.mem pa (bytesOf d)
      memPoison := poisonWrite s.memPoison pa d.length (dataPoison d)
      lastWriter := who.note pa s.lastWriter } := by
  have hput : homePut who s pa d = { s with
      mem := writeBytes s.mem pa (bytesOf d)
      memPoison := poisonWrite s.memPoison pa d.length (dataPoison d)
      lastWriter := who.note pa s.lastWriter } := by
    have hhere : ¬ (s.domain.contains (bitsOf pa 51 44) = true) := by rw [hdomain]; exact Bool.false_ne_true
    exact if_neg hhere
  have hlive : isLost s pa = false := by unfold isLost; rw [hlost]; rfl
  unfold homeWrite homeRuns
  rw [if_neg (by simp), hlive, if_neg Bool.false_ne_true]
  show watchAll (homePut who s pa d) atomic pa who = _
  have hparts' : (homePut who s pa d).parts = [] := by rw [hput]; exact hparts
  rw [watchAll_noParts hparts', hput]

/-- A hem unwinds with the records of the wave's lanes STALLED (R38). -/
theorem unwind_mem {s : State} {h : W64} {rest : List W64} (hh : s.w.hems = h :: rest) (hl : (stallWave s s.t s.w 0xFFFFFFFF).t.lacks h = false)
    {cause : Nat} {lanes : W32} {addr pc : W64} : (unwind s cause lanes addr pc).mem = (stallWave s s.t s.w 0xFFFFFFFF).mem := by
  unfold unwind
  rw [hh]
  dsimp only
  rw [if_neg (Bool.eq_false_iff.1 hl)]

/-! The counterexample. -/

/-- A leader at its second mismatch, in a hem, whose lane 0 holds the capsule with the lock word at 8192: acquired (state 1), with the lane's
own name 0 as its owner. Level 1 of the page tables maps the first GiB of the space onto itself. -/
def stalledRecord : State :=
  { ({} : State) with
    mem := [(0, 0x01), (1, 0x10), (4096, 0x01), (4102, 0x10), (8194, 0x10)]
    t := { ({} : Team) with slots := [{ ({} : Slot) with landed := true }] }
    w := { ({} : Wave) with
      lanes := [{ id := 0, g := [], k := [], holding := true, capPtr := 8192 }], paths := [{ st := .run }], hems := [0]
      umbra := some { miss := some (0, true) } } }

/-- The state in which the hem unwinds. -/
def stalledRecordMissed : State :=
  let s := umbraRestart { stalledRecord with granted := false, under := false } 0 0
  { s with w := { s.w with umbra := s.w.umbra.map fun u => { u with failed := true } } }

theorem stalledRecord_unwinds : umbraMismatch stalledRecord 0 0 =
    unwind stalledRecordMissed 40 (stalledRecordMissed.w.paths.getD 0 {}).mask 0 (stalledRecordMissed.w.paths.getD 0 {}).pc := rfl

/-- The unwinding writes state 2, STALLED, into bits 23 to 20 of the lock word. -/
theorem stalledRecord_marked : readByte (umbraMismatch stalledRecord 0 0).mem 8194 = 0x20 := by
  have hwave : (umbraMismatch stalledRecord 0 0).mem =
      (homeWrite stalledRecordMissed 8192 (clean (leBytes 8 (2 ^ 21))) true (.lane 0 0)).mem := by
    rw [stalledRecord_unwinds]
    have hstall : stallWave stalledRecordMissed stalledRecordMissed.t stalledRecordMissed.w 0xFFFFFFFF =
      homeWrite stalledRecordMissed 8192 (clean (leBytes 8 (2 ^ 21))) true (.lane 0 0) := rfl
    have hteam : (homeWrite stalledRecordMissed 8192 (clean (leBytes 8 (2 ^ 21))) true (.lane 0 0)).t.lacks 0 = false := by
      rw [(homeWrite_side ..).t]; rfl
    exact (unwind_mem rfl (by rw [hstall]; exact hteam)).trans (congrArg State.mem hstall)
  rw [hwave, homeWrite_alone rfl rfl rfl]
  decide

/-- Refutes O40: in `stalledRecord` the byte at 8194 is 0x10, and 0x20 after the second mismatch has unwound the hem. -/
theorem not_teamEvents : ¬ Obligations.TeamEvents := by
  unfold Obligations.TeamEvents
  rintro ⟨-, hmismatch, -⟩
  obtain ⟨-, -, -, hunwinds⟩ := hmismatch stalledRecord 0 0 { st := .run } { miss := some (0, true) } rfl rfl (by decide)
  obtain ⟨-, -, -, -, -, -, -, hmem⟩ := hunwinds 0 [] (fun _ h => nomatch h) (fun h => nomatch h) rfl (by decide)
  have hbyte : (0x20 : Byte) = 0x10 := calc
    (0x20 : Byte) = readByte (umbraMismatch stalledRecord 0 0).mem 8194 := stalledRecord_marked.symm
    _ = readByte stalledRecord.mem 8194 := by rw [hmem]
    _ = 0x10 := by decide
  exact absurd hbyte (by decide)

end Sys2Proof.Machine
end

section
/-! PROOFS. O41 fails: where the entry of one page lies in an unused field of another page's replica record (R307), the shootdown that makes
a range not present makes the record well formed, and with it the other page present again. -/

namespace Sys2Proof.Machine

/-- The leaf of page 7: READ_DUPLICATE, with its replica record at 12352. -/
def replicatedLeaf : Nat := 2 ^ 62 + 2 ^ 52 + 12352 + 1

/-- Page tables at 0, 4096, 8192 and, of level 3, at 12288. The record of page 7 is the entries of pages 8 to 15: its word, 0x10, names one
replica; the two frames it asks for are 0, and its third frame, which must be 0, is the NORMAL leaf of page 11. So page 7 is malformed. -/
def recordInTable : State :=
  { ({} : State) with
    hand := some { team := 0, wave := 0 }
    mem := [(0, 0x01), (1, 0x10), (4096, 0x01), (4097, 0x20), (8192, 0x01), (8193, 0x30),
      (12344, 0x41), (12345, 0x30), (12350, 0x10), (12351, 0x40), (12352, 0x10), (12376, 0x01), (12382, 0x10)] }

/-- The addresses of pages 7 to 11. -/
def shotPages : List Nat := [458752, 524288, 589824, 655360, 720896]

theorem recordInTable_flushed : shotPages.foldl (fun s va => flushLeaf s 0 va) recordInTable = recordInTable := rfl

/-- Where the walk of an address stops. -/
def recordInTableStop (va : Nat) : Nat × Nat × Walk := walkStop recordInTable.mem va [0, 1, 2, 3] (recordInTable.root 0)

/-- Page 7 is malformed, pages 8 to 10 are absent, and page 11 has the leaf at 12376. -/
theorem recordInTable_stops : recordInTableStop 458752 = (3, 12344, .malformed) ∧ recordInTableStop 524288 = (3, 12352, .absent) ∧
    recordInTableStop 589824 = (3, 12360, .absent) ∧ recordInTableStop 655360 = (3, 12368, .absent) ∧
    recordInTableStop 720896 = (3, 12376, .leaf 3 (2 ^ 52 + 1)) := by decide +kernel

/-- The range made not present: the one write is that of page 11's leaf. -/
theorem recordInTable_unmapped : shotPages.foldl (fun s va => unmapAt s 0 va) recordInTable = serviceWord recordInTable 12376 0 := by
  obtain ⟨h7, h8, h9, h10, h11⟩ := recordInTable_stops
  unfold recordInTableStop at h7 h8 h9 h10 h11
  have hmalformed : unmapAt recordInTable 0 458752 = recordInTable := by unfold unmapAt; rw [h7]
  have habsent {va a : Nat} (h : walkStop recordInTable.mem va [0, 1, 2, 3] (recordInTable.root 0) = (3, a, .absent)) :
      unmapAt recordInTable 0 va = recordInTable := by unfold unmapAt; rw [h]
  have hlast : unmapAt recordInTable 0 720896 = serviceWord recordInTable 12376 0 := by
    unfold unmapAt
    rw [h11]
    exact if_neg (by decide)
  show unmapAt (unmapAt (unmapAt (unmapAt (unmapAt recordInTable 0 458752) 0 524288) 0 589824) 0 655360) 0 720896 = _
  rw [hmalformed, habsent h8, habsent h9, habsent h10, hlast]

/-- The state that the shootdown leaves. -/
def recordInTableShot : State :=
  shootXlat { recordInTable with
    mem := writeBytes recordInTable.mem 12376 (bytesOf (clean (leBytes 8 0)))
    memPoison := poisonWrite recordInTable.memPoison 12376 (clean (leBytes 8 0)).length (dataPoison (clean (leBytes 8 0)))
    lastWriter := (Writer.card ((ownerDie 12376).getD 0)).note 12376 recordInTable.lastWriter } 0 458752 327680

theorem recordInTable_shot : exec (.translationShootdown 0 458752 ⟨327680, true⟩) recordInTable = .next recordInTableShot := by
  have hpages : (List.range ((458752 + 327680 + 65535) / 65536 - 458752 / 65536)).map (fun i => (458752 / 65536 + i) * 65536) = shotPages := by decide
  have hword : serviceWord recordInTable 12376 0 = _ := homeWrite_alone (s := recordInTable) rfl rfl rfl _ _ _ _
  show execTranslationShootdown 0 458752 ⟨327680, true⟩ recordInTable = _
  unfold execTranslationShootdown
  dsimp only
  rw [if_pos rfl, hpages, recordInTable_flushed, recordInTable_unmapped, hword]
  exact takeBack_kept rfl

/-- Page 7 is present now. -/
theorem recordInTable_present : walk recordInTableShot.mem (recordInTableShot.root 0) (7 * 65536) = .leaf 3 replicatedLeaf := by decide +kernel

/-- Refutes O41: after the shootdown of pages 7 to 11 in `recordInTable`, whose caches are empty, page 7 is mapped. -/
theorem not_pageEvents : ¬ Obligations.PageEvents := by
  unfold Obligations.PageEvents
  intro h
  have hcanonical : recordInTable.MemCanonical :=
    ⟨by decide, fun t ht => by rw [List.mem_singleton.1 ht]; exact ⟨rfl, rfl⟩⟩
  obtain ⟨hshoot, -⟩ := h recordInTable { team := 0, wave := 0 } rfl rfl hcanonical
  obtain ⟨t, ht, -, hclean⟩ := (hshoot 0 458752 327680).2 rfl (fun p hp => nomatch hp) rfl (by decide) (by decide)
  have hshot : t = recordInTableShot := by rw [recordInTable_shot] at ht; exact (Host.Outcome.next.inj ht).symm
  have hnoLines : ∀ k ∈ recordInTable.c :: recordInTable.cores, ∀ x ∈ k.l1, x.space = 0 → x.isDirty = false := fun k hk x hx => by
    rw [List.mem_singleton.1 hk] at hx; cases hx
  obtain ⟨-, -, -, -, hgone⟩ := hclean ⟨hnoLines, fun d hd => nomatch hd⟩
  rw [hshot] at hgone
  exact absurd (hgone 7 3 replicatedLeaf (by decide) (by decide) recordInTable_present) (by decide)

end Sys2Proof.Machine
end

section
/-! PROOFS. O42 fails: a space number taken back from a table that is no longer used (R291) writes dirty lines home, and a write to a lost
package posts an event (R409). The event that it drives out of the buffer gives a completed scope back (R323), be it the scope of the card
that is being placed, whose count the claim on placement follows. -/

namespace Sys2Proof.Machine

/-- A card of one team in a gang of one (R255). -/
def oneTeamCard : Launch := { id := 0, part := 0, queue := 0, num := 0, card := [], scope := 0, host := true }

/-- A line of space 0 with its first byte dirty. -/
def oneDirtyByte : Line :=
  { space := 0, line := 0, data := List.replicate 64 0, held := List.replicate 64 true, dirty := true :: List.replicate 63 false, fill := 0 }

/-- The spaces of partition 1: all 4,096 numbers, none of them in use. -/
def spacesOfPart1 : List Space :=
  { num := 0, part := 1, table := 0, root := 0 } :: (List.range 4095).map fun n => { num := n + 1, part := 1, table := 0, root := 0 }

/-- Die 0 holds a dirty line of space 0, mapped to package 1, which is lost. An event that gives back scope 0 waits for the ring. The scope
counts one, and is that of the card to be placed. -/
def spacesTaken : State :=
  { ({} : State) with
    cores := [{ die := 0, num := 0, port := [{ space := 0, page := 0, level := 3, pte := 2 ^ 44 }] }]
    dies := [{ num := 0, cons := [[0]], cc := [oneDirtyByte] }]
    lost := [1]
    parts := [{ num := 0, dies := [0], ready := true, evsize := 64
                evbuf := [{ type := 1, detail := 0, data := 0, time := 0, free := some (0, 0) }]
                queues := [{ head := 1 }], scopes := [{ st := .open_, count := 1, done := true }] }]
    launches := [oneTeamCard]
    spaces := spacesOfPart1 }

theorem spacesOfPart1_part : ∀ x ∈ spacesOfPart1, x.part = 1 := by
  intro x hx
  rcases List.mem_cons.1 hx with rfl | hx
  · rfl
  · obtain ⟨n, -, rfl⟩ := List.mem_map.1 hx
    rfl

theorem spacesOfPart1_num {n : Nat} (hn : n < 4096) : ∃ x ∈ spacesOfPart1, x.num = n := by
  cases n with
  | zero => exact ⟨_, List.mem_cons_self, rfl⟩
  | succ n => exact ⟨_, List.mem_cons_of_mem _ (List.mem_map.2 ⟨n, List.mem_range.2 (by omega), rfl⟩), rfl⟩

/-- With every number taken and no space of the table, a space that is no longer used is retired for it. -/
theorem spaceFor_of_allTaken {s : State} {part : Nat} {table : W64} {y : Space} (hown : ∀ x ∈ s.spaces, x.part ≠ part)
    (htaken : ∀ n, n < 4096 → ∃ x ∈ s.spaces, x.num = n) (hunused : s.spaces.find? (fun x => !spaceUsed s x.num) = some y) :
    spaceFor s part table = some
      ({ retireSpace s y.num with
          spaces := (retireSpace s y.num).spaces ++ [{ num := y.num, part, table, root := Config.rootOf part table }] }, y.num) := by
  have hnone : s.spaces.find? (fun x => x.part == part && x.table == table) = none :=
    List.find?_eq_none.2 fun x hx => by simp [hown x hx]
  have hfree : (List.range 4096).find? (fun n => s.spaces.all (·.num != n)) = none :=
    List.find?_eq_none.2 fun n hn hall => by
      obtain ⟨x, hx, hxn⟩ := htaken n (List.mem_range.1 hn)
      have hne := List.all_eq_true.1 hall x hx
      rw [hxn, bne_self_eq_false] at hne
      cases hne
  unfold spaceFor
  dsimp only
  rw [hnone, hfree, hunused, Option.map_some]

/-- Space 0, retired, serves the card's table. -/
def spacesTakenRenewed : State :=
  { retireSpace spacesTaken 0 with
    spaces := (retireSpace spacesTaken 0).spaces ++ [{ num := 0, part := 0, table := 0, root := Config.rootOf 0 0 }] }

theorem spacesTaken_spaceFor : spaceFor spacesTaken 0 0 = some (spacesTakenRenewed, 0) :=
  spaceFor_of_allTaken (y := { num := 0, part := 1, table := 0, root := 0 })
    (fun x hx => by rw [spacesOfPart1_part x hx]; decide) (fun _ hn => spacesOfPart1_num hn) (List.find?_cons_of_pos rfl)

theorem spacesTaken_places : exec (.cardPlacement 0 0 0 [(⟨0, 0⟩, 0)]) spacesTaken = .next (placeGang spacesTaken oneTeamCard 0 [(⟨0, 0⟩, 0)]) := by
  have hcard : spacesTaken.launches.find? (fun l => l.part == 0 && l.queue == 0 && l.num == 0 && !l.done) = some oneTeamCard := rfl
  have hgang : oneTeamCard.nextGang = some 0 := by decide
  show execCardPlacement 0 0 0 [(⟨0, 0⟩, 0)] spacesTaken = _
  unfold execCardPlacement
  rw [hcard]
  dsimp only
  rw [hgang]
  exact if_pos (by decide +kernel)

theorem setCore_parts (s : State) (k : Core) : (s.setCore k).parts = s.parts := by
  unfold State.setCore
  split
  · rfl
  · split
    · rfl
    · rfl

theorem scope_of_parts {s t : State} (h : t.parts = s.parts) (part n : Nat) : t.scope part n = s.scope part n := by
  unfold State.scope State.part
  rw [h]

theorem modScope_parts_congr {s t : State} (h : t.parts = s.parts) (part n : Nat) (f : FScope → FScope) :
    (t.modScope part n f).parts = (s.modScope part n f).parts := by
  unfold State.modScope State.modPart
  rw [h]

theorem checkScope_of_count {s : State} {part n : Nat} (h : (s.scope part n).count ≠ 0) (k : Nat) : checkScope s part n (k + 1) = s := by
  unfold checkScope
  exact if_neg fun hc => h hc.2.1

/-- A team placed for the first time touches no entry of a fault scope but its launch's. -/
theorem placeTeam_parts (s : State) (l : Launch) (params : List Byte) (space gang rank size : Nat) (at_ : CoreId × Nat) :
    (placeTeam s l params space gang rank size at_ true).parts = (s.scopeUp l.part l.scope).parts := by
  unfold placeTeam
  exact modScope_parts_congr (setCore_parts ..|>.trans (setCore_parts ..)) ..

/-- A launch scope closes with its last gang (R256). -/
def FScope.close (f : FScope) : FScope := if f.st = .open_ then { f with st := .closed } else f

/-- The one gang of a card, of one team, counts in the launch scope, and closes it. -/
theorem placeGang_oneTeam {s r : State} {l : Launch} {space g : Nat} (at_ : CoreId × Nat)
    (hspace : spaceFor s l.part l.table = some (r, space)) (hagain : l.again = []) (hranks : l.ranksOf g = [0])
    (hlast : gangCount l.card ≤ l.placed + 1) :
    ∃ v : State, v.parts = (r.scopeUp l.part l.scope).parts ∧
      placeGang s l g [at_] = checkScope (v.modScope l.part l.scope FScope.close) l.part l.scope 256 := by
  have hnew : (l.again.head? == some g) = false := by rw [hagain]; rfl
  unfold placeGang
  rw [hspace]
  dsimp only
  rw [hnew, hranks, List.zip_cons_cons, List.zip_nil_left, List.foldl_cons, List.foldl_nil]
  refine ⟨_, ?_, if_pos (by simpa using hlast)⟩
  exact placeTeam_parts ..

/-- The scope has been given back, and counts the one team placed alone. -/
theorem spacesTaken_count : ((placeGang spacesTaken oneTeamCard 0 [(⟨0, 0⟩, 0)]).scope 0 0).count = 1 := by
  obtain ⟨v, hv, hplace⟩ := placeGang_oneTeam (s := spacesTaken) (l := oneTeamCard) (g := 0) (⟨0, 0⟩, 0) spacesTaken_spaceFor rfl
    (by decide) (by decide)
  have hcount : ((v.modScope 0 0 FScope.close).scope 0 0).count = 1 := by
    rw [scope_of_parts (modScope_parts_congr hv ..)]
    decide +kernel
  have hstop : checkScope (v.modScope 0 0 FScope.close) 0 0 256 = v.modScope 0 0 FScope.close :=
    checkScope_of_count (by rw [hcount]; decide) 255
  rw [hplace]
  exact (congrArg (fun u : State => (u.scope 0 0).count) hstop).trans hcount

/-- Refutes O42: in `spacesTaken` the scope of the card counts one before its team is placed, and one after it, not two. -/
theorem not_placementEvents : ¬ Obligations.PlacementEvents := by
  unfold Obligations.PlacementEvents
  intro h
  obtain ⟨-, hplace, -⟩ := h spacesTaken 0 0 _ oneTeamCard {} ⟨0, 0⟩ rfl rfl (by decide) (by decide)
  obtain ⟨u, hu, hcount, -⟩ := hplace 0 0 [(⟨0, 0⟩, 0)] rfl (by decide) rfl (by decide +kernel)
    (fun y hy _ hbefore _ => by
      rw [List.mem_singleton.1 hy] at hbefore
      exact absurd hbefore (by decide))
    (by decide +kernel) (by decide +kernel) (by decide) (by decide +kernel) (spacesTakenRenewed, 0) spacesTaken_spaceFor
  rw [spacesTaken_places] at hu
  rw [← Host.Outcome.next.inj hu] at hcount
  have hcount' : ((placeGang spacesTaken oneTeamCard 0 [(⟨0, 0⟩, 0)]).scope 0 0).count = 2 := hcount
  rw [spacesTaken_count] at hcount'
  exact absurd hcount' (by decide)

end Sys2Proof.Machine
end

section
/-! PROOFS. A step of the array (R208, R210, R214): what it writes in the tiles of its region, and what it keeps of its team. -/

namespace Sys2Proof.Machine

/-! Entries of a list that are set one after the other. -/

/-- An entry that is not among those set stays. -/
theorem getElem?_foldl_set_other {α β : Type} (k : β → Nat) (v : List α → β → α) {n : Nat} (bs : List β)
    (hn : ∀ b ∈ bs, k b ≠ n) (xs : List α) : (bs.foldl (fun xs b => xs.set (k b) (v xs b)) xs)[n]? = xs[n]? := by
  induction bs generalizing xs with
  | nil => rfl
  | cons b bs ih =>
    obtain ⟨hb, hbs⟩ := List.forall_mem_cons.1 hn
    exact (ih hbs _).trans (List.getElem?_set_ne hb)

/-- Each entry of distinct ones is set once, from its first value. -/
theorem getD_foldl_set {α β : Type} (k : β → Nat) (f : β → α → α) (d : α) {b : β} (bs : List β) (hk : (bs.map k).Nodup)
    (hb : b ∈ bs) (xs : List α) (hlen : k b < xs.length) :
    (bs.foldl (fun xs b => xs.set (k b) (f b (xs.getD (k b) d))) xs).getD (k b) d = f b (xs.getD (k b) d) := by
  induction bs generalizing xs with
  | nil => cases hb
  | cons c bs ih =>
    obtain ⟨hc, hbs⟩ := List.nodup_cons.1 hk
    rw [List.foldl_cons]
    rcases List.mem_cons.1 hb with rfl | hb
    · have hkeep := getElem?_foldl_set_other k (fun xs b => f b (xs.getD (k b) d)) bs
        (fun _ he heq => hc (List.mem_map.2 ⟨_, he, heq⟩)) (xs.set (k b) (f b (xs.getD (k b) d)))
      rw [List.getD_eq_getElem?_getD, hkeep, List.getElem?_set_self hlen, Option.getD_some]
    · have hne : k c ≠ k b := fun heq => hc (List.mem_map.2 ⟨b, hb, heq.symm⟩)
      rw [ih hbs hb _ (by simpa using hlen)]
      simp only [List.getD_eq_getElem?_getD, List.getElem?_set_ne hne]

/-! Elements of a row (R207). -/

/-- How many patterns an element of a kind can have. -/
def TileKind.patterns : TileKind → Nat
  | .fp32 => 2 ^ 32
  | .fp64 => 2 ^ 64

theorem getD_pairs (a b : Nat → W32) (es : List Nat) (j : Nat) (hj : j < es.length) :
    (es.flatMap fun e => [a e, b e]).getD (2 * j) 0 = a (es.getD j 0) ∧
      (es.flatMap fun e => [a e, b e]).getD (2 * j + 1) 0 = b (es.getD j 0) := by
  induction es generalizing j with
  | nil => cases hj
  | cons e es ih =>
    cases j with
    | zero => exact ⟨rfl, rfl⟩
    | succ j => exact ih j (Nat.lt_of_succ_lt_succ hj)

/-- The elements of a tile whose row holds given patterns. -/
theorem elem_of_rowWords {x : Tile} {i j : Nat} {es : List Nat} (hrow : x.rows.getD i [] = rowWords x.kind es) (hj : j < es.length) :
    x.elem i j = es.getD j 0 % TileKind.patterns x.kind := by
  unfold Tile.elem
  rw [hrow]
  cases x.kind with
  | fp32 => simp [rowWords, TileKind.patterns, hj]
  | fp64 =>
    obtain ⟨hlo, hhi⟩ := getD_pairs (fun e => BitVec.ofNat 32 e) (fun e => BitVec.ofNat 32 (e / 2 ^ 32)) es j hj
    simp only [rowWords, TileKind.patterns, hlo, hhi, BitVec.toNat_ofNat]
    omega

/-- An element depends on its row and on the kind of its tile alone. -/
theorem elem_congr {x y : Tile} (hkind : x.kind = y.kind) {i : Nat} (hrow : x.rows[i]? = y.rows[i]?) (j : Nat) :
    x.elem i j = y.elem i j := by
  simp only [Tile.elem, List.getD_eq_getElem?_getD, hkind, hrow]

/-! One tile (R208, R210). -/

section
variable (y : Layout) (shape : Nat) (lanes : W32) (tr tc : Nat) (a b : List Strip) (x : Tile)

@[simp] theorem stepTile_kind : (stepTile y shape lanes tr tc a b x).kind = x.kind := rfl

/-- The patterns of row `i` after a step whose lanes own it. -/
def stepRow (i : Nat) : List Nat :=
  (List.range x.kind.cols).map fun j =>
    (stepElem y (x.elem i j) (a.getD (64 * tr + i) ⟨[], []⟩) (b.getD (x.kind.cols * tc + j) ⟨[], []⟩)).1

theorem stepTile_rows : (stepTile y shape lanes tr tc a b x).rows =
    (ownedRows shape lanes tr).foldl (fun rs i => rs.set i (rowWords x.kind (stepRow y tr tc a b x i))) x.rows := by
  simp only [stepTile, List.foldl_map, stepRow, List.map_map]
  rfl

theorem mem_ownedRows {i : Nat} : i ∈ ownedRows shape lanes tr ↔ i < 64 ∧ ownsRow shape lanes (64 * tr + i) = true := by
  simp [ownedRows]

/-- Every element of an owned row takes the step's sum. -/
theorem stepTile_elem_owned {i j : Nat} (hrows : x.rows.length = 64) (hi : i < 64) (hj : j < x.kind.cols)
    (hown : ownsRow shape lanes (64 * tr + i) = true) :
    (stepTile y shape lanes tr tc a b x).elem i j =
      (stepElem y (x.elem i j) (a.getD (64 * tr + i) ⟨[], []⟩) (b.getD (x.kind.cols * tc + j) ⟨[], []⟩)).1 % TileKind.patterns x.kind := by
  have hrow : (stepTile y shape lanes tr tc a b x).rows.getD i [] = rowWords x.kind (stepRow y tr tc a b x i) := by
    rw [stepTile_rows]
    exact getD_foldl_set id (fun i _ => rowWords x.kind (stepRow y tr tc a b x i)) [] _
      (by simpa [ownedRows] using List.nodup_range.filter _) ((mem_ownedRows ..).2 ⟨hi, hown⟩) _ (hrows ▸ hi)
  rw [elem_of_rowWords hrow (by simpa [stepRow] using hj)]
  simp [stepRow, hj]

/-- Every element of another row is kept. -/
theorem stepTile_elem_other {i : Nat} (j : Nat) (hown : ¬ ownsRow shape lanes (64 * tr + i) = true) :
    (stepTile y shape lanes tr tc a b x).elem i j = x.elem i j := by
  refine elem_congr (stepTile_kind ..) ?_ j
  rw [stepTile_rows]
  exact getElem?_foldl_set_other id _ _ (fun k hk => by rintro rfl; exact hown ((mem_ownedRows ..).1 hk).2) _

end

/-! Regions (R201). -/

theorem regionTiles_nodup (shape zt : Nat) : ((regionTiles shape zt).map (·.1)).Nodup := by
  unfold regionTiles
  split <;> simp

/-- The tiles of a region are among the four. -/
theorem regionTiles_lt {shape zt : Nat} (hzones : zonesOk shape zt = true) (hzt : zt < 4) : ∀ z ∈ regionTiles shape zt, z.1 < 4 := by
  match shape, hzones with
  | 0, _ => simpa [regionTiles] using hzt
  | 1, h | 2, h =>
    simp only [zonesOk, Bool.or_eq_true, beq_iff_eq] at h
    simp only [regionTiles, List.forall_mem_cons, List.not_mem_nil, false_implies, implies_true, and_true]
    omega
  | _ + 3, _ => simp [regionTiles]

/-- Rows and columns of a tile lie within those of its region. -/
theorem regionTiles_place {shape zt : Nat} (hshape : shape < 4) (fp64 : Bool) : ∀ z ∈ regionTiles shape zt,
    64 * z.2.1 + 64 ≤ regionRows shape ∧ (if fp64 then 32 else 64) * (z.2.2 + 1) ≤ regionCols shape fp64 := by
  match shape, hshape with
  | 0, _ | 1, _ | 2, _ | 3, _ => cases fp64 <;> simp [regionTiles, regionRows, regionCols]

theorem cols_layoutKind (y : Layout) : (Layout.kind y).cols = if y == .cf64 then 32 else 64 := by
  cases y <;> rfl

/-! A step on its team (R208, R214, R228). -/

/-- Beside `t`, a team with the same tiles and the same injection register. -/
def Team.TilesAs (t u : Team) : Prop := u.tiles = t.tiles ∧ u.xsinj = t.xsinj

/-- An entry of MERRQ leaves the tiles. -/
theorem Team.merr_tilesAs (t : Team) (n : Nat) (opb scale : Bool) (i k : Nat) : t.TilesAs (t.merr n opb scale i k) := by
  unfold Team.merr
  dsimp only
  split <;> exact ⟨rfl, rfl⟩

theorem Team.TilesAs.trans {t u v : Team} (htu : t.TilesAs u) (huv : u.TilesAs v) : t.TilesAs v :=
  ⟨huv.1.trans htu.1, huv.2.trans htu.2⟩

/-- The A strip of a region row, read from the window of the team that supplies A. -/
def MatOp.aStrip (o : MatOp) (aTeam : Team) (r : Nat) : Strip :=
  (readStrip o.layout o.done (sdDoff o.a + r * sdVp o.a) (sdSoff o.a + r * (sdVp o.a / 8)) (scratchBytes aTeam)).1

/-- The B strip of a region column, read from the team's share of the B store. -/
def MatOp.bStrip (o : MatOp) (t : Team) (c : Nat) : Strip :=
  (readStrip o.layout o.done (bdDoff o.b + c / 32 * bdPitch o.b) (bdSoff o.b + c / 32 * (bdPitch o.b / 8)) (bstoreBytes t (c % 32))).1

/-- The A strips of a step, of the rows that its lanes own, and its B strips. -/
def MatOp.aStrips (o : MatOp) (aTeam : Team) : List Strip :=
  (List.range (regionRows o.shape)).map fun r => if ownsRow o.shape o.lanes r then o.aStrip aTeam r else ⟨[], []⟩
def MatOp.bStrips (o : MatOp) (t : Team) : List Strip := (List.range (regionCols o.shape (o.layout == .cf64))).map (o.bStrip t)

theorem MatOp.aStrips_getD (o : MatOp) (aTeam : Team) {r : Nat} (hr : r < regionRows o.shape) (hown : ownsRow o.shape o.lanes r = true) :
    (o.aStrips aTeam).getD r ⟨[], []⟩ = o.aStrip aTeam r := by
  simp [MatOp.aStrips, hr, hown]

theorem MatOp.bStrips_getD (o : MatOp) (t : Team) {c : Nat} (hc : c < regionCols o.shape (o.layout == .cf64)) :
    (o.bStrips t).getD c ⟨[], []⟩ = o.bStrip t c := by
  simp [MatOp.bStrips, hc]

/-- A tile of the region after a step, marked ZOP where poison has fed it. -/
def MatOp.stepped (o : MatOp) (t aTeam : Team) (poisoned : Bool) (z : Nat × Nat × Nat) (x : Tile) : Tile :=
  let x := stepTile o.layout o.shape o.lanes z.2.1 z.2.2 (o.aStrips aTeam) (o.bStrips t) x
  if poisoned then { x with flags := x.flags ||| 16 } else x

theorem MatOp.stepped_elem (o : MatOp) (t aTeam : Team) (poisoned : Bool) (z : Nat × Nat × Nat) (x : Tile) (i j : Nat) :
    (o.stepped t aTeam poisoned z x).elem i j =
      (stepTile o.layout o.shape o.lanes z.2.1 z.2.2 (o.aStrips aTeam) (o.bStrips t) x).elem i j := by
  cases poisoned <;> rfl

/-- A step sets each tile of its region once, and leaves the injection register as it was. -/
theorem MatOp.step_eq (o : MatOp) (t aTeam : Team) : ∃ poisoned : Nat × Nat × Nat → Bool,
    (o.step t aTeam).tiles = (regionTiles o.shape o.zt).foldl
      (fun xs z => xs.set z.1 (o.stepped t aTeam (poisoned z) z (xs.getD z.1 {}))) t.tiles ∧ (o.step t aTeam).xsinj = t.xsinj := by
  unfold MatOp.step
  extract_lets y rowsN colsN as bs a b zones perTile fed badRow badCol t' note t''
  have ha : a = o.aStrips aTeam := by
    simp [a, as, rowsN, y, MatOp.aStrips, MatOp.aStrip, apply_ite Prod.fst]
  have hb : b = o.bStrips t := by
    simp [b, bs, colsN, y, MatOp.bStrips, MatOp.bStrip]
  let poisoned := fun z : Nat × Nat × Nat => fed.contains z && (badRow z.2.1 || badCol z.2.2)
  have htiles : t'.tiles = zones.foldl (fun xs z => xs.set z.1 (o.stepped t aTeam (poisoned z) z (xs.getD z.1 {}))) t.tiles := by
    simp only [MatOp.stepped, ← ha, ← hb]
    exact (List.foldl_hom Team.tiles fun _ _ => rfl).symm
  have hxsinj : t'.xsinj = t.xsinj := by
    refine foldl_keeps (fun u : Team => u.xsinj = t.xsinj) _ ?_ _ _ rfl
    exact fun _ _ hu => hu
  have hnote (u : Team) (p : Nat × Nat × Nat → Bool) (opb scale : Bool) (i k : Nat) (hu : t'.TilesAs u) :
      t'.TilesAs (note u p opb scale i k) := by
    dsimp only [note]
    cases fed.find? p with
    | none => exact hu
    | some z => exact hu.trans (Team.merr_tilesAs ..)
  have hrows : t'.TilesAs t'' :=
    foldl_keeps _ _ (fun u x hu => foldl_keeps _ _ (fun u e hu => hnote u _ _ _ _ _ hu) _ _ hu) _ _ ⟨rfl, rfl⟩
  obtain ⟨hkept, hkeptInj⟩ : t'.TilesAs (bs.zipIdx.foldl _ t'') :=
    foldl_keeps _ _ (fun u x hu => foldl_keeps _ _ (fun u e hu => hnote u _ _ _ _ _ hu) _ _ hu) _ _ hrows
  exact ⟨poisoned, hkept.trans htiles, hkeptInj.trans hxsinj⟩

/-- A tile outside the region is kept. -/
theorem MatOp.step_other (o : MatOp) (t aTeam : Team) {n : Nat} (hn : ∀ z ∈ regionTiles o.shape o.zt, z.1 ≠ n) :
    (o.step t aTeam).tiles[n]? = t.tiles[n]? := by
  obtain ⟨poisoned, htiles, -⟩ := o.step_eq t aTeam
  rw [htiles]
  exact getElem?_foldl_set_other (fun z : Nat × Nat × Nat => z.1) _ _ hn _

/-- Every element of the region in a row that the lanes own takes the step's sum, and every other one is kept. -/
theorem MatOp.step_elem (o : MatOp) (t aTeam : Team) (hfour : t.tiles.length = 4) (hrows : ∀ x ∈ t.tiles, x.rows.length = 64)
    (hkinds : ∀ x ∈ t.tiles, x.kind = Layout.kind o.layout) (hzones : zonesOk o.shape o.zt = true) (hshape : o.shape < 4) (hzt : o.zt < 4)
    {z : Nat × Nat × Nat} (hz : z ∈ regionTiles o.shape o.zt) {i j : Nat} (hi : i < 64) (hj : j < (t.tiles.getD z.1 {}).kind.cols) :
    ((o.step t aTeam).tiles.getD z.1 {}).elem i j =
      if ownsRow o.shape o.lanes (64 * z.2.1 + i) then
        (stepElem o.layout ((t.tiles.getD z.1 {}).elem i j) (o.aStrip aTeam (64 * z.2.1 + i))
          (o.bStrip t ((t.tiles.getD z.1 {}).kind.cols * z.2.2 + j))).1 % TileKind.patterns (Layout.kind o.layout)
      else (t.tiles.getD z.1 {}).elem i j := by
  have hlt : z.1 < t.tiles.length := hfour ▸ regionTiles_lt hzones hzt z hz
  have hmem : t.tiles.getD z.1 {} ∈ t.tiles := List.getD_eq_getElem _ _ hlt ▸ List.getElem_mem hlt
  obtain ⟨poisoned, htiles, -⟩ := o.step_eq t aTeam
  rw [htiles, getD_foldl_set (·.1) (fun z => o.stepped t aTeam (poisoned z) z) {} _ (regionTiles_nodup ..) hz _ hlt, MatOp.stepped_elem]
  split
  · next hown =>
    obtain ⟨hrow, hcol⟩ := regionTiles_place hshape (o.layout == .cf64) z hz
    rw [← cols_layoutKind, Nat.mul_succ, ← hkinds _ hmem] at hcol
    rw [stepTile_elem_owned _ _ _ _ _ _ _ _ (hrows _ hmem) hi hj hown, MatOp.aStrips_getD _ _ (by omega) hown,
      MatOp.bStrips_getD _ _ (by omega), hkinds _ hmem]
  · next hown => exact stepTile_elem_other _ _ _ _ _ _ _ _ j hown

/-- XSINJ that is not armed injects nothing (R225). -/
theorem injectTile_unarmed {t : Team} (h : t.xsinj.msb = false) (ns : List Nat) : injectTile t ns = t := by
  have hbit : bitOf t.xsinj.toNat 63 = false := by
    rw [BitVec.msb_eq_decide, decide_eq_false_iff_not] at h
    rw [bitOf, beq_eq_false_iff_ne]
    omega
  unfold injectTile
  dsimp only
  rw [hbit, Bool.false_and]
  exact if_neg Bool.false_ne_true

end Sys2Proof.Machine
end

section
/-! PROOFS. O28: steps of the array (R59 to R61, R208, R210, R214, R242, R415, R416, R421). -/

namespace Sys2Proof.Machine

/-! The team and the core in hand, whichever of the team's waves the hand is named after. -/

section
variable {s : State} {n : Nat} (hh : s.hand.isSome = true) (ht : s.t.id = n)
include hh ht

theorem handTeam_team : s.team n = some { s.t with waves := s.w :: s.t.waves } := by
  simp [State.team, hh, ht]

theorem handTeam_id {t : Team} (hteam : s.team n = some t) : t.id = n := by
  obtain rfl := Option.some.inj ((handTeam_team hh ht).symm.trans hteam)
  exact ht

theorem handTeam_modTeam (f : Team → Team) : s.modTeam n f = { s with t := f s.t } := by
  simp [State.modTeam, hh, ht]

theorem handTeam_modWave {k : Nat} (hk : s.w.num = k) (f : Wave → Wave) : s.modWave ⟨n, k⟩ f = { s with w := f s.w } := by
  simp [State.modWave, hh, ht, hk]

end

section
variable {s : State} {id : CoreId} (hh : s.hand.isSome = true) (hd : s.c.die = id.die) (hn : s.c.num = id.core)
include hh hd hn

theorem handCore_core : s.core id = s.c := by
  simp [State.core, State.coreInHand, hh, hd, hn]

theorem handCore_setCore {k : Core} (hkd : k.die = id.die) (hkn : k.num = id.core) : s.setCore k = { s with c := k } := by
  simp [State.setCore, State.coreInHand, hh, hd, hn, hkd, hkn]

end

/-- A change to a wave leaves memory, the core in hand and what the team in hand holds besides its waves. -/
theorem modWave_frame (s : State) (id : WaveId) (f : Wave → Wave) : (s.modWave id f).mem = s.mem ∧ (s.modWave id f).c = s.c ∧
    (s.modWave id f).t = { s.t with waves := (s.modWave id f).t.waves } := by
  unfold State.modWave
  split
  · split <;> exact ⟨rfl, rfl, rfl⟩
  · exact ⟨rfl, rfl, rfl⟩

/-- Counting a step against the peer's core changes the counters of a die alone. -/
theorem countPeerStep_eq (s : State) (o : MatOp) (t : Team) (a : Option Team) :
    countPeerStep s o t a = { s with dies := (countPeerStep s o t a).dies } := by
  cases a with
  | none => rfl
  | some p =>
    unfold countPeerStep sextantAdd
    dsimp only
    split
    · split <;> rfl
    · rfl

/-! The array (R214). -/

/-- The wave of an instruction that has lost the team which supplies A (R242). -/
def Wave.losePeer (w : Wave) (o : MatOp) : Wave :=
  { w.flagDown o.flag with
    deferred := w.deferred ++ [{ cause := 33, detail := 4, addr := 0, pc := o.pc, clause := o.clause, region := o.region, flag := o.flag }] }

/-- The team with what a step has made of its tiles. -/
def Team.worked (t t' : Team) : Team :=
  { t with tiles := t'.tiles, merrq := t'.merrq, merrqOvf := t'.merrqOvf, xsinj := t'.xsinj, perf := t.perf.modify 2 (· + 1) }

/-- The core after a step of its array (R421). -/
def Core.worked (k : Core) (clock : Nat) (o : MatOp) (array : List MatOp) : Core :=
  { k.spend clock o.stepAclk with array, fell := if array.isEmpty then some clock else k.fell }

/-- What stands in the array after a step of its first instruction. -/
def MatOp.left (o : MatOp) (rest : List MatOp) : List MatOp :=
  turnArray o.team (if o.steps ≤ o.done + 1 then rest else { o with done := o.done + 1 } :: rest)

section
variable {s : State} {id : CoreId} {o : MatOp} {rest : List MatOp} {t : Team}
  (hid : coreOk id = true) (harray : (s.core id).array = o :: rest) (hteam : s.team o.team = some t)
include hid harray hteam

/-- What holds the array, and a B store that is yet to be exchanged, leave all as it is. -/
theorem execArrayStep_held (h : (s.core id).arrayHeld s.clock o.stepAclk = true ∨ t.bwait = true) : execArrayStep id s = .next s := by
  unfold execArrayStep
  simp only [hid, harray, hteam, Bool.not_true, Bool.false_eq_true, if_false]
  rcases h with h | h
  · rw [if_pos h]
  · rw [if_pos h, ite_self]

variable (hfree : ¬ ((s.core id).arrayHeld s.clock o.stepAclk = true ∨ t.bwait = true))
include hfree

/-- Without the team that supplies A, the instruction leaves the array (R242). -/
theorem execArrayStep_peerGone (hgone : peerGone (s.team o.aTeam) t.id = true) : execArrayStep id s =
    let m := s.modWave ⟨o.team, o.wave⟩ fun w => if w.ended then w else w.losePeer o
    .next (m.setCore { m.core id with array := rest }) := by
  obtain ⟨hheld, hbwait⟩ := not_or.1 hfree
  unfold execArrayStep
  simp only [hid, harray, hheld, hteam, hbwait, hgone, Bool.not_true, Bool.false_eq_true, if_false, if_true]
  rfl

/-- With it, and nothing to inject, the step goes to the tiles, the core and the peer's counters, and the last one to the flag. -/
theorem execArrayStep_steps {at_ : Team} (hthere : peerGone (s.team o.aTeam) t.id = false)
    (hat : (if o.aTeam = t.id then t else (s.team o.aTeam).getD t) = at_) (hxsinj : t.xsinj.msb = false) : execArrayStep id s =
    let m := s.modTeam o.team (·.worked (o.step t at_))
    let m := countPeerStep (m.setCore ((m.core id).worked m.clock o (o.left rest))) o t (s.team o.aTeam)
    .next (if o.steps ≤ o.done + 1 then m.modWave ⟨o.team, o.wave⟩ (·.flagDown o.flag) else m) := by
  obtain ⟨hheld, hbwait⟩ := not_or.1 hfree
  obtain ⟨-, -, hkept⟩ := o.step_eq t at_
  unfold execArrayStep
  simp only [hid, harray, hheld, hteam, hbwait, hthere, hat, injectTile_unarmed (hkept ▸ hxsinj), ite_self, Bool.not_true,
    Bool.false_eq_true, if_false]
  rfl

end

section
variable {s : State} {id : CoreId} {o : MatOp} {rest : List MatOp} {t : Team}
  (hid : coreOk id = true) (harray : (s.core id).array = o :: rest) (hteam : s.team o.team = some t)
  (hfree : ¬ ((s.core id).arrayHeld s.clock o.stepAclk = true ∨ t.bwait = true))
  (hh : s.hand.isSome = true) (ht : s.t.id = o.team) (hd : s.c.die = id.die) (hn : s.c.num = id.core)
include hid harray hteam hfree hh ht hd hn

/-- The deferred BOUND comes to the wave in hand (R242). -/
theorem arrayStep_peerGone (hgone : peerGone (s.team o.aTeam) o.team = true) (hw : s.w.num = o.wave) (hended : s.w.ended = false) :
    RunsTo (.arrayStep id) s { s with c := { s.c with array := rest }, w := s.w.losePeer o } := by
  have hown : t.id = o.team := handTeam_id hh ht hteam
  refine (execArrayStep_peerGone hid harray hteam hfree (hown ▸ hgone)).trans (congrArg Host.Outcome.next ?_)
  rw [handTeam_modWave hh ht hw, handCore_core (by exact hh) (by exact hd) (by exact hn),
    handCore_setCore (id := id) (by exact hh) (by exact hd) (by exact hn) (by exact hd) (by exact hn), hended]
  rfl

/-- Else the instruction goes one step on: its tiles are those after the step, its turn passes, and its flag falls after the last step
(R208, R214, R421). -/
theorem arrayStep_steps {at_ : Team} (hat : s.team o.aTeam = some at_) (hthere : peerGone (some at_) o.team = false)
    (hxsinj : t.xsinj.msb = false) : Runs (.arrayStep id) s fun u =>
      u.t = { s.t.worked (o.step t at_) with waves := u.t.waves } ∧ u.c = s.c.worked s.clock o (o.left rest) ∧ u.mem = s.mem ∧
      (¬ o.steps ≤ o.done + 1 → u.w = s.w) ∧ (o.steps ≤ o.done + 1 → s.w.num = o.wave → u.w = s.w.flagDown o.flag) := by
  have hown : t.id = o.team := handTeam_id hh ht hteam
  have hsupply : (if o.aTeam = t.id then t else (s.team o.aTeam).getD t) = at_ := by
    rw [hat, hown]
    split
    · next h => exact Option.some.inj ((h ▸ hteam).symm.trans hat)
    · rfl
  refine ⟨_, execArrayStep_steps hid harray hteam hfree (by rw [hown, hat]; exact hthere) hsupply hxsinj, ?_⟩
  rw [countPeerStep_eq, handTeam_modTeam hh ht, handCore_core (by exact hh) (by exact hd) (by exact hn),
    handCore_setCore (id := id) (by exact hh) (by exact hd) (by exact hn) (by exact hd) (by exact hn)]
  split
  · next hlast =>
    obtain ⟨hmem, hc, hwaves⟩ := modWave_frame _ ⟨o.team, o.wave⟩ (·.flagDown o.flag)
    refine ⟨hwaves.trans rfl, hc, hmem, fun h => absurd hlast h, fun _ hw => ?_⟩
    rw [handTeam_modWave (by exact hh) (by exact ht) (by exact hw)]
  · next hlast => exact ⟨rfl, rfl, rfl, fun _ => rfl, fun h => absurd h hlast⟩

end

/-- Settles O28: the step by `arrayStep_steps`, its sums by `MatOp.step_elem`. -/
theorem arraySteps : Obligations.ArraySteps := by
  intro s id o rest t hdie hcore harray hteam held
  have hid : coreOk id = true := by simp [coreOk, hdie, hcore]
  refine ⟨execArrayStep_held hid harray hteam, fun hfree hh ht hd hn _ _ => ⟨?_, ?_⟩⟩
  · exact fun hgone hw hended => ⟨_, arrayStep_peerGone hid harray hteam hfree hh ht hd hn hgone hw hended, rfl⟩
  · intro at_ hat hthere hxsinj hfour hrows hkinds hzones hshape hzt a b pat last
    obtain ⟨u, hu, hut, huc, hmem, hgoes, hends⟩ := arrayStep_steps hid harray hteam hfree hh ht hd hn hat hthere hxsinj
    have htiles : u.t.tiles = (o.step t at_).tiles := by rw [hut]; rfl
    refine ⟨u, hu, ?_, ?_, by rw [huc]; rfl, by rw [huc]; rfl, hmem, by rw [hut]; rfl, by rw [hut]; rfl, hgoes, hends⟩
    · intro z hz i j hi hj
      have hpat (n : Nat) : pat n = n % TileKind.patterns (Layout.kind o.layout) := by
        dsimp only [pat]
        cases Layout.kind o.layout <;> rfl
      rw [hpat, htiles, o.step_elem t at_ hfour (fun x hx => (hrows x hx).1) hkinds hzones hshape hzt hz hi hj]
      rfl
    · intro n hn
      rw [htiles, o.step_other t at_ hn]

end Sys2Proof.Machine
end

section
/-! PROOFS. The codes of operands and the fields of words: what a decoder finds in a field has that field as its code (R69 to R79). -/

namespace Sys2Proof.Decoding

/-! Codes. -/

theorem opd_code {c : Nat} {a : Opd} (h : Opd.ofCode c = .ok a) : a.code = c := by
  unfold Opd.ofCode at h
  split_ifs at h <;> cases h <;> simp [Opd.code, Fin.ofNat] <;> omega

theorem dst_code {c : Nat} {d : Dst} (h : Dst.ofCode c = .ok d) : d.code = c := by
  unfold Dst.ofCode at h
  split_ifs at h <;> cases h <;> simp [Dst.code, Dst.toOpd, Opd.code, Fin.ofNat] <;> omega

theorem hreg_code {c : Nat} (h : c < 32) : (HReg.ofCode c).code = c := by
  unfold HReg.ofCode
  split_ifs <;> simp [HReg.code, Fin.ofNat] <;> omega

theorem ty_code {n : Nat} {t : Ty} (h : tyOf n = .ok t) : t.code = n := by
  unfold tyOf at h; split at h <;> cases h <;> rfl

theorem pf_code {n : Nat} {f : PackFmt} (h : pfOf n = .ok f) : f.code = n := by
  unfold pfOf at h; split at h <;> cases h <;> rfl

theorem redOp_code {n : Nat} {o : RedOp} (h : redOpOf n = .ok o) : o.code = n := by
  unfold redOpOf at h; split at h <;> cases h <;> rfl

theorem redTy_code {n : Nat} {t : RedTy} (h : redTyOf n = .ok t) : t.code = n := by
  unfold redTyOf at h; split at h <;> cases h <;> rfl

theorem size_code {n : Nat} {z : MSize} (h : sizeOf? n = .ok z) : z.code = n := by
  unfold sizeOf? at h; split at h <;> cases h <;> rfl

theorem atomOp_code {n : Nat} {p : AtomOp} (h : atomOpOf n = .ok p) : p.code = n := by
  unfold atomOpOf at h; split at h <;> cases h <;> rfl

theorem pfLevel_code {n : Nat} {v : PfLevel} (h : pfLevelOf n = .ok v) : v.code = n := by
  unfold pfLevelOf at h; split at h <;> cases h <;> rfl

theorem hkind_code {n : Nat} {k : HKind} (h : hkindOf n = .ok k) : k.code = n := by
  unfold hkindOf at h; split at h <;> cases h <;> rfl

theorem layout_code {n : Nat} {y : Layout} (h : layoutOf n = .ok y) : y.code = n := by
  unfold layoutOf at h; split at h <;> cases h <;> rfl

theorem zsrc_code {n : Nat} {z : ZSrc} (h : zsrcOf n = .ok z) : z.code = n := by
  unfold zsrcOf at h; split at h <;> cases h <;> rfl

theorem ft_code {n : Nat} (h : n < 4) : (ftOf n).code = n := by
  interval_cases n <;> rfl

theorem rm_code {n : Nat} (h : n < 4) : (rmOf n).code = n := by
  interval_cases n <;> rfl

theorem ct_code {n : Nat} (h : n < 4) : (ctOf n).code = n := by
  interval_cases n <;> rfl

theorem cond_code {n : Nat} (h : n < 8) : (condOf n).code = n := by
  interval_cases n <;> rfl

theorem iw_code {n : Nat} (h : n < 2) : (iwOf n).code = n := by
  interval_cases n <;> rfl

theorem cvtMode_code {n : Nat} (h : n < 4) : (cvtModeOf n).code = n := by
  interval_cases n <;> rfl

theorem scond_code {n : Nat} (h : n < 4) : (scondOf n).code = n := by
  interval_cases n <;> rfl

theorem scope_code {n : Nat} (h : n < 8) : (scopeOf n).code = n := by
  interval_cases n <;> rfl

theorem order_code {n : Nat} (h : n < 4) : (orderOf n).code = n := by
  interval_cases n <;> rfl

theorem sreg_val {c : Nat} (h : c < 64) : (sreg c).val = c := Nat.mod_eq_of_lt h
theorem mreg_val {c : Nat} (h : c < 16) : (mreg c).val = c := Nat.mod_eq_of_lt h

theorem bit_eq_one {n : Nat} (h : n ≤ 1) : b2n (n == 1) = n := by
  interval_cases n <;> rfl

/-! Fields of a word. -/

theorem fld_lt (w lo n : Nat) : fld w lo n < 2 ^ n := Nat.mod_lt _ (by positivity)

@[simp] theorem sreg_fld (w lo : Nat) : (sreg (fld w lo 6)).val = fld w lo 6 := sreg_val (fld_lt ..)
@[simp] theorem mreg_fld (w lo : Nat) : (mreg (fld w lo 4)).val = fld w lo 4 := mreg_val (fld_lt ..)
@[simp] theorem ft_fld (w lo : Nat) : (ftOf (fld w lo 2)).code = fld w lo 2 := ft_code (fld_lt ..)
@[simp] theorem rm_fld (w lo : Nat) : (rmOf (fld w lo 2)).code = fld w lo 2 := rm_code (fld_lt ..)
@[simp] theorem ct_fld (w lo : Nat) : (ctOf (fld w lo 2)).code = fld w lo 2 := ct_code (fld_lt ..)
@[simp] theorem cond_fld (w lo : Nat) : (condOf (fld w lo 3)).code = fld w lo 3 := cond_code (fld_lt ..)
@[simp] theorem iw_fld (w lo : Nat) : (iwOf (fld w lo 1)).code = fld w lo 1 := iw_code (fld_lt ..)
@[simp] theorem scond_fld (w lo : Nat) : (scondOf (fld w lo 2)).code = fld w lo 2 := scond_code (fld_lt ..)
@[simp] theorem scope_fld (w lo : Nat) : (scopeOf (fld w lo 3)).code = fld w lo 3 := scope_code (fld_lt ..)
@[simp] theorem order_fld (w lo : Nat) : (orderOf (fld w lo 2)).code = fld w lo 2 := order_code (fld_lt ..)
@[simp] theorem imm_fld (w lo n : Nat) : (BitVec.ofNat n (fld w lo n)).toNat = fld w lo n := by
  rw [BitVec.toNat_ofNat, Nat.mod_eq_of_lt (fld_lt ..)]

/-- A word of 32 bits, odd as every one is (R62), of the major `M` (R80). -/
structure Word (w M : Nat) : Prop where
  lt : w < 2 ^ 32
  odd : w % 2 = 1
  major : fld w 1 6 = M

section
variable {w M : Nat} (hw : Word w M)
include hw

/-- A word is made of its fields, in each of the formats of R72 to R79. -/
theorem wT_fields {m d a b : Nat} (hm : m = fld w 7 4) (hd : d = fld w 11 7) (ha : a = fld w 18 7) (hb : b = fld w 25 7) :
    wT M m d a b = w := by
  obtain ⟨hlt, hodd, hmaj⟩ := hw
  simp only [fld] at *
  simp only [wT, wMaj]
  omega

theorem wX_fields {m opt c b a : Nat} (hm : m = fld w 7 4) (ho : opt = (xf w).opt) (hc : c = (xf w).c) (hb : b = (xf w).b)
    (ha : a = (xf w).a) : wX M m opt c b a = w := by
  obtain ⟨hlt, hodd, hmaj⟩ := hw
  simp only [fld, xf] at *
  simp only [wX, wMaj]
  omega

theorem wM_fields {z m d b o : Nat} (hz : z = fld w 7 3) (hm : m = fld w 10 1) (hd : d = fld w 11 7) (hb : b = fld w 18 7)
    (ho : o = fld w 25 7) : wM M z m d b o = w := by
  obtain ⟨hlt, hodd, hmaj⟩ := hw
  simp only [fld] at *
  simp only [wM, wMaj]
  omega

theorem wA_fields {o s z b d p : Nat} (hp : p = fld w 7 4) (hd : d = fld w 11 7) (hb : b = fld w 18 7) (hz : z = fld w 25 1)
    (h0 : fld w 26 1 = 0) (hs : s = fld w 27 3) (ho : o = fld w 30 2) : wA M o s z b d p = w := by
  obtain ⟨hlt, hodd, hmaj⟩ := hw
  simp only [fld] at *
  simp only [wA, wMaj]
  omega

theorem wB_fields {m k x i : Nat} (hm : m = fld w 7 4) (hx : x = fld w 11 6) (hk : k = fld w 17 3) (hi : i = fld w 20 12) :
    wB M m k x i = w := by
  obtain ⟨hlt, hodd, hmaj⟩ := hw
  simp only [fld] at *
  simp only [wB, wMaj]
  omega

theorem wCvt_fields {r t f d a : Nat} (ht : t = fld w 7 5) (hf : f = fld w 12 5) (hr : r = fld w 17 1) (hd : d = fld w 18 7)
    (ha : a = fld w 25 7) : wCvt M r t f d a = w := by
  obtain ⟨hlt, hodd, hmaj⟩ := hw
  simp only [fld] at *
  simp only [wCvt, wMaj]
  omega
end

section
variable {w : Nat} (hw : Word w 28)
include hw

theorem wS_fields {op v d a b : Nat} (ho : op = fld w 7 4) (h0 : fld w 11 1 = 0) (hv : v = fld w 12 2) (hd : d = fld w 14 6)
    (ha : a = fld w 20 6) (hb : b = fld w 26 6) : wS op 0 v d a b = w := by
  obtain ⟨hlt, hodd, hmaj⟩ := hw
  simp only [fld] at *
  simp only [wS, wMaj]
  omega

theorem wSI_fields {op v d i : Nat} (ho : op = fld w 7 4) (h1 : fld w 11 1 ≠ 0) (hv : v = fld w 12 2) (hd : d = fld w 14 6)
    (hi : i = fld w 20 12) : wSI op v d i = w := by
  obtain ⟨hlt, hodd, hmaj⟩ := hw
  simp only [fld] at *
  simp only [wSI, wMaj]
  omega
end

theorem wH_fields {h op i s d : Nat} (hlt : h < 65536) (heven : h % 2 = 0) (ho : op = fld h 1 4) (hd : d = fld h 5 5)
    (hs : s = fld h 10 5) (hi : i = fld h 15 1) : wH op i s d = h := by
  simp only [fld] at *
  simp only [wH]
  omega

end Sys2Proof.Decoding
end

section
/-! PROOFS. The rows of lanes and masks: a word that decodes is the encoding of what it decodes to (R72, R79, R81 to R84). -/

namespace Sys2Proof.Decoding

/-- What `r` finds, if anything, has the word `w` as its encoding. -/
def Reads (w : Nat) (r : Dec Instr) : Prop := ∀ i, r = .ok i → encode i = (4, w)

theorem reads_error {w : Nat} (e : Reject) : Reads w (.error e) := fun _ h => by cases h

theorem reads_ok {w v : Nat} {i : Instr} (he : encode i = (4, v)) (hv : v = w) : Reads w (.ok i) := by
  rintro _ ⟨⟩
  rw [he, hv]

theorem reads_ite {w : Nat} {c : Prop} [Decidable c] {r r' : Dec Instr} (h : c → Reads w r) (h' : ¬ c → Reads w r') :
    Reads w (if c then r else r') := by
  split
  · exact h ‹_›
  · exact h' ‹_›

/-- A field that the tables give as 0 is 0 in the encoding (R88). -/
theorem reads_zero {w v n : Nat} {i : Instr} (he : encode i = (4, v)) (hv : n = 0 → v = w) : Reads w (zero? n i) :=
  reads_ite (fun h => reads_ok he (hv h)) fun _ => reads_error _

theorem reads_da {w : Nat} {k : Dst → Opd → Dec Instr}
    (hk : ∀ d a, d.code = fld w 11 7 → a.code = fld w 18 7 → Reads w (k d a)) : Reads w (withDA w k) := by
  unfold withDA
  split
  · next d a hd ha => exact hk d a (dst_code hd) (opd_code ha)
  · exact reads_error _

theorem reads_dab {w : Nat} {k : Dst → Opd → Opd → Dec Instr}
    (hk : ∀ d a b, d.code = fld w 11 7 → a.code = fld w 18 7 → b.code = fld w 25 7 → Reads w (k d a b)) :
    Reads w (withDAB w k) := by
  refine reads_da fun d a hd ha => ?_
  split
  · next b hb => exact hk d a b hd ha (opd_code hb)
  · exact reads_error _

section
variable {w M m : Nat} (hw : Word w M) (hm : fld w 7 4 = m)
include hw hm

/-! Rows of the T and I formats (R72). -/

theorem reads_dab_row {c : Dst → Opd → Opd → Instr} (he : ∀ d a b, encode (c d a b) = (4, wT M m d.code a.code b.code)) :
    Reads w (withDAB w fun d a b => .ok (c d a b)) :=
  reads_dab fun d a b hd ha hb => reads_ok (he d a b) (wT_fields hw hm.symm hd ha hb)

theorem reads_imm_row {c : Dst → Opd → BitVec 7 → Instr} (he : ∀ d a i, encode (c d a i) = (4, wT M m d.code a.code i.toNat)) :
    Reads w (withDA w fun d a => .ok (c d a (imm7 w))) :=
  reads_da fun d a hd ha => reads_ok (he d a _) (wT_fields hw hm.symm hd ha (imm_fld ..))

theorem reads_unary_row {c : Dst → Opd → Instr} (he : ∀ d a, encode (c d a) = (4, wT M m d.code a.code 105)) :
    Reads w (withUnary w fun d a => .ok (c d a)) :=
  reads_ite (fun hb => reads_da fun d a hd ha => reads_ok (he d a) (wT_fields hw hm.symm hd ha hb.symm)) fun _ => reads_error _

end

/-- A row of tables A and B, whose T form and I form lie four majors apart (R72, R81). -/
theorem reads_src_row {w M m : Nat} {i : Bool} (hw : Word w (M + 4 * b2n i)) (hm : fld w 7 4 = m)
    {c : Dst → Opd → Src → Instr} (he : ∀ d a b, encode (c d a b) = (4, wT (M + 4 * b.form) m d.code a.code b.code)) :
    Reads w (withSrc i w fun d a b => .ok (c d a b)) := by
  cases i
  · exact reads_dab_row hw hm fun d a b => he d a (.r b)
  · exact reads_imm_row hw hm fun d a v => he d a (.i v)

theorem decIntA_reads {w : Nat} {iw : IW} {i : Bool} (hw : Word w (1 + 2 * iw.code + 4 * b2n i)) : Reads w (decIntA iw i w) := by
  have hlt := fld_lt w 7 4
  unfold decIntA
  split
  case h_16 =>
    simp only [imp_false] at *
    exact reads_src_row hw (m := 15) (by omega) fun _ _ _ => rfl
  all_goals exact reads_src_row hw ‹_› fun _ _ _ => rfl

theorem decIntB32_reads {w : Nat} {i : Bool} (hw : Word w (2 + 4 * b2n i)) : Reads w (decIntB32 i w) := by
  have unary {m : Nat} {c : Dst → Opd → Instr} (hm : fld w 7 4 = m) (he : ∀ d a, encode (c d a) = (4, wT 2 m d.code a.code 105)) :
      Reads w (if i then .error .minor else withUnary w fun d a => .ok (c d a)) := by
    cases i
    · exact reads_unary_row hw hm he
    · exact reads_error _
  unfold decIntB32
  split
  case h_7 | h_8 | h_9 | h_10 | h_11 | h_12 => exact unary ‹_› fun _ _ => rfl
  case h_16 => exact reads_error _
  all_goals exact reads_src_row hw ‹_› fun _ _ _ => rfl

theorem decIntB64T_reads {w : Nat} (hw : Word w 4) : Reads w (decIntB64T w) := by
  have hlt := fld_lt w 7 4
  unfold decIntB64T
  split
  case h_7 | h_8 | h_9 | h_10 | h_11 | h_12 => exact reads_unary_row hw ‹_› fun _ _ => rfl
  case h_16 =>
    simp only [imp_false] at *
    exact reads_dab_row hw (m := 15) (by omega) fun _ _ _ => rfl
  all_goals exact reads_dab_row hw ‹_› fun _ _ _ => rfl

theorem decIntB64I_reads {w : Nat} (hw : Word w 8) : Reads w (decIntB64I w) := by
  have hlt := fld_lt w 7 4
  unfold decIntB64I
  split
  case h_7 | h_8 | h_9 | h_10 | h_11 | h_12 => exact reads_error _
  case h_16 =>
    simp only [imp_false] at *
    exact reads_imm_row hw (m := 15) (by omega) fun _ _ _ => rfl
  all_goals exact reads_imm_row hw ‹_› fun _ _ _ => rfl

/-! Fields that are read in two parts. -/

theorem fld_split (w lo n m : Nat) : fld w lo (n + m) = fld w (lo + n) m * 2 ^ n + fld w lo n := by
  rw [fld, Nat.pow_add, Nat.mod_mul, Nat.div_div_eq_div_mul, ← Nat.pow_add, Nat.mul_comm, Nat.add_comm]
  rfl

/-- The minor is an operation and a type (R82, R83). -/
theorem minor_type (w : Nat) : fld w 7 4 = fld w 9 2 * 4 + fld w 7 2 := fld_split w 7 2 2
/-- The minor is a format or 0, and a bit. -/
theorem minor_bit (w : Nat) : fld w 7 4 = fld w 8 3 * 2 + fld w 7 1 := fld_split w 7 1 3
/-- The field `d` names a condition and a mask (R83, R138). -/
theorem d_mask (w : Nat) : fld w 11 7 = fld w 15 3 * 16 + fld w 11 4 := fld_split w 11 4 3
/-- The field `d` names a scalar register. -/
theorem d_sreg (w : Nat) : fld w 11 7 = fld w 17 1 * 64 + fld w 11 6 := fld_split w 11 6 1
/-- The field `b` is the selector of WRED and WSCAN (R84). -/
theorem b_selector (w : Nat) : fld w 25 7 = fld w 29 3 * 16 + fld w 25 4 := fld_split w 25 4 3

/-! Floating point (R82). -/

theorem fp_minor {w op : Nat} (h : fld w 9 2 = op) : fld w 7 4 = op * 4 + (ftOf (fld w 7 2)).code := by
  rw [minor_type, h, ft_fld]

section
variable {w : Nat}

theorem decFpA_reads (hw : Word w 9) : Reads w (decFpA w) := by
  have hlt := fld_lt w 9 2
  unfold decFpA
  split
  case h_4 =>
    simp only [imp_false] at *
    exact reads_dab_row hw (fp_minor (op := 3) (by omega)) fun _ _ _ => rfl
  all_goals exact reads_dab_row hw (fp_minor ‹_›) fun _ _ _ => rfl

theorem decFpAI_reads (hw : Word w 14) : Reads w (decFpAI w) := by
  have hlt := fld_lt w 9 2
  unfold decFpAI
  split
  case h_4 =>
    simp only [imp_false] at *
    exact reads_imm_row hw (fp_minor (op := 3) (by omega)) fun _ _ _ => rfl
  all_goals exact reads_imm_row hw (fp_minor ‹_›) fun _ _ _ => rfl

theorem decFpB_reads (hw : Word w 10) : Reads w (decFpB w) := by
  have hlt := fld_lt w 9 2
  unfold decFpB
  split
  case h_4 =>
    simp only [imp_false] at *
    exact reads_dab_row hw (fp_minor (op := 3) (by omega)) fun _ _ _ => rfl
  all_goals exact reads_dab_row hw (fp_minor ‹_›) fun _ _ _ => rfl

theorem decFpBI_reads (hw : Word w 15) : Reads w (decFpBI w) := by
  have hlt := fld_lt w 9 2
  unfold decFpBI
  split
  case h_4 =>
    simp only [imp_false] at *
    exact reads_imm_row hw (fp_minor (op := 3) (by omega)) fun _ _ _ => rfl
  all_goals exact reads_imm_row hw (fp_minor ‹_›) fun _ _ _ => rfl

theorem decFpC_reads (hw : Word w 11) : Reads w (decFpC w) := by
  have hlt := fld_lt w 9 2
  unfold decFpC
  split
  case h_4 =>
    simp only [imp_false] at *
    exact reads_unary_row hw (fp_minor (op := 3) (by omega)) fun _ _ => rfl
  all_goals exact reads_unary_row hw (fp_minor ‹_›) fun _ _ => rfl

theorem decFpD_reads (hw : Word w 12) : Reads w (decFpD w) := by
  have hlt := fld_lt w 9 2
  unfold decFpD
  split
  case h_4 =>
    simp only [imp_false] at *
    exact reads_unary_row hw (fp_minor (op := 3) (by omega)) fun _ _ => rfl
  all_goals exact reads_unary_row hw (fp_minor ‹_›) fun _ _ => rfl

theorem decFrnd_reads (hw : Word w 13) : Reads w (decFrnd w) :=
  reads_unary_row hw (fp_minor (rm_fld ..).symm) fun _ _ => rfl

end

/-! Compare, move, convert, pack (R79, R83, R84). -/

theorem decCmp_reads {w : Nat} {i : Bool} (hw : Word w (16 + b2n i)) : Reads w (decCmp i w) := by
  unfold decCmp
  split
  · exact reads_error _
  next a ha =>
    split
    · exact reads_error _
    next b hb =>
      have hform : b.form = b2n i ∧ b.code = fld w 25 7 := by
        cases i
        · simp only [Bool.false_eq_true, if_false] at hb
          cases ho : Opd.ofCode (fld w 25 7) <;> rw [ho] at hb <;> cases hb
          exact ⟨rfl, opd_code ho⟩
        · cases hb
          exact ⟨rfl, imm_fld ..⟩
      obtain ⟨hform, hcode⟩ := hform
      have hd : (condOf (fld w 15 3)).code * 16 + (mreg (fld w 11 4)).val = fld w 11 7 := by
        rw [d_mask, cond_fld, mreg_fld]
      split
      · next h =>
        refine reads_ok rfl (wT_fields (hform ▸ hw) ?_ hd (opd_code ha) hcode)
        rw [minor_type, h, ct_fld, Nat.zero_mul, Nat.zero_add]
      · next h =>
        refine reads_ok rfl (wT_fields (hform ▸ hw) ?_ hd (opd_code ha) hcode)
        rw [minor_type, h, ft_fld]
      · exact reads_error _

theorem decMov_reads {w : Nat} (hw : Word w 18) : Reads w (decMov w) := by
  refine reads_ite (fun h => reads_unary_row hw ?_ fun _ _ => rfl) fun _ => reads_error _
  rw [minor_bit, h, iw_fld, Nat.zero_mul, Nat.zero_add]

theorem decMovi_reads {w : Nat} (hw : Word w 19) : Reads w (decMovi w) := by
  refine reads_ite (fun h => reads_ite (fun ha => ?_) fun _ => reads_error _) fun _ => reads_error _
  split
  · next d hd =>
    refine reads_ok rfl (wT_fields hw ?_ (dst_code hd) ha.symm (imm_fld ..))
    rw [minor_bit, h, iw_fld, Nat.zero_mul, Nat.zero_add]
  · exact reads_error _

theorem cvt_reads {w M r : Nat} (hw : Word w M) (hr : fld w 17 1 = r) {c : Ty → Ty → Dst → Opd → Instr}
    (he : ∀ t f d a, encode (c t f d a) = (4, wCvt M r t.code f.code d.code a.code)) :
    Reads w (withCvt w fun t f d a => .ok (c t f d a)) := by
  unfold withCvt
  split
  · next t f d a ht hf hd ha =>
    exact reads_ok (he t f d a) (wCvt_fields hw (ty_code ht) (ty_code hf) hr.symm (dst_code hd) (opd_code ha))
  · exact reads_error _

theorem decPack_reads {w : Nat} (hw : Word w 25) : Reads w (decPack w) := by
  unfold decPack
  split
  · exact reads_error _
  next f hf =>
    have hc := pf_code hf
    refine reads_ite (fun h => reads_unary_row hw ?_ fun _ _ => rfl) fun h => reads_unary_row hw ?_ fun _ _ => rfl
    · rw [minor_bit, h, hc, Nat.add_zero]
    · rw [minor_bit, hc]
      have := fld_lt w 7 1
      omega

/-! Lanes and masks (R84, R138, R142). -/

theorem vote_reads {w m : Nat} (hw : Word w 26) (hm : fld w 7 4 = m) {c : MReg → Opd → Instr}
    (he : ∀ x a, encode (c x a) = (4, wT 26 m x.val a.code 105)) : Reads w (withVote w fun x a => c x a) := by
  refine reads_ite (fun ⟨hb, h0⟩ => ?_) fun _ => reads_error _
  split
  · next a ha =>
    refine reads_ok (he _ a) (wT_fields hw hm.symm ?_ (opd_code ha) hb.symm)
    rw [d_mask, h0, mreg_fld, Nat.zero_mul, Nat.zero_add]
  · exact reads_error _

theorem red_reads {w m : Nat} (hw : Word w 26) (hm : fld w 7 4 = m) {c : RedOp → RedTy → Dst → Opd → Instr}
    (he : ∀ o t d a, encode (c o t d a) = (4, wT 26 m d.code a.code (o.code * 16 + t.code))) :
    Reads w (withRed w fun o t d a => .ok (c o t d a)) := by
  unfold withRed
  split
  · next o t ho ht =>
    refine reads_da fun d a hd ha => reads_ok (he o t d a) (wT_fields hw hm.symm hd ha ?_)
    rw [redOp_code ho, redTy_code ht, b_selector]
  · exact reads_error _

theorem decXlane_reads {w : Nat} (hw : Word w 26) : Reads w (decXlane w) := by
  unfold decXlane
  split
  case h_6 | h_7 | h_8 => exact vote_reads hw ‹_› fun _ _ => rfl
  case h_9 | h_10 => exact red_reads hw ‹_› fun _ _ _ _ => rfl
  case h_11 h =>
    refine reads_ite (fun h0 => ?_) fun _ => reads_error _
    split
    · next a b ha hb =>
      refine reads_ok rfl (wT_fields hw h.symm ?_ (opd_code ha) (opd_code hb))
      rw [d_sreg, h0, sreg_fld, Nat.zero_mul, Nat.zero_add]
    · exact reads_error _
  case h_12 => exact reads_error _
  all_goals exact reads_dab_row hw ‹_› fun _ _ _ => rfl

theorem mreg_le {n : Nat} (h : n ≤ 15) : (mreg n).val = n := mreg_val (by omega)
theorem sreg_le {n : Nat} (h : n ≤ 63) : (sreg n).val = n := sreg_val (by omega)

theorem decMask_reads {w : Nat} (hw : Word w 27) : Reads w (decMask w) := by
  refine reads_ite (fun ha => ?_) fun _ => reads_error _
  split
  case h_1 h | h_2 h | h_3 h =>
    exact reads_ite (fun ⟨hd, hb⟩ => reads_ok rfl (wT_fields hw h.symm (mreg_le hd) (mreg_le ha) (mreg_le hb))) fun _ => reads_error _
  case h_4 h =>
    exact reads_ite (fun ⟨hd, hb⟩ => reads_ok rfl (wT_fields hw h.symm (mreg_le hd) (mreg_le ha) hb.symm)) fun _ => reads_error _
  case h_5 h | h_6 h =>
    exact reads_ite (fun ⟨hd, hb⟩ => reads_ok rfl (wT_fields hw h.symm (sreg_le hd) (mreg_le ha) hb.symm)) fun _ => reads_error _
  case h_7 => exact reads_error _

end Sys2Proof.Decoding
end

section
/-! PROOFS. The rows of scalars, memory, atomics and control (R74 to R76, R78, R84 to R86). -/

namespace Sys2Proof.Decoding

/-! Scalars (R74, R84). -/

section
variable {w m v : Nat} (hw : Word w 28) (hm : fld w 7 4 = m)
include hw hm

/-- A row of the S format: its field V is `v`, or is used by the row's meaning. -/
theorem s3_reads {used : Bool} {c : SReg → SReg → SReg → Instr} (h0 : fld w 11 1 = 0)
    (hv : (if used then 0 else fld w 12 2) = 0 → fld w 12 2 = v)
    (he : ∀ d a b, encode (c d a b) = (4, wS m 0 v d.val a.val b.val)) : Reads w (withS3 w used fun d a b => c d a b) :=
  reads_zero (he ..) fun h => wS_fields hw hm.symm h0 (hv h).symm (sreg_fld ..) (sreg_fld ..) (sreg_fld ..)

theorem si_reads {used : Bool} {c : SReg → BitVec 12 → Instr} (h1 : fld w 11 1 ≠ 0)
    (hv : (if used then 0 else fld w 12 2) = 0 → fld w 12 2 = v)
    (he : ∀ d i, encode (c d i) = (4, wSI m v d.val i.toNat)) : Reads w (withSI w used fun d i => c d i) :=
  reads_zero (he ..) fun h => wSI_fields hw hm.symm h1 (hv h).symm (sreg_fld ..) (imm_fld ..)

end

theorem bit_above_two {n : Nat} (h : 2 ≤ n) (hlt : n < 4) : 2 + b2n (n == 3) = n := by
  interval_cases n <;> rfl

theorem decScalar_reads {w : Nat} (hw : Word w 28) : Reads w (decScalar w) := by
  have above (h : 2 ≤ fld w 12 2) : fld w 12 2 = 2 + b2n (fld w 12 2 == 3) := (bit_above_two h (fld_lt ..)).symm
  unfold decScalar
  refine reads_ite (fun h0 => ?_) fun h1 => ?_
  · split
    case h_8 h => exact reads_ite (fun hv => s3_reads hw h h0 (fun _ => (bit_eq_one hv).symm) fun _ _ _ => rfl) fun _ => reads_error _
    case h_9 h => exact s3_reads hw h h0 (fun _ => (scond_fld ..).symm) fun _ _ _ => rfl
    case h_10 h =>
      refine reads_ite (fun hb => reads_zero rfl fun hv => ?_) fun _ => reads_error _
      exact wS_fields hw h.symm h0 hv.symm (sreg_fld ..) (sreg_fld ..) hb.symm
    case h_11 h => exact reads_ite (fun hv => s3_reads hw h h0 (fun _ => above hv) fun _ _ _ => rfl) fun _ => reads_error _
    case h_12 => exact reads_error _
    all_goals exact s3_reads hw ‹_› h0 id fun _ _ _ => rfl
  · split
    case h_8 h => exact reads_ite (fun hv => si_reads hw h h1 (fun _ => (bit_eq_one hv).symm) fun _ _ => rfl) fun _ => reads_error _
    case h_9 h => exact si_reads hw h h1 (fun _ => (scond_fld ..).symm) fun _ _ => rfl
    case h_11 h => exact reads_ite (fun hv => si_reads hw h h1 (fun _ => above hv) fun _ _ => rfl) fun _ => reads_error _
    case h_12 => exact reads_error _
    all_goals exact si_reads hw ‹_› h1 id fun _ _ => rfl

/-! Memory and atomics (R75, R76, R85). -/

theorem mmode_code {w order : Nat} {m : MMode} (h : mmode? w order = .ok m) : m.bit = fld w 10 1 ∧ m.code order = fld w 25 7 := by
  unfold mmode? at h
  split_ifs at h with h0 hord
  · cases h
    exact ⟨h0.symm, imm_fld ..⟩
  · cases h
    obtain ⟨hord, hz⟩ := hord
    have hbit := fld_lt w 10 1
    have hhi : fld w 25 7 = fld w 30 2 * 32 + fld w 25 5 := fld_split w 25 5 2
    have hmid : fld w 25 5 = fld w 27 3 * 4 + fld w 25 2 := fld_split w 25 2 3
    simp only [MMode.bit, MMode.code, scope_fld]
    omega

section
variable {w M : Nat} (hw : Word w M)
include hw

theorem load_reads {c : MSize → MMode → Dst → Opd → Instr}
    (he : ∀ z m d b, encode (c z m d b) = (4, wM M z.code m.bit d.code b.code (m.code 1))) :
    Reads w (withLoad w fun z m d b => c z m d b) := by
  unfold withLoad
  split
  · next z m d b hz hm hd hb =>
    obtain ⟨hbit, hcode⟩ := mmode_code hm
    exact reads_ok (he z m d b) (wM_fields hw (size_code hz) hbit (dst_code hd) (opd_code hb) hcode)
  · exact reads_error _

theorem store_reads {c : MSize → MMode → Opd → Opd → Instr}
    (he : ∀ z m d b, encode (c z m d b) = (4, wM M z.code m.bit d.code b.code (m.code 2))) :
    Reads w (withStore w fun z m d b => c z m d b) := by
  unfold withStore
  split
  · next z m d b hz hm hd hb =>
    obtain ⟨hbit, hcode⟩ := mmode_code hm
    exact reads_ok (he z m d b) (wM_fields hw (size_code hz) hbit (opd_code hd) (opd_code hb) hcode)
  · exact reads_error _

theorem load0_reads {c : MSize → BitVec 7 → Dst → Opd → Instr}
    (he : ∀ z o d b, encode (c z o d b) = (4, wM M z.code 0 d.code b.code o.toNat)) :
    Reads w (withLoad0 w fun z o d b => c z o d b) := by
  unfold withLoad0
  split
  · next z d b hz hd hb =>
    exact reads_zero (he z _ d b) fun h0 => wM_fields hw (size_code hz) h0.symm (dst_code hd) (opd_code hb) (imm_fld ..)
  · exact reads_error _

theorem store0_reads {c : MSize → BitVec 7 → Opd → Opd → Instr}
    (he : ∀ z o d b, encode (c z o d b) = (4, wM M z.code 0 d.code b.code o.toNat)) :
    Reads w (withStore0 w fun z o d b => c z o d b) := by
  unfold withStore0
  split
  · next z d b hz hd hb =>
    exact reads_zero (he z _ d b) fun h0 => wM_fields hw (size_code hz) h0.symm (opd_code hd) (opd_code hb) (imm_fld ..)
  · exact reads_error _

theorem atom_reads {c : Order → Scope → IW → AtomOp → Opd → Opd → Instr}
    (he : ∀ o s iw p d b, encode (c o s iw p d b) = (4, wA M o.code s.code iw.code b.code d.code p.code)) :
    Reads w (withAtom w fun o s iw p d b => c o s iw p d b) := by
  unfold withAtom
  split
  · next p d b hp hd hb =>
    exact reads_zero (he ..) fun h0 =>
      wA_fields hw (atomOp_code hp) (opd_code hd) (opd_code hb) (iw_fld ..) h0 (scope_fld ..) (order_fld ..)
  · exact reads_error _

end

theorem decSldg_reads {w : Nat} (hw : Word w 45) : Reads w (decSldg w) := by
  refine reads_ite (fun hsize => reads_ite (fun ⟨hd, hb⟩ => reads_ok rfl ?_) fun _ => reads_error _) fun _ => reads_error _
  rw [iw_fld, sreg_fld, sreg_fld]
  obtain ⟨hlt, hodd, hmaj⟩ := hw
  simp only [fld] at *
  simp only [wS, wMaj]
  omega

theorem decPrefg_reads {w : Nat} (hw : Word w 46) : Reads w (decPrefg w) := by
  unfold decPrefg
  split
  · next v b hv hb =>
    have hmode : fld w 7 4 = fld w 10 1 * 8 + fld w 7 3 := fld_split w 7 3 1
    refine reads_zero rfl fun h0 => wM_fields hw ?_ ?_ (pfLevel_code hv) (opd_code hb) (imm_fld ..)
    · omega
    · omega
  · exact reads_error _

theorem decTags_reads {w : Nat} (hw : Word w 47) : Reads w (decTags w) := by
  unfold decTags
  split
  · exact reads_unary_row hw ‹_› fun _ _ => rfl
  · exact reads_dab_row hw ‹_› fun _ _ _ => rfl
  · exact reads_unary_row hw ‹_› fun _ _ => rfl
  · exact reads_error _

/-! Control (R86). -/

section
variable {w : Nat}

theorem decCtrl_reads (hw : Word w 48) : Reads w (decCtrl w) := by
  refine reads_ite (fun hk => ?_) fun _ => reads_error _
  split
  case h_1 h | h_8 h | h_9 h => exact reads_zero rfl fun h0 => wB_fields hw h.symm h0.symm hk.symm (imm_fld ..)
  case h_2 h =>
    exact reads_ite (fun hx => reads_ok rfl (wB_fields hw h.symm (mreg_le hx) hk.symm (imm_fld ..))) fun _ => reads_error _
  case h_3 h => exact reads_ok rfl (wB_fields hw h.symm (sreg_fld ..) hk.symm (imm_fld ..))
  case h_4 h =>
    exact reads_ite (fun hx => reads_zero rfl fun h0 => wB_fields hw h.symm (mreg_le hx) hk.symm h0.symm) fun _ => reads_error _
  case h_5 h | h_6 h | h_7 h => exact reads_zero rfl fun h0 => wB_fields hw h.symm (by omega) hk.symm (by omega)
  case h_10 => exact reads_error _

/-- The link bit of FJMP is the lowest of the field K. -/
theorem ctrlx_link (w : Nat) : fld w 17 3 = fld w 18 2 * 2 + fld w 17 1 := fld_split w 17 1 2
theorem ctrlx_rest (w : Nat) : fld w 17 15 = fld w 20 12 * 8 + fld w 17 3 := fld_split w 17 3 12
theorem cfetch_slot (w : Nat) : fld w 20 12 = fld w 23 9 * 8 + fld w 20 3 := fld_split w 20 3 9

theorem decCtrlx_reads (hw : Word w 49) : Reads w (decCtrlx w) := by
  have hrest := ctrlx_rest w
  unfold decCtrlx
  split
  case h_1 h | h_3 h => exact reads_zero rfl fun h0 => wB_fields hw h.symm (sreg_fld ..) (by omega) (by omega)
  case h_2 h =>
    refine reads_zero rfl fun h0 => wB_fields hw h.symm (sreg_fld ..) ?_ (imm_fld ..)
    have hlink := fld_lt w 17 1
    rw [bit_eq_one (by omega), ctrlx_link, h0, Nat.zero_mul, Nat.zero_add]
  case h_4 h =>
    refine reads_zero rfl fun h0 => wB_fields hw h.symm (sreg_fld ..) (by omega) ?_
    have hslot := cfetch_slot w
    have hlt := fld_lt w 20 3
    simp only [Fin.ofNat]
    omega
  case h_5 => exact reads_error _

end

end Sys2Proof.Decoding
end

section
/-! PROOFS. The rows of the X format and the halfwords, and the decoder as a whole (R62, R63, R71, R77, R80, R88). -/

namespace Sys2Proof.Decoding

/-! The X format (R77). -/

section
variable {w : Nat}

theorem xf_opt_lt (w : Nat) : (xf w).opt < 8 := fld_lt ..
theorem xf_a_lt (w : Nat) : (xf w).a < 64 := fld_lt ..
theorem xf_b_lt (w : Nat) : (xf w).b < 64 := fld_lt ..
@[simp] theorem sreg_c (w : Nat) : (sreg (xf w).c).val = (xf w).c := sreg_fld ..
@[simp] theorem sreg_b (w : Nat) : (sreg (xf w).b).val = (xf w).b := sreg_fld ..
@[simp] theorem sreg_a (w : Nat) : (sreg (xf w).a).val = (xf w).a := sreg_fld ..
@[simp] theorem imm_b (w : Nat) : (BitVec.ofNat 6 (xf w).b).toNat = (xf w).b := imm_fld ..
@[simp] theorem imm_a (w : Nat) : (BitVec.ofNat 6 (xf w).a).toNat = (xf w).a := imm_fld ..
@[simp] theorem scope_opt (w : Nat) : (scopeOf (xf w).opt).code = (xf w).opt := scope_fld ..

section
variable {M m opt c b a : Nat} {i : Instr} (hw : Word w M) (hm : fld w 7 4 = m) (he : encode i = (4, wX M m opt c b a))
include hw hm he

/-- A row of the X format. -/
theorem x_reads (hf : opt = (xf w).opt ∧ c = (xf w).c ∧ b = (xf w).b ∧ a = (xf w).a) : Reads w (.ok i) :=
  reads_ok he (wX_fields hw hm.symm hf.1 hf.2.1 hf.2.2.1 hf.2.2.2)

/-- A row of the X format with fields that the tables give as 0. -/
theorem x_reads_zero {n : Nat} (hf : n = 0 → opt = (xf w).opt ∧ c = (xf w).c ∧ b = (xf w).b ∧ a = (xf w).a) :
    Reads w (zero? n i) :=
  reads_ite (fun h => x_reads hw hm he (hf h)) fun _ => reads_error _

/-- A row of the X format whose opt is a bit, with fields that the tables give as 0. -/
theorem x_reads_bit {n : Nat} (hf : (xf w).opt ≤ 1 → n = 0 → opt = (xf w).opt ∧ c = (xf w).c ∧ b = (xf w).b ∧ a = (xf w).a) :
    Reads w (if (xf w).opt ≤ 1 then zero? n i else .error .reserved) :=
  reads_ite (fun h => x_reads_zero hw hm he (hf h)) fun _ => reads_error _

end

theorem decSync_reads (hw : Word w 29) : Reads w (decSync w) := by
  unfold decSync
  dsimp only
  split
  · next h =>
    refine reads_ite (fun ha => ?_) fun _ => reads_error _
    have hs : (scopeOf (xf w).a).code = (xf w).a := scope_code (by omega)
    split
    · next ho => exact x_reads_zero hw h rfl fun hz => by simp only [Nat.add_eq_zero_iff] at hz; simp [hs, ho, hz, FenceOrder.code]
    · next ho => exact x_reads_zero hw h rfl fun hz => by simp only [Nat.add_eq_zero_iff] at hz; simp [hs, ho, hz, FenceOrder.code]
    · next ho => exact x_reads_zero hw h rfl fun hz => by simp only [Nat.add_eq_zero_iff] at hz; simp [hs, ho, hz, FenceOrder.code]
    · exact reads_error _
  · next h =>
    split
    · next k hk => exact x_reads_zero hw h rfl fun hz => by simp only [Nat.add_eq_zero_iff] at hz; simp [hkind_code hk, hz]
    · exact reads_error _
  case h_3 h | h_4 h | h_5 h => exact x_reads_zero hw h rfl fun hz => by simp only [Nat.add_eq_zero_iff] at hz; simp [hz]
  case h_6 => exact reads_error _

theorem decBarrier_reads (hw : Word w 30) : Reads w (decBarrier w) := by
  unfold decBarrier
  dsimp only
  split
  case h_2 h | h_3 h =>
    split
    · next k hk => exact x_reads hw h rfl (by simp [hkind_code hk])
    · exact reads_error _
  case h_5 h => exact x_reads_bit hw h rfl fun ho hz => by simp only [Nat.add_eq_zero_iff] at hz; simp [bit_eq_one ho, hz]
  case h_6 => exact reads_error _
  all_goals exact x_reads_zero hw ‹_› rfl fun hz => by simp only [Nat.add_eq_zero_iff] at hz; simp [hz, xf_a_lt, xf_b_lt]

theorem decSpool_reads (hw : Word w 31) : Reads w (decSpool w) := by
  unfold decSpool
  dsimp only
  split
  case h_1 h | h_5 h => exact x_reads_bit hw h rfl fun ho hz => by simp [bit_eq_one ho, hz]
  case h_4 h =>
    split
    · next ho => exact x_reads hw h rfl (by simp [ho])
    · next ho => exact x_reads hw h rfl (by simp [ho])
    · exact reads_error _
  case h_7 => exact reads_error _
  all_goals exact x_reads_zero hw ‹_› rfl fun hz => by simp [hz]

theorem decMatrix_reads (hw : Word w 50) : Reads w (decMatrix w) := by
  unfold decMatrix
  dsimp only
  split
  · next h =>
    split
    · next ho => exact x_reads_zero hw h rfl fun hz => by simp only [Nat.add_eq_zero_iff] at hz; simp [ho, hz]
    · next ho => exact x_reads_zero hw h rfl fun hz => by simp only [Nat.add_eq_zero_iff] at hz; simp [ho, hz]
    · exact reads_error _
  case h_2 h | h_3 h =>
    split
    · next y hy => exact x_reads hw h rfl (by simp [layout_code hy])
    · exact reads_error _
  case h_4 h =>
    refine reads_ite (fun ho => x_reads_zero hw h rfl fun hz => ?_) fun _ => reads_error _
    have hbits : b2n ((xf w).opt % 2 == 1) + 2 * b2n (decide (2 ≤ (xf w).opt)) = (xf w).opt := by
      interval_cases (xf w).opt <;> rfl
    simp only [Nat.add_eq_zero_iff] at hz
    simp [hbits, hz]
  case h_5 h =>
    split
    · next z hz =>
      have hbits : (xf w).opt % 4 + 4 * b2n (decide (4 ≤ (xf w).opt)) = (xf w).opt := by
        have := xf_opt_lt w
        interval_cases (xf w).opt <;> rfl
      exact x_reads hw h rfl (by simp [zsrc_code hz, hbits])
    · exact reads_error _
  case h_6 h => exact x_reads_zero hw h rfl fun hz => by simp [hz]
  case h_7 => exact reads_error _

theorem decSeam_reads (hw : Word w 51) : Reads w (decSeam w) := by
  unfold decSeam
  dsimp only
  split
  case h_4 h => exact x_reads_bit hw h rfl fun ho hz => by simp [bit_eq_one ho, hz]
  case h_5 h => exact x_reads_bit hw h rfl fun ho hz => by simp only [Nat.add_eq_zero_iff] at hz; simp [bit_eq_one ho, hz]
  case h_6 => exact reads_error _
  all_goals exact x_reads_zero hw ‹_› rfl fun hz => by simp only [Nat.add_eq_zero_iff] at hz; simp [hz]

theorem decTile_reads (hw : Word w 52) : Reads w (decTile w) := by
  refine reads_ite (fun ha => ?_) fun _ => reads_error _
  have hgroup : (xf w).a / 4 % 16 * 4 = (xf w).a := by
    have := xf_a_lt w
    omega
  split
  case h_1 h | h_4 h =>
    exact reads_ite (fun ho => x_reads hw h rfl (by simp [bit_eq_one ho, hgroup])) fun _ => reads_error _
  case h_2 h | h_3 h => exact x_reads_zero hw h rfl fun hz => by simp [hz, hgroup]
  case h_5 h => exact x_reads_zero hw h rfl fun hz => by simp only [Nat.add_eq_zero_iff] at hz; simp [hz, hgroup]
  case h_6 => exact reads_error _

theorem decJobs_reads (hw : Word w 53) : Reads w (decJobs w) := by
  unfold decJobs
  dsimp only
  split
  · next h => exact x_reads_zero hw h rfl fun hz => by simp only [Nat.add_eq_zero_iff] at hz; simp [hz]
  · next h => exact x_reads_zero hw h rfl fun hz => by simp [hz]
  · next h => exact x_reads_zero hw h rfl fun hz => by simp [hz]
  · exact reads_error _

theorem decFinish_reads (hw : Word w 54) : Reads w (decFinish w) := by
  unfold decFinish
  dsimp only
  split
  case h_3 h => exact reads_ite (fun ho => x_reads hw h rfl (by simp [bit_eq_one ho])) fun _ => reads_error _
  case h_6 => exact reads_error _
  all_goals exact x_reads_zero hw ‹_› rfl fun hz => by simp only [Nat.add_eq_zero_iff] at hz; simp [hz]

theorem decCapsule_reads (hw : Word w 55) : Reads w (decCapsule w) := by
  unfold decCapsule
  dsimp only
  split
  case h_1 h | h_4 h => exact x_reads_bit hw h rfl fun ho hz => by simp [bit_eq_one ho, hz]
  case h_6 => exact reads_error _
  all_goals exact x_reads_zero hw ‹_› rfl fun hz => by simp only [Nat.add_eq_zero_iff] at hz; simp [hz]

theorem decHem_reads (hw : Word w 56) : Reads w (decHem w) := by
  unfold decHem
  dsimp only
  split
  case h_3 => exact reads_error _
  all_goals exact x_reads_zero hw ‹_› rfl fun hz => by simp only [Nat.add_eq_zero_iff] at hz; simp [hz]

theorem decSystem_reads (hw : Word w 57) : Reads w (decSystem w) := by
  unfold decSystem
  dsimp only
  split
  case h_1 h =>
    split
    case h_4 => exact reads_error _
    all_goals
      next ho => exact x_reads_zero hw h rfl fun hz => by simp only [Nat.add_eq_zero_iff] at hz; simp [ho, hz]
  case h_2 h =>
    split
    · next ho => exact x_reads_zero hw h rfl fun hz => by simp [ho, hz]
    · next ho => exact x_reads_zero hw h rfl fun hz => by simp [ho, hz]
    · next ho => exact x_reads_zero hw h rfl fun hz => by simp only [Nat.add_eq_zero_iff] at hz; simp [ho, hz]
    · exact reads_error _
  case h_6 => exact reads_error _
  all_goals exact x_reads_zero hw ‹_› rfl fun hz => by simp only [Nat.add_eq_zero_iff] at hz; simp [hz, xf_a_lt, xf_b_lt]

theorem decClause_reads (hw : Word w 63) : Reads w (decClause w) := by
  have hbit := fld_lt w 31 1
  refine reads_ok rfl ?_
  rw [bit_eq_one (by omega), mreg_fld, mreg_fld, mreg_fld, imm_fld]
  obtain ⟨hlt, hodd, hmaj⟩ := hw
  simp only [fld] at *
  simp only [wMaj]
  omega

theorem ext_reads (hw : Word w 62) : Reads w (.ok (.ext (BitVec.ofNat 25 (fld w 7 25)))) := by
  refine reads_ok rfl ?_
  rw [imm_fld]
  obtain ⟨hlt, hodd, hmaj⟩ := hw
  simp only [fld] at *
  simp only [wMaj]
  omega

end

/-- A word of 32 bits that decodes is the encoding of what it decodes to (R80). -/
theorem decode32Raw_reads {w : Nat} (hlt : w < 2 ^ 32) (hodd : w % 2 = 1) : Reads w (decode32Raw w) := by
  have word {M : Nat} (h : fld w 1 6 = M) : Word w M := ⟨hlt, hodd, h⟩
  unfold decode32Raw
  split
  case h_1 h | h_3 h => exact decIntA_reads (i := false) (word h)
  case h_5 h | h_7 h => exact decIntA_reads (i := true) (word h)
  case h_2 h => exact decIntB32_reads (i := false) (word h)
  case h_6 h => exact decIntB32_reads (i := true) (word h)
  case h_4 h => exact decIntB64T_reads (word h)
  case h_8 h => exact decIntB64I_reads (word h)
  case h_9 h => exact decFpA_reads (word h)
  case h_10 h => exact decFpB_reads (word h)
  case h_11 h => exact decFpC_reads (word h)
  case h_12 h => exact decFpD_reads (word h)
  case h_13 h => exact decFrnd_reads (word h)
  case h_14 h => exact decFpAI_reads (word h)
  case h_15 h => exact decFpBI_reads (word h)
  case h_16 h => exact decCmp_reads (i := false) (word h)
  case h_17 h => exact decCmp_reads (i := true) (word h)
  case h_18 h => exact decMov_reads (word h)
  case h_19 h => exact decMovi_reads (word h)
  case h_20 h | h_21 h => exact reads_dab_row (word h) (mreg_fld ..).symm fun _ _ _ => rfl
  case h_22 h =>
    have hlt := fld_lt w 17 1
    refine cvt_reads (word (h.trans ?_)) ?_ fun _ _ _ _ => rfl <;> rw [cvtMode_code (by omega)] <;> omega
  case h_23 h =>
    have hlt := fld_lt w 17 1
    refine cvt_reads (word (h.trans ?_)) ?_ fun _ _ _ _ => rfl <;> rw [cvtMode_code (by omega)] <;> omega
  case h_24 h => exact reads_ite (fun hr => cvt_reads (word h) hr fun _ _ _ _ => rfl) fun _ => reads_error _
  case h_25 h => exact decPack_reads (word h)
  case h_26 h => exact decXlane_reads (word h)
  case h_27 h => exact decMask_reads (word h)
  case h_28 h => exact decScalar_reads (word h)
  case h_29 h => exact decSync_reads (word h)
  case h_30 h => exact decBarrier_reads (word h)
  case h_31 h => exact decSpool_reads (word h)
  case h_32 h | h_36 h | h_39 h => exact load_reads (word h) fun _ _ _ _ => rfl
  case h_33 h | h_37 h | h_40 h => exact store_reads (word h) fun _ _ _ _ => rfl
  case h_34 h | h_35 h | h_38 h | h_41 h => exact atom_reads (word h) fun _ _ _ _ _ _ => rfl
  case h_42 h | h_44 h => exact load0_reads (word h) fun _ _ _ _ => rfl
  case h_43 h => exact store0_reads (word h) fun _ _ _ _ => rfl
  case h_45 h => exact decSldg_reads (word h)
  case h_46 h => exact decPrefg_reads (word h)
  case h_47 h => exact decTags_reads (word h)
  case h_48 h => exact decCtrl_reads (word h)
  case h_49 h => exact decCtrlx_reads (word h)
  case h_50 h => exact decMatrix_reads (word h)
  case h_51 h => exact decSeam_reads (word h)
  case h_52 h => exact decTile_reads (word h)
  case h_53 h => exact decJobs_reads (word h)
  case h_54 h => exact decFinish_reads (word h)
  case h_55 h => exact decCapsule_reads (word h)
  case h_56 h => exact decHem_reads (word h)
  case h_57 h => exact decSystem_reads (word h)
  case h_58 h => exact ext_reads (word h)
  case h_59 h => exact decClause_reads (word h)
  case h_60 => exact reads_error _

/-! The H format (R71). -/

theorem hsrc_code (h : Nat) :
    let s : HSrc := if fld h 15 1 = 0 then .r (HReg.ofCode (fld h 10 5)) else .i (BitVec.ofNat 5 (fld h 10 5))
    s.form = fld h 15 1 ∧ s.code = fld h 10 5 := by
  dsimp only
  split
  · next h0 => exact ⟨h0.symm, hreg_code (fld_lt ..)⟩
  · next h0 =>
    have := fld_lt h 15 1
    exact ⟨show 1 = _ by omega, imm_fld ..⟩

/-- A halfword that decodes is the encoding of what it decodes to. -/
theorem decode16Raw_encode {h : Nat} {i : Instr} (hlt : h < 65536) (heven : h % 2 = 0) (hd : decode16Raw h = .ok i) :
    encode i = (2, h) := by
  obtain ⟨hform, hcode⟩ := hsrc_code h
  have hdst := hreg_code (fld_lt h 5 5)
  unfold decode16Raw at hd
  dsimp only at hd
  generalize HReg.ofCode (fld h 5 5) = d at hdst hd
  generalize (if fld h 15 1 = 0 then HSrc.r (HReg.ofCode (fld h 10 5)) else .i (BitVec.ofNat 5 (fld h 10 5))) = s at hform hcode hd
  split at hd
  case h_16 hop =>
    have hop : fld h 1 4 = 15 := by
      have := fld_lt h 1 4
      simp only [imp_false] at *
      omega
    have word {n v : Nat} (h0 : fld h 15 1 = 0) (hs : fld h 10 5 = n) (hv : v = fld h 5 5) : wH 15 0 n v = h :=
      wH_fields hlt heven hop.symm hv hs.symm h0.symm
    have zero {n : Nat} {j : Instr} (hs : fld h 10 5 = n) (he : encode j = (2, wH 15 0 n 0)) (h0 : fld h 15 1 = 0)
        (hz : zero? (fld h 5 5) j = .ok i) : encode i = (2, h) := by
      unfold zero? at hz
      split at hz
      · next hv =>
        cases hz
        exact he.trans (Prod.ext rfl (word h0 hs hv.symm))
      · cases hz
    split at hd
    · next h0 =>
      split at hd
      · next hs => exact zero hs rfl h0 hd
      · next hs => exact zero hs rfl h0 hd
      · next hs =>
        split at hd
        · next hle =>
          cases hd
          exact Prod.ext rfl (word h0 hs (mreg_le hle))
        · cases hd
      · cases hd
    · cases hd
  all_goals
    next ho =>
      cases hd
      exact Prod.ext rfl (wH_fields hlt heven ho.symm hdst hcode hform)

/-! The decoder (R62, R88). -/

theorem checked_ok {r : Dec Instr} {i : Instr} (h : checked r = .ok i) : r = .ok i ∧ i.wf = true := by
  unfold checked at h
  split at h
  · split at h
    · next hwf => cases h; exact ⟨rfl, hwf⟩
    · cases h
  · cases h

theorem decode32_encode {w : Nat} {i : Instr} (hlt : w < 2 ^ 32) (hodd : w % 2 = 1) (h : decode32 w = .ok i) :
    i.wf = true ∧ encode i = (4, w) := by
  obtain ⟨hraw, hwf⟩ := checked_ok h
  exact ⟨hwf, decode32Raw_reads hlt hodd i hraw⟩

theorem decode16_encode {h : Nat} {i : Instr} (hlt : h < 65536) (heven : h % 2 = 0) (hd : decode16 h = .ok i) :
    i.wf = true ∧ encode i = (2, h) := by
  unfold decode16 at hd
  split at hd
  · cases hd
  · obtain ⟨hraw, hwf⟩ := checked_ok hd
    exact ⟨hwf, decode16Raw_encode hlt heven hraw⟩

theorem not_isEvent {i : Instr} {n w : Nat} (he : encode i = (n, w)) (hn : n ≠ 0) : i.isEvent = false := by
  simp [Instr.isEvent, he, hn]

/-- Settles O53: every row of the decoder gives back the fields it has read. -/
theorem decodedWordsAreEncodings : Obligations.DecodedWordsAreEncodings := by
  intro h u i hh hu hd
  unfold decodeHalves at hd
  split at hd
  · next heven =>
    obtain ⟨hwf, he⟩ := decode16_encode hh heven hd
    exact ⟨hwf, not_isEvent he (by decide), by rw [he, if_pos heven]⟩
  · next hodd =>
    obtain ⟨hwf, he⟩ := decode32_encode (by omega) (by omega) hd
    exact ⟨hwf, not_isEvent he (by decide), by rw [he, if_neg hodd]⟩

/-- Refutes O52: MOV K0, K0 of the H format is well-formed, and its halfword is 0x0000, which is no instruction (R63, R71). -/
theorem not_encodedInstructionsDecode : ¬ Obligations.EncodedInstructionsDecode := by
  intro h
  obtain ⟨-, -, -, hword⟩ := h (.movH (.k 0) (.r (.k 0))) [] (by decide) (by decide)
  have hnone : decodeTableWord (8 * (encode (.movH (.k 0) (.r (.k 0)))).1) (encode (.movH (.k 0) (.r (.k 0)))).2 = none := by decide
  exact absurd (hnone.symm.trans hword) (by decide)

/-- Settles O51: each word by decoding it. -/
theorem decodeWords : Obligations.DecodeWords := by
  unfold Obligations.DecodeWords
  decide +kernel

end Sys2Proof.Decoding
end

section
/-! PROOFS. Memory in canonical form (log 2): what keeps it, and the outcomes of a step. The sections below take the functions of the
model in their order and say of each that it keeps the form: `…_canonical` where it gives a state, `…_kept` where it gives an outcome. -/

namespace Sys2Proof.Machine

/-- An outcome whose next state, if it has one, has its memories in canonical form. -/
def Kept (o : Out) : Prop := ∀ t, o = .next t → t.MemCanonical

theorem kept_next {s : State} (h : s.MemCanonical) : Kept (.next s) := by
  rintro _ ⟨⟩
  exact h

theorem kept_fault (f : Fault) : Kept (.fault f) := fun _ h => by cases h

theorem ite_canonical {c : Prop} [Decidable c] {a b : State} (ha : a.MemCanonical) (hb : b.MemCanonical) :
    (if c then a else b).MemCanonical := by
  split <;> assumption

theorem ite_kept {c : Prop} [Decidable c] {a b : Out} (ha : Kept a) (hb : Kept b) : Kept (if c then a else b) := by
  split <;> assumption

theorem foldl_canonical {β : Type} {f : State → β → State} {xs : List β} {s : State} (h : s.MemCanonical)
    (hf : ∀ s x, s.MemCanonical → (f s x).MemCanonical) : (xs.foldl f s).MemCanonical :=
  foldl_keeps State.MemCanonical f hf xs s h

/-- A change of the package's memory that keeps its form, and of other fields. -/
theorem State.MemCanonical.withMem {s u : State} (h : s.MemCanonical) (hm : Memory.wf u.mem = true)
    (e : (u.t.scratch, u.t.bstore, u.teams) = (s.t.scratch, s.t.bstore, s.teams)) : u.MemCanonical := by
  simp only [Prod.mk.injEq] at e
  obtain ⟨hs, hb, ht⟩ := e
  rw [canonical_iff] at h ⊢
  simp only [TeamWf, hs, hb, ht]
  exact ⟨hm, h.2⟩

/-- A change of other fields. -/
theorem State.MemCanonical.update {s u : State} (h : s.MemCanonical)
    (e : (u.mem, u.t.scratch, u.t.bstore, u.teams) = (s.mem, s.t.scratch, s.t.bstore, s.teams)) : u.MemCanonical := by
  obtain ⟨hm, e⟩ := Prod.mk.inj e
  exact h.withMem (by rw [hm]; exact h.1) e

/-- A change of the team in hand and of the lists of teams that keeps their memories. -/
theorem State.MemCanonical.withTeams {s u : State} (h : s.MemCanonical) (ht : TeamWf u.t)
    (hts : ∀ t ∈ u.teams, TeamWf t) (hm : u.mem = s.mem) : u.MemCanonical :=
  (canonical_iff u).2 ⟨by rw [MemWf, hm]; exact h.1, ht, hts⟩

theorem State.MemCanonical.inHand {s : State} (h : s.MemCanonical) : TeamWf s.t := h.2 s.t (by simp)

theorem State.MemCanonical.ofTeam {s : State} (h : s.MemCanonical) {t : Team} (ht : t ∈ s.teams) : TeamWf t :=
  h.2 t (by simp [ht])

theorem State.MemCanonical.withTeam {s : State} {t : Team} (h : s.MemCanonical) (ht : TeamWf t) :
    { s with t }.MemCanonical :=
  h.withTeams ht (fun _ => h.ofTeam) rfl

theorem State.MemCanonical.withCore {s : State} {c : Core} (h : s.MemCanonical) : { s with c }.MemCanonical :=
  h.update rfl

/-- Teams changed beside their memories. -/
theorem map_teamWf {ts : List Team} {f : Team → Team} (h : ∀ t ∈ ts, TeamWf t)
    (hf : ∀ t, TeamWf t → TeamWf (f t)) : ∀ t ∈ ts.map f, TeamWf t := by
  simp only [List.mem_map, forall_exists_index, and_imp, forall_apply_eq_imp_iff₂]
  exact fun t ht => hf t (h t ht)

theorem fst_canonical {α : Type} {p : State × α} {s : State} {x : α} (h : p.1.MemCanonical) (he : p = (s, x)) :
    s.MemCanonical := by
  subst he
  exact h

end Sys2Proof.Machine
end

section
/-! PROOFS. Links, HOME, the event ring and the caches keep memory in canonical form (R291 to R310, R392, R400 to R409, R427). -/

namespace Sys2Proof.Machine

theorem waitRoute_canonical {s : State} {pa die} (h : s.MemCanonical) : (waitRoute s pa die).MemCanonical :=
  ite_canonical (h.update rfl) h

theorem transmit_canonical {s : State} {m} (h : s.MemCanonical) : (transmit s m).MemCanonical := by
  unfold transmit
  split
  · exact h
  · exact ite_canonical (h.update rfl) h

theorem sendRemote_canonical {s : State} {die pa req} (h : s.MemCanonical) : (sendRemote s die pa req).MemCanonical :=
  transmit_canonical (h.update rfl)

theorem sendWrite_canonical {s : State} {die pa data} (h : s.MemCanonical) :
    (sendWrite s die pa data).MemCanonical :=
  ite_canonical (sendRemote_canonical h) h

theorem sendAck_canonical {s : State} {m} (h : s.MemCanonical) : (sendAck s m).MemCanonical := transmit_canonical h

theorem setCore_canonical {s : State} {k} (h : s.MemCanonical) : (s.setCore k).MemCanonical := by
  unfold State.setCore
  refine ite_canonical (h.update rfl) ?_
  split <;> exact h.update rfl

theorem postNow_canonical {s : State} {p e} (h : s.MemCanonical) : (postNow s p e).MemCanonical :=
  h.withMem (postNow_wf s p e h.1) rfl

theorem drainEvents_canonical {s : State} {part n} (h : s.MemCanonical) : (drainEvents s part n).MemCanonical := by
  induction n generalizing s with
  | zero => exact h
  | succ n ih =>
    unfold drainEvents
    split
    · exact h
    · refine ite_canonical ?_ h
      split
      · exact ih (postNow_canonical (h.update rfl))
      · exact h

theorem postEvent_canonical {s : State} {part type detail data free} (h : s.MemCanonical) :
    (postEvent s part type detail data free).MemCanonical := by
  unfold postEvent
  split
  · exact h
  · exact ite_canonical h <| ite_canonical (drainEvents_canonical (h.update rfl)) (h.update rfl)

theorem watchOne_canonical {s : State} {part i atomic pa who} (h : s.MemCanonical) :
    (watchOne s part i atomic pa who).MemCanonical := by
  unfold watchOne
  split
  · exact h
  · refine ite_canonical ?_ h
    extract_lets last
    split
    · split
      · exact postEvent_canonical (h.update rfl)
      · exact h.update rfl
    · split
      · exact postEvent_canonical (h.update rfl)
      · exact h.update rfl

theorem watchAll_canonical {s : State} {atomic pa who} (h : s.MemCanonical) :
    (watchAll s atomic pa who).MemCanonical := by
  unfold watchAll
  split
  · exact h
  · exact foldl_canonical h fun _ _ => watchOne_canonical

theorem lostEvent_canonical {s : State} {pa die} (h : s.MemCanonical) : (lostEvent s pa die).MemCanonical := by
  unfold lostEvent
  split
  · exact postEvent_canonical h
  · exact h

theorem homePut_canonical {who : Writer} {s : State} {pa d} (h : s.MemCanonical) : (homePut who s pa d).MemCanonical :=
  sendWrite_canonical (h.withMem (writeBytes_wf _ _ h.1) rfl)

theorem homeRuns_canonical {s : State} {pa runs atomic who} (h : s.MemCanonical) :
    (homeRuns s pa runs atomic who).MemCanonical :=
  ite_canonical h <|
    ite_canonical (lostEvent_canonical h) (watchAll_canonical (foldl_canonical h fun _ _ => homePut_canonical))

theorem homeWrite_canonical {s : State} {pa d atomic who} (h : s.MemCanonical) :
    (homeWrite s pa d atomic who).MemCanonical :=
  homeRuns_canonical h

theorem portLeaf_canonical {s : State} {id space va} (h : s.MemCanonical) :
    (portLeaf s id space va).1.MemCanonical := by
  unfold portLeaf
  extract_lets k
  split
  · exact h
  · split
    · exact setCore_canonical h
    · split
      · extract_lets x₁
        exact (setCore_canonical h).update rfl
      · exact h

theorem portServe_canonical {s : State} {id space va} (h : s.MemCanonical) :
    (portServe s id space va).1.MemCanonical := by
  unfold portServe
  split
  · next he => exact fst_canonical (portLeaf_canonical h) he
  · next he₁ => exact fst_canonical (portLeaf_canonical h) he₁
  · next he₂ => exact fst_canonical (portLeaf_canonical h) he₂

theorem addFault_canonical {s : State} {f} (h : s.MemCanonical) : (addFault s f).MemCanonical := by
  unfold addFault
  split <;> exact h.update rfl

theorem reportMalformed_canonical {s : State} {space va} (h : s.MemCanonical) :
    (reportMalformed s space va).MemCanonical :=
  addFault_canonical h

theorem pageState_canonical {s : State} {id space va} (h : s.MemCanonical) :
    (pageState s id space va).1.MemCanonical := by
  unfold pageState
  extract_lets k
  split
  · exact h
  · split
    · exact setCore_canonical h
    · exact h

theorem waitWalk_canonical {s : State} {root space va d} (h : s.MemCanonical) :
    (waitWalk s root space va d).MemCanonical := by
  unfold waitWalk
  split
  · split
    · exact h.update rfl
    · exact waitRoute_canonical h
    · exact waitRoute_canonical h
    · exact h
  · exact reportMalformed_canonical h
  · exact h

theorem waitMoving_canonical {s : State} {space va d} (h : s.MemCanonical) : (waitMoving s space va d).MemCanonical :=
  waitWalk_canonical h

theorem waitEntry_canonical {s : State} {space obj} (h : s.MemCanonical) : (waitEntry s space obj).MemCanonical := by
  unfold waitEntry
  split
  · exact waitMoving_canonical h
  · exact h

theorem descOf_canonical {s : State} {id space obj} (h : s.MemCanonical) : (descOf s id space obj).1.MemCanonical := by
  unfold descOf
  extract_lets k
  split
  · exact h
  · split
    · exact setCore_canonical (waitEntry_canonical h)
    · exact waitEntry_canonical h

theorem checkPage_canonical {s : State} {id space va write} (h : s.MemCanonical) :
    (checkPage s id space va write).1.MemCanonical := by
  unfold checkPage
  split
  · next he => exact fst_canonical (pageState_canonical h) he
  · next he₁ => exact fst_canonical (pageState_canonical h) he₁
  · next he₂ =>
    have hs₃ := fst_canonical (pageState_canonical h) he₂
    split
    · exact hs₃
    · split <;> exact hs₃

theorem checkGlobal_canonical {s : State} {id space p n q} (h : s.MemCanonical) :
    (checkGlobal s id space p n q).1.MemCanonical := by
  unfold checkGlobal
  split
  · exact h
  · split
    · next he₁ =>
      have hs₁ := fst_canonical (descOf_canonical h) he₁
      split
      · exact hs₁
      · split
        · next he₂ => exact fst_canonical (checkPage_canonical hs₁) he₂
        · next he₃ =>
          have hs₃ := fst_canonical (checkPage_canonical hs₁) he₃
          split
          · exact hs₃
          · exact checkPage_canonical hs₃

theorem perf_canonical {s : State} {n k} (h : s.MemCanonical) : (s.perf n k).MemCanonical :=
  h.withTeam ⟨h.inHand.1, h.inHand.2⟩

theorem sextantAdd_canonical {s : State} {die i j k n} (h : s.MemCanonical) :
    (sextantAdd s die i j k n).MemCanonical :=
  ite_canonical h (h.update rfl)

theorem countRefill_canonical {s : State} {id pa} (h : s.MemCanonical) : (countRefill s id pa).MemCanonical := by
  unfold countRefill
  split
  · exact ite_canonical (sextantAdd_canonical h) h
  · exact h

theorem homeLine_canonical {s : State} {id space ln} (h : s.MemCanonical) :
    (homeLine s id space ln).1.MemCanonical := by
  unfold homeLine
  split
  · next he => exact countRefill_canonical (waitRoute_canonical (fst_canonical (portServe_canonical h) he))
  · next he₁ => exact countRefill_canonical (waitRoute_canonical (fst_canonical (portServe_canonical h) he₁))
  · next he₂ =>
    have hs₃ := fst_canonical (portServe_canonical h) he₂
    exact hs₃.update rfl
  · next he₃ => exact reportMalformed_canonical (fst_canonical (portServe_canonical h) he₃)
  · next he₄ => exact fst_canonical (portServe_canonical h) he₄

theorem toHome_canonical {s : State} {id y} (h : s.MemCanonical) : (toHome s id y).MemCanonical := by
  unfold toHome
  extract_lets go
  have hgo (s₁ pa) (hs₁ : s₁.MemCanonical) : (go s₁ pa).MemCanonical := (homeRuns_canonical hs₁).update rfl
  split
  · next he => exact hgo _ _ (waitRoute_canonical (fst_canonical (portServe_canonical h) he))
  · next he₁ => exact hgo _ _ (waitRoute_canonical (fst_canonical (portServe_canonical h) he₁))
  · next he₂ =>
    have hs₄ := fst_canonical (portServe_canonical h) he₂
    exact hgo _ _ (hs₄.update rfl)
  · next he₃ => exact reportMalformed_canonical (fst_canonical (portServe_canonical h) he₃)
  · next he₄ => exact fst_canonical (portServe_canonical h) he₄

theorem ccTrim_canonical {s : State} {die x} (h : s.MemCanonical) : (ccTrim s die x).MemCanonical := by
  unfold ccTrim
  extract_lets d n
  split
  · exact h
  · extract_lets s₁ d₁
    have hs₁ : s₁.MemCanonical := ite_canonical (toHome_canonical h) h
    exact hs₁.update rfl

theorem ccPut_canonical {s : State} {die x} (h : s.MemCanonical) : (ccPut s die x).MemCanonical :=
  ccTrim_canonical (h.update rfl)

theorem toCc_canonical {s : State} {id x} (h : s.MemCanonical) : (toCc s id x).MemCanonical := ccPut_canonical h

theorem l1Trim_canonical {s : State} {id ln} (h : s.MemCanonical) : (l1Trim s id ln).MemCanonical := by
  unfold l1Trim
  split
  · exact h
  · exact setCore_canonical (ite_canonical (toCc_canonical h) h)

theorem l1Put_canonical {s : State} {id x} (h : s.MemCanonical) : (l1Put s id x).MemCanonical :=
  l1Trim_canonical (setCore_canonical h)

theorem ccLine_canonical {s : State} {id space ln acc} (h : s.MemCanonical) :
    (ccLine s id space ln acc).1.MemCanonical := by
  unfold ccLine
  extract_lets d cons x
  split
  · exact sextantAdd_canonical h
  · split
    · next he₁ =>
      extract_lets x₁
      exact (ccPut_canonical (fst_canonical (homeLine_canonical h) he₁)).update rfl

theorem l1Line_canonical {s : State} {id space ln al1 acc} (h : s.MemCanonical) :
    (l1Line s id space ln al1 acc).1.MemCanonical := by
  unfold l1Line
  extract_lets x
  split
  · exact h
  · split
    · next he₁ =>
      extract_lets x₁
      exact (l1Put_canonical (fst_canonical (ccLine_canonical h) he₁)).update rfl

theorem loadBytes_canonical {s : State} {id space p al1 acc n} (h : s.MemCanonical) :
    (loadBytes s id space p al1 acc n).1.MemCanonical := by
  induction n generalizing s p with
  | zero => exact h
  | succ n ih =>
    unfold loadBytes
    split
    next hl =>
    split
    next hb =>
    exact fst_canonical (ih (fst_canonical (l1Line_canonical h) hl)) hb

theorem storeL1_storeRest_canonical {s : State} {id space p skip bs} (h : s.MemCanonical) :
    (storeL1.storeRest s id space p skip bs).MemCanonical := by
  induction bs generalizing s p skip with
  | nil => exact h
  | cons b bs ih =>
    unfold storeL1.storeRest
    exact ite_canonical (ih h) (ih (l1Put_canonical h))

theorem storeL1_canonical {s : State} {id space p bs} (h : s.MemCanonical) :
    (storeL1 s id space p bs).MemCanonical := by
  cases bs with
  | nil => exact h
  | cons b bs => exact storeL1_storeRest_canonical (l1Put_canonical h)

theorem renewL1_canonical {s : State} {id space} (h : s.MemCanonical) : (renewL1 s id space).MemCanonical :=
  setCore_canonical h

theorem renewCc_canonical {s : State} {id space} (h : s.MemCanonical) : (renewCc s id space).MemCanonical :=
  (renewL1_canonical h).update rfl

theorem l1Back_canonical {s : State} {id space} (h : s.MemCanonical) : (l1Back s id space).MemCanonical :=
  setCore_canonical (foldl_canonical h fun _ _ => toCc_canonical)

theorem ccBack_canonical {s : State} {id space} (h : s.MemCanonical) : (ccBack s id space).MemCanonical :=
  foldl_canonical h fun _ _ => toHome_canonical

theorem releaseCaches_canonical {s : State} {id space sc} (h : s.MemCanonical) :
    (releaseCaches s id space sc).MemCanonical := by
  unfold releaseCaches
  split
  · exact h
  · exact h
  · exact l1Back_canonical h
  · exact l1Back_canonical h
  · exact ccBack_canonical (l1Back_canonical h)

theorem pushLine_canonical {s : State} {id space ln sc} (h : s.MemCanonical) :
    (pushLine s id space ln sc).MemCanonical := by
  unfold pushLine
  split
  · exact h
  · exact h
  · extract_lets s₁
    have hs₁ : s₁.MemCanonical := by
      unfold s₁
      split
      · split
        · exact setCore_canonical (toCc_canonical h)
        · exact h
      · exact h
    refine ite_canonical hs₁ ?_
    split
    · exact ite_canonical (toHome_canonical hs₁) hs₁
    · exact hs₁

theorem dropLine_canonical {s : State} {id space ln} (h : s.MemCanonical) : (dropLine s id space ln).MemCanonical := by
  unfold dropLine
  extract_lets k s₁ s₂ d cons
  have hs₁ : s₁.MemCanonical := by
    unfold s₁
    split
    · split
      · exact toCc_canonical h
      · exact h
    · exact h
  have hs₂ : s₂.MemCanonical := setCore_canonical hs₁
  split
  · exact hs₂
  · extract_lets s₃ d₁
    have hs₃ : s₃.MemCanonical := ite_canonical (toHome_canonical hs₂) hs₂
    exact hs₃.update rfl

theorem flushCore_canonical {s : State} {id} (h : s.MemCanonical) : (flushCore s id).MemCanonical :=
  setCore_canonical (foldl_canonical h fun _ _ hs₁ => ccBack_canonical (l1Back_canonical hs₁))

theorem flushRange_canonical {s : State} {space lo len} (h : s.MemCanonical) :
    (flushRange s space lo len).MemCanonical := by
  unfold flushRange
  extract_lets here cores s₁
  have hs₁ : s₁.MemCanonical :=
    foldl_canonical h fun _ _ hs => foldl_canonical hs fun _ _ => dropLine_canonical
  refine foldl_canonical hs₁ fun _ _ hs₄ => ?_
  refine foldl_canonical hs₄ fun _ _ hs₅ => ?_
  extract_lets s₆ d₁
  have hs₆ : s₆.MemCanonical := by
    unfold s₆
    split
    · exact toHome_canonical hs₅
    · exact hs₅
  exact hs₆.update rfl

theorem waitRange_canonical {s : State} {space p n d} (h : s.MemCanonical) : (waitRange s space p n d).MemCanonical :=
  foldl_canonical h fun _ _ => waitMoving_canonical

theorem kept_takeBack {s : State} {o : Out} (hs : s.MemCanonical) (ho : Kept o) : Kept (takeBack s o) := by
  unfold takeBack
  split
  · exact ite_kept (kept_next hs) ho
  · exact ho

theorem dieWrite_canonical {s : State} {space p d atomic who die} (h : s.MemCanonical) :
    (dieWrite s space p d atomic who die).MemCanonical := by
  unfold dieWrite
  refine foldl_canonical h fun _ _ hs₁ => ?_
  extract_lets s₂
  have hs₂ : s₂.MemCanonical := waitMoving_canonical hs₁
  split
  · exact homeWrite_canonical hs₂
  · exact hs₂

end Sys2Proof.Machine
end

section
/-! PROOFS. The operations that the meanings share, and lane instructions, keep memory in canonical form (R115 to R144, R344 to R349). -/

namespace Sys2Proof.Machine

theorem modWave_canonical {s : State} {id f} (h : s.MemCanonical) : (s.modWave id f).MemCanonical := by
  unfold State.modWave
  refine ite_canonical ?_ (h.withTeams h.inHand (map_teamWf (fun _ => h.ofTeam) fun t ht => by split <;> exact ht) rfl)
  split <;> exact h.update rfl

theorem modTeam_keeps {s : State} {id : Nat} {f : Team → Team} (h : s.MemCanonical)
    (hf : ∀ t, TeamWf t → TeamWf (f t) := by exact fun _ ht => ht) : (s.modTeam id f).MemCanonical :=
  modTeam_canonical s id f hf h

theorem putBack_canonical {s : State} (h : s.MemCanonical) : s.putBack.MemCanonical :=
  ite_canonical (h.withTeams ⟨rfl, rfl⟩ (List.forall_mem_cons.2 ⟨h.inHand, fun _ => h.ofTeam⟩) rfl) h

theorem take_canonical {s : State} {id} (h : s.MemCanonical) : (s.take id).MemCanonical := by
  unfold State.take
  extract_lets s₁
  have hs₁ : s₁.MemCanonical := putBack_canonical h
  split
  · exact hs₁
  · next t hfind =>
    have ht : TeamWf t := hs₁.ofTeam (List.mem_of_find?_eq_some hfind)
    split
    · exact hs₁
    · exact hs₁.withTeams ht (fun _ hu => hs₁.ofTeam (List.mem_of_mem_filter hu)) rfl

theorem withWave_canonical {s : State} {id} {f : State → State} (h : s.MemCanonical)
    (hf : ∀ s, s.MemCanonical → (f s).MemCanonical) : (s.withWave id f).MemCanonical := by
  unfold State.withWave
  refine ite_canonical (hf _ h) ?_
  extract_lets t
  have ht : t.MemCanonical := take_canonical h
  refine ite_canonical ?_ h
  split
  · exact take_canonical (hf _ ht)
  · exact putBack_canonical (hf _ ht)

theorem acquire_canonical {s : State} {sc} (h : s.MemCanonical) : (s.acquire sc).MemCanonical := by
  unfold State.acquire
  split
  · exact h
  · exact h
  · exact (renewL1_canonical h).update rfl
  · exact (renewL1_canonical h).update rfl
  · exact (renewCc_canonical h).update rfl

theorem count_canonical {s : State} {fair starve} (h : s.MemCanonical) : (s.count fair starve).MemCanonical := by
  unfold State.count
  extract_lets w s₁ s₂
  have hs₂ : s₂.MemCanonical := by
    unfold s₂
    split <;> exact h.update rfl
  exact ite_canonical (hs₂.update rfl) hs₂

theorem advance_canonical {s : State} {len lw fair} (h : s.MemCanonical) : (s.advance len lw fair).MemCanonical :=
  count_canonical (h.update rfl)

theorem advanceNR_canonical {s : State} (h : s.MemCanonical) : (s.advanceNR).MemCanonical :=
  advance_canonical (h.update rfl)

theorem block_canonical {s : State} {b starve} (h : s.MemCanonical) : (s.block b starve).MemCanonical := by
  unfold State.block
  extract_lets src
  have hsrc : src.MemCanonical := count_canonical (h.update rfl)
  exact hsrc.update rfl

theorem abandon_canonical {s : State} {r} (h : s.MemCanonical) : (s.abandon r).MemCanonical :=
  count_canonical (h.update rfl)

theorem stallRecord_canonical {s : State} {t wave l} (h : s.MemCanonical) : (stallRecord s t wave l).MemCanonical := by
  unfold stallRecord
  refine ite_canonical ?_ h
  split
  · exact h
  · exact ite_canonical (homeWrite_canonical (waitMoving_canonical h)) h

theorem stallWave_canonical {s : State} {t w m} (h : s.MemCanonical) : (stallWave s t w m).MemCanonical :=
  foldl_canonical h fun _ _ hs₁ => ite_canonical (stallRecord_canonical hs₁) hs₁

theorem stallTeam_canonical {s : State} {t} (h : s.MemCanonical) : (stallTeam s t).MemCanonical :=
  foldl_canonical h fun _ _ => stallWave_canonical

theorem noteFreeze_canonical {s : State} {die cons} (h : s.MemCanonical) : (noteFreeze s die cons).MemCanonical :=
  ite_canonical (ite_canonical h (h.update rfl)) (h.update rfl)

theorem endTeam_canonical {s : State} {id err} (h : s.MemCanonical) : (endTeam s id err).MemCanonical := by
  unfold endTeam
  split
  · exact h
  · refine ite_canonical h ?_
    extract_lets s₁ s₂ s₃
    have hs₁ : s₁.MemCanonical := stallTeam_canonical h
    have hs₃ : s₃.MemCanonical := modTeam_keeps (ite_canonical (hs₁.update rfl) hs₁)
    exact (foldl_canonical hs₃ fun _ _ => noteFreeze_canonical).update rfl

theorem takeTrapOf_canonical {s : State} {t idx cl body} (h : s.MemCanonical) :
    (takeTrapOf s t idx cl body).MemCanonical := by
  unfold takeTrapOf
  extract_lets s₁
  split
  · exact endTeam_canonical (h.update rfl)
  · split
    · exact endTeam_canonical (h.update rfl)
    · split
      · exact endTeam_canonical (h.update rfl)
      · exact h.update rfl

theorem takeTrap_canonical {s : State} {t} (h : s.MemCanonical) : (takeTrap s t).MemCanonical := takeTrapOf_canonical h

theorem illop_canonical {s : State} {detail addr len} (h : s.MemCanonical) : (illop s detail addr len).MemCanonical :=
  takeTrap_canonical h

theorem illopExec_canonical {s : State} {kind addr len} (h : s.MemCanonical) :
    (illopExec s kind addr len).MemCanonical :=
  illop_canonical h

theorem parkLanes_canonical {s : State} {m waits} (h : s.MemCanonical) : (parkLanes s m waits).1.MemCanonical := by
  unfold parkLanes
  extract_lets +onlyGivenNames e run same free whole gone s₁ s₂
  have hs₂ : s₂.MemCanonical := ite_canonical ((stallWave_canonical h).update rfl) h
  clear_value same
  cases same with
  | none =>
    dsimp only
    split <;> exact hs₂.update rfl
  | some i =>
    dsimp only
    split <;> exact hs₂.update rfl

theorem trapRegion_canonical {s : State} {cause detail addr dst dstLatch} (h : s.MemCanonical) :
    (trapRegion s cause detail addr dst dstLatch).MemCanonical := by
  unfold trapRegion
  refine ite_canonical (takeTrap_canonical h) ?_
  split
  next he =>
  exact takeTrapOf_canonical (fst_canonical (parkLanes_canonical h) he)

theorem unwind_canonical {s : State} {cause lanes addr pc} (h : s.MemCanonical) :
    (unwind s cause lanes addr pc).MemCanonical := by
  unfold unwind
  split
  · exact h
  · extract_lets s₁ w s₂
    have hs₁ : s₁.MemCanonical := stallWave_canonical h
    split
    · exact endTeam_canonical (hs₁.update rfl)
    · exact hs₁.update rfl

theorem contain_canonical {s : State} {cause lanes addr pc} (h : s.MemCanonical) :
    (contain s cause lanes addr pc).MemCanonical :=
  ite_canonical (h.update rfl) (unwind_canonical h)

theorem transfer_canonical {s : State} {target len} (h : s.MemCanonical) : (transfer s target len).MemCanonical :=
  ite_canonical ((advance_canonical h).update rfl) (illopExec_canonical h)

theorem transferFar_canonical {s : State} {target} (h : s.MemCanonical) : (transferFar s target).MemCanonical := by
  unfold transferFar
  refine ite_canonical (illopExec_canonical h) ?_
  split
  · exact ite_canonical (h.update rfl) (takeTrap_canonical h)
  · exact transfer_canonical h

theorem tryJoins_canonical {s : State} (h : s.MemCanonical) : (tryJoins s).MemCanonical :=
  foldl_canonical h fun _ _ hs₁ => ite_canonical (hs₁.update rfl) hs₁

theorem tryBars_canonical {s : State} (h : s.MemCanonical) : (tryBars s).MemCanonical :=
  foldl_canonical h fun _ _ hs₁ => ite_canonical (hs₁.update rfl) hs₁

theorem returnTrap_canonical {s : State} {mode} (h : s.MemCanonical) : (returnTrap s mode).MemCanonical := by
  unfold returnTrap
  split
  · exact h
  · exact tryBars_canonical (tryJoins_canonical (h.update rfl))

theorem pathFull_canonical {s : State} (h : s.MemCanonical) : (pathFull s).MemCanonical := abandon_canonical h

theorem laneOp_canonical {s : State} {len iw d f} (h : s.MemCanonical) : (laneOp s len iw d f).MemCanonical :=
  advance_canonical (h.update rfl)

theorem fpFinish_canonical {s : State} {len act exc dst lw} {write : W32 → State → State} (h : s.MemCanonical)
    (hwrite : ∀ m s, s.MemCanonical → (write m s).MemCanonical) :
    (fpFinish s len act exc dst lw write).MemCanonical := by
  unfold fpFinish
  extract_lets trap s₁ s₂
  have hs₂ : s₂.MemCanonical := hwrite _ _ (h.update rfl)
  exact ite_canonical (advance_canonical hs₂) (takeTrap_canonical hs₂)

theorem fpOp_canonical {s : State} {len iw d f} (h : s.MemCanonical) : (fpOp s len iw d f).MemCanonical :=
  fpFinish_canonical h (fun _ _ hs₁ => hs₁.update rfl)

theorem release_canonical {s : State} {sc} (h : s.MemCanonical) : (s.release sc).MemCanonical :=
  releaseCaches_canonical h

theorem escape_canonical {s : State} (h : s.MemCanonical) : s.escape.MemCanonical := h.update rfl

theorem escapeAt_canonical {s : State} {sc} (h : s.MemCanonical) : (s.escapeAt sc).MemCanonical :=
  ite_canonical (h.update rfl) h

theorem fpBin_canonical {s : State} {t d a y f} (h : s.MemCanonical) : (fpBin s t d a y f).MemCanonical :=
  fpOp_canonical h

theorem fpMinMax_canonical {s : State} {t d a y isMax} (h : s.MemCanonical) : (fpMinMax s t d a y isMax).MemCanonical :=
  fpOp_canonical h

theorem fpFma_canonical {s : State} {t d a y} (h : s.MemCanonical) : (fpFma s t d a y).MemCanonical := fpOp_canonical h

theorem fpUn_canonical {s : State} {t d a f} (h : s.MemCanonical) : (fpUn s t d a f).MemCanonical := fpOp_canonical h

theorem fpFn_canonical {s : State} {t d a fn} (h : s.MemCanonical) : (fpFn s t d a fn).MemCanonical := fpOp_canonical h

theorem hFp_canonical {s : State} {d src f} (h : s.MemCanonical) : (hFp s d src f).MemCanonical := fpOp_canonical h

theorem intOp_canonical {s : State} {w d a b f} (h : s.MemCanonical) : (intOp s w d a b f).MemCanonical :=
  laneOp_canonical h

theorem shiftOp_canonical {s : State} {w d a b f} (h : s.MemCanonical) : (shiftOp s w d a b f).MemCanonical :=
  laneOp_canonical h

theorem unaryOp_canonical {s : State} {w d a f} (h : s.MemCanonical) : (unaryOp s w d a f).MemCanonical :=
  laneOp_canonical h

theorem accOp_canonical {s : State} {w d a b f} (h : s.MemCanonical) : (accOp s w d a b f).MemCanonical :=
  laneOp_canonical h

theorem fieldOp_canonical {s : State} {w d a b f} (h : s.MemCanonical) : (fieldOp s w d a b f).MemCanonical :=
  laneOp_canonical h

theorem bfiOp_canonical {s : State} {w d a b} (h : s.MemCanonical) : (bfiOp s w d a b).MemCanonical :=
  laneOp_canonical h

theorem hOp_canonical {s : State} {d src f} (h : s.MemCanonical) : (hOp s d src f).MemCanonical := laneOp_canonical h

theorem execFcmp_kept {t c m a b} {s : State} (h : s.MemCanonical) : Kept (execFcmp t c m a b s) :=
  kept_next (fpFinish_canonical h (fun _ _ hs₁ => hs₁.update rfl))

theorem cvtOp_canonical {s : State} {md dty sty d a} (h : s.MemCanonical) : (cvtOp s md dty sty d a).MemCanonical :=
  fpOp_canonical h

theorem shuffle_canonical {s : State} {d a j} (h : s.MemCanonical) : (shuffle s d a j).MemCanonical :=
  laneOp_canonical h

theorem vote_canonical {s : State} {m f} (h : s.MemCanonical) : (vote s m f).MemCanonical :=
  advance_canonical (h.update rfl)

theorem execMovs_kept {sd a b} {s : State} (h : s.MemCanonical) : Kept (execMovs sd a b s) := by
  unfold execMovs
  split
  · exact kept_next (advance_canonical h)
  · exact kept_next (advance_canonical (h.update rfl))

theorem maskOp_canonical {s : State} {d v} (h : s.MemCanonical) : (maskOp s d v).MemCanonical :=
  advance_canonical (h.update rfl)

theorem scalarOp_canonical {s : State} {d v} (h : s.MemCanonical) : (scalarOp s d v).MemCanonical :=
  advance_canonical (h.update rfl)

end Sys2Proof.Machine
end

section
/-! PROOFS. Loads, stores, atomics, tags and control keep memory in canonical form (R102 to R114, R146 to R175). -/

namespace Sys2Proof.Machine

theorem accessFinish_canonical {s : State} {xs dst nr enter} {perform : W32 → State → State} {adv : State → State}
    (h : s.MemCanonical) (hperform : ∀ m s, s.MemCanonical → (perform m s).MemCanonical)
    (hadv : ∀ s, s.MemCanonical → (adv s).MemCanonical) :
    (accessFinish s xs dst perform adv nr enter).MemCanonical := by
  unfold accessFinish
  extract_lets e run pc bad ok low s₁ entering whole s₂ waits
  refine ite_canonical (hadv _ (hperform _ _ h)) <| ite_canonical (takeTrapOf_canonical (hperform _ _ h)) ?_
  have hs₂ : s₂.MemCanonical := ite_canonical (h.update rfl) (hadv _ (hperform _ _ h))
  split
  next he =>
  extract_lets s₃
  have hs₃ : s₃.MemCanonical :=
    foldl_canonical (fst_canonical (parkLanes_canonical hs₂) he) fun _ _ => addFault_canonical
  split
  · exact hs₃
  · exact takeTrapOf_canonical hs₃

theorem globalAcc_canonical {s : State} {lane p n q watch} (h : s.MemCanonical) :
    (globalAcc s lane p n q watch).1.MemCanonical := by
  unfold globalAcc
  split
  · next he =>
    exact fst_canonical (checkGlobal_canonical h) he

theorem limitsAcc_canonical {s : State} {p n q} (h : s.MemCanonical) : (limitsAcc s p n q).1.MemCanonical := by
  unfold limitsAcc
  split
  · next he => exact fst_canonical (descOf_canonical h) he

theorem scratchAcc_canonical {s : State} {lane a n align store} (h : s.MemCanonical) :
    (scratchAcc s lane a n align store).1.MemCanonical :=
  h

theorem peerAcc_canonical {s : State} {lane v n align store} (h : s.MemCanonical) :
    (peerAcc s lane v n align store).1.MemCanonical :=
  h

theorem privAcc_canonical {s : State} {lane tid a n write} (h : s.MemCanonical) :
    (privAcc s lane tid a n write).1.MemCanonical := by
  fun_cases privAcc s lane tid a n write
  · exact h
  · next hd => exact fst_canonical (descOf_canonical h) hd
  · next hd p _ _ hc => exact fst_canonical (checkGlobal_canonical (fst_canonical (descOf_canonical h) hd)) hc

theorem eachLane_canonical {s : State} {ls} {f : State → Nat → State × Acc} (h : s.MemCanonical)
    (hf : ∀ s i, s.MemCanonical → (f s i).1.MemCanonical) : (eachLane s ls f).1.MemCanonical := by
  induction ls generalizing s with
  | nil => exact h
  | cons i ls ih =>
    unfold eachLane
    split
    next he =>
    split
    next he' =>
    exact fst_canonical (ih (fst_canonical (hf s i h) he)) he'

theorem windowWrite_keeps {s : State} {team a d} (h : s.MemCanonical) : (windowWrite s team a d).MemCanonical :=
  windowWrite_canonical s team a d h

theorem atomAt_canonical {s : State} {q die core} (h : s.MemCanonical) : (atomAt s q die core).1.MemCanonical := by
  unfold atomAt
  extract_lets n
  split
  · extract_lets s₁
    have hs₁ : s₁.MemCanonical := waitMoving_canonical h
    clear_value s₁
    split
    · exact hs₁
    · extract_lets bs old r
      clear_value bs old r
      split
      · split
        · exact lostEvent_canonical hs₁
        · exact hs₁
      · exact homeWrite_canonical hs₁
  · extract_lets bs old r
    split
    · exact h
    · exact windowWrite_keeps h

theorem remoteFlags_canonical {s : State} {x} (h : s.MemCanonical) : (remoteFlags s x).MemCanonical := by
  unfold remoteFlags
  split
  · exact h
  · exact h.update rfl

theorem dropAtom_canonical {s : State} {place p} (h : s.MemCanonical) : (dropAtom s place p).MemCanonical := by
  unfold dropAtom
  split
  · exact dropLine_canonical h
  · exact h

theorem performAtoms_canonical {s : State} {p} (h : s.MemCanonical) : (performAtoms s p).1.MemCanonical := by
  unfold performAtoms
  extract_lets s₁ r
  have hs₁ : s₁.MemCanonical := ite_canonical (acquire_canonical h) h
  clear_value s₁
  show r.1.MemCanonical
  refine foldl_keeps (fun acc : State × _ => acc.1.MemCanonical) _ (fun acc q hacc => ?_) _ _ hs₁
  split
  next s₂ old bad exc he =>
  have hs₂ : s₂.MemCanonical := fst_canonical (atomAt_canonical (dropAtom_canonical hacc)) he
  extract_lets s₃
  show s₃.MemCanonical
  unfold s₃
  exact ite_canonical (hs₂.update rfl) (remoteFlags_canonical hs₂)

theorem settleAtoms_canonical {s : State} (h : s.MemCanonical) : (settleAtoms s).MemCanonical := by
  unfold settleAtoms
  extract_lets r
  have hr : r.1.MemCanonical := by
    refine foldl_keeps (fun acc : State × _ => acc.1.MemCanonical) _ (fun acc p hacc => ?_) _ _ h
    split
    · exact hacc
    · extract_lets q
      have hq : q.1.MemCanonical := performAtoms_canonical hacc
      exact hq
  clear_value r
  exact hr.update rfl

theorem acquireLine_canonical {s : State} {m space p} (h : s.MemCanonical) :
    (acquireLine s m space p).MemCanonical := by
  unfold acquireLine
  split
  · exact pushLine_canonical h
  · exact h

theorem performLoad_canonical {z m d xs ok} {s : State} (h : s.MemCanonical) :
    (performLoad z m d xs ok s).MemCanonical := by
  unfold performLoad
  extract_lets r
  have hr : r.1.MemCanonical := by
    unfold r
    refine foldl_keeps (fun p : State × _ => p.1.MemCanonical) _ (fun _ _ hacc₁ => ?_) _ _ h
    split
    · extract_lets s₁
      have hs₁ : s₁.MemCanonical := acquireLine_canonical hacc₁
      split
      · next he₁ => exact fst_canonical (loadBytes_canonical hs₁) he₁
    · exact hacc₁
  exact hr.update rfl

theorem performReqs_canonical {s : State} {rs} (h : s.MemCanonical) : (performReqs s rs).MemCanonical := by
  unfold performReqs
  refine foldl_canonical h fun _ _ hs₁ => ?_
  split
  · exact storeL1_canonical hs₁
  · exact windowWrite_keeps hs₁

theorem performStore_canonical {z d sc order xs ok} {s : State} (h : s.MemCanonical) :
    (performStore z d sc order xs ok s).MemCanonical := by
  unfold performStore
  extract_lets good rs held s₁ s₂
  have hs₁ : s₁.MemCanonical := ite_canonical (escapeAt_canonical h) h
  have hs₂ : s₂.MemCanonical := ite_canonical hs₁ (performReqs_canonical hs₁)
  exact hs₂.update rfl

theorem beforeLoad_canonical {s : State} {m} (h : s.MemCanonical) : (beforeLoad s m).MemCanonical := by
  unfold beforeLoad
  extract_lets s₁
  have hs₁ : s₁.MemCanonical := settleAtoms_canonical h
  split
  · exact hs₁
  · exact acquire_canonical hs₁

theorem beforeStore_canonical {s : State} {m} (h : s.MemCanonical) : (beforeStore s m).MemCanonical := by
  unfold beforeStore
  extract_lets s₁
  have hs₁ : s₁.MemCanonical := settleAtoms_canonical h
  split
  · exact hs₁
  · exact release_canonical hs₁

theorem execLdg_kept {z m d b} {s : State} (h : s.MemCanonical) : Kept (execLdg z m d b s) := by
  unfold execLdg
  refine ite_kept (kept_next (h.update rfl)) ?_
  extract_lets s₁ src r
  have hs₁ : s₁.MemCanonical := beforeLoad_canonical h
  have hr : r.1.MemCanonical := eachLane_canonical hs₁ fun _ _ => globalAcc_canonical
  refine kept_next (accessFinish_canonical hr (fun _ _ hs₃ => ?_) fun _ => advance_canonical)
  exact performLoad_canonical hs₃

theorem execStg_kept {z m d b} {s : State} (h : s.MemCanonical) : Kept (execStg z m d b s) := by
  unfold execStg
  split
  · exact kept_next (h.update rfl)
  · extract_lets s₁ src r perform
    have hs₁ : s₁.MemCanonical := beforeStore_canonical h
    have hr : r.1.MemCanonical := eachLane_canonical hs₁ fun _ _ => globalAcc_canonical
    refine kept_next (accessFinish_canonical hr (fun _ _ hs₃ => ?_) fun _ => advance_canonical)
    unfold perform
    split
    · exact hs₃.update rfl
    · exact performStore_canonical hs₃

theorem execSldg_kept {w d a} {s : State} (h : s.MemCanonical) : Kept (execSldg w d a s) := by
  unfold execSldg
  extract_lets s₁ n p src perform
  have hs₁ : s₁.MemCanonical := settleAtoms_canonical h
  have hperform (ok s₂) (hs₂ : s₂.MemCanonical) : (perform ok s₂).MemCanonical := by
    unfold perform
    refine ite_canonical hs₂ ?_
    split
    · next he₁ =>
      have hs₃ := fst_canonical (loadBytes_canonical hs₂) he₁
      exact hs₃.update rfl
  refine ite_kept (kept_next (hs₁.update rfl)) ?_
  split
  · next he₂ =>
    have hs₄ := fst_canonical (globalAcc_canonical hs₁) he₂
    split
    · exact kept_next (advance_canonical (hperform _ _ hs₄))
    · exact kept_next (accessFinish_canonical hs₄ hperform (fun _ => advance_canonical))

theorem scratchOp_canonical {s : State} {z m b store dst} {perform : List Acc → W32 → State → State}
    (h : s.MemCanonical) (hperform : ∀ xs m s, s.MemCanonical → (perform xs m s).MemCanonical) :
    (scratchOp s z m b store dst perform).MemCanonical := by
  unfold scratchOp
  extract_lets w ls r
  have hr : r.1.MemCanonical := eachLane_canonical h fun _ _ => scratchAcc_canonical
  refine ite_canonical (h.update rfl) (accessFinish_canonical hr (fun _ _ ha₁ => ?_) fun _ => advance_canonical)
  exact hperform _ _ _ ha₁

theorem peerCount_canonical {s : State} {xs ok} (h : s.MemCanonical) : (peerCount s xs ok).MemCanonical := by
  unfold peerCount
  refine foldl_canonical h fun _ _ hs₁ => ?_
  split
  · split
    · exact sextantAdd_canonical hs₁
    · exact hs₁
  · exact hs₁

theorem peerOp_canonical {s : State} {z m b store dst} {perform : List Acc → W32 → State → State}
    (h : s.MemCanonical) (hperform : ∀ xs m s, s.MemCanonical → (perform xs m s).MemCanonical) :
    (peerOp s z m b store dst perform).MemCanonical := by
  unfold peerOp
  extract_lets w ls r rs
  have hr : r.1.MemCanonical := eachLane_canonical h fun _ _ => peerAcc_canonical
  refine ite_canonical (h.update rfl) (accessFinish_canonical hr (fun _ _ hs => ?_) fun _ => advance_canonical)
  exact hperform _ _ _ (peerCount_canonical hs)

theorem execLds_kept {z m d b} {s : State} (h : s.MemCanonical) : Kept (execLds z m d b s) :=
  kept_next (scratchOp_canonical (beforeLoad_canonical h) fun _ _ _ => performLoad_canonical)

theorem execSts_kept {z m d b} {s : State} (h : s.MemCanonical) : Kept (execSts z m d b s) :=
  kept_next (scratchOp_canonical (beforeStore_canonical h) fun _ _ _ => performStore_canonical)

theorem execLdp_kept {z m d b} {s : State} (h : s.MemCanonical) : Kept (execLdp z m d b s) :=
  kept_next (peerOp_canonical (beforeLoad_canonical h) fun _ _ _ => performLoad_canonical)

theorem execStp_kept {z m d b} {s : State} (h : s.MemCanonical) : Kept (execStp z m d b s) :=
  kept_next (peerOp_canonical (beforeStore_canonical h) fun _ _ _ => performStore_canonical)

theorem execLdl_kept {z o d b} {s : State} (h : s.MemCanonical) : Kept (execLdl z o d b s) := by
  unfold execLdl
  extract_lets s₁ r
  have hs₁ : s₁.MemCanonical := settleAtoms_canonical h
  have hr : r.1.MemCanonical := eachLane_canonical hs₁ fun _ _ => privAcc_canonical
  refine kept_next (accessFinish_canonical hr (fun _ _ hs₃ => ?_) fun _ => advance_canonical)
  exact performLoad_canonical hs₃

theorem execStl_kept {z o d b} {s : State} (h : s.MemCanonical) : Kept (execStl z o d b s) := by
  unfold execStl
  extract_lets s₁ r
  have hs₁ : s₁.MemCanonical := settleAtoms_canonical h
  have hr : r.1.MemCanonical := eachLane_canonical hs₁ fun _ _ => privAcc_canonical
  refine kept_next (accessFinish_canonical hr (fun _ _ hs₃ => ?_) fun _ => advance_canonical)
  exact performStore_canonical hs₃

theorem execLdk_kept {z o d b} {s : State} (h : s.MemCanonical) : Kept (execLdk z o d b s) :=
  kept_next (accessFinish_canonical h (fun _ _ hs₁ => hs₁.update rfl) (fun _ => advance_canonical))

theorem beforeAtomic_canonical {s : State} {o sc good} (h : s.MemCanonical) :
    (beforeAtomic s o sc good).MemCanonical := by
  unfold beforeAtomic
  extract_lets s₁
  have hs₁ : s₁.MemCanonical := ite_canonical (release_canonical h) h
  exact foldl_canonical hs₁ fun _ _ => dropAtom_canonical

theorem fpAtoms_canonical {s : State} {p} (h : s.MemCanonical) : (fpAtoms s p).1.MemCanonical := by
  unfold fpAtoms
  extract_lets before src r s₁ exc act trap detail src₁ s₂ w
  have hr : r.1.MemCanonical := performAtoms_canonical (h.update rfl)
  have hs₁ : s₁.MemCanonical := hr
  exact hs₁.update rfl

theorem fpAtomicTrap_canonical {s : State} {xs trap detail dst} (h : s.MemCanonical) :
    (fpAtomicTrap s xs trap detail dst).MemCanonical := by
  unfold fpAtomicTrap
  extract_lets e pc m waits whole s₁
  have hs₁ : s₁.MemCanonical := ite_canonical (h.update rfl) (advanceNR_canonical h)
  split
  · next he₁ =>
    refine takeTrapOf_canonical (foldl_canonical (fst_canonical (parkLanes_canonical hs₁) he₁) fun _ _ hs₃ => ?_)
    exact addFault_canonical hs₃

theorem performAtomic_canonical {iw op d ret o sc} {esc : State → State} {xs ok} {s : State}
    (hesc : ∀ s, s.MemCanonical → (esc s).MemCanonical) (h : s.MemCanonical) :
    (performAtomic iw op d ret o sc esc xs ok s).MemCanonical := by
  unfold performAtomic
  extract_lets good q s₁ s₂
  have hs₂ : s₂.MemCanonical := beforeAtomic_canonical (ite_canonical h (hesc _ h))
  exact hs₂.update rfl

theorem atomicFinish_canonical {s : State} {iw op d ret o sc} {esc : State → State} {xs} (h : s.MemCanonical)
    (hesc : ∀ s, s.MemCanonical → (esc s).MemCanonical) :
    (atomicFinish s iw op d ret o sc esc xs).MemCanonical := by
  unfold atomicFinish
  extract_lets good bad dst q
  split
  · split
    · next he₁ =>
      have hs₁ := fst_canonical (fpAtoms_canonical (beforeAtomic_canonical (hesc _ h))) he₁
      refine ite_canonical ?_ (fpAtomicTrap_canonical hs₁)
      exact accessFinish_canonical hs₁ (fun _ _ hs => hs) fun _ => advanceNR_canonical
  · refine accessFinish_canonical h (fun _ _ hs₃ => ?_) fun _ => advanceNR_canonical
    exact performAtomic_canonical hesc hs₃

theorem execAtomg_kept {o sc w p d b} {s : State} (h : s.MemCanonical) : Kept (execAtomg o sc w p d b s) := by
  unfold execAtomg
  refine ite_kept (kept_next (h.update rfl)) ?_
  extract_lets s₁ src r
  have hs₁ : s₁.MemCanonical := settleAtoms_canonical h
  have hr : r.1.MemCanonical := eachLane_canonical hs₁ fun _ _ => globalAcc_canonical
  exact kept_next (atomicFinish_canonical hr fun _ hs => hs.update rfl)

theorem execRedg_kept {o sc w p d b} {s : State} (h : s.MemCanonical) : Kept (execRedg o sc w p d b s) := by
  unfold execRedg
  refine ite_kept (kept_next (h.update rfl)) ?_
  extract_lets s₁ src r
  have hs₁ : s₁.MemCanonical := settleAtoms_canonical h
  have hr : r.1.MemCanonical := eachLane_canonical hs₁ fun _ _ => globalAcc_canonical
  exact kept_next (atomicFinish_canonical hr fun _ hs => hs.update rfl)

theorem execAtoms_kept {o sc w p d b} {s : State} (h : s.MemCanonical) : Kept (execAtoms o sc w p d b s) := by
  unfold execAtoms
  extract_lets s₁ esc v ls r
  have hs₁ : s₁.MemCanonical := settleAtoms_canonical h
  have hesc (s₂) (hs₂ : s₂.MemCanonical) : (esc s₂).MemCanonical := by
    unfold esc
    exact ite_canonical (escapeAt_canonical hs₂) hs₂
  have hr : r.1.MemCanonical := eachLane_canonical hs₁ fun _ _ => scratchAcc_canonical
  exact ite_kept (kept_next (hs₁.update rfl)) (kept_next (atomicFinish_canonical hr hesc))

theorem execAtomp_kept {o sc w p d b} {s : State} (h : s.MemCanonical) : Kept (execAtomp o sc w p d b s) := by
  unfold execAtomp
  extract_lets s₁ v ls r rs
  have hs₁ : s₁.MemCanonical := settleAtoms_canonical h
  have hr : r.1.MemCanonical := eachLane_canonical hs₁ fun _ _ => peerAcc_canonical
  refine ite_kept (kept_next (hs₁.update rfl)) (kept_next (atomicFinish_canonical hr fun _ hs => ?_))
  exact (peerCount_canonical hs).update rfl

theorem execTlook_kept {d a} {s : State} (h : s.MemCanonical) : Kept (execTlook d a s) := by
  unfold execTlook
  split
  · exact kept_next (illop_canonical h)
  · exact kept_next (advance_canonical (h.update rfl))

theorem execTset_kept {d a b} {s : State} (h : s.MemCanonical) : Kept (execTset d a b s) := by
  unfold execTset
  split
  · exact kept_next (illop_canonical h)
  · extract_lets w r w'
    exact kept_next (advance_canonical (h.update rfl))

theorem execTevict_kept {d a} {s : State} (h : s.MemCanonical) : Kept (execTevict d a s) := by
  unfold execTevict
  split
  · exact kept_next (illop_canonical h)
  · extract_lets w r w'
    exact kept_next (advance_canonical (h.update rfl))

theorem takeDeferred_canonical {s : State} {p} (h : s.MemCanonical) : (takeDeferred s p).MemCanonical := by
  unfold takeDeferred
  split
  · exact h
  · extract_lets src s₁ s₂ e
    have hs₂ : s₂.MemCanonical := h.update rfl
    clear_value s₂
    split
    next hp =>
    exact takeTrapOf_canonical (fst_canonical (parkLanes_canonical hs₂) hp)

theorem execClause_kept {e exec setb seta wait} {s : State} (h : s.MemCanonical) :
    Kept (execClause e exec setb seta wait s) := by
  unfold execClause
  extract_lets named due src
  have hsrc : src.MemCanonical := count_canonical h
  exact ite_kept (kept_next (hsrc.update rfl)) <| ite_kept (kept_next (hsrc.update rfl)) <|
    ite_kept (kept_next (takeDeferred_canonical h)) (kept_next (h.update rfl))

theorem execBra_kept {i} {s : State} (h : s.MemCanonical) : Kept (execBra i s) :=
  ite_kept (kept_next (transfer_canonical h)) (kept_next (illop_canonical h))

theorem execBrd_kept {m i} {s : State} (h : s.MemCanonical) : Kept (execBrd m i s) := by
  unfold execBrd
  refine ite_kept ?_ (kept_next (illop_canonical h))
  exact ite_kept (kept_next (advance_canonical h)) <| ite_kept (kept_next (transfer_canonical h)) <|
    ite_kept (kept_next (pathFull_canonical h)) <|
    ite_kept (kept_next ((advance_canonical h).update rfl)) (kept_next (takeTrap_canonical h))

theorem execCall_kept {x i} {s : State} (h : s.MemCanonical) : Kept (execCall x i s) :=
  ite_kept (kept_next (transfer_canonical (h.update rfl))) (kept_next (illop_canonical h))

theorem execFjmp_kept {link x i} {s : State} (h : s.MemCanonical) : Kept (execFjmp link x i s) := by
  unfold execFjmp
  extract_lets pc off
  split
  · next he =>
    have hs₁ := fst_canonical (descOf_canonical h) he
    extract_lets target s₂
    have hs₂ : s₂.MemCanonical := ite_canonical (hs₁.update rfl) hs₁
    exact ite_kept (kept_next (transferFar_canonical hs₂)) (kept_next (trapRegion_canonical hs₁))

theorem joinAt_canonical {s : State} {m len} (h : s.MemCanonical) : (joinAt s m len).MemCanonical := by
  unfold joinAt
  extract_lets pc v e run inside outside waiting news go
  have hgo (s₁ ps) (hs₁ : s₁.MemCanonical) : (go s₁ ps).MemCanonical := tryJoins_canonical (hs₁.update rfl)
  refine ite_canonical (hgo _ _ (advance_canonical h)) <| ite_canonical (hgo _ _ (advance_canonical h)) <|
    ite_canonical (pathFull_canonical h) ?_
  split
  · exact advance_canonical h
  · exact hgo _ _ (advance_canonical h)

theorem yieldAt_canonical {s : State} {len} (h : s.MemCanonical) : (yieldAt s len).MemCanonical :=
  ite_canonical (advance_canonical h) ((advance_canonical h).update rfl)

theorem endIfEmpty_canonical {s : State} (h : s.MemCanonical) : (endIfEmpty s).MemCanonical :=
  ite_canonical (h.update rfl) h

theorem execExit_kept {s : State} (h : s.MemCanonical) : Kept (execExit s) := by
  unfold execExit
  refine ite_kept (kept_next (h.update rfl)) <| ite_kept (kept_next (takeDeferred_canonical h)) ?_
  extract_lets pc last m rest s₁ s₂
  have hs₁ : s₁.MemCanonical := tryBars_canonical (tryJoins_canonical (h.update rfl))
  have hs₂ : s₂.MemCanonical := advance_canonical h
  refine ite_kept (kept_next (takeTrap_canonical hs₁)) (kept_next (endIfEmpty_canonical ?_))
  exact tryBars_canonical (tryJoins_canonical (hs₂.update rfl))

theorem execCfetch_kept {slot x} {s : State} (h : s.MemCanonical) : Kept (execCfetch slot x s) := by
  unfold execCfetch
  refine ite_kept (kept_next (illopExec_canonical h)) <| ite_kept (kept_next (illopExec_canonical h)) ?_
  split
  · next he₁ =>
    have hs₁ := fst_canonical (descOf_canonical h) he₁
    split
    · exact kept_next (trapRegion_canonical hs₁)
    · exact ite_kept (kept_next (hs₁.update rfl)) (kept_next (advance_canonical (hs₁.update rfl)))

theorem execReform_kept {carry} {s : State} (h : s.MemCanonical) : Kept (execReform carry s) := by
  unfold execReform
  extract_lets w started ls base wrong r src s₁ filed s₂
  have hs₂ : s₂.MemCanonical := advance_canonical (h.update rfl)
  exact ite_kept (kept_next (h.update rfl)) <| ite_kept (kept_next (takeDeferred_canonical h)) <|
    ite_kept (kept_next (illopExec_canonical h)) <| ite_kept (kept_next (h.update rfl)) <|
    ite_kept (kept_next (takeTrap_canonical h)) <|
    ite_kept (kept_next (endIfEmpty_canonical (tryBars_canonical (hs₂.update rfl)))) (kept_next (h.update rfl))

end Sys2Proof.Machine
end

section
/-! PROOFS. Fences, barriers, spools, mailboxes and finish scopes keep memory in canonical form (R176 to R197, R256 to R258). -/

namespace Sys2Proof.Machine

theorem scalarChecked_canonical {r : State × Acc} {k : State → State} (hr : r.1.MemCanonical)
    (hk : ∀ s, s.MemCanonical → (k s).MemCanonical) : (scalarChecked r k).MemCanonical := by
  unfold scalarChecked
  split
  · exact hk _ hr
  · exact accessFinish_canonical hr (fun _ _ hs => hs) fun _ hs => hs

theorem scalarAccess_canonical {s : State} {p n q watch} {k : State → State} (h : s.MemCanonical)
    (hk : ∀ s, s.MemCanonical → (k s).MemCanonical) : (scalarAccess s p n q k watch).MemCanonical :=
  scalarChecked_canonical (globalAcc_canonical h) fun _ hs => hk _ (waitMoving_canonical (waitMoving_canonical hs))

theorem boundTrap_canonical {s : State} {detail addr} (h : s.MemCanonical) : (boundTrap s detail addr).MemCanonical :=
  trapRegion_canonical h

theorem execFence_kept {o sc} {s : State} (h : s.MemCanonical) : Kept (execFence o sc s) := by
  have hs := settleAtoms_canonical h
  cases o with
  | acq => exact kept_next (advance_canonical (acquire_canonical hs))
  | rel => exact kept_next (advance_canonical (escapeAt_canonical (release_canonical hs)))
  | ar => exact kept_next (advance_canonical (acquire_canonical (escapeAt_canonical (release_canonical hs))))

theorem execScope_kept {k c} {s : State} (h : s.MemCanonical) : Kept (execScope k c s) :=
  kept_next (advance_canonical (h.update rfl))

theorem execScopeq_kept {c a} {s : State} (h : s.MemCanonical) : Kept (execScopeq c a s) :=
  ite_kept (kept_next (boundTrap_canonical h)) (kept_next (advance_canonical (h.update rfl)))

theorem execScopefz_kept {c a} {s : State} (h : s.MemCanonical) : Kept (execScopefz c a s) := by
  unfold execScopefz
  extract_lets h₁ die cons n refused s₁ v
  have hs₁ : s₁.MemCanonical := ite_canonical (noteFreeze_canonical (h.update rfl)) h
  exact ite_kept (kept_next (boundTrap_canonical h)) (kept_next (advanceNR_canonical (hs₁.update rfl)))

theorem execScopeth_kept {c a} {s : State} (h : s.MemCanonical) : Kept (execScopeth c a s) := by
  unfold execScopeth
  extract_lets h₁ die cons n s₁ v
  have hs₁ : s₁.MemCanonical := ite_canonical (noteFreeze_canonical (h.update rfl)) h
  exact ite_kept (kept_next (boundTrap_canonical h)) (kept_next (advanceNR_canonical (hs₁.update rfl)))

theorem execBar_kept {n} {s : State} (h : s.MemCanonical) : Kept (execBar n s) := by
  unfold execBar
  extract_lets s₁ pc s₂ s₃
  have hs₂ : s₂.MemCanonical := advanceNR_canonical (settleAtoms_canonical h)
  exact kept_next (tryBars_canonical (hs₂.update rfl))

theorem constCheck_canonical {s : State} {a} (h : s.MemCanonical) :
    ∀ r, constCheck s a = some r → r.MemCanonical := by
  unfold constCheck
  intro r he
  split at he
  · cases he
    exact boundTrap_canonical h
  · extract_lets d at he
    split at he
    · cases he
      exact takeTrap_canonical h
    · split at he
      · cases he
        exact boundTrap_canonical h
      · cases he

theorem setHomeWord_canonical {s : State} {p i v} (h : s.MemCanonical) : (setHomeWord s p i v).MemCanonical :=
  dieWrite_canonical h

theorem flushLine_canonical {s : State} {p} (h : s.MemCanonical) : (flushLine s p).MemCanonical := dropLine_canonical h

theorem execBara_kept {k c b a} {s : State} (h : s.MemCanonical) : Kept (execBara k c b a s) := by
  unfold execBara
  extract_lets p s₁
  have hs₁ : s₁.MemCanonical := settleAtoms_canonical h
  split
  · next t ht =>
    split at ht
    · exact kept_next (constCheck_canonical hs₁ _ ht)
    · cases ht
  · refine kept_next (scalarAccess_canonical hs₁ fun s hs => ?_)
    extract_lets s₂ expected phase s₃ n s₄ w
    have hs₂ : s₂.MemCanonical := flushLine_canonical hs
    have hs₃ : s₃.MemCanonical := escape_canonical (release_canonical hs₂)
    have hs₄ : s₄.MemCanonical :=
      ite_canonical (setHomeWord_canonical (setHomeWord_canonical hs₃)) (setHomeWord_canonical hs₃)
    clear_value s₄
    exact ite_canonical (boundTrap_canonical hs₂) <|
      ite_canonical (block_canonical hs₂) (advanceNR_canonical (hs₄.update rfl))

theorem execBarw_kept {k c b a} {s : State} (h : s.MemCanonical) : Kept (execBarw k c b a s) := by
  unfold execBarw
  extract_lets p s₁
  have hs₁ : s₁.MemCanonical := settleAtoms_canonical h
  split
  · next t ht =>
    split at ht
    · exact kept_next (constCheck_canonical hs₁ _ ht)
    · cases ht
  · refine kept_next (scalarAccess_canonical hs₁ fun s hs => ?_)
    extract_lets s₂
    have hs₂ : s₂.MemCanonical := flushLine_canonical hs
    exact ite_canonical (advanceNR_canonical (acquire_canonical hs₂)) (block_canonical hs₂)

theorem execWaitf_kept {hi lo} {s : State} (h : s.MemCanonical) : Kept (execWaitf hi lo s) :=
  ite_kept (kept_next (block_canonical h)) (kept_next (advance_canonical h))

theorem execSleept_kept {abs a} {s : State} (h : s.MemCanonical) : Kept (execSleept abs a s) :=
  ite_kept (kept_next (advance_canonical h)) (kept_next (block_canonical h))

theorem execSpinit_kept {gang b n} {s : State} (h : s.MemCanonical) : Kept (execSpinit gang b n s) :=
  ite_kept (kept_next (boundTrap_canonical h)) (kept_next (advance_canonical (h.update rfl)))

theorem spoolPush_canonical {s : State} {team n v} (h : s.MemCanonical) : (spoolPush s team n v).MemCanonical :=
  modTeam_keeps (windowWrite_keeps (escapeAt_canonical (release_canonical h)))

theorem keyedBlock_canonical {s : State} {key deadline} (h : s.MemCanonical) :
    (keyedBlock s key deadline).MemCanonical :=
  (block_canonical h).update rfl

theorem execSpush_kept {c b n} {s : State} (h : s.MemCanonical) : Kept (execSpush c b n s) := by
  unfold execSpush
  extract_lets s₁
  have hs₁ : s₁.MemCanonical := settleAtoms_canonical h
  split
  · exact kept_next (boundTrap_canonical hs₁)
  · exact kept_next (keyedBlock_canonical hs₁)
  · extract_lets p key sc s₂
    have hs₂ : s₂.MemCanonical := spoolPush_canonical hs₁
    exact ite_kept (kept_next (keyedBlock_canonical hs₁)) <|
      ite_kept (kept_next (hs₁.update rfl)) (kept_next (advanceNR_canonical (hs₂.update rfl)))

theorem spoolPop_canonical {s : State} {n c b} (h : s.MemCanonical) : (spoolPop s n c b).MemCanonical := by
  unfold spoolPop
  extract_lets p a v s₁ s₂ t
  have hs₁ : s₁.MemCanonical := acquire_canonical h
  have hs₂ : s₂.MemCanonical := by
    unfold s₂
    split
    · exact sextantAdd_canonical hs₁
    · exact hs₁
  exact advanceNR_canonical (hs₂.update rfl)

theorem statusOnly_canonical {s : State} {b st} (h : s.MemCanonical) : (statusOnly s b st).MemCanonical :=
  advanceNR_canonical (h.update rfl)

theorem execSpop_kept {c b n} {s : State} (h : s.MemCanonical) : Kept (execSpop c b n s) := by
  unfold execSpop
  extract_lets s₁ v p key deadline
  have hs₁ : s₁.MemCanonical := settleAtoms_canonical h
  exact ite_kept (kept_next (boundTrap_canonical hs₁)) <|
    ite_kept (ite_kept (kept_next (hs₁.update rfl)) (kept_next (spoolPop_canonical hs₁))) <|
    ite_kept (kept_next (statusOnly_canonical hs₁)) (kept_next (keyedBlock_canonical hs₁))

theorem execSptryPop_kept {c b n} {s : State} (h : s.MemCanonical) : Kept (execSptryPop c b n s) := by
  unfold execSptryPop
  extract_lets s₁ p
  have hs₁ : s₁.MemCanonical := settleAtoms_canonical h
  exact ite_kept (kept_next (boundTrap_canonical hs₁)) <|
    ite_kept (ite_kept (kept_next (hs₁.update rfl)) (kept_next (spoolPop_canonical hs₁)))
      (kept_next (statusOnly_canonical hs₁))

theorem execSptryPush_kept {c b n} {s : State} (h : s.MemCanonical) : Kept (execSptryPush c b n s) := by
  unfold execSptryPush
  extract_lets s₁
  have hs₁ : s₁.MemCanonical := settleAtoms_canonical h
  split
  · exact kept_next (boundTrap_canonical hs₁)
  · exact kept_next (statusOnly_canonical hs₁)
  · exact ite_kept (kept_next (statusOnly_canonical hs₁)) <|
      ite_kept (kept_next (hs₁.update rfl)) (kept_next (statusOnly_canonical (spoolPush_canonical hs₁)))

theorem boxAccess_canonical {s : State} {p send} {k : State → Box → State} (h : s.MemCanonical)
    (hk : ∀ s b, s.MemCanonical → (k s b).MemCanonical) :
    (boxAccess s p send k).MemCanonical := by
  unfold boxAccess
  refine scalarAccess_canonical h fun _ hs₁ => ?_
  extract_lets s₂
  have hs₂ : s₂.MemCanonical := flushLine_canonical hs₁
  split
  · exact boundTrap_canonical hs₂
  · exact scalarChecked_canonical (limitsAcc_canonical hs₂) (fun _ hs₃ => hk _ _ hs₃)

theorem slotAccess_canonical {s : State} {p send} {k : State → State} (h : s.MemCanonical)
    (hk : ∀ s, s.MemCanonical → (k s).MemCanonical) :
    (slotAccess s p send k).MemCanonical :=
  scalarAccess_canonical h hk

theorem putMessage_canonical {s : State} {p b d who} (h : s.MemCanonical) : (putMessage s p b d who).MemCanonical := by
  unfold putMessage
  extract_lets s₁ s₂ s₃
  have hs₃ : s₃.MemCanonical := setHomeWord_canonical (dieWrite_canonical (flushLine_canonical h))
  exact hs₃.update rfl

theorem takeMessage_canonical {s : State} {p b} (h : s.MemCanonical) : (takeMessage s p b).1.MemCanonical := by
  unfold takeMessage
  extract_lets d s₁ key old s₂
  have hs₁ : s₁.MemCanonical := setHomeWord_canonical h
  have hs₂ : s₂.MemCanonical := by
    clear_value s₁
    exact hs₁.update rfl
  clear_value s₂ old
  cases old with
  | nil => exact hs₂
  | cons i old =>
    show State.MemCanonical (if _ then _ else _)
    split
    · exact sextantAdd_canonical hs₂
    · exact hs₂

theorem execMsend_kept {drop c a} {s : State} (h : s.MemCanonical) : Kept (execMsend drop c a s) := by
  unfold execMsend
  refine kept_next (boxAccess_canonical (settleAtoms_canonical h) fun _ _ hs₁ => ?_)
  extract_lets sent
  have hsent (s₂) (hs₂ : s₂.MemCanonical) : (sent s₂).MemCanonical := advanceNR_canonical (hs₂.update rfl)
  refine ite_canonical (slotAccess_canonical hs₁ fun _ hs => hsent _ (putMessage_canonical ?_)) <|
    ite_canonical (hsent _ (setHomeWord_canonical (hs₁.update rfl))) (block_canonical hs₁)
  exact (release_canonical hs).update rfl

theorem execMrecv_kept {c b a} {s : State} (h : s.MemCanonical) : Kept (execMrecv c b a s) := by
  unfold execMrecv
  refine kept_next (boxAccess_canonical (settleAtoms_canonical h) fun s x hs => ?_)
  refine ite_canonical ?_ (ite_canonical (statusOnly_canonical hs) (keyedBlock_canonical hs))
  refine slotAccess_canonical hs fun s hs => ?_
  split
  next hm =>
  extract_lets s₁ word
  have hs₁ : s₁.MemCanonical := acquire_canonical (fst_canonical (takeMessage_canonical hs) hm)
  exact advanceNR_canonical (hs₁.update rfl)

theorem mapWaves_canonical {s : State} {f} (h : s.MemCanonical) : (s.mapWaves f).MemCanonical :=
  h.withTeams h.inHand (map_teamWf (fun _ => h.ofTeam) fun _ ht => ht) rfl

theorem wakeScope_canonical {s : State} {part n word} (h : s.MemCanonical) : (wakeScope s part n word).MemCanonical :=
  mapWaves_canonical h

theorem recordErr_canonical {s : State} {part n err fuel} (h : s.MemCanonical) :
    (recordErr s part n err fuel).MemCanonical := by
  induction fuel generalizing s n with
  | zero => exact h
  | succ k ih =>
    unfold recordErr
    extract_lets f s₁
    have hs₁ : s₁.MemCanonical := by
      unfold s₁
      split <;> exact h.update rfl
    split
    · exact ih hs₁
    · exact hs₁

theorem scopeErr_canonical {s : State} {part n err} (h : s.MemCanonical) : (s.scopeErr part n err).MemCanonical :=
  ite_canonical h (recordErr_canonical h)

theorem windowFill_canonical {s : State} {part q fuel} (h : s.MemCanonical) :
    (windowFill s part q fuel).MemCanonical := by
  induction fuel generalizing s with
  | zero => exact h
  | succ n ih =>
    unfold windowFill
    exact ite_canonical h (ih (h.update rfl))

theorem launchDone_canonical {s : State} {part n} (h : s.MemCanonical) : (launchDone s part n).MemCanonical := by
  unfold launchDone
  split
  · exact h
  · extract_lets inWindow s₁ s₂ s₃ s₄
    have hs₂ : s₂.MemCanonical := by
      unfold s₂
      split <;> exact h.update rfl
    have hs₄ : s₄.MemCanonical := windowFill_canonical (hs₂.update rfl)
    exact ite_canonical (postEvent_canonical hs₄) hs₄

theorem checkScope_canonical {s : State} {part n fuel} (h : s.MemCanonical) :
    (checkScope s part n fuel).MemCanonical := by
  induction fuel generalizing s n with
  | zero => exact h
  | succ k ih =>
    unfold checkScope
    extract_lets f s₁ s₂ s₃ gone s₄
    have hs₂ : s₂.MemCanonical := wakeScope_canonical (h.update rfl)
    have hs₃ : s₃.MemCanonical := ite_canonical (launchDone_canonical hs₂) hs₂
    have hs₄ : s₄.MemCanonical := by
      unfold s₄
      split <;> exact hs₃.update rfl
    refine ite_canonical ?_ h
    split
    · exact ih (hs₄.update rfl)
    · exact hs₄

theorem scopeDown_canonical {s : State} {part n} (h : s.MemCanonical) : (s.scopeDown part n).MemCanonical :=
  checkScope_canonical (h.update rfl)

theorem openScope_canonical {s : State} {part parent kind owner card} (h : s.MemCanonical) :
    (openScope s part parent kind owner card).1.MemCanonical := by
  unfold openScope
  split
  · exact h
  · split
    · exact h
    · split <;> exact h.update rfl

theorem cancelOne_canonical {s : State} {part m} (h : s.MemCanonical) : (cancelOne s part m).MemCanonical := by
  unfold cancelOne
  extract_lets f s₁ s₂
  have hs₁ : s₁.MemCanonical := scopeErr_canonical (h.update rfl)
  refine ite_canonical ?_ h
  split
  · exact hs₁.update rfl
  · exact foldl_canonical (hs₁.update rfl) fun _ _ => endTeam_canonical

theorem cancelScope_canonical {s : State} {part n} (h : s.MemCanonical) : (cancelScope s part n).MemCanonical :=
  foldl_canonical (foldl_canonical h fun _ _ => cancelOne_canonical) fun _ _ => checkScope_canonical

theorem scopeBound_canonical {s : State} (h : s.MemCanonical) : (scopeBound s).MemCanonical := boundTrap_canonical h

theorem execFsopen_kept {c a} {s : State} (h : s.MemCanonical) : Kept (execFsopen c a s) := by
  unfold execFsopen
  extract_lets v s₁
  split
  · exact kept_next (scopeBound_canonical h)
  · extract_lets r s₂
    have hr : r.1.MemCanonical := by
      unfold r
      split
      · exact openScope_canonical (h.update rfl)
      · exact h.update rfl
    have hs₂ : s₂.MemCanonical := hr
    exact kept_next (advanceNR_canonical (hs₂.update rfl))

theorem execFsclose_kept {a} {s : State} (h : s.MemCanonical) : Kept (execFsclose a s) := by
  unfold execFsclose
  extract_lets v part
  split
  · exact kept_next (scopeBound_canonical h)
  · split
    · exact kept_next (scopeBound_canonical h)
    · refine kept_next ?_
      refine checkScope_canonical ?_
      refine State.MemCanonical.update (advanceNR_canonical ?_) rfl
      exact h.update rfl
    · exact kept_next (advanceNR_canonical (h.update rfl))

theorem execFsq_kept {c a} {s : State} (h : s.MemCanonical) : Kept (execFsq c a s) := by
  unfold execFsq
  extract_lets v
  split
  · exact kept_next (scopeBound_canonical h)
  · exact kept_next (advance_canonical (h.update rfl))

theorem execFscancel_kept {a} {s : State} (h : s.MemCanonical) : Kept (execFscancel a s) := by
  unfold execFscancel
  extract_lets v part
  split
  · exact kept_next (scopeBound_canonical h)
  · exact ite_kept (kept_next (scopeBound_canonical h))
      (kept_next (cancelScope_canonical (advanceNR_canonical (h.update rfl))))

theorem returnScope_canonical {s : State} {c n serial word} (h : s.MemCanonical) :
    (returnScope s c n serial word).MemCanonical := by
  unfold returnScope
  extract_lets part f s₁ s₂
  have hs₂ : s₂.MemCanonical := acquire_canonical (ite_canonical (h.update rfl) h)
  exact advance_canonical (hs₂.update rfl)

theorem execFswait_kept {tmo c b a} {s : State} (h : s.MemCanonical) : Kept (execFswait tmo c b a s) := by
  unfold execFswait
  extract_lets v part deadline
  split
  · exact kept_next (scopeBound_canonical h)
  · extract_lets key f own
    split
    · split
      · exact kept_next (returnScope_canonical h)
      · split
        · exact kept_next (returnScope_canonical h)
        · split
          · exact kept_next (advance_canonical (h.update rfl))
          · exact kept_next (block_canonical h)
    · split
      · exact kept_next (scopeBound_canonical h)
      · split
        · exact kept_next (returnScope_canonical h)
        · split
          · exact kept_next (advance_canonical (h.update rfl))
          · exact kept_next (block_canonical h)

end Sys2Proof.Machine
end

section
/-! PROOFS. Launches, cards and capsules keep memory in canonical form (R238 to R241, R245 to R255, R314 to R317). -/

namespace Sys2Proof.Machine

theorem retireSpace_canonical {s : State} {n} (h : s.MemCanonical) : (retireSpace s n).MemCanonical :=
  (flushRange_canonical h).update rfl

theorem spaceFor_canonical {s : State} {part table} (h : s.MemCanonical) :
    ∀ r, spaceFor s part table = some r → r.1.MemCanonical := by
  intro r he
  unfold spaceFor at he
  extract_lets add at he
  have hadd (s : State) (n) (hs : s.MemCanonical) : (add s n).1.MemCanonical := hs.update rfl
  split at he
  · cases he
    exact h
  · split at he
    · cases he
      exact hadd _ _ h
    · obtain ⟨x, -, rfl⟩ := Option.map_eq_some_iff.1 he
      exact hadd _ _ (retireSpace_canonical h)

theorem waitPrivate_canonical {s : State} {part table c} (h : s.MemCanonical) :
    (waitPrivate s part table c).MemCanonical :=
  ite_canonical h (waitWalk_canonical h)

theorem appendCard_canonical {s : State} {part q card scope table} (h : s.MemCanonical) :
    (appendCard s part q card scope table).MemCanonical :=
  windowFill_canonical ((foldl_canonical h fun _ _ => homeWrite_canonical).update rfl)

theorem enqueue_canonical {s : State} {q card} (h : s.MemCanonical) : (enqueue s q card).1.MemCanonical := by
  have hw {table} : (waitPrivate s s.t.part table card).MemCanonical := waitPrivate_canonical h
  fun_cases enqueue s q card
  case case1 => exact h
  case case2 => exact hw
  case case3 => exact hw
  case case4 => exact hw
  case case5 ho => exact fst_canonical (openScope_canonical hw) ho
  case case6 ho => exact appendCard_canonical (fst_canonical (openScope_canonical hw) ho)
  case case7 => exact hw

theorem execEnq_kept {c b q} {s : State} (h : s.MemCanonical) : Kept (execEnq c b q s) := by
  unfold execEnq
  extract_lets p s₁
  refine kept_next (scalarAccess_canonical (settleAtoms_canonical h) fun _ hs₂ => ?_)
  extract_lets s₃
  split
  · next he =>
    have hs₄ := fst_canonical (enqueue_canonical (escape_canonical (release_canonical hs₂))) he
    exact advanceNR_canonical (hs₄.update rfl)

theorem setChainWord_canonical {s : State} {space die p i v} (h : s.MemCanonical) :
    (setChainWord s space die p i v).MemCanonical :=
  dieWrite_canonical h

theorem slotAcc_canonical {s : State} {p} (h : s.MemCanonical) : (slotAcc s p).1.MemCanonical := by
  unfold slotAcc
  split
  · next he => exact fst_canonical (checkPage_canonical h) he

theorem appendJob_canonical {s : State} {p card} (h : s.MemCanonical) : (appendJob s p card).MemCanonical := by
  unfold appendJob
  extract_lets sp d tail s₁ s₂ n part named good s₃
  have hs₂ : s₂.MemCanonical := setChainWord_canonical (dieWrite_canonical h)
  have hs₃ : s₃.MemCanonical := by
    unfold s₃
    clear_value s₂
    exact ite_canonical (hs₂.update rfl) hs₂
  clear_value s₃
  exact hs₃.update rfl

theorem postJob_canonical {s : State} {p q} (h : s.MemCanonical) : (postJob s p q).MemCanonical := by
  unfold postJob
  split
  · next he =>
    extract_lets card s₂ s₃
    have hs₂ : s₂.MemCanonical := (release_canonical (fst_canonical (loadBytes_canonical h) he)).update rfl
    have hs₃ : s₃.MemCanonical := appendJob_canonical hs₂
    exact advanceNR_canonical (hs₃.update rfl)

theorem execJob_kept {b a} {s : State} (h : s.MemCanonical) : Kept (execJob b a s) := by
  unfold execJob
  refine kept_next (scalarAccess_canonical (settleAtoms_canonical h) fun _ hs₂ => ?_)
  refine scalarAccess_canonical hs₂ fun _ hs₃ => ?_
  extract_lets s₄ v
  have hs₄ : s₄.MemCanonical := flushLine_canonical hs₃
  exact ite_canonical (boundTrap_canonical hs₄) <|
    ite_canonical (block_canonical hs₄) (scalarChecked_canonical (slotAcc_canonical hs₄) fun _ => postJob_canonical)

theorem execJseq_kept {sc c a} {s : State} (h : s.MemCanonical) : Kept (execJseq sc c a s) := by
  unfold execJseq
  refine kept_next (scalarAccess_canonical (settleAtoms_canonical h) fun _ hs₂ => ?_)
  extract_lets s₃ s₄
  have hs₃ : s₃.MemCanonical := flushLine_canonical hs₂
  have hs₄ : s₄.MemCanonical := acquire_canonical hs₃
  exact ite_canonical (boundTrap_canonical hs₃) (advance_canonical (hs₄.update rfl))

theorem capAcc_canonical {mail g} {s : State} {i} (h : s.MemCanonical) : (capAcc mail g s i).1.MemCanonical := by
  unfold capAcc
  extract_lets rec_ box want shown
  split
  · next he =>
    have hs₁ := fst_canonical (globalAcc_canonical h) he
    split
    · exact hs₁
    · split
      · next he₁ =>
        have hs₂ := fst_canonical (globalAcc_canonical hs₁) he₁
        split
        · exact hs₂
        · extract_lets s₃
          have hs₃ : s₃.MemCanonical := flushLine_canonical hs₂
          split
          · exact hs₃
          · split
            · next he₂ => exact fst_canonical (limitsAcc_canonical hs₃) he₂

theorem capGuard_canonical {s : State} {xs} {perform : W32 → State → State} {adv : State → State} {enter}
    (h : s.MemCanonical) (hperform : ∀ m s, s.MemCanonical → (perform m s).MemCanonical)
    (hadv : ∀ s, s.MemCanonical → (adv s).MemCanonical) :
    (capGuard s xs perform adv enter).MemCanonical :=
  ite_canonical
    (accessFinish_canonical (foldl_canonical h fun _ _ hs => flushLine_canonical (waitMoving_canonical hs))
      hperform hadv)
    (accessFinish_canonical h (fun _ _ hs => hs) fun _ => count_canonical)

theorem acquireOne_canonical {pkg m g} {s : State} {i} (h : s.MemCanonical) :
    (acquireOne pkg m g s i).MemCanonical := by
  unfold acquireOne
  extract_lets p v box id s₁ s₂ s₃ s₄ w pa
  have hs₃ : s₃.MemCanonical := dieWrite_canonical (setHomeWord_canonical (setHomeWord_canonical h))
  have hs₄ : s₄.MemCanonical := setHomeWord_canonical (setHomeWord_canonical hs₃)
  exact ite_canonical (hs₄.update rfl) (h.update rfl)

theorem execCapb_kept {pkg m g} {s : State} (h : s.MemCanonical) : Kept (execCapb pkg m g s) := by
  unfold execCapb
  refine ite_kept (kept_next (illopExec_canonical h)) ?_
  extract_lets s₁ r body
  have hr : r.1.MemCanonical := by
    unfold r
    exact eachLane_canonical (settleAtoms_canonical h) fun _ _ => capAcc_canonical
  refine kept_next (capGuard_canonical hr (fun _ _ hs₃ => ?_) (fun _ hs₄ => (advanceNR_canonical hs₄).update rfl))
  extract_lets s₅
  have hs₅ : s₅.MemCanonical := acquire_canonical (foldl_canonical hs₃ fun _ _ => acquireOne_canonical)
  exact ite_canonical (hs₅.update rfl) hs₅

theorem performHeld_flushSpan_canonical {s : State} {id space p n} (h : s.MemCanonical) :
    (performHeld.flushSpan s id space p n).MemCanonical := by
  unfold performHeld.flushSpan
  extract_lets s₁
  have hs₁ : s₁.MemCanonical := dropLine_canonical h
  exact ite_canonical (dropLine_canonical hs₁) hs₁

theorem performHeld_canonical {s : State} {xs} (h : s.MemCanonical) : (performHeld s xs).MemCanonical :=
  foldl_canonical h fun _ _ hs₁ => dieWrite_canonical (performHeld_flushSpan_canonical hs₁)

theorem modLane_canonical {s : State} {i f} (h : s.MemCanonical) : (s.modLane i f).MemCanonical := h.update rfl

theorem sendResult_canonical {s : State} {i adopt} (h : s.MemCanonical) : (sendResult s i adopt).MemCanonical := by
  unfold sendResult
  extract_lets l box status
  split
  · exact h
  · exact putMessage_canonical ((release_canonical h).update rfl)

theorem commitOne_canonical {cape} {s : State} {i} (h : s.MemCanonical) : (commitOne cape s i).MemCanonical := by
  unfold commitOne
  extract_lets l p s₁ v id s₂ s₃ s₄ s₅ s₆ s₇ s₈ s₉ s₁₀
  have hs₁ : s₁.MemCanonical := acquire_canonical (flushLine_canonical h)
  have hs₂ : s₂.MemCanonical := escape_canonical (release_canonical hs₁)
  have hs₅ : s₅.MemCanonical := setHomeWord_canonical (dieWrite_canonical (performHeld_canonical hs₂))
  have hs₇ : s₇.MemCanonical := by
    unfold s₇ s₆
    clear_value s₅
    exact perf_canonical (hs₅.update rfl)
  have hs₈ : s₈.MemCanonical := by
    unfold s₈
    clear_value s₇
    exact ite_canonical (modLane_canonical (sendResult_canonical hs₇)) hs₇
  have hs₉ : s₉.MemCanonical := setHomeWord_canonical hs₈
  have hs₁₀ : s₁₀.MemCanonical := setHomeWord_canonical hs₇
  clear_value s₁ s₉ s₁₀
  exact ite_canonical (hs₁.update rfl) <|
    ite_canonical (ite_canonical hs₉ (hs₉.update rfl)) (setHomeWord_canonical hs₁₀)

theorem execCstep_kept {s : State} (h : s.MemCanonical) : Kept (execCstep s) := by
  unfold execCstep
  extract_lets s₁ s₂
  have hs₂ : s₂.MemCanonical := foldl_canonical (settleAtoms_canonical h) fun _ _ => commitOne_canonical
  exact kept_next ((advanceNR_canonical hs₂).update rfl)

/-- The state that an attempt to reserve leaves has its memories in canonical form. -/
def Reserved.MemCanonical : Reserved → Prop
  | .all s | .full s | .bad s _ => s.MemCanonical

set_option smartUnfolding false in
/-- Smart unfolding is off, so that `reserveAll` at one lane is its definition's own test of that lane. -/
theorem reserveAll_canonical {s : State} {is} (h : s.MemCanonical) : (reserveAll s is).MemCanonical := by
  induction is generalizing s with
  | nil => exact h
  | cons i is ih =>
    by_cases hc : (s.w.lane i).adopted ∧ (s.w.lane i).reserved.isNone
    · have hf : (flushLine s (returnBox s i)).MemCanonical := flushLine_canonical h
      refine Eq.mpr (congrArg Reserved.MemCanonical (if_pos hc)) ?_
      rw [← returnBox]
      generalize flushLine s (returnBox s i) = u at hf ⊢
      dsimp only
      split
      · exact hf
      · split
        · exact ih (modLane_canonical hf)
        · exact hf
    · rw [reserveAll_skip is hc]
      exact ih h

theorem receiveOne_canonical {s : State} {i} (h : s.MemCanonical) : (receiveOne s i).MemCanonical := by
  unfold receiveOne
  extract_lets l s₁ key
  have hs₁ : s₁.MemCanonical := flushLine_canonical h
  split
  · exact hs₁
  · refine ite_canonical hs₁ ?_
    extract_lets s₂
    split
    next hm =>
    exact (acquire_canonical (fst_canonical (takeMessage_canonical (flushLine_canonical hs₁)) hm)).update rfl

theorem capWaits_canonical {s : State} (h : s.MemCanonical) : (capWaits s).MemCanonical :=
  (block_canonical h).update rfl

theorem passCape_canonical {s : State} (h : s.MemCanonical) : (passCape s).MemCanonical :=
  (advanceNR_canonical h).update rfl

theorem finishCape_canonical {s : State} (h : s.MemCanonical) : (finishCape s).MemCanonical := by
  unfold finishCape
  extract_lets out s₁ w e rest target at_ trap s₂ s₃
  have htrap (cause detail) : (trap cause detail).MemCanonical := takeTrap_canonical (h.update rfl)
  have hs₂ : s₂.MemCanonical :=
    ite_canonical (passCape_canonical (h.update rfl)) (capWaits_canonical (h.update rfl))
  have hs₃ : s₃.MemCanonical := by
    unfold s₃
    refine foldl_canonical (h.update rfl) fun _ _ hs₄ => ?_
    exact receiveOne_canonical hs₄
  refine ite_canonical ?_ (ite_canonical (passCape_canonical hs₃) (capWaits_canonical hs₃))
  refine ite_canonical (htrap _ _) <| ite_canonical (h.update rfl) ?_
  split
  · exact htrap _ _
  · split
    · exact htrap _ _
    · split
      · exact pathFull_canonical (h.update rfl)
      · split
        · refine State.MemCanonical.update (passCape_canonical ?_) rfl
          exact h.update rfl
        · exact hs₂.update rfl

theorem execCape_kept {s : State} (h : s.MemCanonical) : Kept (execCape s) := by
  have hs := settleAtoms_canonical h
  have hr {is} : (reserveAll (settleAtoms s) is).MemCanonical := reserveAll_canonical hs
  fun_cases execCape s
  case case1 => exact kept_next (finishCape_canonical hs)
  case case2 he => exact kept_next (boundTrap_canonical (he ▸ hr :))
  case case3 he => exact kept_next (block_canonical (he ▸ hr :))
  case case4 he =>
    exact kept_next (finishCape_canonical (foldl_canonical (he ▸ hr :) fun _ _ => commitOne_canonical))

theorem adoptOne_canonical {pkg m g} {s : State} {i} (h : s.MemCanonical) : (adoptOne pkg m g s i).MemCanonical := by
  unfold adoptOne
  extract_lets p v pa o s₁ s₂ s₃ ck s₄ src
  have hs₃ : s₃.MemCanonical := setHomeWord_canonical (setHomeWord_canonical (h.update rfl))
  have hs₄ : s₄.MemCanonical := by
    unfold s₄
    clear_value s₃ ck
    exact hs₃.update rfl
  clear_value s₄
  exact (perf_canonical hs₄).update rfl

theorem adoptSplit_canonical {r step pkg out} {s : State} (h : s.MemCanonical) :
    (adoptSplit r step pkg out s).MemCanonical := by
  unfold adoptSplit
  refine ite_canonical h ?_
  split <;> exact h.update rfl

theorem execCapadopt_kept {pkg m g} {s : State} (h : s.MemCanonical) : Kept (execCapadopt pkg m g s) := by
  unfold execCapadopt
  refine ite_kept (kept_next (illopExec_canonical h)) ?_
  extract_lets s₁ r s₂ good e lanes whole
  have hr : r.1.MemCanonical := by
    unfold r
    exact eachLane_canonical (settleAtoms_canonical h) fun _ _ => capAcc_canonical
  have hs₂ : s₂.MemCanonical := foldl_canonical hr fun _ _ => flushLine_canonical
  split
  · refine kept_next (capGuard_canonical hs₂ (fun _ _ hs => ?_) fun _ => advanceNR_canonical)
    exact acquire_canonical (hs.update rfl)
  · extract_lets p₁ at_ got out step adopt
    have hadopt (ok s) (hs : s.MemCanonical) : (adopt ok s).MemCanonical := by
      unfold adopt
      extract_lets s₃ s₄
      have hs₃ : s₃.MemCanonical := acquire_canonical (foldl_canonical hs fun _ _ => adoptOne_canonical)
      have hs₄ : s₄.MemCanonical := ite_canonical hs₃ (escape_canonical hs₃)
      exact hs₄.update rfl
    refine ite_kept (kept_next (takeTrap_canonical hs₂)) <| ite_kept (kept_next (hs₂.update rfl)) <|
      ite_kept (kept_next (takeTrap_canonical hs₂)) <| ite_kept (kept_next (pathFull_canonical hs₂)) <|
      kept_next (capGuard_canonical hs₂ (fun _ _ hs => ?_) fun _ hs => adoptSplit_canonical (advanceNR_canonical hs))
    exact ite_canonical (hadopt _ _ hs) (adoptSplit_canonical (hadopt _ _ hs))

theorem execCapq_kept {c a} {s : State} (h : s.MemCanonical) : Kept (execCapq c a s) := by
  unfold execCapq
  extract_lets p s₁
  have hs₁ : s₁.MemCanonical := settleAtoms_canonical h
  refine kept_next (scalarAccess_canonical hs₁ fun _ hs => advance_canonical (State.MemCanonical.update ?_ rfl))
  exact acquire_canonical (flushLine_canonical hs)

end Sys2Proof.Machine
end

section
/-! PROOFS. The array, its checks and tile copies keep memory in canonical form (R199 to R237). -/

namespace Sys2Proof.Machine

theorem noteCheck_canonical {s : State} {n x result} (h : s.MemCanonical) : (noteCheck s n x result).MemCanonical := by
  unfold noteCheck
  extract_lets -lift src s₁ s₂ s₃
  have hs₁ : s₁.MemCanonical := h.withTeam ⟨h.inHand.1, h.inHand.2⟩
  have hs₃ : s₃.MemCanonical := (perf_canonical hs₁).withCore
  exact ite_canonical hs₃ hs₃.withCore

theorem checkTile_canonical {s : State} {n} (h : s.MemCanonical) : (checkTile s n).MemCanonical :=
  noteCheck_canonical (h.update rfl)

theorem checkTiles_canonical {s : State} {ns} (h : s.MemCanonical) : (checkTiles s ns).1.MemCanonical := by
  induction ns generalizing s with
  | nil => exact h
  | cons n ns ih =>
    unfold checkTiles
    extract_lets s₁
    have hs₁ : s₁.MemCanonical := checkTile_canonical h
    split
    · exact ih hs₁
    · exact hs₁

theorem checkMixed_canonical {p} {s : State} {xs} (h : s.MemCanonical) : (checkMixed p s xs).1.MemCanonical := by
  induction xs generalizing s with
  | nil => exact h
  | cons x xs ih =>
    obtain ⟨n, _ | _⟩ := x
    · unfold checkMixed
      extract_lets s₁
      have hs₁ : s₁.MemCanonical := checkTile_canonical h
      split
      · exact ih hs₁
      · exact hs₁
    · unfold checkMixed
      extract_lets x s₁
      have hs₁ : s₁.MemCanonical := noteCheck_canonical h
      split
      · exact ih hs₁
      · exact hs₁

theorem restoreLoop_canonical {s : State} {l} (h : s.MemCanonical) : (restoreLoop s l).MemCanonical := by
  unfold restoreLoop
  refine foldl_canonical h fun _ _ hs₁ => ?_
  split <;> exact hs₁.update rfl

theorem loopRestart_canonical {s : State} {l retry} (h : s.MemCanonical) : (loopRestart s l retry).MemCanonical := by
  unfold loopRestart
  extract_lets s₁ s₂ s₃
  have hs₁ : s₁.MemCanonical := restoreLoop_canonical h
  have hs₂ : s₂.MemCanonical := ite_canonical (hs₁.update rfl) hs₁
  exact hs₂.update rfl

theorem seamFailed_canonical {s : State} {own n outcome} (h : s.MemCanonical) :
    (seamFailed s own n outcome).MemCanonical := by
  unfold seamFailed
  split
  · exact ite_canonical (ite_canonical (h.update rfl) (loopRestart_canonical h)) (trapRegion_canonical h)
  · exact trapRegion_canonical h

theorem malformed_canonical {s : State} {r} (h : s.MemCanonical) : (malformed s r).MemCanonical := illopExec_canonical h

theorem merr_teamWf {t : Team} {tile opb scale index k} (h : TeamWf t) : TeamWf (t.merr tile opb scale index k) := by
  unfold Team.merr
  split <;> exact h

theorem injectTile_teamWf {t : Team} {tiles} (h : TeamWf t) : TeamWf (injectTile t tiles) := by
  unfold injectTile
  extract_lets v n x col t₁
  split
  · split <;> exact h
  · exact h

theorem mmaIssue_canonical {s : State} {y peer c b a} (h : s.MemCanonical) :
    (mmaIssue s y peer c b a).MemCanonical := by
  fun_cases mmaIssue s y peer c b a
  case case1 | case2 | case3 => exact malformed_canonical h
  case case4 | case10 => exact illopExec_canonical h
  case case5 | case6 | case8 | case9 => exact boundTrap_canonical h
  case case7 | case11 => exact h.update rfl
  case case12 s₁ s₂ =>
    have hs₁ : s₁.MemCanonical := by
      exact foldl_canonical h fun s n hs => ite_canonical hs (hs.update rfl)
    clear_value s₁
    exact advance_canonical (hs₁.update (u := s₂.matrix) rfl)

theorem execMzero_kept {fp64 strict a} {s : State} (h : s.MemCanonical) : Kept (execMzero fp64 strict a s) := by
  unfold execMzero
  extract_lets ctl shape zones tiles lanes kept kind
  refine ite_kept (kept_next (malformed_canonical h)) <| ite_kept (kept_next (illopExec_canonical h)) <|
    ite_kept (kept_next (h.update rfl)) ?_
  split
  · next hc => exact kept_next (seamFailed_canonical (fst_canonical (checkTiles_canonical h) hc))
  · next hc =>
    extract_lets s₁
    have hs₁ : s₁.MemCanonical :=
      foldl_canonical (fst_canonical (checkTiles_canonical h) hc) fun s _ hs => hs.update (u := s.setTile _ _) rfl
    exact kept_next (advance_canonical (hs₁.update rfl))

theorem loadRegion_canonical {s : State} {shape lanes add zones src} (h : s.MemCanonical) :
    (loadRegion s shape lanes add zones src).MemCanonical := by
  unfold loadRegion
  extract_lets s₁ merr t
  have hs₁ : s₁.MemCanonical := foldl_canonical h fun s _ hs => hs.update (u := s.setTile _ _) rfl
  have ht : TeamWf t := foldl_keeps TeamWf _ (fun _ _ => merr_teamWf) _ _ hs₁.inHand
  exact hs₁.withTeam (injectTile_teamWf ht)

theorem loadzDone_canonical {s : State} (h : s.MemCanonical) : (loadzDone s).MemCanonical :=
  advance_canonical (h.update rfl)

theorem execMloadz_kept {src add c b a} {s : State} (h : s.MemCanonical) : Kept (execMloadz src add c b a s) := by
  unfold execMloadz
  refine ite_kept (kept_next (malformed_canonical h)) <| ite_kept (kept_next (illopExec_canonical h)) ?_
  split
  · refine ite_kept (kept_next (malformed_canonical h)) <| ite_kept (kept_next (malformed_canonical h)) ?_
    split
    · exact kept_next (boundTrap_canonical h)
    · refine ite_kept (kept_next (h.update rfl)) ?_
      split
      · next he₁ => exact kept_next (seamFailed_canonical (fst_canonical (checkTiles_canonical h) he₁))
      · next he₂ =>
        exact kept_next (loadzDone_canonical (loadRegion_canonical (fst_canonical (checkTiles_canonical h) he₂)))
  · refine ite_kept (kept_next (malformed_canonical h)) <| ite_kept (kept_next (illopExec_canonical h)) <|
      ite_kept (kept_next (h.update rfl)) ?_
    split
    · next he₃ => exact kept_next (seamFailed_canonical (fst_canonical (checkMixed_canonical h) he₃))
    · next he₄ =>
      exact kept_next (loadzDone_canonical (loadRegion_canonical (fst_canonical (checkMixed_canonical h) he₄)))
  · refine ite_kept (kept_next (malformed_canonical h)) <| ite_kept (kept_next (boundTrap_canonical h)) ?_
    split
    · exact kept_next (boundTrap_canonical h)
    · refine ite_kept (kept_next (illopExec_canonical h)) ?_
      split
      · refine ite_kept (kept_next (h.update rfl)) ?_
        split
        · next he₅ => exact kept_next (seamFailed_canonical (fst_canonical (checkMixed_canonical h) he₅))
        · next he₆ =>
          exact kept_next (loadzDone_canonical (loadRegion_canonical (fst_canonical (checkMixed_canonical h) he₆)))
      · refine ite_kept (kept_next (h.update rfl)) ?_
        split
        · next he₇ => exact kept_next (seamFailed_canonical (fst_canonical (checkMixed_canonical h) he₇))
        · next he₈ =>
          exact kept_next (loadzDone_canonical (loadRegion_canonical (fst_canonical (checkMixed_canonical h) he₈)))

theorem drainTile_canonical {t dc ep ad lanes shape base z} {s : State} (h : s.MemCanonical) :
    (drainTile t dc ep ad lanes shape base z s).MemCanonical := by
  unfold drainTile
  refine foldl_canonical (h.update rfl) fun _ _ hs => ?_
  extract_lets outs s₁
  have hs₁ : s₁.MemCanonical := windowWrite_keeps hs
  exact hs₁.update rfl

theorem biasErrors_canonical {s : State} {dc ep lanes shape zones} (h : s.MemCanonical) :
    (biasErrors s dc ep lanes shape zones).MemCanonical := by
  unfold biasErrors
  refine ite_canonical h ?_
  extract_lets fed one
  refine h.withTeam (foldl_keeps TeamWf _ (fun t z ht => ?_) _ _ h.inHand)
  unfold one
  split
  · exact ht
  · refine foldl_keeps TeamWf _ (fun t j ht => ?_) _ _ ht
    split
    · exact merr_teamWf ht
    · exact ht

theorem execMdrain_kept {c b a} {s : State} (h : s.MemCanonical) : Kept (execMdrain c b a s) := by
  unfold execMdrain
  extract_lets dc ep ad ctl shape zones tiles lanes kind endOf rows out biasEnd b0 rs bs
  refine ite_kept (kept_next (malformed_canonical h)) <| ite_kept (kept_next (malformed_canonical h)) <|
    ite_kept (kept_next (malformed_canonical h)) <| ite_kept (kept_next (illopExec_canonical h)) <|
    ite_kept (kept_next (h.update rfl)) ?_
  split
  · exact kept_next (boundTrap_canonical h)
  · refine ite_kept (kept_next (h.update rfl)) ?_
    split
    · next he₁ => exact kept_next (seamFailed_canonical (fst_canonical (checkTiles_canonical h) he₁))
    · next he₂ =>
      have hs₂ := fst_canonical (checkTiles_canonical h) he₂
      extract_lets t base s₃
      have hs₃ : s₃.MemCanonical := foldl_canonical (biasErrors_canonical hs₂) fun _ _ => drainTile_canonical
      exact kept_next (advance_canonical (hs₃.update rfl))

theorem execMloopOpen_kept {a} {s : State} (h : s.MemCanonical) : Kept (execMloopOpen a s) := by
  unfold execMloopOpen
  extract_lets v set policy snap tiles size src w rs s₁ point l src₁
  have hs₁ : s₁.MemCanonical := ite_canonical (foldl_canonical h fun _ _ => windowWrite_keeps) h
  refine ite_kept (kept_next (malformed_canonical h)) <| ite_kept (kept_next (illopExec_canonical h)) ?_
  split
  · split
    · exact kept_next (advance_canonical (h.update rfl))
    · split
      · exact kept_next (boundTrap_canonical h)
      · split
        · exact kept_next (h.update rfl)
        · exact kept_next (advance_canonical (hs₁.update rfl))
  · split
    · exact kept_next (advance_canonical (h.update rfl))
    · split
      · exact kept_next (boundTrap_canonical h)
      · split
        · exact kept_next (h.update rfl)
        · exact kept_next (advance_canonical (hs₁.update rfl))

theorem execMloopClose_kept {s : State} (h : s.MemCanonical) : Kept (execMloopClose s) :=
  ite_kept (kept_next (illopExec_canonical h)) (kept_next (advance_canonical (h.update rfl)))

theorem execMseam_kept {c mask} {s : State} (h : s.MemCanonical) : Kept (execMseam c mask s) := by
  unfold execMseam
  extract_lets tiles s₁ v
  have hs₁ : s₁.MemCanonical := foldl_canonical h fun _ _ => checkTile_canonical
  exact ite_kept (kept_next (h.update rfl)) (kept_next (advance_canonical (hs₁.update rfl)))

theorem execMseamloc_kept {c t} {s : State} (h : s.MemCanonical) : Kept (execMseamloc c t s) :=
  ite_kept (kept_next (h.update rfl)) (kept_next (advance_canonical (h.update rfl)))

theorem execMseamfix_kept {c t} {s : State} (h : s.MemCanonical) : Kept (execMseamfix c t s) := by
  unfold execMseamfix
  extract_lets n x others v es y s₁
  have hs₁ : s₁.MemCanonical := noteCheck_canonical (h.update rfl)
  exact ite_kept (kept_next (h.update rfl)) <|
    ite_kept (kept_next (advance_canonical (hs₁.update rfl))) (kept_next (advance_canonical (h.update rfl)))

theorem execMflags_kept {clear c mask} {s : State} (h : s.MemCanonical) : Kept (execMflags clear c mask s) := by
  unfold execMflags
  refine ite_kept (kept_next (h.update rfl)) ?_
  extract_lets v s₁
  have hs₁ : s₁.MemCanonical := ite_canonical (foldl_canonical h fun s _ hs => hs.update (u := s.setTile _ _) rfl) h
  exact kept_next (advance_canonical (hs₁.update rfl))

theorem execMerrq_kept {clear c} {s : State} (h : s.MemCanonical) : Kept (execMerrq clear c s) :=
  kept_next (advance_canonical (h.update rfl))

theorem checkSpans_canonical {s : State} {xs} (h : s.MemCanonical) : (checkSpans s xs).1.MemCanonical := by
  induction xs generalizing s with
  | nil => exact h
  | cons x xs ih =>
    unfold checkSpans
    split
    next he =>
    have hs₁ := fst_canonical (descOf_canonical h) he
    split
    · exact hs₁
    · exact ih hs₁

theorem flushSpan_canonical {s : State} {id space p n} (h : s.MemCanonical) : (flushSpan s id space p n).MemCanonical :=
  foldl_canonical h fun _ _ => dropLine_canonical

theorem copyIssue_canonical {s : State} {op c b a} (h : s.MemCanonical) : (copyIssue s op c b a).MemCanonical := by
  unfold copyIssue
  extract_lets n g cv d dest inB multicast shape dests descBad local_ idx
  split
  · exact malformed_canonical h
  · refine ite_canonical (malformed_canonical h) <| ite_canonical (malformed_canonical h) <|
      ite_canonical (malformed_canonical h) ?_
    split
    · exact boundTrap_canonical h
    · split
      · exact boundTrap_canonical h
      · split
        · next he₁ => exact trapRegion_canonical (fst_canonical (checkSpans_canonical h) he₁)
        · next he₂ =>
          have hs₂ := fst_canonical (checkSpans_canonical h) he₂
          refine ite_canonical (hs₂.update rfl) ?_
          extract_lets s₃ s₄ f k₁ w w₁ src
          have hs₃ : s₃.MemCanonical := foldl_canonical hs₂ fun _ _ => flushSpan_canonical
          have hs₄ : s₄.MemCanonical := ite_canonical (hs₃.update rfl) hs₃
          exact advance_canonical (hs₄.update rfl)

theorem modCopy_canonical {s : State} {id i f} (h : s.MemCanonical) : (s.modCopy id i f).MemCanonical :=
  setCore_canonical h

theorem deferFault_canonical {s : State} {k cause detail addr} (h : s.MemCanonical) :
    (deferFault s k cause detail addr).MemCanonical :=
  modWave_canonical h

theorem retireCopy_canonical {s : State} {id i k} (h : s.MemCanonical) : (retireCopy s id i k).MemCanonical :=
  modWave_canonical (setCore_canonical h)

theorem writeLocal_keeps {s : State} {team b xs} (h : s.MemCanonical) : (writeLocal s team b xs).MemCanonical :=
  writeLocal_canonical s team b xs h

theorem spoilCopy_canonical {s : State} {id i k} (h : s.MemCanonical) : (spoilCopy s id i k).MemCanonical :=
  (modCopy_canonical h).update rfl

theorem stopCopy_canonical {s : State} {id i k t f} (h : s.MemCanonical) : (stopCopy s id i k t f).MemCanonical := by
  unfold stopCopy
  extract_lets s₁ outs n s₂ s₃
  have hs₁ : s₁.MemCanonical := deferFault_canonical h
  have hs₃ : s₃.MemCanonical := by
    unfold s₃
    refine foldl_canonical (hs₁.update rfl) fun _ _ hs => ?_
    exact foldl_canonical hs fun _ _ hs => ite_canonical (dieWrite_canonical hs) hs
  exact ite_canonical (retireCopy_canonical hs₁) <|
    ite_canonical (retireCopy_canonical hs₃) (spoilCopy_canonical hs₁)

theorem aonBegin_canonical {s : State} {id i k t} (h : s.MemCanonical) :
    ∀ r, aonBegin s id i k t = some r → r.MemCanonical := by
  intro r he
  unfold aonBegin at he
  split at he
  · cases he
    exact h
  · extract_lets w s₁ s₂ at he
    split at he
    · cases he
    · cases he
      exact modCopy_canonical (dieWrite_canonical (flushSpan_canonical h))

theorem startCopy_badIndex_canonical {s : State} {k t} (h : s.MemCanonical) :
    (startCopy.badIndex s k t).MemCanonical := by
  unfold startCopy.badIndex
  refine ite_canonical ?_ h
  split
  · exact deferFault_canonical h
  · exact h

theorem startCopy_canonical {s : State} {id i k t} (h : s.MemCanonical) : (startCopy s id i k t).MemCanonical := by
  unfold startCopy
  split
  · split
    · exact stopCopy_canonical h
    · exact modCopy_canonical h
    · exact h
  · extract_lets s₁
    have hs₁ : s₁.MemCanonical := modCopy_canonical h
    split
    · exact hs₁
    · next hb =>
      have hs₂ := aonBegin_canonical hs₁ _ hb
      split
      · exact modCopy_canonical (addFault_canonical hs₂)
      · extract_lets s₃ r s₄ out
        have hs₃ : s₃.MemCanonical := foldl_canonical hs₂ fun _ _ => waitRange_canonical
        have hs₄ : s₄.MemCanonical := modCopy_canonical hs₃
        refine ite_canonical ?_ <|
          ite_canonical (startCopy_badIndex_canonical hs₄) (startCopy_badIndex_canonical (modCopy_canonical hs₃))
        exact ite_canonical (modCopy_canonical hs₃) (spoilCopy_canonical (deferFault_canonical hs₃))

theorem execTileCopyStart_kept {id i} {s : State} (h : s.MemCanonical) : Kept (execTileCopyStart id i s) := by
  unfold execTileCopyStart
  refine ite_kept (kept_fault _) ?_
  split
  · exact kept_next h
  · refine ite_kept ?_ (kept_next h)
    split
    · exact kept_next (startCopy_canonical h)
    · exact kept_next (retireCopy_canonical h)

theorem execMulticastDelivery_kept {id i rank} {s : State} (h : s.MemCanonical) :
    Kept (execMulticastDelivery id i rank s) := by
  unfold execMulticastDelivery
  refine ite_kept (kept_fault _) ?_
  split
  · exact kept_next h
  · split
    · exact kept_next h
    · refine ite_kept ?_ (kept_next h)
      extract_lets refuse
      have hrefuse : Kept refuse := kept_next (modCopy_canonical h)
      split
      · exact hrefuse
      · exact ite_kept hrefuse <| ite_kept (kept_next h) (kept_next (modCopy_canonical (writeLocal_keeps h)))

theorem performOut_canonical {s : State} {id i k space} (h : s.MemCanonical) :
    (performOut s id i k space).MemCanonical := by
  unfold performOut
  extract_lets s₁ s₂
  have hs₁ : s₁.MemCanonical :=
    foldl_canonical h fun _ _ hs => dieWrite_canonical (flushSpan_canonical hs)
  have hs₂ : s₂.MemCanonical := by
    unfold s₂
    split
    · exact dieWrite_canonical (flushSpan_canonical hs₁)
    · exact hs₁
  exact modCopy_canonical hs₂

theorem execTileCopyRetire_kept {id i} {s : State} (h : s.MemCanonical) : Kept (execTileCopyRetire id i s) := by
  unfold execTileCopyRetire
  refine ite_kept (kept_fault _) ?_
  split
  · exact kept_next h
  · split
    · exact kept_next h
    · refine ite_kept (kept_next h) ?_
      extract_lets s₁ s₂ bytes s₃ s₄
      have hs₁ : s₁.MemCanonical := performOut_canonical h
      have hs₂ : s₂.MemCanonical := ite_canonical (modWave_canonical hs₁) <|
        ite_canonical (windowWrite_keeps h) (writeLocal_keeps h)
      have hs₃ : s₃.MemCanonical := modTeam_keeps hs₂
      exact kept_next (retireCopy_canonical (ite_canonical (renewCc_canonical hs₃) hs₃))

theorem countPeerStep_canonical {s : State} {o t a} (h : s.MemCanonical) : (countPeerStep s o t a).MemCanonical := by
  unfold countPeerStep
  split
  · exact ite_canonical (sextantAdd_canonical h) h
  · exact h

theorem execArrayStep_kept {id} {s : State} (h : s.MemCanonical) : Kept (execArrayStep id s) := by
  unfold execArrayStep
  refine ite_kept (kept_fault _) ?_
  extract_lets k
  split
  · exact kept_next h
  · refine ite_kept (kept_next h) ?_
    split
    · exact kept_next (setCore_canonical h)
    · extract_lets a gone src t₁ last t₂ s₁ k₁ array src₁ s₂ s₃
      have hs₁ : s₁.MemCanonical := modTeam_keeps h
      have hs₃ : s₃.MemCanonical := countPeerStep_canonical (setCore_canonical hs₁)
      exact ite_kept (kept_next h) <| ite_kept (kept_next (setCore_canonical (modWave_canonical h)))
        (kept_next (ite_canonical (modWave_canonical hs₃) hs₃))

end Sys2Proof.Machine
end

section
/-! PROOFS. System instructions, issue and progress keep memory in canonical form (R28 to R32, R64 to R66, R259 to R267, R324 to R329, R344 to R351). -/

namespace Sys2Proof.Machine

theorem execHemo_kept {a} {s : State} (h : s.MemCanonical) : Kept (execHemo a s) :=
  ite_kept (kept_next (illopExec_canonical h)) <| ite_kept (kept_next (illopExec_canonical h)) <|
    ite_kept (kept_next (takeTrap_canonical h)) <| ite_kept (kept_next (h.update rfl)) <|
    ite_kept (kept_next (illopExec_canonical h)) (kept_next (advanceNR_canonical (h.update rfl)))

theorem execHemc_kept {s : State} (h : s.MemCanonical) : Kept (execHemc s) :=
  ite_kept (kept_next (illopExec_canonical h)) (kept_next (advanceNR_canonical (h.update rfl)))

theorem tret_canonical {s : State} {mode} (h : s.MemCanonical) : (tret s mode).MemCanonical := by
  unfold tret
  refine ite_canonical (illopExec_canonical h) ?_
  extract_lets eff
  split
  · refine ite_canonical ?_ (returnTrap_canonical (advance_canonical h))
    extract_lets tiles
    exact ite_canonical (h.update rfl) (returnTrap_canonical ((restoreLoop_canonical (advance_canonical h)).update rfl))
  · exact returnTrap_canonical (advance_canonical h)

theorem writeX_canonical {s : State} {x v} (h : s.MemCanonical) : (writeX s x v).MemCanonical := by
  unfold writeX
  split
  · exact h.update rfl
  · exact h.update rfl
  · exact h.update rfl
  · exact h.update rfl
  · exact h.update rfl
  · exact h.update rfl
  · exact h.update rfl
  · exact h.update rfl
  · refine ite_canonical (h.update rfl) <| ite_canonical (h.update rfl) ?_
    split <;> exact h.update rfl

theorem execMovxR_kept {c x} {s : State} (h : s.MemCanonical) : Kept (execMovxR c x s) :=
  ite_kept (kept_next (illop_canonical h)) (kept_next (advance_canonical (h.update rfl)))

theorem execMovxW_kept {x a} {s : State} (h : s.MemCanonical) : Kept (execMovxW x a s) :=
  ite_kept (kept_next (illop_canonical h)) (kept_next (advance_canonical (writeX_canonical h)))

theorem execMovxDst_kept {g} {s : State} (h : s.MemCanonical) : Kept (execMovxDst g s) := by
  unfold execMovxDst
  split
  · exact kept_next (illopExec_canonical h)
  · exact ite_kept (kept_next (illopExec_canonical h)) (kept_next (advance_canonical (h.update rfl)))

theorem execTrapi_kept {hi lo} {s : State} (h : s.MemCanonical) : Kept (execTrapi hi lo s) := by
  unfold execTrapi
  refine ite_kept (kept_next (advanceNR_canonical h)) <| ite_kept (kept_next (takeTrap_canonical (h.update rfl))) <|
    ite_kept ?_ (kept_next (advanceNR_canonical (h.update rfl)))
  split
  · exact ite_kept (kept_next (advanceNR_canonical (h.update rfl))) (kept_next (block_canonical h))
  · exact kept_next (block_canonical h)

theorem execPerfq_kept {c n} {s : State} (h : s.MemCanonical) : Kept (execPerfq c n s) :=
  kept_next (advance_canonical (h.update rfl))

/-- An instruction fetched from the bytes of a slot is no event. -/
theorem fetch_not_isEvent {t : Team} {pc : W64} {i : Instr} (h : t.fetch pc = some (.ok i)) : i.isEvent = false := by
  have half_lt {p n} (hp : t.half p = some n) : n < 65536 := by
    obtain ⟨x, -, rfl⟩ := Option.map_eq_some_iff.1 hp
    unfold codeHalf
    split
    · next w _ => exact w.isLt
    · decide
  obtain ⟨n, hn, hd⟩ := Option.map_eq_some_iff.1 h
  have hlt := half_lt hn
  unfold decodeHalves at hd
  split at hd
  · next heven => exact Decoding.not_isEvent (Decoding.decode16_encode hlt heven hd).2 (by decide)
  · next hodd =>
    split at hd
    · next u hu =>
      split at hu
      · have := half_lt hu
        exact Decoding.not_isEvent (Decoding.decode32_encode (by omega) (by omega) hd).2 (by decide)
      · cases hu
    · cases hd

theorem leadOut_kept {i : Instr} {s : State} {o : Out} (ho : Kept o) : Kept (leadOut i s o) := by
  unfold leadOut
  split
  · next t _ _ => exact ite_kept (kept_next ((ho t rfl).update rfl)) ho
  · exact ho

theorem leadReport_canonical {s t : State} (hs : s.MemCanonical) (ht : t.MemCanonical) :
    (leadReport s t).MemCanonical :=
  ite_canonical (ite_canonical (hs.update rfl) (ht.update rfl)) ht

theorem takeReport_canonical {s : State} (h : s.MemCanonical) : (takeReport s).MemCanonical := by
  unfold takeReport
  split
  · exact h
  · extract_lets s₁ s₂ i e
    split <;> exact takeTrapOf_canonical (h.update rfl)

theorem execTrapEntry_kept {w} {s : State} (h : s.MemCanonical) : Kept (execTrapEntry w s) := by
  unfold execTrapEntry
  refine kept_next (withWave_canonical h fun _ hs₁ => ?_)
  exact ite_canonical hs₁ (leadReport_canonical hs₁ (takeReport_canonical hs₁))

/-- What issue comes to is an outcome that keeps the form, or an instruction that is no event, in canonical memory. -/
def Pre.Kept : Pre → Prop
  | .done o => Machine.Kept o
  | .run i s => s.MemCanonical ∧ i.isEvent = false

theorem ite_preKept {c : Prop} [Decidable c] {a b : Pre} (ha : a.Kept) (hb : b.Kept) : (if c then a else b).Kept := by
  split <;> assumption

theorem decodeTrap_kept {s : State} {cause len i} (h : s.MemCanonical) : (decodeTrap s cause len i).Kept :=
  kept_next (takeTrap_canonical h)

theorem notLanded_kept {s : State} (h : s.MemCanonical) : (notLanded s).Kept :=
  ite_preKept (kept_next (h.update rfl)) (kept_next (takeTrap_canonical h))

theorem preHeader_kept {s : State} (h : s.MemCanonical) : (preHeader s).Kept := by
  unfold preHeader
  refine ite_preKept (decodeTrap_kept h) <| ite_preKept (decodeTrap_kept h) ?_
  split
  · next hf => exact ite_preKept (kept_next (h.update rfl)) ⟨h, fetch_not_isEvent hf⟩
  · exact decodeTrap_kept h

theorem countStg_canonical {s : State} {i} (h : s.MemCanonical) : (countStg s i).MemCanonical :=
  ite_canonical (h.update rfl) h

theorem preExec_kept {s : State} {i} (h : s.MemCanonical) (hi : i.isEvent = false) : (preExec s i).Kept := by
  unfold preExec
  refine ite_preKept (leadOut_kept (kept_next (advance_canonical (countStg_canonical h)))) ?_
  have hheld : (Pre.done (.next s.heldBack)).Kept := kept_next (h.update rfl)
  refine ite_preKept hheld <| ite_preKept (kept_next (h.update rfl)) <| ite_preKept hheld <|
    ite_preKept (kept_next (takeDeferred_canonical h)) <|
    ite_preKept (kept_next (ite_canonical (h.update rfl) (contain_canonical h))) <|
    ite_preKept (kept_next (h.update rfl)) ⟨h, hi⟩

theorem preInstr_kept {s : State} {c} (h : s.MemCanonical) : (preInstr s c).Kept := by
  unfold preInstr
  have ht {cause len i} : (decodeTrap s cause len i).Kept := decodeTrap_kept h
  refine ite_preKept ht <| ite_preKept ht ?_
  split
  · next i hf =>
    have hi := fetch_not_isEvent hf
    split
    · exact ite_preKept ht <| ite_preKept ht ⟨h, hi⟩
    · exact ite_preKept ht <| ite_preKept ht <| ite_preKept ht <| ite_preKept ht (preExec_kept h hi)
  · exact ht

theorem preIssue_kept {s : State} (h : s.MemCanonical) : (preIssue s).Kept := by
  unfold preIssue
  split
  · exact kept_next (ite_canonical (h.update rfl) (loopRestart_canonical h))
  · refine ite_preKept (kept_next (h.update rfl)) <|
      ite_preKept (kept_next (ite_canonical (h.update rfl) (takeReport_canonical h))) <|
      ite_preKept (notLanded_kept h) ?_
    split
    · exact preHeader_kept h
    · exact ite_preKept (preHeader_kept (h.update rfl)) (preInstr_kept h)

theorem modCounts_canonical {s : State} {id f} (h : s.MemCanonical) : (s.modCounts id f).MemCanonical := by
  unfold State.modCounts
  split <;> exact modWave_canonical h

theorem passOver_canonical {s : State} {ids waiting} (h : s.MemCanonical) : (s.passOver ids waiting).MemCanonical := by
  unfold State.passOver
  refine foldl_canonical h fun _ _ hs₁ => ?_
  extract_lets s₂
  have hs₂ : s₂.MemCanonical := modCounts_canonical hs₁
  exact ite_canonical (hs₂.update rfl) hs₂

theorem execIssueOpportunity_kept {id sched} {s : State} (h : s.MemCanonical) :
    Kept (execIssueOpportunity id sched s) := by
  unfold execIssueOpportunity
  refine ite_kept (kept_fault _) <| ite_kept (kept_next h) <| ite_kept (kept_next h) ?_
  split
  · exact kept_next (passOver_canonical h)
  · extract_lets waiting s₁
    have hs₁ : s₁.MemCanonical := passOver_canonical h
    exact ite_kept (kept_next ((take_canonical (modCounts_canonical hs₁)).update rfl))
      (kept_next ((take_canonical hs₁).update rfl))

theorem execSpoolDl_kept {team spool} {s : State} (h : s.MemCanonical) : Kept (execSpoolDl team spool s) := by
  unfold execSpoolDl
  split
  · exact kept_next h
  · exact ite_kept (kept_next (modTeam_keeps h)) <|
      ite_kept (kept_next h) (kept_next (modTeam_keeps (foldl_canonical h fun _ _ => modWave_canonical)))

theorem execBarrierDeadlock_kept {team bar} {s : State} (h : s.MemCanonical) :
    Kept (execBarrierDeadlock team bar s) := by
  unfold execBarrierDeadlock
  split
  · exact kept_next h
  · exact ite_kept (kept_next (modTeam_keeps h)) <|
      ite_kept (kept_next h) (kept_next (modTeam_keeps (foldl_canonical h fun _ _ => modWave_canonical)))

theorem execLoadCompletion_kept {w i} {s : State} (h : s.MemCanonical) : Kept (execLoadCompletion w i s) := by
  unfold execLoadCompletion
  split
  · exact kept_next h
  · exact ite_kept (kept_next ((modWave_canonical h).update rfl)) (kept_next h)

theorem execStorePerformed_kept {w i} {s : State} (h : s.MemCanonical) : Kept (execStorePerformed w i s) := by
  unfold execStorePerformed
  split
  · refine ite_kept (kept_next h) ?_
    exact kept_next ((modWave_canonical (ite_canonical (releaseCaches_canonical h) h)).update rfl)
  · exact kept_next h

theorem execAtomicAtHome_kept {w i} {s : State} (h : s.MemCanonical) : Kept (execAtomicAtHome w i s) := by
  unfold execAtomicAtHome
  refine kept_next (withWave_canonical h fun _ hs₁ => ?_)
  split
  · exact hs₁
  · exact ite_canonical hs₁ ((performAtoms_canonical hs₁).update rfl)

theorem reblock_canonical {s : State} (h : s.MemCanonical) : (reblock s).MemCanonical := by
  unfold reblock
  extract_lets run file
  have hrun (o : Out) (ho : Kept o) : (run o).MemCanonical := by
    unfold run
    split
    · next s' he =>
      have hs' : s'.MemCanonical := by
        split at he
        · exact leadOut_kept ho _ he
        · exact ho _ he
      split
      · exact h
      · exact hs'.update rfl
    · exact h
  have hfile (o : Out) (ho : Kept o) : (file o).MemCanonical := by
    unfold file
    split
    · exact (ho _ rfl).update rfl
    · exact h
  clear_value run file
  split
  · exact h
  · split
    · next i _ =>
      cases i
      case bara => exact hrun _ (execBara_kept h)
      case barw => exact hrun _ (execBarw_kept h)
      case waitf => exact hrun _ (execWaitf_kept h)
      case sleept => exact hrun _ (execSleept_kept h)
      case spush => exact hrun _ (execSpush_kept h)
      case spop => exact hrun _ (execSpop_kept h)
      case msend => exact hrun _ (execMsend_kept h)
      case mrecv => exact hrun _ (execMrecv_kept h)
      case job => exact hrun _ (execJob_kept h)
      case fswait => exact hrun _ (execFswait_kept h)
      case cape => exact hrun _ (execCape_kept h)
      case trapi => exact hrun _ (execTrapi_kept h)
      case reform => exact hfile _ (execReform_kept h)
      all_goals exact h
    · exact h

theorem evalBlocked_canonical {s : State} {w} (h : s.MemCanonical) : (evalBlocked s w).MemCanonical := by
  unfold evalBlocked
  split
  · exact ite_canonical (withWave_canonical h fun _ => reblock_canonical) h
  · exact h

theorem execBinDraw_kept {team} {s : State} (h : s.MemCanonical) : Kept (execBinDraw team s) := by
  unfold execBinDraw
  split
  · exact kept_next h
  · split
    · exact ite_kept (kept_next h) (kept_next (modTeam_keeps (h.update rfl)))
    · exact kept_next h

theorem logError_canonical {s : State} {e} (h : s.MemCanonical) : (logError s e).MemCanonical :=
  ite_canonical (postEvent_canonical (h.update rfl)) (h.update rfl)

theorem execTeamKill_kept {team} {s : State} (h : s.MemCanonical) : Kept (execTeamKill team s) := by
  unfold execTeamKill
  split
  · exact kept_next h
  · refine ite_kept (kept_next h) ?_
    split
    · exact kept_next h
    · exact kept_next (foldl_canonical (h.update rfl) fun _ _ hs₂ => endTeam_canonical (logError_canonical hs₂))

theorem removeTeam_canonical {s : State} {t} (h : s.MemCanonical) : (removeTeam s t).MemCanonical := by
  unfold removeTeam
  extract_lets inHand s₁ s₂ k s₃
  have hs₁ : s₁.MemCanonical := ite_canonical (putBack_canonical h) h
  have hs₂ : s₂.MemCanonical :=
    hs₁.withTeams hs₁.inHand (fun _ ht => hs₁.ofTeam (List.mem_of_mem_filter ht)) rfl
  exact foldl_canonical (setCore_canonical hs₂) fun _ _ => noteFreeze_canonical

theorem execTeamEnd_kept {team} {s : State} (h : s.MemCanonical) : Kept (execTeamEnd team s) := by
  unfold execTeamEnd
  split
  · exact kept_next h
  · refine ite_kept (kept_next h) ?_
    extract_lets s₁ s₂ rest
    have hs₁ : s₁.MemCanonical := releaseCaches_canonical h
    have hs₂ : s₂.MemCanonical := removeTeam_canonical hs₁
    split
    · exact kept_next (removeTeam_canonical hs₁)
    · refine ite_kept (ite_kept (kept_next hs₂) (kept_next (hs₂.update rfl))) ?_
      extract_lets s₃ s₄
      have hs₃ : s₃.MemCanonical := scopeErr_canonical hs₁
      exact kept_next (scopeDown_canonical (removeTeam_canonical (hs₃.update rfl)))

theorem umbraRestart_canonical {s : State} {path region} (h : s.MemCanonical) :
    (umbraRestart s path region).MemCanonical := by
  unfold umbraRestart
  extract_lets w path₁ s₁ src s₂ w₁
  have hs₂ : s₂.MemCanonical := by
    unfold s₂
    split
    · refine ite_canonical ?_ (h.update rfl)
      extract_lets src₁
      have hsrc₁ : src₁.MemCanonical := restoreLoop_canonical (h.update rfl)
      exact hsrc₁.update rfl
    · exact h.update rfl
  exact hs₂.update rfl

theorem umbraMismatch_canonical {s : State} {path region} (h : s.MemCanonical) :
    (umbraMismatch s path region).MemCanonical := by
  unfold umbraMismatch
  extract_lets s₁ again busy s₂ src s₃ e
  have hs₂ : s₂.MemCanonical := umbraRestart_canonical (h.update rfl)
  split
  · exact h.update rfl
  · split
    · exact contain_canonical (hs₂.update rfl)
    · exact hs₂

theorem performBuffered_canonical {s : State} (h : s.MemCanonical) : (performBuffered s).MemCanonical := by
  unfold performBuffered
  split
  · exact h
  · exact (performReqs_canonical h).update rfl

theorem execUmbraComparison_kept {w equal} {s : State} (h : s.MemCanonical) : Kept (execUmbraComparison w equal s) := by
  refine kept_next (withWave_canonical h fun s hs => ?_)
  split
  · exact hs
  · split
    · refine ite_canonical hs <|
        ite_canonical (State.MemCanonical.update (s := if _ then _ else _) ?_ rfl) (umbraMismatch_canonical hs)
      split
      · exact performBuffered_canonical hs
      · exact hs
    · split
      · exact ite_canonical (hs.update rfl) (umbraMismatch_canonical hs)
      · exact hs.update rfl
    · exact hs

end Sys2Proof.Machine
end

section
/-! PROOFS. Page service, placement and regrouping keep memory in canonical form (R302 to R322, R330 to R343). -/

namespace Sys2Proof.Machine

theorem serviceWord_canonical {s : State} {pa v} (h : s.MemCanonical) : (serviceWord s pa v).MemCanonical :=
  homeWrite_canonical h

theorem watchRun_canonical {s : State} {part i pa len who} (h : s.MemCanonical) :
    (watchRun s part i pa len who).MemCanonical :=
  ite_canonical h ((watchOne_canonical h).update rfl)

theorem zeroFrame_canonical {s : State} {pa len} (h : s.MemCanonical) : (zeroFrame s pa len).MemCanonical := by
  unfold zeroFrame
  extract_lets s₁
  have hs₁ : s₁.MemCanonical := h.withMem (filter_wf _ h.1) rfl
  split
  · exact hs₁
  · exact foldl_canonical hs₁ fun _ _ => watchRun_canonical

theorem releaseEntry_canonical {s : State} {i e} (h : s.MemCanonical) : (releaseEntry s i e).MemCanonical := by
  unfold releaseEntry
  extract_lets ready put
  have hput (s₁) (hs₁ : s₁.MemCanonical) : (put s₁).MemCanonical := hs₁.update rfl
  split
  · exact ite_canonical (ite_canonical h (hput _ ((restoreLoop_canonical h).update rfl))) (hput _ h)
  · exact hput _ h

theorem declineEntry_canonical {s : State} {i e f} (h : s.MemCanonical) : (declineEntry s i e f).MemCanonical :=
  takeTrapOf_canonical (h.update rfl)

theorem answerEntry_canonical {s : State} {entry e} (h : s.MemCanonical) : (answerEntry s entry e).MemCanonical := by
  unfold answerEntry
  split
  · exact declineEntry_canonical h
  · refine ite_canonical (releaseEntry_canonical h) ?_
    split
    · exact h.update rfl
    · exact h

theorem execParkedEntryRelease_kept {w entry} {s : State} (h : s.MemCanonical) :
    Kept (execParkedEntryRelease w entry s) := by
  unfold execParkedEntryRelease
  refine kept_next (withWave_canonical h fun _ hs₁ => ?_)
  exact ite_canonical hs₁ <| ite_canonical (answerEntry_canonical hs₁) <|
    ite_canonical hs₁ ((answerEntry_canonical hs₁).update rfl)

theorem endFill_canonical {s : State} {team slot code} (h : s.MemCanonical) :
    (endFill s team slot code).MemCanonical := by
  unfold endFill
  split
  · exact h
  · extract_lets x₁ y s₁
    have hs₁ : s₁.MemCanonical := modTeam_keeps h
    split
    · exact modWave_canonical hs₁
    · exact hs₁

theorem execCfetchFillComplete_kept {team slot poisoned} {s : State} (h : s.MemCanonical) :
    Kept (execCfetchFillComplete team slot poisoned s) := by
  unfold execCfetchFillComplete
  split
  · exact kept_next h
  · split
    · exact kept_next h
    · refine ite_kept (kept_next h) ?_
      split
      · exact kept_next h
      · exact kept_next (endFill_canonical h)
      · split
        · exact kept_next (modTeam_keeps (addFault_canonical h))
        · exact kept_next (endFill_canonical (waitRange_canonical h))

theorem refuseCard_canonical {s : State} {part q num code} (h : s.MemCanonical) :
    (refuseCard s part q num code).MemCanonical :=
  postEvent_canonical (h.update rfl)

theorem execHostCardTake_kept {part q} {s : State} (h : s.MemCanonical) : Kept (execHostCardTake part q s) := by
  unfold execHostCardTake
  split
  · exact kept_next h
  · extract_lets x₁
    refine ite_kept (kept_next h) ?_
    split
    · refine ite_kept (kept_next (refuseCard_canonical (waitPrivate_canonical h))) ?_
      split
      · next he₁ => exact kept_next (fst_canonical (openScope_canonical (waitPrivate_canonical h)) he₁)
      · next he₂ =>
        have hs₂ := fst_canonical (openScope_canonical (waitPrivate_canonical h)) he₂
        extract_lets l s₃
        exact kept_next (hs₂.update rfl)
    · exact kept_next (refuseCard_canonical (waitPrivate_canonical h))

theorem placeTeam_canonical {s : State} {l params space gang rank size at_ counts} (h : s.MemCanonical) :
    (placeTeam s l params space gang rank size at_ counts).MemCanonical := by
  unfold placeTeam
  extract_lets t k s₁ s₂
  have ht : TeamWf t := ⟨rfl, rfl⟩
  have hs₁ : s₁.MemCanonical := renewCc_canonical (setCore_canonical h)
  have hs₂ : s₂.MemCanonical := by
    clear_value t s₁
    refine hs₁.withTeams hs₁.inHand (fun u hu => ?_) rfl
    rcases List.mem_append.1 hu with hu | hu
    · exact hs₁.ofTeam hu
    · rw [List.mem_singleton.1 hu]
      exact ht
  clear_value s₂
  exact ite_canonical (hs₂.update rfl) hs₂

theorem placeGang_canonical {s : State} {l g cores} (h : s.MemCanonical) : (placeGang s l g cores).MemCanonical := by
  unfold placeGang
  split
  · exact h
  · next he₁ =>
    have hs₁ := spaceFor_canonical h _ he₁
    extract_lets c die params again size s₂ l' s₃
    have hs₂ : s₂.MemCanonical := foldl_canonical hs₁ fun _ _ => placeTeam_canonical
    exact ite_canonical (checkScope_canonical (hs₂.update rfl)) (hs₂.update rfl)

theorem execCardPlacement_kept {part q card cores} {s : State} (h : s.MemCanonical) :
    Kept (execCardPlacement part q card cores s) := by
  unfold execCardPlacement
  split
  · exact kept_next h
  · split
    · exact kept_next h
    · exact ite_kept (kept_next (placeGang_canonical h)) (kept_next h)

theorem execPlacementDemand_kept {die cores} {s : State} (h : s.MemCanonical) :
    Kept (execPlacementDemand die cores s) :=
  ite_kept (kept_fault _) <| ite_kept (kept_next (h.update rfl)) (kept_next h)

theorem execPlacementEvictionTrigger_kept {part q card} {s : State} (h : s.MemCanonical) :
    Kept (execPlacementEvictionTrigger part q card s) := by
  unfold execPlacementEvictionTrigger
  split
  · exact kept_next h
  · refine ite_kept (kept_next h) ?_
    split
    · exact kept_next h
    · exact kept_next (foldl_canonical h fun _ _ => modTeam_keeps)

theorem leaveCore_canonical {s : State} {id bank} (h : s.MemCanonical) : (leaveCore s id bank).MemCanonical := by
  unfold leaveCore
  extract_lets src s₁
  have hs₁ : s₁.MemCanonical := ite_canonical ((putBack_canonical h).update rfl) h
  split
  · exact hs₁
  · refine modTeam_keeps (releaseCaches_canonical (stallTeam_canonical hs₁)) fun t ht => ?_
    split <;> exact ht

theorem execSlotEviction_kept {team} {s : State} (h : s.MemCanonical) : Kept (execSlotEviction team s) := by
  unfold execSlotEviction
  split
  · exact kept_next h
  · exact ite_kept (kept_next h) (kept_next (leaveCore_canonical h))

theorem execEvictionDeferralExpiry_kept {team} {s : State} (h : s.MemCanonical) :
    Kept (execEvictionDeferralExpiry team s) := by
  unfold execEvictionDeferralExpiry
  split
  · exact kept_next h
  · split
    · exact kept_next h
    · exact ite_kept (kept_next h) (kept_next (leaveCore_canonical (h.update rfl)))

theorem bringIn_canonical {s : State} {team core slot f} (h : s.MemCanonical)
    (hf : ∀ t, TeamWf t → TeamWf (f t)) : (bringIn s team core slot f).MemCanonical := by
  unfold bringIn
  extract_lets s₁ s₂
  have hs₁ : s₁.MemCanonical := by
    unfold s₁
    split
    · exact renewCc_canonical h
    · exact h
  have hs₂ : s₂.MemCanonical := modTeam_keeps hs₁ fun t ht => hf _ ht
  exact hs₂.update rfl

theorem execTeamReload_kept {team core slot} {s : State} (h : s.MemCanonical) :
    Kept (execTeamReload team core slot s) := by
  unfold execTeamReload
  refine ite_kept (kept_fault _) ?_
  split
  · exact kept_next h
  · exact ite_kept (kept_next (bringIn_canonical h fun _ ht => ht)) (kept_next h)

theorem exchangeSlot_canonical {s : State} {core slot} (h : s.MemCanonical) : (exchangeSlot s core slot).MemCanonical :=
  foldl_canonical h fun _ _ => modTeam_keeps

theorem execSpill_kept {core} {s : State} (h : s.MemCanonical) : Kept (execSpill core s) := by
  unfold execSpill
  refine ite_kept (kept_fault _) <| ite_kept (kept_next h) ?_
  split
  · exact kept_next (setCore_canonical (exchangeSlot_canonical h))
  · exact kept_next (setCore_canonical (foldl_canonical h fun _ _ => modTeam_keeps))

theorem settleTeam_canonical {s : State} {t} (h : s.MemCanonical) : (settleTeam s t).MemCanonical := by
  unfold settleTeam
  refine foldl_canonical h fun _ _ hs₁ => ?_
  refine withWave_canonical hs₁ fun _ hs₂ => ?_
  exact settleAtoms_canonical hs₂

theorem settleCopies_canonical {s : State} {id} (h : s.MemCanonical) : (settleCopies s id).MemCanonical := by
  unfold settleCopies
  refine foldl_canonical h fun _ _ hs₁ => ?_
  split
  · exact ite_canonical (performOut_canonical hs₁) hs₁
  · exact hs₁

theorem reStitch_canonical {s : State} {die new} (h : s.MemCanonical) : (reStitch s die new).MemCanonical := by
  unfold reStitch
  extract_lets d new₁ hit teams s₁ s₂ s₃ names s₄ src s₅ d₁
  have hs₁ : s₁.MemCanonical := foldl_canonical h fun _ _ => settleTeam_canonical
  have hs₂ : s₂.MemCanonical := foldl_canonical hs₁ fun _ _ => settleCopies_canonical
  have hs₃ : s₃.MemCanonical := foldl_canonical hs₂ fun _ _ => flushCore_canonical
  have hs₄ : s₄.MemCanonical := foldl_canonical hs₃ fun _ _ => modTeam_keeps
  have hs₅ : s₅.MemCanonical := by
    unfold s₅
    split
    · exact ite_canonical (hs₄.update rfl) hs₄
    · exact hs₄
  exact ite_canonical h (hs₅.update rfl)

theorem applyDemand_canonical {s : State} {die} (h : s.MemCanonical) : (applyDemand s die).MemCanonical :=
  ite_canonical h <| ite_canonical (reStitch_canonical (h.update rfl)) (h.update rfl)

theorem execRegroupInterval_kept {die proposal} {s : State} (h : s.MemCanonical) :
    Kept (execRegroupInterval die proposal s) := by
  refine kept_takeBack h (ite_kept (kept_fault _) ?_)
  extract_lets d s₁ s₂ s₃ old new s₄
  have hs₂ : s₂.MemCanonical := h.update rfl
  have hs₃ : s₃.MemCanonical := applyDemand_canonical hs₂
  have hs₄ : s₄.MemCanonical := ite_canonical (reStitch_canonical hs₂) hs₂
  clear_value s₂ s₃ s₄
  exact ite_kept (kept_next (hs₃.update rfl)) <| ite_kept (kept_next hs₂) (kept_next (hs₄.update rfl))

theorem execRegroupRequestDecision_kept {die} {s : State} (h : s.MemCanonical) :
    Kept (execRegroupRequestDecision die s) := by
  refine kept_takeBack h ?_
  refine ite_kept (kept_fault _) <| ite_kept (kept_next h) ?_
  split
  · exact kept_next h
  · extract_lets s₁ r s₂ d s₃ s₄
    have hs₁ : s₁.MemCanonical := applyDemand_canonical h
    have hs₂ : s₂.MemCanonical := ite_canonical (reStitch_canonical hs₁) hs₁
    clear_value s₂
    exact kept_next (postEvent_canonical (hs₂.update rfl))

theorem execFreezeExpired_kept {die core} {s : State} (h : s.MemCanonical) : Kept (execFreezeExpired die core s) := by
  unfold execFreezeExpired
  refine ite_kept (kept_fault _) ?_
  extract_lets d cons limit
  split
  · exact kept_next h
  · extract_lets s₁ holders s₂
    have hs₂ : s₂.MemCanonical := by
      unfold s₂
      refine foldl_canonical (h.update rfl) fun _ _ hs₃ => ?_
      extract_lets s₄
      have hs₄ : s₄.MemCanonical := modTeam_keeps hs₃
      split
      · exact modWave_canonical hs₄
      · exact hs₄
    exact kept_next (noteFreeze_canonical hs₂)

end Sys2Proof.Machine
end

section
/-! PROOFS. Self-tests, power, the card engine and collectives keep memory in canonical form (R374 to R376, R383 to R390, R410 to R422). -/

namespace Sys2Proof.Machine

theorem killTeam_canonical {s : State} {t} (h : s.MemCanonical) : (killTeam s t).MemCanonical := by
  unfold killTeam
  split
  · exact h.update rfl
  · exact h

theorem poisonWave_canonical {s : State} {id lane reg} (h : s.MemCanonical) :
    (poisonWave s id lane reg).MemCanonical := by
  unfold poisonWave
  split <;> exact modWave_canonical h

theorem spoilRegs_canonical {s : State} {t a} (h : s.MemCanonical) : (spoilRegs s t a).MemCanonical := by
  unfold spoilRegs
  split
  · exact ite_canonical (killTeam_canonical h) (poisonWave_canonical h)
  · exact h

theorem spoilL1_canonical {s : State} {id space p} (h : s.MemCanonical) : (spoilL1 s id space p).MemCanonical := by
  unfold spoilL1
  extract_lets k
  split
  · exact h
  · exact dropLine_canonical (setCore_canonical h)

theorem spoilCc_canonical {s : State} {id space p} (h : s.MemCanonical) : (spoilCc s id space p).MemCanonical := by
  unfold spoilCc
  extract_lets d
  split
  · exact h
  · extract_lets x₁ s₁ s₂ d₁
    have hs₂ : s₂.MemCanonical := ite_canonical (toHome_canonical (h.update rfl)) (h.update rfl)
    exact hs₂.update rfl

theorem spoil_canonical {s : State} {a} (h : s.MemCanonical) : (spoil s a).MemCanonical := by
  unfold spoil
  split
  · exact spoilRegs_canonical h
  · exact spoilRegs_canonical h
  · split
    · exact modTeam_keeps h
    · exact h
  · split
    · exact modTeam_keeps h
    · exact h
  · split
    · exact modTeam_keeps h
    · exact h
  · split
    · exact ite_canonical (poisonWave_canonical h) (killTeam_canonical h)
    · exact h
  · split
    · exact modTeam_keeps h
    · exact h
  · exact spoilL1_canonical h
  · exact spoilCc_canonical h
  · exact ite_canonical (h.update rfl) h
  · exact h.update rfl
  · exact h.update rfl
  · exact ite_canonical ((setCore_canonical h).update rfl) (killTeam_canonical h)
  · exact ite_canonical (h.update rfl) (setCore_canonical h)
  · exact h.update rfl
  · exact h

theorem startTest_canonical {s : State} {a kind} (h : s.MemCanonical) : (startTest s a kind).MemCanonical := by
  unfold startTest
  refine ite_canonical (setCore_canonical h) ?_
  split <;> exact h.update rfl

theorem retireCore_canonical {s : State} {id} (h : s.MemCanonical) : (retireCore s id).MemCanonical := by
  unfold retireCore
  extract_lets k
  refine ite_canonical h ?_
  split
  · exact postEvent_canonical ((setCore_canonical h).update rfl)
  · exact setCore_canonical h

theorem repairArray_canonical {s : State} {id e} (h : s.MemCanonical) : (repairArray s id e).1.MemCanonical := by
  unfold repairArray
  extract_lets k rowFirst
  split
  · exact retireCore_canonical h
  · split <;> exact setCore_canonical h

theorem repair_canonical {s : State} {a} (h : s.MemCanonical) : (repair s a).1.MemCanonical := by
  unfold repair
  split
  · extract_lets row
    split <;> exact h.update rfl
  · exact h
  · exact h
  · exact h
  · split
    · exact setCore_canonical h
    · split
      · exact h
      · exact retireCore_canonical h

theorem logClassified_canonical {s : State} {e} (h : s.MemCanonical) : (logClassified s e).MemCanonical :=
  ite_canonical (h.update rfl) (logError_canonical h)

theorem logTest_canonical {s : State} {t e} (h : s.MemCanonical) : (logTest s t e).MemCanonical :=
  foldl_canonical (logClassified_canonical h) fun _ _ => logClassified_canonical

theorem endTest_canonical {s : State} {t lasting} (h : s.MemCanonical) : (endTest s t lasting).MemCanonical := by
  unfold endTest
  extract_lets r
  have hr : r.1.MemCanonical := by
    unfold r
    split
    · exact repair_canonical h
    · exact h
  exact logTest_canonical hr

theorem endArrayTest_canonical {s : State} {t faulty} (h : s.MemCanonical) :
    (endArrayTest s t faulty).MemCanonical :=
  ite_canonical (logTest_canonical h)
    (foldl_canonical h fun _ _ hs => logClassified_canonical (repairArray_canonical hs))

theorem execSelfTestEnd_kept {core found} {s : State} (h : s.MemCanonical) : Kept (execSelfTestEnd core found s) := by
  unfold execSelfTestEnd
  refine ite_kept (kept_fault _) ?_
  extract_lets k
  split
  · exact kept_next (endArrayTest_canonical ((setCore_canonical h).update rfl))
  · split
    · exact kept_next h
    · split
      · exact kept_next h
      · exact kept_next (endTest_canonical (h.update rfl))

theorem scrubFound_canonical {s : State} {stack x} (h : s.MemCanonical) : (scrubFound s stack x).MemCanonical :=
  startTest_canonical (ite_canonical h (spoil_canonical h))

theorem execHbmRefreshBurst_kept {b} {s : State} (h : s.MemCanonical) : Kept (execHbmRefreshBurst b s) :=
  ite_kept (kept_fault _) <|
    ite_kept (kept_next h) (kept_next (foldl_canonical (h.update rfl) fun _ _ => scrubFound_canonical))

theorem execRatioHopEnd_kept {core} {s : State} (h : s.MemCanonical) : Kept (execRatioHopEnd core s) := by
  unfold execRatioHopEnd
  refine ite_kept (kept_fault _) ?_
  extract_lets k
  split
  · exact kept_next h
  · extract_lets s₁ k₁
    split <;> exact kept_next (setCore_canonical (h.update rfl))

theorem execDutyWindow_kept {core} {s : State} (h : s.MemCanonical) : Kept (execDutyWindow core s) := by
  unfold execDutyWindow
  refine ite_kept (kept_fault _) ?_
  extract_lets s₁ s₂
  have hs₂ : s₂.MemCanonical := setCore_canonical (h.update rfl)
  split
  · exact kept_next hs₂
  · exact kept_next (hs₂.update rfl)

theorem takeRecord_canonical {s : State} {key c} (h : s.MemCanonical) : (takeRecord s key c).MemCanonical := by
  unfold takeRecord
  split <;> exact h.update rfl

theorem numberCard_canonical {s : State} {c} (h : s.MemCanonical) : (numberCard s c).1.MemCanonical := by
  unfold numberCard
  split
  · exact h
  · exact h.update rfl

theorem execCardTake_kept {space chain} {s : State} (h : s.MemCanonical) : Kept (execCardTake space chain s) := by
  unfold execCardTake
  split
  · extract_lets word num c
    refine ite_kept (kept_next h) ?_
    split
    · exact kept_next (addFault_canonical h)
    · refine ite_kept (kept_next h) ?_
      split
      · next he₁ =>
        have hs₁ := fst_canonical (numberCard_canonical
          (setChainWord_canonical (waitRange_canonical (waitRange_canonical h)))) he₁
        exact kept_next (takeRecord_canonical (hs₁.update rfl))
  · exact kept_next h

theorem cardPage_canonical {s : State} {i c} (h : s.MemCanonical) :
    ∀ r, cardPage s i c = some r → r.MemCanonical := by
  intro r he
  unfold cardPage at he
  split at he <;> cases he
  · exact h
  · exact h.update rfl

theorem runUnits_canonical {s : State} {i copying fuel} (h : s.MemCanonical) :
    (runUnits s i copying fuel).MemCanonical := by
  induction fuel generalizing s with
  | zero => exact h
  | succ k ih =>
    unfold runUnits
    split
    · exact h
    · extract_lets len die d p n s₁ s₂ data s₃
      have hs₁ : s₁.MemCanonical := waitEntry_canonical (ite_canonical (waitEntry_canonical h) h)
      have hs₃ : s₃.MemCanonical := dieWrite_canonical (ite_canonical (waitRange_canonical hs₁) hs₁)
      clear_value s₁ s₃
      refine ite_canonical (h.update rfl) <| ite_canonical (hs₁.update rfl) ?_
      split
      · exact (addFault_canonical hs₁).update rfl
      · exact ite_canonical (hs₁.update rfl) (ih (hs₃.update rfl))

theorem bulkCard_canonical {s : State} {i op} (h : s.MemCanonical) : (bulkCard s i op).MemCanonical := by
  unfold bulkCard
  split
  · exact h
  · refine ite_canonical h ?_
    split
    · next he₁ => exact cardPage_canonical h _ he₁
    · split
      · exact h.update rfl
      · exact runUnits_canonical (h.update rfl)

theorem copyFrame_canonical {s : State} {old new len} (h : s.MemCanonical) : (copyFrame s old new len).MemCanonical :=
  (zeroFrame_canonical h).withMem (copyFrame_wf s old new len h.1) rfl

theorem rekey_canonical {s : State} {old new len} (h : s.MemCanonical) : (rekey s old new len).MemCanonical :=
  (mapWaves_canonical h).update rfl

theorem execMigrate_kept {i} {s : State} (h : s.MemCanonical) : Kept (execMigrate i s) := by
  unfold execMigrate
  split
  · exact kept_next h
  · split
    · exact kept_next (h.update rfl)
    · split
      · exact kept_next (h.update rfl)
      · extract_lets size va new fits s₁ s₂ s₃
        have hs₂ : s₂.MemCanonical := (serviceWord_canonical (copyFrame_canonical h)).update rfl
        have hs₃ : s₃.MemCanonical := (serviceWord_canonical h).update rfl
        exact ite_kept (ite_kept (kept_next (h.update rfl)) (kept_next ((rekey_canonical hs₂).update rfl))) <|
          ite_kept (kept_next (h.update rfl)) (kept_next (hs₃.update rfl))

theorem execReplicate_kept {i} {s : State} (h : s.MemCanonical) : Kept (execReplicate i s) := by
  unfold execReplicate
  split
  · exact kept_next h
  · split
    · exact kept_next (h.update rfl)
    · split
      · exact kept_next (h.update rfl)
      · refine ite_kept (kept_next (h.update rfl)) (kept_next ?_)
        refine State.MemCanonical.update (serviceWord_canonical ?_) rfl
        exact foldl_canonical (flushRange_canonical h) fun _ _ => copyFrame_canonical

theorem completeCard_canonical {s : State} {i c status} (h : s.MemCanonical) :
    (completeCard s i c status).MemCanonical := by
  unfold completeCard
  extract_lets die slot word s₁ s₂ s₃ s₄ s₅ mine next s₆
  have hs₁ : s₁.MemCanonical := dieWrite_canonical h
  have hs₂ : s₂.MemCanonical := ite_canonical hs₁ (setChainWord_canonical hs₁)
  have hs₄ : s₄.MemCanonical := by
    unfold s₄
    split
    · exact scopeDown_canonical (scopeErr_canonical (hs₂.update rfl))
    · exact hs₂.update rfl
  have hs₆ : s₆.MemCanonical := setChainWord_canonical (ite_canonical (postEvent_canonical hs₄) hs₄)
  exact hs₆.update rfl

theorem execCardCompletion_kept {i} {s : State} (h : s.MemCanonical) : Kept (execCardCompletion i s) := by
  unfold execCardCompletion
  split
  · exact kept_next h
  · refine ite_kept (kept_next h) ?_
    extract_lets complete
    have hcomplete (st) : Kept (complete st) := by
      unfold complete
      split
      · exact kept_next (addFault_canonical h)
      · exact kept_next (completeCard_canonical h)
    split
    · exact hcomplete _
    · exact ite_kept (kept_next h) (hcomplete _)

theorem collectiveRun_canonical {s : State} {i op c g me inputs} (h : s.MemCanonical) :
    (collectiveRun s i op c g me inputs).MemCanonical := by
  unfold collectiveRun
  extract_lets len p src dst n reads die fail s₁ s₂ own ranks
  have hfail (s st) (hs : s.MemCanonical) : (fail s st).MemCanonical := hs.update rfl
  have hs₁ : s₁.MemCanonical := waitEntry_canonical (ite_canonical (waitEntry_canonical h) h)
  have hs₂ : s₂.MemCanonical := ite_canonical (waitRange_canonical hs₁) hs₁
  clear_value s₁ s₂ own ranks fail
  split
  · exact hfail _ _ h
  · refine ite_canonical (hfail _ _ h) <| ite_canonical (hfail _ _ h) <| ite_canonical (hfail _ _ h) <|
      ite_canonical (hfail _ _ h) <| ite_canonical (hfail _ _ h) <| ite_canonical (hfail _ _ hs₁) ?_
    split
    · exact (addFault_canonical hs₁).update rfl
    · refine ite_canonical (hfail _ _ hs₁) ?_
      extract_lets r s₃
      have hs₃ : s₃.MemCanonical := dieWrite_canonical hs₂
      clear_value s₃
      exact hs₃.update rfl

theorem collectiveCard_canonical {s : State} {i op inputs} (h : s.MemCanonical) :
    (collectiveCard s i op inputs).MemCanonical := by
  unfold collectiveCard
  split
  · exact h
  · refine ite_canonical h ?_
    split
    · next he₁ => exact cardPage_canonical h _ he₁
    · extract_lets bad
      have hbad (st) : (bad st).MemCanonical := h.update rfl
      split
      · exact hbad _
      · split
        · exact hbad _
        · exact ite_canonical (hbad _) <| ite_canonical h (collectiveRun_canonical h)

end Sys2Proof.Machine
end

section
/-! PROOFS. Remote requests, the host, partitions and boot keep memory in canonical form (R402 to R409, R423 to R436). -/

namespace Sys2Proof.Machine

theorem performRemote_canonical {s : State} {m} (h : s.MemCanonical) : (performRemote s m).MemCanonical := by
  unfold performRemote
  split
  · exact foldl_canonical h fun _ _ => homeWrite_canonical
  · exact sendRemote_canonical h
  · extract_lets n bs r s₂
    have hs₂ : s₂.MemCanonical := ite_canonical h (homeWrite_canonical h)
    exact ite_canonical hs₂ (sendRemote_canonical hs₂)
  · exact h
  · exact h

theorem performInOrder_canonical {s : State} {m fuel} (h : s.MemCanonical) :
    (performInOrder s m fuel).MemCanonical := by
  induction fuel generalizing s m with
  | zero => exact h
  | succ k ih =>
    unfold performInOrder
    extract_lets s₁ next s₂ mine
    have hs₁ : s₁.MemCanonical := sendAck_canonical (performRemote_canonical h)
    have hs₂ : s₂.MemCanonical := hs₁.update rfl
    clear_value s₂
    split
    · split
      · exact hs₂
      · exact ih (hs₂.update rfl)
    · exact hs₂

theorem execQuoteComplete_kept {part} {s : State} (h : s.MemCanonical) : Kept (execQuoteComplete part s) := by
  unfold execQuoteComplete
  split
  · exact kept_next h
  · exact ite_kept (kept_next (h.update rfl)) (kept_next h)

theorem clearHbm_canonical {s : State} {dies} (h : s.MemCanonical) : (clearHbm s dies).MemCanonical :=
  h.withMem (filter_wf _ h.1) rfl

theorem createPart_canonical {s : State} {part dies debug} (h : s.MemCanonical) :
    (createPart s part dies debug).MemCanonical :=
  ite_canonical h ((clearHbm_canonical h).update rfl)

theorem sweepPart_canonical {s : State} {p} (h : s.MemCanonical) : (sweepPart s p).MemCanonical := by
  unfold sweepPart
  extract_lets src s₁ teams s₂ s₃ s₄ mine s₅
  have hs₁ : s₁.MemCanonical := ite_canonical ((putBack_canonical h).update rfl) h
  have hs₂ : s₂.MemCanonical := foldl_canonical hs₁ fun _ _ => stallTeam_canonical
  have hs₃ : s₃.MemCanonical :=
    hs₂.withTeams hs₂.inHand (fun _ ht => hs₂.ofTeam (List.mem_of_mem_filter ht)) rfl
  have hs₄ : s₄.MemCanonical :=
    foldl_canonical hs₃ fun _ _ => foldl_keeps State.MemCanonical _ (fun _ _ => noteFreeze_canonical) _ _
  have hs₅ : s₅.MemCanonical :=
    foldl_canonical hs₄ fun _ _ hs => setCore_canonical (flushCore_canonical hs)
  exact hs₅.update rfl

theorem resumeEarly_canonical {s : State} (h : s.MemCanonical) : (resumeEarly s).MemCanonical :=
  foldl_canonical h fun _ _ hs₁ => ite_canonical (performInOrder_canonical (hs₁.update rfl)) hs₁

theorem finishReset_canonical {s : State} {p} (h : s.MemCanonical) : (finishReset s p).MemCanonical :=
  resumeEarly_canonical ((sweepPart_canonical h).update rfl)

theorem execPartitionReset_kept {part} {s : State} (h : s.MemCanonical) : Kept (execPartitionReset part s) := by
  refine kept_takeBack h ?_
  split
  · exact kept_next h
  · exact ite_kept (kept_next (finishReset_canonical h)) (kept_next (h.update rfl))

theorem applyRepair_canonical {s : State} {e} (h : s.MemCanonical) : (applyRepair s e).MemCanonical := by
  unfold applyRepair
  split
  · exact ite_canonical (setCore_canonical h) h
  · exact h.update rfl
  · exact ite_canonical (setCore_canonical h) h
  · exact ite_canonical (setCore_canonical h) h
  · exact ite_canonical (setCore_canonical h) h
  · exact h

theorem finishBoot_canonical {s : State} (h : s.MemCanonical) : (finishBoot s).MemCanonical := by
  unfold finishBoot
  extract_lets s₁ s₂
  have hs₁ : s₁.MemCanonical := foldl_canonical (h.update rfl) fun _ _ => applyRepair_canonical
  exact foldl_canonical (hs₁.update rfl) fun _ _ => createPart_canonical

theorem execBoot_kept {failed} {s : State} (h : s.MemCanonical) : Kept (execBoot failed s) := by
  unfold execBoot
  refine ite_kept (kept_next h) ?_
  extract_lets own step
  clear_value step
  cases step with
  | none => exact kept_next (finishBoot_canonical h)
  | some n => exact kept_next (h.update rfl)

end Sys2Proof.Machine
end

section
/-! PROOFS. O57: every instruction, every event and so every step keeps memory in canonical form (log 2; R62, R150). -/

namespace Sys2Proof.Machine

theorem exec_kept {i : Instr} {s : State} (h : s.MemCanonical) (hi : i.isEvent = false) : Kept (exec i s) := by
  cases i
  case clause => exact execClause_kept h
  case ext => exact kept_next (h.update rfl)
  case add | sub | mul | mulhI | mulhN | minI | minN | maxI | maxN | and | or | xor | divI | divIT64 |
      divII64 | divN | divNT64 | divNI64 | remI | remIT64 | remII64 | remN | remNT64 | remNI64 | addcN |
      addcNT64 | addcNI64 =>
    exact kept_next (intOp_canonical h)
  case shl | shrN | shrI | rot => exact kept_next (shiftOp_canonical h)
  case mad | madT64 | madI64 => exact kept_next (accOp_canonical h)
  case neg | neg64 | abs | abs64 | not | not64 | popc | popc64 | clz | clz64 | brev | brev64 =>
    exact kept_next (unaryOp_canonical h)
  case bfxN | bfxNT64 | bfxNI64 | bfxI | bfxIT64 | bfxII64 => exact kept_next (fieldOp_canonical h)
  case bfi | bfiT64 | bfiI64 => exact kept_next (bfiOp_canonical h)
  case padd | paddI | fclass | mov | movi | sel | sel64 | bcast => exact kept_next (laneOp_canonical h)
  case fadd | faddI | fsub | fsubI | fmul | fmulI | fdiv | fdivI => exact kept_next (fpBin_canonical h)
  case fma | fmaI => exact kept_next (fpFma_canonical h)
  case fmin | fminI | fmax | fmaxI => exact kept_next (fpMinMax_canonical h)
  case fscale | fscaleI | npack | wred | wscan | cvtF32I32H => exact kept_next (fpOp_canonical h)
  case fsqrt | frcp | frnd => exact kept_next (fpUn_canonical h)
  case frsq | fexp2 | flog2 | fsin | fcos => exact kept_next (fpFn_canonical h)
  case cmp | nunpk | rdtime => exact kept_next (advance_canonical (h.update rfl))
  case fcmp => exact execFcmp_kept h
  case cvt | cvtRdn => exact kept_next (cvtOp_canonical h)
  case shflIdx | shflUp | shflDown | shflXor => exact kept_next (shuffle_canonical h)
  case voteAll | voteAny | voteEq => exact kept_next (vote_canonical h)
  case movs => exact execMovs_kept h
  case mand | mor | mxor | mnot => exact kept_next (maskOp_canonical h)
  case mpop | mfirst | sadd | saddImm | ssub | ssubImm | smul | smulImm | sand | sandImm | sor | sorImm |
      sxor | sxorImm | sshl | sshlImm | sshr | sshrImm | scmp | scmpImm | scmpU | scmpUImm | smov | smovi =>
    exact kept_next (scalarOp_canonical h)
  case ldg => exact execLdg_kept h
  case stg => exact execStg_kept h
  case sldg => exact execSldg_kept h
  case prefg | nopW | nop => exact kept_next (advance_canonical h)
  case lds => exact execLds_kept h
  case sts => exact execSts_kept h
  case ldp => exact execLdp_kept h
  case stp => exact execStp_kept h
  case ldl => exact execLdl_kept h
  case stl => exact execStl_kept h
  case ldk => exact execLdk_kept h
  case atomg => exact execAtomg_kept h
  case redg => exact execRedg_kept h
  case atoms => exact execAtoms_kept h
  case atomp => exact execAtomp_kept h
  case tlook => exact execTlook_kept h
  case tset => exact execTset_kept h
  case tevict => exact execTevict_kept h
  case bra => exact execBra_kept h
  case brd => exact execBrd_kept h
  case call => exact execCall_kept h
  case rjoinW | rjoin => exact kept_next (joinAt_canonical h)
  case yieldW | yield => exact kept_next (yieldAt_canonical h)
  case exit => exact execExit_kept h
  case brk => exact kept_next (takeTrap_canonical h)
  case reform => exact execReform_kept h
  case jmpi | ret => exact kept_next (transferFar_canonical h)
  case fjmp => exact execFjmp_kept h
  case cfetch => exact execCfetch_kept h
  case movH | addH | subH | mulH | andH | orH | xorH | shlH | shrNH => exact kept_next (hOp_canonical h)
  case faddH | fmulH | fmaH | fmaxH | fminH => exact kept_next (hFp_canonical h)
  case fence => exact execFence_kept h
  case scope => exact execScope_kept h
  case scopeq => exact execScopeq_kept h
  case scopefz => exact execScopefz_kept h
  case scopeth => exact execScopeth_kept h
  case bar => exact execBar_kept h
  case bara => exact execBara_kept h
  case barw => exact execBarw_kept h
  case waitf => exact execWaitf_kept h
  case sleept => exact execSleept_kept h
  case spinit => exact execSpinit_kept h
  case spush => exact execSpush_kept h
  case spop => exact execSpop_kept h
  case sptryPop => exact execSptryPop_kept h
  case sptryPush => exact execSptryPush_kept h
  case msend => exact execMsend_kept h
  case mrecv => exact execMrecv_kept h
  case mloopOpen => exact execMloopOpen_kept h
  case mloopClose => exact execMloopClose_kept h
  case mma | mmag => exact kept_next (mmaIssue_canonical h)
  case mzero => exact execMzero_kept h
  case mloadz => exact execMloadz_kept h
  case mdrain => exact execMdrain_kept h
  case mseam => exact execMseam_kept h
  case mseamloc => exact execMseamloc_kept h
  case mseamfix => exact execMseamfix_kept h
  case mflags => exact execMflags_kept h
  case merrq => exact execMerrq_kept h
  case tcopy | tgather | tscat | tstore | tloadv => exact kept_next (copyIssue_canonical h)
  case job => exact execJob_kept h
  case jseq => exact execJseq_kept h
  case enq => exact execEnq_kept h
  case fsopen => exact execFsopen_kept h
  case fsclose => exact execFsclose_kept h
  case fswait => exact execFswait_kept h
  case fscancel => exact execFscancel_kept h
  case fsq => exact execFsq_kept h
  case capb => exact execCapb_kept h
  case cstep => exact execCstep_kept h
  case cape => exact execCape_kept h
  case capadopt => exact execCapadopt_kept h
  case capq => exact execCapq_kept h
  case hemo => exact execHemo_kept h
  case hemc => exact execHemc_kept h
  case tretNext | tretSame | tretRegion => exact kept_next (tret_canonical h)
  case movxR => exact execMovxR_kept h
  case movxW => exact execMovxW_kept h
  case movxDst => exact execMovxDst_kept h
  case trapi => exact execTrapi_kept h
  case perfq => exact execPerfq_kept h
  all_goals exact Bool.noConfusion (show true = false from hi)

theorem runHappening_kept {e} {s : State} (h : s.MemCanonical) : Kept (runHappening e s) := by
  cases e
  case issue => exact execIssueOpportunity_kept h
  case fairness => exact kept_next ((modWave_canonical h).update rfl)
  case hang => exact kept_next (modWave_canonical h)
  case promote => exact kept_next ((modCounts_canonical h).update rfl)
  case trapEntry => exact execTrapEntry_kept h
  case spoolDl => exact execSpoolDl_kept h
  case barDl => exact execBarrierDeadlock_kept h
  case teamKill => exact execTeamKill_kept h
  case teamEnd => exact execTeamEnd_kept h
  case binDraw => exact execBinDraw_kept h
  case load => exact execLoadCompletion_kept h
  case store => exact execStorePerformed_kept h
  case atomic => exact execAtomicAtHome_kept h
  case blocked => exact kept_next (evalBlocked_canonical h)
  case umbra => exact execUmbraComparison_kept h
  case parked => exact execParkedEntryRelease_kept h
  case fill => exact execCfetchFillComplete_kept h
  case copyStart => exact execTileCopyStart_kept h
  case copyRetire => exact execTileCopyRetire_kept h
  case multicast => exact execMulticastDelivery_kept h
  case arrayStep => exact execArrayStep_kept h
  case selfTest => exact execSelfTestEnd_kept h
  case burst => exact execHbmRefreshBurst_kept h
  case hopEnd => exact execRatioHopEnd_kept h
  case duty => exact execDutyWindow_kept h
  case spill => exact execSpill_kept h
  case cardTake => exact execCardTake_kept h
  case copy | zero => exact kept_next (bulkCard_canonical h)
  case migrate => exact execMigrate_kept h
  case replicate => exact execReplicate_kept h
  case collective op i =>
    dsimp only [runHappening]
    split <;> exact kept_next (collectiveCard_canonical h)
  case cardDone => exact execCardCompletion_kept h
  case hostTake => exact execHostCardTake_kept h
  case place => exact execCardPlacement_kept h
  case makeRoom => exact execPlacementEvictionTrigger_kept h
  case demand => exact execPlacementDemand_kept h
  case evict => exact execSlotEviction_kept h
  case deferral => exact execEvictionDeferralExpiry_kept h
  case reload => exact execTeamReload_kept h
  case regroup => exact execRegroupInterval_kept h
  case decide => exact execRegroupRequestDecision_kept h
  case thaw => exact execFreezeExpired_kept h
  case quote => exact execQuoteComplete_kept h
  case resetPart => exact execPartitionReset_kept h
  case boot => exact execBoot_kept h

theorem wakeHeld_canonical {s : State} (h : s.MemCanonical) : (wakeHeld s).MemCanonical :=
  (mapWaves_canonical h).update rfl

theorem choose_kept {e} {s : State} (h : s.MemCanonical) : Kept (choose e s) :=
  ite_kept (runHappening_kept (h.update rfl))
    (kept_takeBack (h.update rfl) (runHappening_kept (wakeHeld_canonical (h.update rfl))))

theorem plainEvent_kept {s : State} (h : s.MemCanonical) : Kept (plainEvent s) := by
  unfold plainEvent
  split
  · exact kept_next (h.update rfl)
  · exact choose_kept h

theorem autoEvent_kept {s : State} (h : s.MemCanonical) : Kept (autoEvent s) := by
  unfold autoEvent
  refine ite_kept (ite_kept (runHappening_kept h) (kept_next h)) ?_
  extract_lets s₁
  have hs₁ : s₁.MemCanonical := putBack_canonical h
  split
  · exact plainEvent_kept hs₁
  · next e _ _ =>
    have he : Kept (runHappening e (wakeHeld { s₁ with workTurn := s₁.workTurn + 1 })) :=
      runHappening_kept (wakeHeld_canonical (hs₁.update rfl))
    split
    · next t ht => exact ite_kept (plainEvent_kept hs₁) (kept_next (he t ht))
    · exact he

theorem tickOut_kept {o : Out} (ho : Kept o) : Kept (tickOut o) := by
  cases o with
  | next s => exact kept_next ((ho s rfl).update rfl)
  | fault f => exact ho
  | refused r => exact ho

theorem keepDue_kept {e : Happening} {o : Out} (ho : Kept o) : Kept (keepDue e o) := by
  cases o with
  | next s => exact kept_next ((ho s rfl).update rfl)
  | fault f => exact ho
  | refused r => exact ho

theorem spendGrant_kept {s : State} (h : s.MemCanonical) : Kept (spendGrant s) := by
  have hp := preIssue_kept h
  unfold spendGrant
  split
  · next he =>
    rw [he] at hp
    exact hp
  · next he =>
    rw [he] at hp
    obtain ⟨ht, hi⟩ := hp
    exact leadOut_kept (exec_kept ht hi)

theorem trapTogether_canonical {s t v : State} (h : v.MemCanonical) : (trapTogether s t v).MemCanonical := by
  unfold trapTogether
  extract_lets mine tag w
  split
  · split <;> exact h.update rfl
  · exact h.update rfl

theorem leadTrap_canonical {s t : State} (hs : s.MemCanonical) (ht : t.MemCanonical) : (leadTrap s t).MemCanonical := by
  unfold leadTrap
  split
  · exact ht
  · refine ite_canonical (ite_canonical (hs.update rfl) ?_) ht
    split
    · next he =>
      refine ite_canonical (trapTogether_canonical (spendGrant_kept ?_ _ he)) (umbraMismatch_canonical hs)
      exact hs.update rfl
    · exact umbraMismatch_canonical hs

theorem issueStep_kept {s : State} (h : s.MemCanonical) : Kept (issueStep s) := by
  have hg := spendGrant_kept h
  refine kept_takeBack (h.update rfl) ?_
  split
  · next t he => exact kept_next (leadTrap_canonical h (hg t he))
  · exact hg

theorem umbraOwn_canonical {i pc} {s : State} {u} (h : s.MemCanonical) : (umbraOwn i pc s u).MemCanonical := by
  unfold umbraOwn
  extract_lets v off
  have hoff : off.MemCanonical := umbraMismatch_canonical h
  refine ite_canonical hoff <| ite_canonical (contain_canonical (h.update rfl)) ?_
  split
  · exact ite_canonical hoff (h.update rfl)
  · exact hoff

theorem umbraStep_canonical {s : State} (h : s.MemCanonical) : (umbraStep s).MemCanonical := by
  unfold umbraStep
  split
  · exact h.update rfl
  · refine ite_canonical (h.update rfl) ?_
    split
    · exact umbraOwn_canonical (h.update rfl)
    · exact ite_canonical (h.update rfl) <| ite_canonical (umbraMismatch_canonical (h.update rfl)) (h.update rfl)
    · exact h.update rfl

theorem plainStep_kept {s : State} (h : s.MemCanonical) : Kept (plainStep s) :=
  ite_kept (ite_kept (kept_next (umbraStep_canonical h)) (issueStep_kept h)) (autoEvent_kept h)

theorem dueStep_kept {e} {s : State} (h : s.MemCanonical) : Kept (dueStep e s) := by
  have he := runHappening_kept (e := e) h
  unfold dueStep
  split
  · next t ht => exact ite_kept (keepDue_kept (plainStep_kept h)) (kept_next (he t ht))
  · exact he

theorem step_kept {s : State} (h : s.MemCanonical) : Kept (step s) := by
  unfold step
  split
  · exact tickOut_kept (dueStep_kept (h.update rfl))
  · exact tickOut_kept (plainStep_kept h)

/-- Settles O57: every function that a step runs keeps the form. -/
theorem stepKeepsMemory : Obligations.StepKeepsMemory := fun _ t h hs => step_kept h t hs

end Sys2Proof.Machine
end

section
/-! PROOFS. Words of every width: the integers that they stand for, wrapped (R115 to R118). -/

namespace Sys2Proof.Machine

/-! The integer a word stands for, wrapped. -/

section
variable {n : Nat}

theorem add_wrapped (x y : BitVec n) : BitVec.ofInt n (x.toNat + y.toNat) = x + y := by
  rw [BitVec.ofInt_add]; simp

theorem mul_wrapped (x y : BitVec n) : BitVec.ofInt n (x.toNat * y.toNat) = x * y := by
  rw [BitVec.ofInt_mul]; simp

theorem sub_wrapped (x y : BitVec n) : BitVec.ofInt n (x.toNat - y.toNat) = x - y := by
  rw [Int.sub_eq_add_neg, BitVec.ofInt_add, BitVec.ofInt_neg, BitVec.sub_eq_add_neg]
  simp

/-- A remainder's high part is the remainder of the high part. -/
theorem emod_mul_ediv (z : Int) {a : Int} (b : Int) (ha : 0 < a) : z % (a * b) / a = z / a % b := by
  rw [Int.emod_def, Int.emod_def, Int.mul_assoc, Int.sub_mul_ediv_left _ _ ha.ne', Int.ediv_ediv_of_nonneg ha.le]

/-- A field of a wrapped integer is the quotient, wrapped to the field. -/
theorem extractLsb'_ofInt {m k n : Nat} (h : k + n ≤ m) (z : Int) :
    (BitVec.ofInt m z).extractLsb' k n = BitVec.ofInt n (z / 2 ^ k) := by
  obtain ⟨d, rfl⟩ := Nat.exists_eq_add_of_le h
  apply BitVec.eq_of_toInt_eq
  have hz : ((BitVec.ofInt (k + n + d) z).toNat : Int) = z % (2 ^ k * (2 ^ n * 2 ^ d)) := by
    rw [BitVec.toNat_ofInt, Int.toNat_of_nonneg (Int.emod_nonneg _ (by positivity))]
    push_cast; ring_nf
  rw [BitVec.toInt_ofInt, BitVec.toInt_eq_toNat_bmod, BitVec.extractLsb'_toNat, Nat.shiftRight_eq_div_pow]
  push_cast
  rw [hz, emod_mul_ediv _ _ (by positivity), Int.emod_emod_of_dvd _ (Dvd.intro _ rfl)]
  exact_mod_cast Int.emod_bmod ..

theorem mulHigh_signed (x y : BitVec n) :
    BitVec.ofInt n (x.toInt * y.toInt / 2 ^ n) = (x.signExtend (2 * n) * y.signExtend (2 * n)).extractLsb' n n := by
  unfold BitVec.signExtend
  rw [← BitVec.ofInt_mul, extractLsb'_ofInt (by omega)]

theorem mulHigh_unsigned (x y : BitVec n) :
    BitVec.ofInt n (x.toNat * y.toNat / 2 ^ n : Nat) = (x.zeroExtend (2 * n) * y.zeroExtend (2 * n)).extractLsb' n n := by
  have e (x : BitVec n) : x.zeroExtend (2 * n) = BitVec.ofInt (2 * n) x.toNat := by
    apply BitVec.eq_of_toNat_eq; simp
  rw [e, e, ← BitVec.ofInt_mul, extractLsb'_ofInt (by omega)]
  norm_cast

theorem min_signed (x y : BitVec n) : BitVec.ofInt n (min x.toInt y.toInt) = if x.slt y then x else y := by
  simp only [BitVec.slt_iff_toInt_lt]
  split
  · rw [min_eq_left (by omega), BitVec.ofInt_toInt]
  · rw [min_eq_right (by omega), BitVec.ofInt_toInt]

theorem max_signed (x y : BitVec n) : BitVec.ofInt n (max x.toInt y.toInt) = if x.slt y then y else x := by
  simp only [BitVec.slt_iff_toInt_lt]
  split
  · rw [max_eq_right (by omega), BitVec.ofInt_toInt]
  · rw [max_eq_left (by omega), BitVec.ofInt_toInt]

theorem min_unsigned (x y : BitVec n) : BitVec.ofInt n (min x.toNat y.toNat : Nat) = if x.ult y then x else y := by
  simp only [BitVec.ult_iff_toNat_lt, BitVec.ofInt_natCast]
  split
  · rw [min_eq_left (by omega), BitVec.ofNat_toNat, BitVec.setWidth_eq]
  · rw [min_eq_right (by omega), BitVec.ofNat_toNat, BitVec.setWidth_eq]

theorem max_unsigned (x y : BitVec n) : BitVec.ofInt n (max x.toNat y.toNat : Nat) = if x.ult y then y else x := by
  simp only [BitVec.ult_iff_toNat_lt, BitVec.ofInt_natCast]
  split
  · rw [max_eq_right (by omega), BitVec.ofNat_toNat, BitVec.setWidth_eq]
  · rw [max_eq_left (by omega), BitVec.ofNat_toNat, BitVec.setWidth_eq]

/-! Shifts. -/

theorem shiftLeft_wrapped (x : BitVec n) (k : Nat) : (if n ≤ k then 0 else BitVec.ofInt n (x.toNat * 2 ^ k : Nat)) = x <<< k := by
  apply BitVec.eq_of_toNat_eq
  split
  · rw [BitVec.shiftLeft_eq_zero (by omega)]; rfl
  · rw [BitVec.ofInt_natCast, BitVec.toNat_ofNat, BitVec.toNat_shiftLeft, Nat.shiftLeft_eq]

theorem shiftRight_wrapped (x : BitVec n) (k : Nat) : (if n ≤ k then 0 else BitVec.ofInt n (x.toNat / 2 ^ k : Nat)) = x >>> k := by
  apply BitVec.eq_of_toNat_eq
  split
  · rw [BitVec.ushiftRight_eq_zero (by omega)]; rfl
  · rw [BitVec.ofInt_natCast, BitVec.toNat_ofNat, BitVec.toNat_ushiftRight, Nat.shiftRight_eq_div_pow,
      Nat.mod_eq_of_lt ((Nat.div_le_self ..).trans_lt x.isLt)]

/-- A shift by the width or more leaves copies of the sign. -/
theorem toInt_div_wide (x : BitVec n) {k : Nat} (h : n ≤ k) : x.toInt / 2 ^ k = if x.toInt < 0 then -1 else 0 := by
  have hlo := @BitVec.le_two_mul_toInt n x
  have hhi := @BitVec.two_mul_toInt_lt n x
  have hp : (2 : Int) ^ n ≤ 2 ^ k := by exact_mod_cast Nat.pow_le_pow_right (by decide) h
  have hpos : (0 : Int) < 2 ^ k := by positivity
  split
  · exact Int.ediv_eq_neg_one_of_neg_of_le (by omega) (by omega)
  · exact Int.ediv_eq_zero_of_lt (by omega) (by omega)

theorem sshiftRight_wrapped (x : BitVec n) (k : Nat) :
    (if n ≤ k then BitVec.ofInt n (if x.toInt < 0 then -1 else 0) else BitVec.ofInt n (x.toInt / 2 ^ k)) = x.sshiftRight k := by
  have e : x.sshiftRight k = BitVec.ofInt n (x.toInt / 2 ^ k) := by
    rw [← BitVec.ofInt_toInt (x := x.sshiftRight k), BitVec.toInt_sshiftRight, Int.shiftRight_eq_div_pow]; norm_cast
  rw [e]
  split
  · rw [toInt_div_wide x ‹_›]
  · rfl

theorem rotateLeft_wrapped (x : BitVec n) (k : Nat) (hn : 0 < n) :
    BitVec.ofInt n (x.toNat * 2 ^ (k % n) % 2 ^ n + x.toNat / 2 ^ (n - k % n) : Nat) = x.rotateLeft k := by
  have hr : k % n < n := Nat.mod_lt _ hn
  generalize hk : k % n = r at hr
  have hn : 2 ^ n = 2 ^ r * 2 ^ (n - r) := by rw [← Nat.pow_add]; congr 1; omega
  have hhigh : x.toNat * 2 ^ r % 2 ^ n = (x.toNat % 2 ^ (n - r)) <<< r := by
    rw [hn, Nat.mul_comm, Nat.mul_mod_mul_left, Nat.shiftLeft_eq, Nat.mul_comm]
  have hlow : x.toNat / 2 ^ (n - r) < 2 ^ r := Nat.div_lt_of_lt_mul (by rw [Nat.mul_comm, ← hn]; exact x.isLt)
  apply BitVec.eq_of_toNat_eq
  rw [BitVec.toNat_rotateLeft, hk, Nat.shiftLeft_eq, Nat.shiftRight_eq_div_pow, hhigh, ← Nat.shiftLeft_add_eq_or_of_lt hlow,
    BitVec.ofInt_natCast, BitVec.toNat_ofNat, Nat.mod_eq_of_lt]
  have := Nat.mod_lt x.toNat (Nat.two_pow_pos (n - r))
  rw [Nat.shiftLeft_eq, hn]
  calc _ < x.toNat % 2 ^ (n - r) * 2 ^ r + 2 ^ r := by omega
    _ = (x.toNat % 2 ^ (n - r) + 1) * 2 ^ r := by ring
    _ ≤ 2 ^ (n - r) * 2 ^ r := Nat.mul_le_mul_right _ this
    _ = _ := Nat.mul_comm ..

/-! Division (R117). -/

theorem toInt_eq_zero_iff (y : BitVec n) : y.toInt = 0 ↔ y = 0 :=
  ⟨fun h => BitVec.eq_of_toInt_eq (h.trans BitVec.toInt_zero.symm), fun h => h ▸ BitVec.toInt_zero⟩

theorem toNat_eq_zero_iff (y : BitVec n) : y.toNat = 0 ↔ y = 0 :=
  ⟨fun h => BitVec.eq_of_toNat_eq (by simpa using h), fun h => h ▸ BitVec.toNat_zero ..⟩

theorem ofInt_neg_one : BitVec.ofInt n (-1) = BitVec.allOnes n := by
  rw [BitVec.ofInt_neg]; exact BitVec.neg_one_eq_allOnes

theorem div_signed (x y : BitVec n) :
    (if y.toInt = 0 then BitVec.ofInt n (-1) else BitVec.ofInt n (x.toInt.tdiv y.toInt)) = divI n x y := by
  simp only [toInt_eq_zero_iff, divI, ofInt_neg_one]
  split
  · rfl
  · exact BitVec.eq_of_toInt_eq (by rw [BitVec.toInt_ofInt, BitVec.toInt_sdiv])

theorem div_unsigned (x y : BitVec n) :
    (if y.toNat = 0 then BitVec.ofInt n (-1) else BitVec.ofInt n (x.toNat / y.toNat : Nat)) = divN n x y := by
  simp only [toNat_eq_zero_iff, divN, ofInt_neg_one]
  split
  · rfl
  · rw [BitVec.ofInt_natCast]
    exact BitVec.eq_of_toNat_eq (by
      rw [BitVec.udiv_eq, BitVec.toNat_udiv, BitVec.toNat_ofNat, Nat.mod_eq_of_lt ((Nat.div_le_self ..).trans_lt x.isLt)])

theorem rem_signed (x y : BitVec n) :
    (if y.toInt = 0 then BitVec.ofInt n x.toInt else BitVec.ofInt n (x.toInt.tmod y.toInt)) = remI n x y := by
  simp only [toInt_eq_zero_iff, remI, BitVec.ofInt_toInt, ← BitVec.toInt_srem]

theorem rem_unsigned (x y : BitVec n) :
    (if y.toNat = 0 then BitVec.ofInt n x.toNat else BitVec.ofInt n (x.toNat % y.toNat : Nat)) = remN n x y := by
  simp only [toNat_eq_zero_iff, remN, BitVec.ofInt_natCast, BitVec.ofNat_toNat, BitVec.setWidth_eq]
  split
  · rfl
  · exact BitVec.eq_of_toNat_eq (by
      rw [BitVec.umod_eq, BitVec.toNat_umod, BitVec.toNat_ofNat, Nat.mod_eq_of_lt ((Nat.mod_le ..).trans_lt x.isLt)])

theorem carry_wrapped (x y : BitVec n) :
    BitVec.ofInt n (b2n (2 ^ n ≤ x.toNat + y.toNat) : Nat) = carryOut n x y := by
  have hx := x.isLt
  have hy := y.isLt
  have hq : (x.toNat + y.toNat) / 2 ^ n = if 2 ^ n ≤ x.toNat + y.toNat then 1 else 0 := by
    split
    · rw [Nat.div_eq_of_lt_le] <;> omega
    · exact Nat.div_eq_of_lt (by omega)
  rw [BitVec.ofInt_natCast, carryOut, hq, b2n]
  simp only [decide_eq_true_eq]

theorem mad_wrapped (z x y : BitVec n) : BitVec.ofInt n (z.toNat + x.toNat * y.toNat : Nat) = z + x * y := by
  push_cast
  rw [BitVec.ofInt_add, BitVec.ofInt_mul]
  simp

/-! One operand (R117). -/

theorem neg_wrapped (x : BitVec n) : BitVec.ofInt n (-(x.toNat : Int)) = -x := by
  rw [BitVec.ofInt_neg]; simp

theorem abs_wrapped (x : BitVec n) : BitVec.ofInt n x.toInt.natAbs = if x.msb then -x else x := by
  rcases Int.natAbs_eq x.toInt with h | h
  · have hm : x.msb = false := by rw [BitVec.msb_eq_toInt]; simp; omega
    rw [← h, BitVec.ofInt_toInt, hm]; rfl
  · by_cases h0 : x.toInt = 0
    · have := (toInt_eq_zero_iff x).1 h0
      subst this; simp
    · have hm : x.msb = true := by rw [BitVec.msb_eq_toInt]; simp; omega
      rw [show ((x.toInt.natAbs : Nat) : Int) = -x.toInt by omega, BitVec.ofInt_neg, BitVec.ofInt_toInt, hm]; rfl

theorem not_wrapped (x : BitVec n) : BitVec.ofInt n (-1 - (x.toNat : Int)) = ~~~x := by
  rw [Int.sub_eq_add_neg, BitVec.ofInt_add, neg_wrapped, BitVec.not_eq_neg_add, BitVec.ofInt_neg, BitVec.sub_eq_add_neg, BitVec.add_comm]
  simp

theorem popcount_eq (x : BitVec n) (k : Nat) : popcount x.toNat k = x.cpopNatRec k 0 := by
  induction k with
  | zero => rfl
  | succ k ih =>
    rw [popcount, ih, BitVec.cpopNatRec_succ, BitVec.cpopNatRec_eq (acc := _ + _), Nat.zero_add, BitVec.getLsbD, Nat.testBit_eq_decide_div_mod_eq]
    rcases Nat.mod_two_eq_zero_or_one (x.toNat / 2 ^ k) with h | h <;> simp [h]

theorem cpop_wrapped (x : BitVec n) : BitVec.ofInt n (popcount x.toNat n : Nat) = x.cpop := by
  rw [BitVec.ofInt_natCast, popcount_eq]; rfl

theorem clz_wrapped (x : BitVec n) : BitVec.ofInt n (n - bitLen x.toNat : Nat) = x.clz := by
  have hlt : n < 2 ^ n := Nat.lt_two_pow_self
  apply BitVec.eq_of_toNat_eq
  rw [BitVec.ofInt_natCast, BitVec.toNat_ofNat, Nat.mod_eq_of_lt (by omega), bitLen]
  by_cases hx : x = 0
  · subst hx
    have : (0 : BitVec n).clz = BitVec.ofNat n n := BitVec.clz_eq_iff_eq_zero.2 rfl
    rw [this]
    simp [Nat.mod_eq_of_lt hlt]
  · have hn : 0 < n := by
      rcases Nat.eq_zero_or_pos n with rfl | h
      · exact absurd (BitVec.eq_nil x) (by simpa using hx)
      · exact h
    have hle : x.clz.toNat < n := by
      have := BitVec.clz_lt_iff_ne_zero.2 hx
      simpa [BitVec.lt_def, Nat.mod_eq_of_lt hlt] using this
    have hlo := BitVec.two_pow_sub_clz_le_toNat_of_ne_zero hn hx
    have hhi := BitVec.toNat_lt_two_pow_sub_clz (x := x)
    have hlog : Nat.log2 x.toNat = n - 1 - x.clz.toNat := by
      rw [Nat.log2_eq_iff (mt (toNat_eq_zero_iff x).1 hx)]
      refine ⟨by convert hlo using 2, ?_⟩
      convert hhi using 2; omega
    rw [if_neg (mt (toNat_eq_zero_iff x).1 hx), hlog]; omega

theorem foldl_range_add (g : Nat → Nat) (k : Nat) : (List.range k).foldl (fun a i => a + g i) 0 = ∑ i ∈ Finset.range k, g i := by
  induction k with
  | zero => rfl
  | succ k ih => rw [List.range_succ, List.foldl_append, ih, Finset.sum_range_succ]; rfl

theorem toNat_reverse (x : BitVec n) : x.reverse.toNat = ∑ i ∈ Finset.range n, if x.getLsbD i then 2 ^ (n - 1 - i) else 0 := by
  induction n with
  | zero => rw [BitVec.eq_nil x]; rfl
  | succ n ih =>
    rw [BitVec.reverse, BitVec.toNat_concat, ih, Finset.sum_range_succ, Finset.sum_mul]
    congr 1
    · refine Finset.sum_congr rfl fun i hi => ?_
      have hi := Finset.mem_range.1 hi
      rw [BitVec.truncate_eq_setWidth, BitVec.getLsbD_setWidth, decide_eq_true hi, Bool.true_and, ite_mul, zero_mul, ← pow_succ]
      congr 2; omega
    · rw [BitVec.msb_eq_getLsbD_last, Nat.add_sub_cancel, Nat.sub_self, pow_zero]
      cases x.getLsbD n <;> rfl

theorem reverse_wrapped (x : BitVec n) :
    BitVec.ofInt n ((List.range n).foldl (fun a i => a + if bitOf x.toNat i then 2 ^ (n - 1 - i) else 0) 0 : Nat) = x.reverse := by
  have hbit (i : Nat) : bitOf x.toNat i = x.getLsbD i := by
    rw [bitOf, BitVec.getLsbD, Nat.testBit_eq_decide_div_mod_eq]; rfl
  simp only [hbit]
  rw [foldl_range_add fun i => if x.getLsbD i then 2 ^ (n - 1 - i) else 0, ← toNat_reverse, BitVec.ofInt_natCast, BitVec.ofNat_toNat, BitVec.setWidth_eq]
end

/-! Bit fields (R118). -/

/-- The length of the field that `b` names in a word of `n` bits. -/
def fieldBits (n : Nat) (b : W32) : Nat := min (b.extractLsb' 8 8).toNat (n - fieldAt b)

theorem fieldPos_eq (b : W32) : fieldPos b = fieldAt b := by
  rw [fieldPos, fieldAt, bitsOf, BitVec.extractLsb'_toNat, Nat.shiftRight_eq_div_pow]

theorem fieldLen_eq (w : IW) (b : W32) : fieldLen w b = fieldBits (IW.bits w) b := by
  rw [fieldLen, fieldBits, fieldAt, bitsOf, bitsOf, BitVec.extractLsb'_toNat, BitVec.extractLsb'_toNat, Nat.shiftRight_eq_div_pow,
    Nat.shiftRight_eq_div_pow]

section
variable {n : Nat}

theorem fieldBits_le (b : W32) : fieldBits n b ≤ n := by unfold fieldBits; omega

theorem fieldMask_getLsbD (b : W32) (i : Nat) : (fieldMask n b).getLsbD i = decide (i < fieldBits n b) := by
  have hk := fieldBits_le (n := n) b
  show (BitVec.allOnes n >>> (n - fieldBits n b)).getLsbD i = _
  rw [BitVec.getLsbD_ushiftRight, BitVec.getLsbD_allOnes]
  exact decide_eq_decide.2 (by omega)

/-- A word under a mask of low bits is its remainder. -/
theorem toNat_and_fieldMask (x : BitVec n) (b : W32) : (x &&& fieldMask n b).toNat = x.toNat % 2 ^ fieldBits n b := by
  refine Nat.eq_of_testBit_eq fun i => ?_
  rw [Nat.testBit_mod_two_pow, ← fieldMask_getLsbD, Bool.and_comm]
  exact BitVec.getLsbD_and

theorem bfx_unsigned (x : BitVec n) (b : W32) :
    BitVec.ofInt n (x.toNat / 2 ^ fieldAt b % 2 ^ fieldBits n b : Nat) = (x >>> fieldAt b) &&& fieldMask n b := by
  apply BitVec.eq_of_toNat_eq
  rw [toNat_and_fieldMask, BitVec.toNat_ushiftRight, Nat.shiftRight_eq_div_pow, BitVec.ofInt_natCast, BitVec.toNat_ofNat,
    Nat.mod_eq_of_lt ((Nat.mod_le ..).trans_lt ((Nat.div_le_self ..).trans_lt x.isLt))]

/-- Shifted up and back with its sign, the low part of a word is sign-extended. -/
theorem shift_back (y : BitVec n) {k : Nat} (hk : k ≤ n) : (y <<< (n - k)).sshiftRight (n - k) = (y.setWidth k).signExtend n := by
  apply BitVec.eq_of_getLsbD_eq
  intro i hi
  rw [BitVec.getLsbD_sshiftRight, BitVec.getLsbD_signExtend, BitVec.getLsbD_shiftLeft, BitVec.getLsbD_setWidth, BitVec.msb_eq_getLsbD_last,
    BitVec.msb_eq_getLsbD_last, BitVec.getLsbD_shiftLeft, BitVec.getLsbD_setWidth]
  by_cases hik : i < k
  · have h₁ : n - k + i < n := by omega
    have h₂ : n - k + i - (n - k) = i := by omega
    simp [hi, hik, h₁, h₂, show ¬ n ≤ i by omega]
  · have h₁ : ¬ n - k + i < n := by omega
    by_cases h0 : k = 0
    · subst h0; simp
    · have h₂ : n - 1 - (n - k) = k - 1 := by omega
      simp [hi, hik, h₁, h₂, show ¬ n ≤ i by omega, show ¬ n - 1 < n - k by omega, show 0 < n by omega]; omega

theorem bfx_signed (x : BitVec n) (b : W32) :
    (let v := x.toNat / 2 ^ fieldAt b % 2 ^ fieldBits n b
     if fieldBits n b = 0 then 0 else if bitOf v (fieldBits n b - 1) then BitVec.ofInt n ((v : Int) - 2 ^ fieldBits n b) else BitVec.ofInt n v)
      = fieldSigned n b x := by
  show _ = ((x >>> fieldAt b) <<< (n - fieldBits n b)).sshiftRight (n - fieldBits n b)
  rw [shift_back _ (fieldBits_le b)]
  generalize hz : (x >>> fieldAt b).setWidth (fieldBits n b) = z
  have hv : x.toNat / 2 ^ fieldAt b % 2 ^ fieldBits n b = z.toNat := by
    rw [← hz, BitVec.toNat_setWidth, BitVec.toNat_ushiftRight, Nat.shiftRight_eq_div_pow]
  dsimp only
  rw [hv]
  by_cases h0 : fieldBits n b = 0
  · rw [if_pos h0, BitVec.signExtend, BitVec.toInt_of_zero_length h0]; rfl
  · have hbit : bitOf z.toNat (fieldBits n b - 1) = z.msb := by
      rw [BitVec.msb_eq_getLsbD_last, bitOf, BitVec.getLsbD, Nat.testBit_eq_decide_div_mod_eq]; rfl
    rw [if_neg h0, hbit, BitVec.signExtend, BitVec.toInt_eq_msb_cond, ← apply_ite (BitVec.ofInt n)]
    push_cast; rfl

/-- A number with the field of `k` bits at `p` replaced. -/
theorem replaced_field (old new p k : Nat) :
    old - old / 2 ^ p % 2 ^ k * 2 ^ p + new % 2 ^ k * 2 ^ p = 2 ^ p * (2 ^ k * (old / 2 ^ p / 2 ^ k) + new % 2 ^ k) + old % 2 ^ p := by
  have h₁ := Nat.div_add_mod old (2 ^ p)
  have h₂ := Nat.div_add_mod (old / 2 ^ p) (2 ^ k)
  generalize old / 2 ^ p = q at *
  have h₃ : 2 ^ p * (2 ^ k * (q / 2 ^ k)) + q % 2 ^ k * 2 ^ p + old % 2 ^ p = old := by
    rw [Nat.mul_comm (q % 2 ^ k), ← Nat.mul_add, h₂, h₁]
  rw [Nat.mul_add, Nat.mul_comm (2 ^ p) (new % 2 ^ k)]
  omega

theorem bfi_wrapped (z x : BitVec n) (b : W32) :
    BitVec.ofInt n (z.toNat - z.toNat / 2 ^ fieldAt b % 2 ^ fieldBits n b * 2 ^ fieldAt b + x.toNat % 2 ^ fieldBits n b * 2 ^ fieldAt b : Nat) =
      (z &&& ~~~(fieldMask n b <<< fieldAt b)) ||| ((x &&& fieldMask n b) <<< fieldAt b) := by
  apply BitVec.eq_of_getLsbD_eq
  intro i hi
  rw [replaced_field, BitVec.ofInt_natCast, BitVec.getLsbD_ofNat, decide_eq_true hi, Bool.true_and,
    Nat.testBit_two_pow_mul_add _ (Nat.mod_lt _ (Nat.two_pow_pos _)), Nat.testBit_two_pow_mul_add _ (Nat.mod_lt _ (Nat.two_pow_pos _)),
    Nat.testBit_mod_two_pow, Nat.testBit_mod_two_pow, Nat.testBit_div_two_pow, Nat.testBit_div_two_pow]
  simp only [BitVec.getLsbD_or, BitVec.getLsbD_and, BitVec.getLsbD_not, BitVec.getLsbD_shiftLeft, fieldMask_getLsbD, hi, decide_true, Bool.true_and]
  by_cases hp : i < fieldAt b
  · simp [hp, BitVec.testBit_toNat]
  · by_cases hk : i - fieldAt b < fieldBits n b
    · simp [hp, hk, BitVec.testBit_toNat]
    · simp [hp, hk, show i - fieldAt b - fieldBits n b + fieldBits n b + fieldAt b = i by omega, BitVec.testBit_toNat]

end
end Sys2Proof.Machine
end

section
/-! PROOFS. The operations of the integer tables as functions of words, at either width (R115 to R118). -/

namespace Sys2Proof.Machine

/-! Results at the width of an instruction. -/

theorem at1_ext {f g : (n : Nat) → BitVec n → BitVec n} (h : ∀ n x, 0 < n → g n x = f n x) (w : IW) (x : W64) : at1 w g x = at1 w f x := by
  cases w
  · exact congrArg (BitVec.setWidth 64) (h 32 _ (by decide))
  · exact h 64 x (by decide)

theorem at2_ext {f g : (n : Nat) → BitVec n → BitVec n → BitVec n} (h : ∀ n x y, g n x y = f n x y) (w : IW) (x y : W64) :
    at2 w g x y = at2 w f x y := by
  obtain rfl : g = f := funext fun n => funext fun x => funext fun y => h n x y
  rfl

theorem at2_setWidth (f : (n : Nat) → BitVec n → BitVec n → BitVec n) (x y : W32) :
    at2 .w32 f (x.setWidth 64) (y.setWidth 64) = (f 32 x y).setWidth 64 := by
  simp [at2]

theorem at1_setWidth (f : (n : Nat) → BitVec n → BitVec n) (x : W32) : at1 .w32 f (x.setWidth 64) = (f 32 x).setWidth 64 := by
  simp [at1]

/-- `x` is a value of the width: the upper half of a 32-bit value is 0. -/
def InWidth (w : IW) (x : W64) : Prop := at1 w (fun _ x => x) x = x

theorem opd_inWidth (v : Wave) (l : Lane) (w : IW) (o : Opd) : InWidth w (opd v l w o) := by
  cases w
  · exact at1_setWidth ..
  · rfl

theorem immW_inWidth (v : Wave) (w : IW) (i : BitVec 7) : InWidth w (immW v w i) := by
  cases w
  · exact at1_setWidth ..
  · rfl

theorem srcW_inWidth (v : Wave) (l : Lane) (w : IW) (b : Src) : InWidth w (srcW v l w b) := by
  cases b
  · exact opd_inWidth ..
  · exact immW_inWidth ..

/-- A result that is some function of the words, and so is that function's other form. -/
theorem eq_at2 {f g : (n : Nat) → BitVec n → BitVec n → BitVec n} (h : ∀ n x y, g n x y = f n x y) {w : IW} {x y v : W64}
    (hv : v = at2 w g x y) : v = at2 w f x y := hv.trans (at2_ext h w x y)

theorem eq_at1 {f g : (n : Nat) → BitVec n → BitVec n} (h : ∀ n x, 0 < n → g n x = f n x) {w : IW} {x v : W64}
    (hv : v = at1 w g x) : v = at1 w f x := hv.trans (at1_ext h w x)

/-! Table A (R116). -/

section
variable (w : IW) (x y : W64) (k : Nat)

theorem rAdd_eq : rAdd w x y = at2 w (fun _ x y => x + y) x y := eq_at2 (fun _ => add_wrapped) (by cases w <;> rfl)
theorem rSub_eq : rSub w x y = at2 w (fun _ x y => x - y) x y := eq_at2 (fun _ => sub_wrapped) (by cases w <;> rfl)
theorem rMul_eq : rMul w x y = at2 w (fun _ x y => x * y) x y := eq_at2 (fun _ => mul_wrapped) (by cases w <;> rfl)
theorem rMulhI_eq : rMulhI w x y = at2 w (fun n x y => (x.signExtend (2 * n) * y.signExtend (2 * n)).extractLsb' n n) x y :=
  eq_at2 (fun _ => mulHigh_signed) (by cases w <;> rfl)
theorem rMulhN_eq : rMulhN w x y = at2 w (fun n x y => (x.zeroExtend (2 * n) * y.zeroExtend (2 * n)).extractLsb' n n) x y :=
  eq_at2 (fun _ => mulHigh_unsigned) (by cases w <;> rfl)
theorem rMinI_eq : rMinI w x y = at2 w (fun _ x y => if x.slt y then x else y) x y := eq_at2 (fun _ => min_signed) (by cases w <;> rfl)
theorem rMinN_eq : rMinN w x y = at2 w (fun _ x y => if x.ult y then x else y) x y := eq_at2 (fun _ => min_unsigned) (by cases w <;> rfl)
theorem rMaxI_eq : rMaxI w x y = at2 w (fun _ x y => if x.slt y then y else x) x y := eq_at2 (fun _ => max_signed) (by cases w <;> rfl)
theorem rMaxN_eq : rMaxN w x y = at2 w (fun _ x y => if x.ult y then y else x) x y := eq_at2 (fun _ => max_unsigned) (by cases w <;> rfl)

/-- A choice of wrapped results is the choice of words, wrapped. -/
theorem setWidth_ite {c : Prop} [Decidable c] (a b : W32) :
    (if c then a.setWidth 64 else b.setWidth 64) = (if c then a else b).setWidth 64 := (apply_ite (BitVec.setWidth 64) ..).symm

theorem rShl_eq : rShl w x k = at1 w (fun _ x => x <<< k) x :=
  eq_at1 (fun _ x _ => shiftLeft_wrapped x k) (by cases w; exacts [setWidth_ite 0 _, rfl])
theorem rShrN_eq : rShrN w x k = at1 w (fun _ x => x >>> k) x :=
  eq_at1 (fun _ x _ => shiftRight_wrapped x k) (by cases w; exacts [setWidth_ite 0 _, rfl])
theorem rShrI_eq : rShrI w x k = at1 w (fun _ x => x.sshiftRight k) x :=
  eq_at1 (fun _ x _ => sshiftRight_wrapped x k) (by cases w; exacts [setWidth_ite .., rfl])
theorem rRot_eq : rRot w x k = at1 w (fun _ x => x.rotateLeft k) x :=
  eq_at1 (fun _ x => rotateLeft_wrapped x k) (by cases w <;> rfl)

/-! Table B (R117, R118). -/

theorem rDivI_eq : rDivI w x y = at2 w divI x y := eq_at2 (fun _ => div_signed) (by cases w; exacts [setWidth_ite .., rfl])
theorem rDivN_eq : rDivN w x y = at2 w divN x y := eq_at2 (fun _ => div_unsigned) (by cases w; exacts [setWidth_ite .., rfl])
theorem rRemI_eq : rRemI w x y = at2 w remI x y := eq_at2 (fun _ => rem_signed) (by cases w; exacts [setWidth_ite .., rfl])
theorem rRemN_eq : rRemN w x y = at2 w remN x y := eq_at2 (fun _ => rem_unsigned) (by cases w; exacts [setWidth_ite .., rfl])
theorem rAddc_eq : rAddc w x y = at2 w carryOut x y := eq_at2 (fun _ => carry_wrapped) (by cases w <;> rfl)
theorem rMad_eq (z : W64) : rMad w z x y = at3 w (fun _ z x y => z + x * y) z x y := by
  cases w
  · exact congrArg (BitVec.setWidth 64) (mad_wrapped (z.setWidth 32) (x.setWidth 32) (y.setWidth 32))
  · exact mad_wrapped ..

theorem rNeg_eq : rNeg w x = at1 w (fun _ x => -x) x := eq_at1 (fun _ x _ => neg_wrapped x) (by cases w <;> rfl)
theorem rAbs_eq : rAbs w x = at1 w (fun _ x => if x.msb then -x else x) x := eq_at1 (fun _ x _ => abs_wrapped x) (by cases w <;> rfl)
theorem rNot_eq : rNot w x = at1 w (fun _ x => ~~~x) x := eq_at1 (fun _ x _ => not_wrapped x) (by cases w <;> rfl)
theorem rPopc_eq : rPopc w x = at1 w (fun _ x => x.cpop) x := eq_at1 (fun _ x _ => cpop_wrapped x) (by cases w <;> rfl)
theorem rClz_eq : rClz w x = at1 w (fun _ x => x.clz) x := eq_at1 (fun _ x _ => clz_wrapped x) (by cases w <;> rfl)
theorem rBrev_eq : rBrev w x = at1 w (fun _ x => x.reverse) x := eq_at1 (fun _ x _ => reverse_wrapped x) (by cases w <;> rfl)

theorem rBfxN_eq (b : W32) : rBfxN w x b = at1 w (fun n x => (x >>> fieldAt b) &&& fieldMask n b) x := by
  refine eq_at1 (fun _ x _ => bfx_unsigned x b) ?_
  rw [rBfxN, fieldPos_eq, fieldLen_eq]
  cases w <;> rfl

theorem rBfxI_eq (b : W32) : rBfxI w x b = at1 w (fun n x => fieldSigned n b x) x := by
  refine eq_at1 (fun _ x _ => bfx_signed x b) ?_
  rw [rBfxI, fieldPos_eq, fieldLen_eq]
  cases w
  · simp only [at1, apply_ite (BitVec.setWidth 64)]; rfl
  · rfl

theorem rBfi_eq (z : W64) (b : W32) : rBfi w z x b = at2 w (fun n z x => (z &&& ~~~(fieldMask n b <<< fieldAt b)) |||
    ((x &&& fieldMask n b) <<< fieldAt b)) z x := by
  refine eq_at2 (fun _ z x => bfi_wrapped z x b) ?_
  rw [rBfi, fieldPos_eq, fieldLen_eq]
  cases w <;> rfl

end

/-! Bitwise operations (R116): those of 64 bits give those of 32 on values of that width. -/

section
variable {w : IW} {x y : W64} (hx : InWidth w x) (hy : InWidth w y)
include hx hy

theorem and_eq : x &&& y = at2 w (fun _ x y => x &&& y) x y := by
  cases w
  · rw [← hx, ← hy, at1, at1, at2_setWidth, BitVec.setWidth_and]
  · rfl

theorem or_eq : x ||| y = at2 w (fun _ x y => x ||| y) x y := by
  cases w
  · rw [← hx, ← hy, at1, at1, at2_setWidth, BitVec.setWidth_or]
  · rfl

theorem xor_eq : x ^^^ y = at2 w (fun _ x y => x ^^^ y) x y := by
  cases w
  · rw [← hx, ← hy, at1, at1, at2_setWidth, BitVec.setWidth_xor]
  · rfl

end

end Sys2Proof.Machine
end

section
/-! PROOFS. O1 and O2: the integer lane instructions (R71, R115 to R119). -/

namespace Sys2Proof.Machine

/-! A lane instruction runs with the results that its operation gives. -/

theorem laneOp_runs {i : Instr} {s : State} {len : Nat} {iw : IW} {d : Dst} {f : Wave → Lane → W64} {v : Lane → W64}
    (h : exec i s = .next (laneOp s len iw d f)) (hv : ∀ l, f s.w l = v l := by intro _; rfl) : LaneRuns i s len iw d v := by
  obtain rfl : f s.w = v := funext hv
  exact ⟨_, h, laneOp_spec s len iw d f⟩

section
variable {i : Instr} {s : State} {w : IW} {d : Dst} {a : Opd} {b : Src}

theorem intOp_runs {f : W64 → W64 → W64} {g : (n : Nat) → BitVec n → BitVec n → BitVec n} (h : exec i s = .next (intOp s w d a b f))
    (hf : ∀ {x y}, InWidth w x → InWidth w y → f x y = at2 w g x y) :
    LaneRuns i s 4 w d fun l => at2 w g (opd s.w l w a) (srcW s.w l w b) :=
  laneOp_runs h fun _ => hf (opd_inWidth ..) (srcW_inWidth ..)

theorem arithOp_runs {f : W64 → W64 → W64} {g : (n : Nat) → BitVec n → BitVec n → BitVec n} (h : exec i s = .next (intOp s w d a b f))
    (hf : ∀ x y, f x y = at2 w g x y) : LaneRuns i s 4 w d fun l => at2 w g (opd s.w l w a) (srcW s.w l w b) :=
  intOp_runs h fun _ _ => hf ..

theorem shiftOp_runs {f : W64 → Nat → W64} {g : (n : Nat) → BitVec n → Nat → BitVec n} (h : exec i s = .next (shiftOp s w d a b f))
    (hf : ∀ x k, f x k = at1 w (fun n x => g n x k) x) :
    LaneRuns i s 4 w d fun l => at1 w (fun n x => g n x (src32 s.w l b).toNat) (opd s.w l w a) :=
  laneOp_runs h fun _ => hf ..

theorem unaryOp_runs {f : W64 → W64} {g : (n : Nat) → BitVec n → BitVec n} (h : exec i s = .next (unaryOp s w d a f))
    (hf : ∀ x, f x = at1 w g x) : LaneRuns i s 4 w d fun l => at1 w g (opd s.w l w a) :=
  laneOp_runs h fun _ => hf ..

theorem mad_runs (h : exec i s = .next (accOp s w d a b (rMad w))) : LaneRuns i s 4 w d fun l =>
    at3 w (fun _ z x y => z + x * y) (opd s.w l w d.toOpd) (opd s.w l w a) (srcW s.w l w b) :=
  laneOp_runs h fun _ => rMad_eq ..

theorem bfxN_runs (h : exec i s = .next (fieldOp s w d a b (rBfxN w))) : LaneRuns i s 4 w d fun l =>
    at1 w (fun n x => (x >>> fieldAt (src32 s.w l b)) &&& fieldMask n (src32 s.w l b)) (opd s.w l w a) :=
  laneOp_runs h fun _ => rBfxN_eq ..

theorem bfxI_runs (h : exec i s = .next (fieldOp s w d a b (rBfxI w))) : LaneRuns i s 4 w d fun l =>
    at1 w (fun n x => fieldSigned n (src32 s.w l b) x) (opd s.w l w a) :=
  laneOp_runs h fun _ => rBfxI_eq ..

theorem bfi_runs (h : exec i s = .next (bfiOp s w d a b)) : LaneRuns i s 4 w d fun l =>
    at2 w (fun n z x => (z &&& ~~~(fieldMask n (src32 s.w l b) <<< fieldAt (src32 s.w l b))) |||
      ((x &&& fieldMask n (src32 s.w l b)) <<< fieldAt (src32 s.w l b))) (opd s.w l w d.toOpd) (opd s.w l w a) :=
  laneOp_runs h fun _ => rBfi_eq ..

end

/-- The two-operand H form, whose operands have 32 bits. -/
theorem hOp_runs {i : Instr} {s : State} {d : HReg} {c : HSrc} {f : W64 → W64 → W64} {g : W32 → W32 → W32}
    (h : exec i s = .next (hOp s d c f)) (hf : ∀ x y : W32, f (x.setWidth 64) (y.setWidth 64) = (g x y).setWidth 64) :
    LaneRuns i s 2 .w32 (HReg.dst d) fun l => (g (opd32 s.w l (HReg.opd d)) (hsrc s.w l c)).setWidth 64 :=
  laneOp_runs h fun _ => hf ..

/-! The instructions. -/

theorem division : Claims.Division := by
  intro s d a b c i r m
  exact ⟨⟨arithOp_runs rfl (rDivI_eq _), arithOp_runs rfl (rDivI_eq _), arithOp_runs rfl (rDivI_eq _)⟩,
    ⟨arithOp_runs rfl (rDivN_eq _), arithOp_runs rfl (rDivN_eq _), arithOp_runs rfl (rDivN_eq _)⟩,
    ⟨arithOp_runs rfl (rRemI_eq _), arithOp_runs rfl (rRemI_eq _), arithOp_runs rfl (rRemI_eq _)⟩,
    ⟨arithOp_runs rfl (rRemN_eq _), arithOp_runs rfl (rRemN_eq _), arithOp_runs rfl (rRemN_eq _)⟩,
    ⟨arithOp_runs rfl (rAddc_eq _), arithOp_runs rfl (rAddc_eq _), arithOp_runs rfl (rAddc_eq _)⟩,
    mad_runs rfl, mad_runs rfl, mad_runs rfl⟩

theorem bitOperations : Claims.BitOperations := by
  intro s d a b c i u x z
  exact ⟨⟨unaryOp_runs rfl (rNeg_eq _), unaryOp_runs rfl (rNeg_eq _)⟩, ⟨unaryOp_runs rfl (rAbs_eq _), unaryOp_runs rfl (rAbs_eq _)⟩,
    ⟨unaryOp_runs rfl (rNot_eq _), unaryOp_runs rfl (rNot_eq _)⟩, ⟨unaryOp_runs rfl (rPopc_eq _), unaryOp_runs rfl (rPopc_eq _)⟩,
    ⟨unaryOp_runs rfl (rClz_eq _), unaryOp_runs rfl (rClz_eq _)⟩, ⟨unaryOp_runs rfl (rBrev_eq _), unaryOp_runs rfl (rBrev_eq _)⟩,
    ⟨bfxN_runs rfl, bfxN_runs rfl, bfxN_runs rfl⟩,
    ⟨bfxI_runs rfl, bfxI_runs rfl, bfxI_runs rfl⟩,
    bfi_runs rfl, bfi_runs rfl, bfi_runs rfl⟩

/-- Settles O1: each operation is its word function at the width, and a lane instruction writes it in the acting lanes. -/
theorem divisionAndBits : Obligations.DivisionAndBits := ⟨division, bitOperations⟩

theorem integerArithmetic : Claims.IntegerArithmetic := by
  intro s w d a b x y r
  exact ⟨arithOp_runs rfl (rAdd_eq w), arithOp_runs rfl (rSub_eq w), arithOp_runs rfl (rMul_eq w), arithOp_runs rfl (rMulhI_eq w),
    arithOp_runs rfl (rMulhN_eq w), arithOp_runs rfl (rMinI_eq w), arithOp_runs rfl (rMinN_eq w), arithOp_runs rfl (rMaxI_eq w),
    arithOp_runs rfl (rMaxN_eq w), intOp_runs rfl and_eq, intOp_runs rfl or_eq, intOp_runs rfl xor_eq⟩

theorem shifts : Claims.Shifts := by
  intro s w d a b r
  exact ⟨shiftOp_runs rfl (rShl_eq w), shiftOp_runs rfl (rShrN_eq w), shiftOp_runs rfl (rShrI_eq w), shiftOp_runs rfl (rRot_eq w)⟩

/-- A sum of a pointer's address and an offset, in 66 bits (R119). -/
theorem paddSum_eq (x y : W64) :
    (x.extractLsb' 0 52).zeroExtend 66 + y.signExtend 66 = BitVec.ofInt 66 (pAddr x + y.toInt) := by
  rw [BitVec.ofInt_add, BitVec.signExtend, BitVec.ofInt_natCast]
  congr 1
  apply BitVec.eq_of_toNat_eq
  simp [pAddr]

theorem padd_eq (x y : W64) :
    padd x y.toInt =
      let sum := (x.extractLsb' 0 52).zeroExtend 66 + y.signExtend 66
      (if sum.extractLsb' 52 14 = 0 then x.extractLsb' 52 12 else 0) ++ sum.extractLsb' 0 52 := by
  have hlo : -2 ^ 63 ≤ (pAddr x : Int) + y.toInt := by have := y.le_toInt; omega
  have hhi : (pAddr x : Int) + y.toInt < 2 ^ 64 := by have := y.toInt_lt; unfold pAddr; omega
  dsimp only [padd]
  rw [paddSum_eq, extractLsb'_ofInt (by decide), extractLsb'_ofInt (by decide)]
  generalize (pAddr x : Int) + y.toInt = z at *
  have hin : BitVec.ofInt 14 (z / 2 ^ 52) = 0 ↔ 0 ≤ z ∧ z < 2 ^ 52 := by
    rw [← BitVec.toNat_inj, BitVec.toNat_ofInt]
    simp; omega
  have hlow : (BitVec.ofInt 52 (z / 2 ^ 0)).toNat = (z % 2 ^ 52).toNat := by
    rw [BitVec.toNat_ofInt]; simp
  have hlt : (z % 2 ^ 52).toNat < 2 ^ 52 := by omega
  apply BitVec.eq_of_toNat_eq
  rw [BitVec.toNat_append, hlow, ← Nat.shiftLeft_add_eq_or_of_lt hlt, Nat.shiftLeft_eq]
  simp only [hin]
  have hx := x.isLt
  split
  · rw [BitVec.extractLsb'_toNat, Nat.shiftRight_eq_div_pow]
    simp only [mkPtr, pObj, BitVec.toNat_ofNat]
    omega
  · simp only [mkPtr, BitVec.toNat_ofNat]
    simp; omega

theorem pointerAdd : Claims.PointerAdd := by
  intro s d a b i p
  exact ⟨laneOp_runs rfl fun _ => padd_eq .., laneOp_runs rfl fun _ => padd_eq ..⟩

theorem shortInteger : Claims.ShortInteger := by
  intro s d c r
  refine ⟨hOp_runs (g := fun _ y => y) rfl fun _ _ => rfl, hOp_runs rfl fun x y => ?_, hOp_runs rfl fun x y => ?_, hOp_runs rfl fun x y => ?_,
    hOp_runs rfl fun _ _ => ?_, hOp_runs rfl fun _ _ => ?_, hOp_runs rfl fun _ _ => ?_, hOp_runs (g := fun x y => x <<< y.toNat) rfl fun x y => ?_,
    hOp_runs (g := fun x y => x >>> y.toNat) rfl fun x y => ?_⟩
  · exact (rAdd_eq ..).trans (at2_setWidth _ x y)
  · exact (rSub_eq ..).trans (at2_setWidth _ x y)
  · exact (rMul_eq ..).trans (at2_setWidth _ x y)
  · exact BitVec.setWidth_and.symm
  · exact BitVec.setWidth_or.symm
  · exact BitVec.setWidth_xor.symm
  · rw [rShl_eq, at1_setWidth, BitVec.toNat_setWidth_of_le (by decide)]
  · rw [rShrN_eq, at1_setWidth, BitVec.toNat_setWidth_of_le (by decide)]

/-- Settles O2: each operation is its word function at the width, and a lane instruction writes it in the acting lanes. -/
theorem integerOperations : Obligations.IntegerOperations := ⟨integerArithmetic, shifts, pointerAdd, shortInteger⟩

end Sys2Proof.Machine
end

section
/-! PROOFS. O3: the floating-point lane instructions where nothing traps (R71, R100, R124 to R134). -/

namespace Sys2Proof.Machine

/-! What moving past an instruction leaves of the wave (R65). -/

section
variable (s : State) (len : Nat) (lw fair : Bool)

@[simp] theorem advance_lanes : (s.advance len lw fair).w.lanes = s.w.lanes := by rw [(advance_past s len lw fair).2.2]
@[simp] theorem advance_m : (s.advance len lw fair).w.m = s.w.m := by rw [(advance_past s len lw fair).2.2]
@[simp] theorem advance_flg : (s.advance len lw fair).w.flg = s.w.flg := by rw [(advance_past s len lw fair).2.2]
@[simp] theorem advance_free : (s.advance len lw fair).free = s.free := by rw [(advance_past s len lw fair).2.2]

end

/-- The results of a lane instruction, in the lanes that take them. -/
theorem onLanes_took (w : Wave) (act : W32) (free : Nat) (iw : IW) (d : Dst) (v : Lane → W64) :
    LanesTook act iw d v w.lanes (w.onLanes act fun l => l.result free iw d (v l)).lanes := by
  refine List.forall₂_map_right_iff.2 (List.forall₂_same.2 fun l _ => ?_)
  split
  · exact result_spec ..
  · rfl

/-! Exceptions (R100). -/

theorem trapLanes_eq_zero {w : Wave} {act : W32} {exc : Nat → Exc} (h : NoTrap w act exc) : trapLanes w act exc = 0 := by
  unfold trapLanes
  rcases h with hin | hno
  · rw [if_pos hin]
  · split
    · rfl
    · refine (mask_eq_zero_iff _).2 fun i => ?_
      rw [maskOf_getLsbD, Bool.and_eq_false_imp]
      intro hi
      rw [Bool.and_eq_false_imp]
      intro hact
      rw [List.any_eq_false]
      intro k hk
      rw [Bool.and_eq_true, not_and, Bool.not_eq_true]
      exact hno i k (of_decide_eq_true hi) (List.mem_range.1 hk) hact

theorem raise_flags (w : Wave) (act : W32) (exc : Nat → Exc) : FlagsTook act exc w.flg (w.raise act exc).flg := by
  refine ⟨by simp [Wave.raise], fun i k hi hk => ?_⟩
  have hget : (w.raise act exc).flg.getD k 0 = (w.flg.getD k 0) ||| maskOf fun i => act.getLsbD i && ((exc i).list.getD k false) := by
    simp [Wave.raise, hk]
  rw [hget, BitVec.getLsbD_or, maskOf_getLsbD, decide_eq_true hi, Bool.true_and]

/-- Where nothing traps, an instruction with exceptions raises its flags, writes every acting lane and goes on. -/
theorem fpFinish_noTrap {s : State} {len : Nat} {act : W32} {exc : Nat → Exc} {dst : TrapDst} {lw : Bool} {write : W32 → State → State}
    (h : NoTrap s.w act exc) : fpFinish s len act exc dst lw write = (write act { s with w := s.w.raise act exc }).advance len lw := by
  have hall : act &&& ~~~(0 : W32) = act := BitVec.and_allOnes
  unfold fpFinish
  dsimp only
  rw [trapLanes_eq_zero h, hall, if_pos rfl]

theorem fpOp_eq (s : State) (len : Nat) (iw : IW) (d : Dst) (f : Wave → Lane → Nat × Exc) :
    fpOp s len iw d f = fpFinish s len s.w.acting (excAt s.w.lanes fun l => (f s.w l).2) (Dst.trap iw d) true fun m u =>
      { u with w := u.w.onLanes m fun l => l.result u.free iw d (BitVec.ofNat 64 (f s.w l).1), free := u.free + 1 } := rfl

/-- A floating-point lane instruction where nothing traps. -/
theorem fpOp_runs {i : Instr} {s : State} {len : Nat} {iw : IW} {d : Dst} {f : Wave → Lane → Nat × Exc} {g : Lane → Nat × Exc}
    (h : exec i s = .next (fpOp s len iw d f)) (hf : ∀ l, f s.w l = g l := by intro _; rfl) : FpRuns i s len iw d g := by
  obtain rfl : f s.w = g := funext hf
  intro hno
  refine ⟨_, h.trans (congrArg _ ((fpOp_eq ..).trans (fpFinish_noTrap hno))), ?_, ?_, ?_⟩
  · rw [advance_lanes]
    exact onLanes_took ..
  · rw [advance_flg]
    exact raise_flags ..
  · rw [advance_lanes, advance_flg, advance_free]
    exact advance_past ..

/-! The instructions. -/

theorem floatArithmetic : Claims.FloatArithmetic := by
  intro s t d a b i f v k two one
  exact ⟨⟨fpOp_runs rfl, fpOp_runs rfl⟩, ⟨fpOp_runs rfl, fpOp_runs rfl⟩,
    ⟨fpOp_runs rfl, fpOp_runs rfl⟩, ⟨fpOp_runs rfl, fpOp_runs rfl⟩,
    ⟨fpOp_runs rfl, fpOp_runs rfl⟩, ⟨fpOp_runs rfl, fpOp_runs rfl⟩,
    ⟨fpOp_runs rfl, fpOp_runs rfl⟩, ⟨fpOp_runs rfl, fpOp_runs rfl⟩,
    fpOp_runs rfl, fpOp_runs rfl, fun _ => fpOp_runs rfl, laneOp_runs rfl⟩

/-! Groups of registers (R70, R134). -/

/-- A lane with `v 0`, `v 1`, … in the `n` registers from the code `base` on. -/
def Lane.setGroup (l : Lane) (base n : Nat) (v : Nat → W32) : Lane :=
  ((List.range n).map (base + ·)).zipIdx.foldl (fun l r => l.setReg r.1 (v r.2)) l

theorem setGroup_succ (l : Lane) (base n : Nat) (v : Nat → W32) :
    l.setGroup base (n + 1) v = (l.setGroup base n v).setReg (base + n) (v n) := by
  simp [Lane.setGroup, List.range_succ, List.zipIdx_append]

theorem getElem?_set_none {α : Type} (xs : List α) {r : Nat} {v : Nat → α} (q : Nat) :
    xs[q]? = xs[q]?.map fun x => if r ≤ q ∧ q < r + 0 then v (q - r) else x := by
  have : ¬ (r ≤ q ∧ q < r + 0) := by omega
  simp only [if_neg this, Option.map_id']

/-- A list with the entry at `r + n` set, whose entries from `r` on to that one have been set. -/
theorem getElem?_set_range {α : Type} {xs ys : List α} {r n : Nat} {v : Nat → α}
    (h : ∀ q, ys[q]? = xs[q]?.map fun x => if r ≤ q ∧ q < r + n then v (q - r) else x) (q : Nat) :
    (ys.set (r + n) (v n))[q]? = xs[q]?.map fun x => if r ≤ q ∧ q < r + (n + 1) then v (q - r) else x := by
  rw [List.getElem?_set', h]
  by_cases hq : r + n = q
  · subst hq
    rw [if_pos rfl]
    cases xs[r + n]? <;> simp
  · rw [if_neg hq]
    have : (r ≤ q ∧ q < r + (n + 1)) ↔ (r ≤ q ∧ q < r + n) := by omega
    simp only [this]

theorem setGroup_g (l : Lane) {r : Fin 96} {n : Nat} (v : Nat → W32) (h : r.val + n ≤ 96) : GroupWritten n (.g r) v l (l.setGroup r.val n v) := by
  induction n with
  | zero => exact ⟨getElem?_set_none l.g, fun q => by simp [Lane.setGroup], rfl⟩
  | succ n ih =>
    obtain ⟨hg, hk, he⟩ := ih (by omega)
    rw [setGroup_succ, Lane.setReg, if_pos (by omega)]
    exact ⟨getElem?_set_range hg, hk, by rw [he]⟩

theorem setGroup_k (l : Lane) {r : Fin 8} {n : Nat} (v : Nat → W32) : GroupWritten n (.k r) v l (l.setGroup (96 + r.val) n v) := by
  induction n with
  | zero => exact ⟨fun q => by simp [Lane.setGroup], getElem?_set_none l.k, rfl⟩
  | succ n ih =>
    obtain ⟨hg, hk, he⟩ := ih
    rw [setGroup_succ, Lane.setReg, if_neg (by omega), show 96 + r.val + n - 96 = r.val + n by omega]
    exact ⟨hg, getElem?_set_range hk, by rw [he]⟩

theorem GroupWritten.latchTo {n : Nat} {d : Dst} {v : Nat → W32} {l l' : Lane} (h : GroupWritten n d v l l') (free : Nat) (iw : IW) (x : W64) :
    GroupWritten n d v l (l'.latchTo free iw x) := by
  obtain ⟨hg, hk, he⟩ := h
  refine ⟨by rwa [Lane.latchTo_g], by rwa [Lane.latchTo_k], ?_⟩
  cases iw <;> exact he ▸ rfl

/-- A group on its alignment lies in the register file. -/
theorem group_fits {p : PackFmt} {r : Fin 96} (h : r.val % p.group = 0) : r.val + p.group ≤ 96 := by
  have := r.isLt
  cases p <;> simp only [PackFmt.group] at h ⊢ <;> omega

/-- One lane of NUNPK (R134). -/
theorem unpackLane_spec {p : PackFmt} {d : Dst} (h : d.okGroup p.group = true) (w : Wave) (free : Nat) (a : Opd) (l : Lane) :
    GroupWritten p.group d (unpackElem p (opd32 w l a)) l (unpackLane w free p d a l) ∧
    (unpackLane w free p d a l).latch.setWidth 32 = unpackElem p (opd32 w l a) 0 := by
  refine ⟨GroupWritten.latchTo ?_ free .w32 _, ?_⟩
  · cases d with
    | g r => exact setGroup_g l _ (group_fits (by simpa [Dst.okGroup] using h))
    | k r => exact setGroup_k l _
    | l => simp [Dst.okGroup] at h
    | zero => simp [Dst.okGroup] at h
  · exact (low_of_append ..).trans (by simp)

theorem nunpk_runs {s : State} {p : PackFmt} {d : Dst} {a : Opd} (h : Instr.wf (.nunpk p d a) = true) : Runs (.nunpk p d a) s fun u =>
    List.Forall₂ (fun l l' => if s.w.acting.getLsbD l.id then
        GroupWritten p.group d (unpackElem p (opd32 s.w l a)) l l' ∧ l'.latch.setWidth 32 = unpackElem p (opd32 s.w l a) 0
      else l' = l) s.w.lanes u.w.lanes ∧
    Past 4 { s with w := { s.w with lanes := u.w.lanes }, free := u.free } u := by
  have hd : d.okGroup p.group = true := (Bool.and_eq_true_iff.1 h).1
  refine ⟨_, rfl, ?_, ?_⟩
  · rw [advance_lanes]
    refine List.forall₂_map_right_iff.2 (List.forall₂_same.2 fun l _ => ?_)
    split
    · exact unpackLane_spec hd ..
    · rfl
  · rw [advance_lanes, advance_free]
    exact advance_past ..

theorem floatFunctions : Claims.FloatFunctions := by
  intro s t d a h c m dty sty p f one hx hf
  exact ⟨fpOp_runs rfl, fpOp_runs rfl, fpOp_runs rfl, fpOp_runs rfl, fpOp_runs rfl,
    fpOp_runs rfl, fpOp_runs rfl, fpOp_runs rfl, fpOp_runs rfl, fpOp_runs rfl,
    fpOp_runs rfl, fpOp_runs rfl, fpOp_runs rfl, fpOp_runs rfl, nunpk_runs⟩

/-- Settles O3: each instruction is one floating-point lane operation, which raises its flags and writes its lanes where nothing traps. -/
theorem floatingPoint : Obligations.FloatingPoint := ⟨floatArithmetic, floatFunctions⟩

end Sys2Proof.Machine
end

section
/-! PROOFS. O4: compares, votes, moves and shuffles (R120 to R123, R136 to R138). -/

namespace Sys2Proof.Machine

/-! Mask results (R12, R13, R120). -/

/-- A mask result changes the wave's masks and latches, and takes a free value. -/
theorem maskResult_frame (s : State) (m : MReg) (act : W32) (f : Lane → Bool) : maskResult s m act f = { s with
    w := { s.w with lanes := (maskResult s m act f).w.lanes, m := (maskResult s m act f).w.m }, free := (maskResult s m act f).free } := by
  unfold maskResult Wave.setMask
  dsimp only
  split <;> rfl

theorem maskResult_took (s : State) (m : MReg) (act : W32) (f : Lane → Bool) : MaskTook act m f s.w (maskResult s m act f).w := by
  have hm : (maskResult s m act f).w.m = if m.val = 0 ∨ m.val = 15 then s.w.m else
      s.w.m.set m.val (maskOf fun i => if act.getLsbD i then f (s.w.lane i) else (s.w.m.getD m.val 0).getLsbD i) := by
    unfold maskResult Wave.setMask
    dsimp only
    split <;> rfl
  have hl : (maskResult s m act f).w.lanes = s.w.lanes.map fun l =>
      if act.getLsbD l.id then l.latchTo s.free .w32 (BitVec.ofNat 64 (b2n (f l))) else l := Wave.setMask_lanes ..
  refine ⟨?_, fun n hn => ?_, fun h0 h15 hlt i hi => ?_, ?_⟩
  · rw [hm]; split <;> simp
  · rw [hm]
    split
    · rfl
    · exact List.getElem?_set_ne (by tauto)
  · rw [hm, if_neg (by tauto), List.getD_eq_getElem?_getD, List.getElem?_set_self hlt, Option.getD_some, maskOf_getLsbD, decide_eq_true hi,
      Bool.true_and]
  · rw [hl]
    refine List.forall₂_map_right_iff.2 (List.forall₂_same.2 fun l _ => ?_)
    split
    · exact ⟨(low_of_append ..).trans (BitVec.setWidth_ofNat_of_le (by decide) _), rfl⟩
    · rfl

/-- A mask result and the step past its instruction. -/
theorem maskResult_past (s : State) (m : MReg) (act : W32) (f : Lane → Bool) :
    let t := (maskResult s m act f).advance 4 true
    MaskTook act m f s.w t.w ∧ t.w.flg = s.w.flg ∧ Past 4 { s with w := { s.w with lanes := t.w.lanes, m := t.w.m }, free := t.free } t := by
  refine ⟨?_, ?_, ?_⟩
  · unfold MaskTook
    rw [advance_m, advance_lanes]
    exact maskResult_took s m act f
  · rw [advance_flg, maskResult_frame]
  · rw [advance_lanes, advance_m, advance_free, ← maskResult_frame]
    exact advance_past ..

theorem mask_runs {i : Instr} {s : State} {m : MReg} {f c : Lane → Bool} (h : exec i s = .next ((maskResult s m s.w.acting f).advance 4 true))
    (hf : ∀ l, f l = c l) : MaskRuns i s m c := by
  obtain rfl : f = c := funext hf
  obtain ⟨ht, -, hp⟩ := maskResult_past s m s.w.acting f
  exact ⟨_, h, ht, hp⟩

/-! Compares (R83, R120, R121). -/

/-- A condition on whether the first operand is less, and whether the two are equal. -/
def condOf (c : Cond) (less same : Bool) : Bool :=
  match c with
  | .eq => same | .ne => !same | .lt => less | .le => less || same | .gt => !(less || same) | .ge => !less | .un | .ord => false

theorem condOrd_eq (c : Cond) (o : Ordering) : condOrd c o = condOf c (o == .lt) (o == .eq) := by
  cases c <;> cases o <;> rfl

theorem condOrd_compare {α : Type} [LinearOrder α] (c : Cond) (x y : α) : condOrd c (compare x y) = condOf c (decide (x < y)) (decide (x = y)) := by
  have hlt : (compare x y == .lt) = decide (x < y) := by rw [Bool.eq_iff_iff, beq_iff_eq, decide_eq_true_eq, compare_lt_iff_lt]
  have heq : (compare x y == .eq) = decide (x = y) := by rw [Bool.eq_iff_iff, beq_iff_eq, decide_eq_true_eq, compare_eq_iff_eq]
  rw [condOrd_eq, hlt, heq]

theorem condOrd_signed {n : Nat} (c : Cond) (x y : BitVec n) : condOrd c (compare x.toInt y.toInt) = condOf c (x.slt y) (x == y) := by
  rw [condOrd_compare, BitVec.slt]
  simp only [BitVec.toInt_inj]
  rfl

theorem condOrd_unsigned {n : Nat} (c : Cond) (x y : BitVec n) : condOrd c (compare x.toNat y.toNat) = condOf c (x.ult y) (x == y) := by
  rw [condOrd_compare, BitVec.ult]
  simp only [BitVec.toNat_inj]
  rfl

theorem cmpLane_eq (t : CT) (c : Cond) (a : Opd) (b : Src) (w : Wave) (l : Lane) :
    cmpLane t c a b w l = cmpHolds t c (opd w l t.iw a) (srcW w l t.iw b) := by
  cases t with
  | i32 => exact condOrd_signed c _ _
  | n32 => exact condOrd_unsigned c _ _
  | i64 => exact condOrd_signed c _ _
  | n64 => exact condOrd_unsigned c _ _

theorem fcmp_runs {s : State} (u : FT) (c : Cond) (m : MReg) (a : Opd) (b : Src)
    (h : NoTrap s.w s.w.acting (fun i => (fcmpLane u c a b s.w (s.w.lane i)).2)) : Runs (.fcmp u c m a b) s fun r =>
      MaskTook s.w.acting m (fun l => (fcmpLane u c a b s.w l).1) s.w r.w ∧
      FlagsTook s.w.acting (fun i => (fcmpLane u c a b s.w (s.w.lane i)).2) s.w.flg r.w.flg ∧
      Past 4 { s with w := { s.w with lanes := r.w.lanes, m := r.w.m, flg := r.w.flg }, free := r.free } r := by
  refine ⟨_, (show exec (.fcmp u c m a b) s = .next (fpFinish s 4 s.w.acting _ _ true _) from rfl).trans (congrArg _ (fpFinish_noTrap h)), ?_⟩
  obtain ⟨ht, hf, hp⟩ := maskResult_past { s with w := s.w.raise s.w.acting fun i => (fcmpLane u c a b s.w (s.w.lane i)).2 } m s.w.acting
    fun l => (fcmpLane u c a b s.w l).1
  refine ⟨ht, ?_, ?_⟩
  · rw [hf]; exact raise_flags ..
  · rw [hf]; exact hp

/-! Votes (R138). -/

/-- All are equal to the first where all are equal to each other. -/
theorem all_eq_first {α : Type} [BEq α] [LawfulBEq α] (v : Nat → α) (ls : List Nat) :
    ls.all (fun i => v i == v (ls.getD 0 0)) = ls.all fun i => ls.all fun j => v i == v j := by
  cases ls with
  | nil => rfl
  | cons k ls =>
    rw [Bool.eq_iff_iff]
    simp only [List.all_eq_true, beq_iff_eq, List.getD_cons_zero]
    exact ⟨fun h i hi j hj => (h i hi).trans (h j hj).symm, fun h i hi => h i hi k (List.mem_cons_self ..)⟩

theorem comparesAndVotes : Claims.ComparesAndVotes := by
  intro s t u c m a b
  exact ⟨mask_runs rfl (cmpLane_eq t c a b s.w), fcmp_runs u c m a b, mask_runs rfl fun _ => rfl, mask_runs rfl fun _ => rfl,
    mask_runs rfl fun _ => all_eq_first (fun i => opd32 s.w (s.w.lane i) a) (lanesOf s.w.acting)⟩

/-! Shuffles (R136, R137). -/

theorem low_five (x : W32) : (x.extractLsb' 0 5).toNat = x.toNat % 32 := by
  rw [BitVec.extractLsb'_toNat, Nat.shiftRight_zero]

theorem shuffle_runs {i : Instr} {s : State} {d : Dst} {a : Opd} {j : Wave → Lane → Int} {k : Lane → Int}
    (h : exec i s = .next (shuffle s d a j)) (hj : ∀ l, j s.w l = k l) : LaneRuns i s 4 .w32 d fun l =>
      if 0 ≤ k l ∧ k l < 32 ∧ s.w.acting.getLsbD (k l).toNat = true then (opd32 s.w (s.w.lane (k l).toNat) a).setWidth 64
      else (opd32 s.w l a).setWidth 64 := by
  obtain rfl : j s.w = k := funext hj
  exact laneOp_runs h fun l => by simp only [← Int.lt_add_one_iff]; rfl

theorem movesAndShuffles : Claims.MovesAndShuffles := by
  intro s w d a b i x from_ y
  refine ⟨laneOp_runs rfl, laneOp_runs rfl, laneOp_runs rfl, laneOp_runs rfl,
    shuffle_runs rfl fun l => ?_, shuffle_runs rfl fun _ => rfl, shuffle_runs rfl fun _ => rfl, shuffle_runs rfl fun l => ?_,
    laneOp_runs rfl fun l => ?_⟩
  · rw [low_five]
  · rw [low_five]
  · dsimp only; rw [low_five]; rfl

/-- Settles O4: a mask result writes the acting lanes' bits and latches; a move or shuffle is a lane operation on the wave as it was. -/
theorem laneMoves : Obligations.LaneMoves := ⟨comparesAndVotes, movesAndShuffles⟩

end Sys2Proof.Machine
end

section
/-! PROOFS. O5: reductions and scans (R139, R140). -/

namespace Sys2Proof.Machine

/-! The balanced tree (R139). -/

/-- Two lanes of a level combined: with one of them empty, the other. -/
def redJoin (f : W64 → W64 → W64 × Exc) : Option (W64 × Exc) → Option (W64 × Exc) → Option (W64 × Exc)
  | none, y => y
  | x, none => x
  | some x, some y => some ((f x.1 y.1).1, (x.2.or y.2).or (f x.1 y.1).2)

section
variable (f : W64 → W64 → W64 × Exc)

@[simp] theorem redJoin_none_left (x : Option (W64 × Exc)) : redJoin f none x = x := rfl
@[simp] theorem redJoin_none_right (x : Option (W64 × Exc)) : redJoin f x none = x := by cases x <;> rfl

theorem redLevel_cons (a b : Option (W64 × Exc)) (v : List (Option (W64 × Exc))) :
    redLevel f (a :: b :: v) = redJoin f a b :: redLevel f v := by cases a <;> cases b <;> rfl

theorem redLevel_length (v : List (Option (W64 × Exc))) : (redLevel f v).length = (v.length + 1) / 2 := by
  induction v using List.twoStepInduction with
  | nil => rfl
  | singleton => simp [redLevel]
  | cons_cons a b v ih => rw [redLevel_cons, List.length_cons, ih]; simp; omega

/-- A level has a result where the lanes below it have one. -/
theorem redLevel_any (v : List (Option (W64 × Exc))) : (redLevel f v).any Option.isSome = v.any Option.isSome := by
  induction v using List.twoStepInduction with
  | nil => rfl
  | singleton => rfl
  | cons_cons a b v ih =>
    have hj : (redJoin f a b).isSome = (a.isSome || b.isSome) := by cases a <;> cases b <;> rfl
    rw [redLevel_cons, List.any_cons, hj, ih, List.any_cons, List.any_cons, Bool.or_assoc]

theorem redTree_length (n : Nat) (v : List (Option (W64 × Exc))) (h : v.length = 2 ^ n) : (redTree f n v).length = 1 := by
  induction n generalizing v with
  | zero => exact h
  | succ n ih => exact ih _ (by rw [redLevel_length, h, pow_succ]; omega)

theorem redTree_any (n : Nat) (v : List (Option (W64 × Exc))) : (redTree f n v).any Option.isSome = v.any Option.isSome := by
  induction n generalizing v with
  | zero => rfl
  | succ n ih => exact (ih _).trans (redLevel_any f v)

end

/-- The operands of a reduction by lane; none where a lane does not act. -/
def redLeaves (w : Wave) (t : RedTy) (a : Opd) : List (Option (W64 × Exc)) :=
  (List.range 32).map fun i => if w.acting.getLsbD i then some (opd w (w.lane i) t.iw a, {}) else none

theorem wredResult_eq (w : Wave) (o : RedOp) (t : RedTy) (a : Opd) :
    redTree (redOp w.rm o t) 5 (redLeaves w t a) = [wredResult w o t a] := by
  obtain ⟨x, hx⟩ := List.length_eq_one_iff.1 (redTree_length (redOp w.rm o t) 5 (redLeaves w t a) (by simp [redLeaves]))
  have hw : wredResult w o t a = ((redTree (redOp w.rm o t) 5 (redLeaves w t a))[0]?).join := rfl
  rw [hw, hx]; cases x <;> rfl

/-- WRED has no result only without acting lanes. -/
theorem acting_of_wredResult_none {w : Wave} {o : RedOp} {t : RedTy} {a : Opd} (h : wredResult w o t a = none) : w.acting = 0 := by
  have hany := redTree_any (redOp w.rm o t) 5 (redLeaves w t a)
  rw [wredResult_eq, h, redLeaves, List.any_map] at hany
  refine (mask_eq_zero_iff _).2 fun k => ?_
  by_cases hk : k < 32
  · have := List.any_eq_false.1 hany.symm k (List.mem_range.2 hk)
    simpa using this
  · exact BitVec.getLsbD_of_ge _ _ (by omega)

theorem reductions : Claims.Reductions := by
  intro s o t d a
  refine ⟨fpOp_runs rfl, fun r hr => fpOp_runs rfl fun _ => ?_, fun hr => ⟨acting_of_wredResult_none hr, fpOp_runs rfl fun _ => ?_⟩⟩
  · rw [hr]
  · rw [hr]

/-! Integer combinations (R115, R139). -/

theorem at2_assoc {f : (n : Nat) → BitVec n → BitVec n → BitVec n} (h : ∀ n x y z, f n (f n x y) z = f n x (f n y z)) (w : IW) (x y z : W64) :
    at2 w f (at2 w f x y) z = at2 w f x (at2 w f y z) := by
  cases w
  · simp [at2, h]
  · exact h 64 x y z

/-- The one of two that has the lower key, else the second: of several, the last with the lowest. -/
theorem lower_assoc {α β : Type} [LinearOrder β] (key : α → β) (x y z : α) :
    (if key (if key x < key y then x else y) < key z then if key x < key y then x else y else z) =
      if key x < key (if key y < key z then y else z) then x else if key y < key z then y else z := by grind

theorem higher_assoc {α β : Type} [LinearOrder β] (key : α → β) (x y z : α) :
    (if key (if key x < key y then y else x) < key z then z else if key x < key y then y else x) =
      if key x < key (if key y < key z then z else y) then if key y < key z then z else y else x := by grind

section
variable (w : IW) (x y z : W64)

theorem rAdd_assoc : rAdd w (rAdd w x y) z = rAdd w x (rAdd w y z) := by
  simp only [rAdd_eq]; exact at2_assoc (fun _ => BitVec.add_assoc) w x y z

theorem rMinI_assoc : rMinI w (rMinI w x y) z = rMinI w x (rMinI w y z) := by
  simp only [rMinI_eq, BitVec.slt_iff_toInt_lt]; exact at2_assoc (fun _ => lower_assoc BitVec.toInt) w x y z

theorem rMaxI_assoc : rMaxI w (rMaxI w x y) z = rMaxI w x (rMaxI w y z) := by
  simp only [rMaxI_eq, BitVec.slt_iff_toInt_lt]; exact at2_assoc (fun _ => higher_assoc BitVec.toInt) w x y z

theorem rMinN_assoc : rMinN w (rMinN w x y) z = rMinN w x (rMinN w y z) := by
  simp only [rMinN_eq, BitVec.ult_iff_toNat_lt]; exact at2_assoc (fun _ => lower_assoc BitVec.toNat) w x y z

theorem rMaxN_assoc : rMaxN w (rMaxN w x y) z = rMaxN w x (rMaxN w y z) := by
  simp only [rMaxN_eq, BitVec.ult_iff_toNat_lt]; exact at2_assoc (fun _ => higher_assoc BitVec.toNat) w x y z

end

/-- The result of a combination of an integer type, whatever the rounding mode. -/
def redInt (o : RedOp) (t : RedTy) (x y : W64) : W64 := (redOp .rne o t x y).1

theorem redOp_int (md : RMode) (o : RedOp) {t : RedTy} (h : RedTy.isFloat t = false) (x y : W64) :
    redOp md o t x y = (redInt o t x y, {}) := by
  simp only [redInt, redOp, h, Bool.false_eq_true, if_false]

theorem redInt_assoc (o : RedOp) {t : RedTy} (h : RedTy.isFloat t = false) (x y z : W64) :
    redInt o t (redInt o t x y) z = redInt o t x (redInt o t y z) := by
  simp only [redInt, redOp, h, Bool.false_eq_true, if_false]
  cases o with
  | add => exact rAdd_assoc ..
  | min =>
    cases RedTy.isSigned t
    · exact rMinN_assoc ..
    · exact rMinI_assoc ..
  | max =>
    cases RedTy.isSigned t
    · exact rMaxN_assoc ..
    · exact rMaxI_assoc ..
  | and => exact BitVec.and_assoc ..
  | or => exact BitVec.or_assoc ..
  | xor => exact BitVec.xor_assoc ..

/-! The tree and the scan (R139, R140). -/

section
variable {f : W64 → W64 → W64 × Exc} {g : W64 → W64 → W64} (hf : ∀ x y, f x y = (g x y, {})) (hg : ∀ x y z, g (g x y) z = g x (g y z))
include hf hg

theorem redJoin_assoc (x y z : Option (W64 × Exc)) : redJoin f (redJoin f x y) z = redJoin f x (redJoin f y z) := by
  have hor (a b c : Exc) : ((a.or b).or {} |>.or c).or {} = (a.or ((b.or c).or {})).or {} := by
    simp [Exc.or, Bool.or_assoc]
  cases x with
  | none => rfl
  | some x =>
    cases y with
    | none => rfl
    | some y =>
      cases z with
      | none => rfl
      | some z => simp only [redJoin, hf, hg, hor]

/-- A level of the tree leaves the combination of all lanes as it is. -/
theorem redLevel_foldl (v : List (Option (W64 × Exc))) (x : Option (W64 × Exc)) :
    (redLevel f v).foldl (redJoin f) x = v.foldl (redJoin f) x := by
  induction v using List.twoStepInduction generalizing x with
  | nil => rfl
  | singleton => simp [redLevel]
  | cons_cons a b v ih => rw [redLevel_cons, List.foldl_cons, ih, List.foldl_cons, List.foldl_cons, redJoin_assoc hf hg]

theorem redTree_foldl (n : Nat) (v : List (Option (W64 × Exc))) : (redTree f n v).foldl (redJoin f) none = v.foldl (redJoin f) none := by
  induction n generalizing v with
  | zero => rfl
  | succ n ih => exact (ih _).trans (redLevel_foldl hf hg v none)

omit hg in
/-- Lanes combined one after the other raise nothing, and their values are those of the scan. -/
theorem foldl_redJoin (val : Nat → W64) (ls : List Nat) (x : W64) :
    ls.foldl (fun r i => redJoin f r (some (val i, {}))) (some (x, {})) = some (ls.foldl (fun r i => f r.1 (val i)) (x, {})) ∧
    (ls.foldl (fun r i => f r.1 (val i)) (x, ({} : Exc))).2 = {} := by
  induction ls generalizing x with
  | nil => exact ⟨rfl, rfl⟩
  | cons i ls ih =>
    have hstep : redJoin f (some (x, {})) (some (val i, {})) = some (g x (val i), {}) := by simp only [redJoin, hf]; rfl
    rw [List.foldl_cons, List.foldl_cons, hstep, show f (x, ({} : Exc)).1 (val i) = _ from hf x (val i)]
    exact ih _

end

/-- Lanes that do not act contribute nothing. -/
theorem redLeaves_foldl (f : W64 → W64 → W64 × Exc) (w : Wave) (t : RedTy) (a : Opd) : (redLeaves w t a).foldl (redJoin f) none =
    (lanesOf w.acting).foldl (fun r i => redJoin f r (some (opd w (w.lane i) t.iw a, {}))) none := by
  rw [redLeaves, List.foldl_map, lanesOf, List.foldl_filter]
  congr 1
  funext r i
  split
  · rfl
  · exact redJoin_none_right ..

theorem integerReductionIsScan : Claims.IntegerReductionIsScan := by
  intro w o t a top ht htop hmax
  have hf := redOp_int w.rm o ht
  have hfold := redTree_foldl hf (redInt_assoc o ht) 5 (redLeaves w t a)
  rw [wredResult_eq, redLeaves_foldl, List.foldl_cons, List.foldl_nil, redJoin_none_left] at hfold
  have hall : (lanesOf w.acting).filter (· ≤ top) = lanesOf w.acting := by
    refine List.filter_eq_self.2 fun i hi => decide_eq_true ?_
    exact hmax i (List.mem_range.1 (List.mem_filter.1 hi).1) ((mem_lanesOf ..).1 hi)
  have hmem := (mem_lanesOf ..).2 htop
  unfold scanTo
  rw [hfold, hall]
  cases hls : lanesOf w.acting with
  | nil => rw [hls] at hmem; cases hmem
  | cons i ls => exact foldl_redJoin hf (fun i => opd w (w.lane i) t.iw a) ls _

/-- Settles O5: each is one floating-point lane operation; the tree of an associative combination gives the fold over the acting lanes. -/
theorem laneReductions : Obligations.LaneReductions := ⟨reductions, integerReductionIsScan⟩

end Sys2Proof.Machine
end

section
/-! PROOFS. O6: mask and scalar instructions (R12, R16, R141 to R144). -/

namespace Sys2Proof.Machine

/-! The lowest lane (R141, R142). -/

theorem lowest_eq_some {m : W32} {n : Fin 32} (h : m.getLsbD n = true) (hk : ∀ k : Fin 32, k < n → m.getLsbD k = false) : lowest m = some n.val := by
  refine List.find?_range_eq_some.2 ⟨h, List.mem_range.2 n.isLt, fun j hj => ?_⟩
  rw [hk ⟨j, by omega⟩ hj]; rfl

theorem lowest_zero : lowest 0 = none := by decide

/-! Masks (R12, R142). -/

theorem mask_written (s : State) (d : MReg) (v : W32) :
    Past 4 { s with w := { s.w with m := if d.val = 0 ∨ d.val = 15 then s.w.m else s.w.m.set d.val v } } (maskOp s d v) := by
  have hw : s.w.setMask d v = { s.w with m := if d.val = 0 ∨ d.val = 15 then s.w.m else s.w.m.set d.val v } := by
    unfold Wave.setMask
    split <;> rfl
  rw [← hw]
  exact advance_past ..

/-! Scalars (R16, R143, R144). -/

theorem scalar_runs {i : Instr} {s : State} {d : SReg} {u v : W64} (h : exec i s = .next (scalarOp s d u)) (hv : u = v := by rfl) : ScalarRuns i s d v :=
  hv ▸ ⟨_, h, advance_past ..⟩

theorem rSshl_eq (x : W64) (k : Nat) : rSshl x k = x <<< k := by
  unfold rSshl
  split
  · exact (BitVec.shiftLeft_eq_zero ‹_›).symm
  · rfl

theorem rSshr_eq (u : Bool) (x : W64) (k : Nat) : rSshr u x k = if u then x.sshiftRight k else x >>> k := by
  unfold rSshr
  cases u
  · rw [if_neg Bool.false_ne_true, if_neg Bool.false_ne_true]
    split
    · exact (BitVec.ushiftRight_eq_zero ‹_›).symm
    · rfl
  · rw [if_pos rfl, if_pos rfl]
    by_cases hk : 64 ≤ k
    · have hsign : (if x.msb then -1 else 0 : W64) = BitVec.ofInt 64 (if x.toInt < 0 then -1 else 0) := by
        rw [BitVec.msb_eq_toInt, apply_ite (BitVec.ofInt 64)]
        simp only [decide_eq_true_eq]; rfl
      rw [← sshiftRight_wrapped, if_pos hk, if_pos hk, hsign]
    · rw [if_neg hk]

theorem ofNat_b2n (b : Bool) : BitVec.ofNat 64 (b2n b) = if b then 1 else 0 := by cases b <;> rfl

theorem rScmpU_eq (u : Bool) (x y : W64) :
    rScmpU u x y = if (if u then x.toNat ≤ y.toNat else x.toNat < y.toNat) then 1 else 0 := by
  cases u
  · exact (ofNat_b2n _).trans (if_congr BitVec.ult_iff_toNat_lt rfl rfl)
  · exact (ofNat_b2n _).trans (if_congr BitVec.ule_iff_toNat_le rfl rfl)

/-! The instructions. -/

theorem mpop_value (m : W32) : BitVec.ofNat 64 (popcount m.toNat 32) = m.cpop.setWidth 64 := by
  rw [popcount_eq, ← BitVec.toNat_cpop, BitVec.ofNat_toNat]

theorem movs_runs {s : State} {n : Nat} (sd : SReg) (x y : Opd) (h : lowest s.w.acting = some n) :
    ScalarRuns (.movs sd x y) s sd (opd32 s.w (s.w.lane n) y ++ opd32 s.w (s.w.lane n) x) := by
  refine ⟨_, ?_, advance_past { s with w := s.w.setS sd (opd32 s.w (s.w.lane n) y ++ opd32 s.w (s.w.lane n) x) } 4 false true⟩
  show execMovs sd x y s = _
  unfold execMovs
  rw [h]

theorem movs_none {s : State} (sd : SReg) (x y : Opd) (h : s.w.acting = 0) : Runs (.movs sd x y) s (Past 4 s) := by
  refine ⟨_, ?_, advance_past s 4 false true⟩
  show execMovs sd x y s = _
  unfold execMovs
  rw [h, lowest_zero]

theorem maskInstructions : Claims.MaskInstructions := by
  intro s d a b sd x y r
  refine ⟨⟨_, rfl, mask_written ..⟩, ⟨_, rfl, mask_written ..⟩, ⟨_, rfl, mask_written ..⟩, ⟨_, rfl, mask_written ..⟩,
    scalar_runs rfl (mpop_value _), fun n h hk => scalar_runs rfl ?_, fun h => scalar_runs rfl ?_, fun n h hk => movs_runs sd x y (lowest_eq_some h hk),
    movs_none sd x y⟩
  · rw [lowest_eq_some h hk]; rfl
  · rw [h, lowest_zero]; rfl

theorem scalarInstructions : Claims.ScalarInstructions := by
  intro s d a b i u c r
  refine ⟨⟨scalar_runs rfl, scalar_runs rfl⟩, ⟨scalar_runs rfl, scalar_runs rfl⟩, ⟨scalar_runs rfl, scalar_runs rfl⟩,
    ⟨scalar_runs rfl, scalar_runs rfl⟩, ⟨scalar_runs rfl, scalar_runs rfl⟩, ⟨scalar_runs rfl, scalar_runs rfl⟩,
    ⟨scalar_runs rfl (rSshl_eq ..), scalar_runs rfl (rSshl_eq ..)⟩, ⟨scalar_runs rfl (rSshr_eq ..), scalar_runs rfl (rSshr_eq ..)⟩,
    ⟨scalar_runs rfl ?_, scalar_runs rfl ?_⟩, ⟨scalar_runs rfl (rScmpU_eq ..), scalar_runs rfl (rScmpU_eq ..)⟩, scalar_runs rfl, scalar_runs rfl⟩
  · cases c <;> exact ofNat_b2n _
  · cases c <;> exact ofNat_b2n _

/-- Settles O6: masks by what `setMask` writes, scalars by their value in one register, and MOVS by the lowest acting lane. -/
theorem masksAndScalars : Obligations.MasksAndScalars := ⟨maskInstructions, scalarInstructions⟩

end Sys2Proof.Machine
end

section
/-! PROOFS. O11: software traps, and traps that no handler takes (R40, R112, R264, R344, R346). -/

namespace Sys2Proof.Machine

/-! The end of a team (R26, R38, R182, R353). -/

theorem stallRecord_side (s : State) (t : Team) (wave : Nat) (l : Lane) : SideOnly s (stallRecord s t wave l) := by
  unfold stallRecord
  split
  · split
    · exact .refl s
    · exact ite_side ((waitMoving_side ..).trans (homeWrite_side ..)) (.refl s)
  · exact .refl s

theorem stallWave_side (s : State) (t : Team) (w : Wave) (m : W32) : SideOnly s (stallWave s t w m) :=
  foldl_side (fun s _ => ite_side (stallRecord_side s ..) (.refl s)) _ _

theorem stallTeam_side (s : State) (t : Team) : SideOnly s (stallTeam s t) := foldl_side (fun _ _ => stallWave_side ..) _ _

theorem noteFreeze_side (s : State) (die cons : Nat) : SideOnly s (noteFreeze s die cons) :=
  ite_side (ite_side (.refl s) (setDie_side ..)) (setDie_side ..)

theorem stop_live (w : Wave) : w.stop.live = 0 := by
  rw [live_eq_liveOf]
  refine mask_ext fun k => ?_
  rw [liveOf_getLsbD]
  simp [Wave.stop]

/-- What ends of the team in hand, once its records are STALLED: the wave in hand and the team stop. -/
def stopHand (s : State) (err : Nat) : State := { s with w := s.w.stop, granted := false, t := s.t.stop err }

/-- Once its freezes are noted, TEAM_END falls due. -/
theorem endTeam_eq {s : State} {t : Team} (hh : s.hand.isSome = true) (ht : s.team s.t.id = some t) (hend : t.ending = none) (err : Nat) :
    ∃ u, SideOnly (stopHand (stallTeam s t) err) u ∧ endTeam s s.t.id err = u.addDue (.teamEnd s.t.id) := by
  have hu := stallTeam_side s t
  have hh' : (stallTeam s t).hand.isSome = true := by rw [hu.frame]; exact hh
  have hid : (stallTeam s t).t.id = s.t.id := congrArg Team.id hu.t
  refine ⟨_, foldl_side (fun s (f : Freeze) => noteFreeze_side s f.die f.cons) t.freezes _, ?_⟩
  unfold endTeam
  rw [ht]
  dsimp only
  rw [hend, if_neg (by decide), if_pos ⟨hh', hid⟩, handTeam_modTeam]
  · rfl
  · exact hh'
  · exact hid

/-- The team of `s` ends with the error `err`, and with it the wave in hand. -/
def TeamEnds (err : Nat) (s t : State) : Prop :=
  t.w.ended = true ∧ t.t.ending = some err ∧ .teamEnd s.t.id ∈ t.due ∧ t.w.live = 0

theorem endTeam_ends {s : State} (hh : s.hand.isSome = true) (hend : s.t.ending = none) (err : Nat) : TeamEnds err s (endTeam s s.t.id err) := by
  obtain ⟨u, hside, he⟩ := endTeam_eq hh (handTeam_team hh rfl) hend err
  rw [he]
  refine ⟨?_, ?_, ?_, ?_⟩
  · rw [State.addDue_w, hside.w]; rfl
  · rw [State.addDue_t, hside.t]; rfl
  · rw [State.addDue_due]; simp
  · rw [State.addDue_w, hside.w]; exact stop_live _

/-! Traps that no handler takes (R40, R346). -/

/-- In the handler, or without a trap vector, a trap ends the team with error 5; where the vector's code has not landed, with error 2. -/
theorem takeTrapOf_ends {s : State} (hh : s.hand.isSome = true) (hend : s.t.ending = none) (tr : Trap) (idx : Nat) (cl : Option Clause)
    (body : Option Body) :
    (s.w.inHandler = true ∨ s.t.xtvec = 0 → TeamEnds 5 s (takeTrapOf s tr idx cl body)) ∧
    (s.w.inHandler = false → s.t.xtvec ≠ 0 → s.t.lacks s.t.xtvec = true → TeamEnds 2 s (takeTrapOf s tr idx cl body)) := by
  unfold takeTrapOf
  refine ⟨fun h => ?_, fun hin hvec hlacks => ?_⟩
  · by_cases hin : s.w.inHandler = true
    · rw [if_pos hin]
      exact endTeam_ends (s := { s with granted := false, stalled := false }) hh hend 5
    · have hvec : (s.t.xtvec == 0) = true := beq_iff_eq.2 (h.resolve_left hin)
      simp only [if_neg hin, if_pos hvec]
      exact endTeam_ends (s := { s with w := _, granted := false, stalled := false }) hh hend 5
  · have hvec : ¬ (s.t.xtvec == 0) = true := fun h => hvec (beq_iff_eq.1 h)
    simp only [hin, Bool.false_eq_true, if_false, if_neg hvec, if_pos hlacks]
    exact endTeam_ends (s := { s with w := _, granted := false, stalled := false }) hh hend 2

theorem softwareTraps : Claims.SoftwareTraps := by
  intro s c h l hcan
  refine ⟨⟨_, rfl, takeTrap_taken s _ hcan⟩, fun hact hcode => ⟨_, ?_, takeTrap_taken (s.onCur fun e => { e with fresh := true })
    { cause := 19, detail := (h ++ l).toNat, lanes := s.w.acting, pc := s.w.issuePc, next := s.w.cur.pc + 4 } hcan⟩⟩
  show execTrapi h l s = _
  unfold execTrapi
  dsimp only
  rw [trapi_code, if_neg hact, if_pos hcode]

theorem trapInHandlerEndsTeam : Claims.TrapInHandlerEndsTeam := by
  intro s c hh hend ends
  obtain ⟨h5, h2⟩ := takeTrapOf_ends hh hend { cause := 18, detail := c.toNat, lanes := s.w.cur.mask, pc := s.w.issuePc, next := s.w.cur.pc + 4 }
    (s.w.runIdx.getD 0) s.w.cur.clause s.w.cur.body
  exact ⟨fun h => ⟨_, rfl, h5 h⟩, fun hin hvec hlacks => ⟨_, rfl, h2 hin hvec hlacks⟩⟩

/-- Settles O11: BRK and TRAPI are one `takeTrap`, which enters the handler where it can and ends the team where it cannot. -/
theorem trapsTaken : Obligations.TrapsTaken := ⟨softwareTraps, trapInHandlerEndsTeam⟩

end Sys2Proof.Machine
end
